-- ==== Sys2Proof/Word.lean ====
section
/-! DEFINITION. The word types of the block and the plainest reading of bit fields and byte lists (R1 to R3). -/
namespace Sys2Proof

abbrev Byte := BitVec 8
abbrev Half := BitVec 32
abbrev Word := BitVec 64

/-- Field [lo + len - 1 : lo] of a word (R1). -/
abbrev fld {n : Nat} (w : BitVec n) (lo len : Nat) : BitVec len := w.extractLsb' lo len

/-- Bytes k to k + m - 1 of a structure read as one little-endian word (R3). -/
abbrev bytesOf {n : Nat} (w : BitVec n) (k m : Nat) : BitVec (8 * m) := w.extractLsb' (8 * k) (8 * m)

/-- One bit of a word. -/
abbrev bitOf {n : Nat} (w : BitVec n) (i : Nat) : Bool := w.getLsbD i

/-- The little-endian number a byte list spells (R2). -/
def leNat : List Byte → Nat
  | [] => 0
  | b :: bs => b.toNat + 256 * leNat bs

/-- The n bytes of a number, least significant first (R2). -/
def leBytes : Nat → Nat → List Byte
  | 0, _ => []
  | n + 1, v => BitVec.ofNat 8 v :: leBytes n (v / 256)

end Sys2Proof
end

