-- ==== Sys2Proof/Syntax.lean ====
section
/-! DEFINITION. The commands the block takes, one constructor per row of the opcode table, with their operands. -/
namespace Sys2Proof

/-- A waiting unit: a channel, an SQ, or a remote waiter by its node and request tag (R386). -/
inductive WaitUnit where
  | chan (c : Fin 128)
  | sq (q : Fin 1024)
  | peer (node : Nat) (req : Nat)
  deriving DecidableEq, Repr

/-- A doorbell page (R252): of the physical function by global number, or of a VF by local number. -/
inductive Page where
  | pf (g : Fin 1024)
  | vf (k : Fin 64) (n : Fin 64)
  deriving DecidableEq, Repr

/-- The function whose BAR0 an access names (R645). -/
inductive Bar where
  | pf
  | vf (k : Fin 64)
  deriving DecidableEq, Repr

/-- The part of a register an access covers (R5): all of it, or one aligned half (the value in the low 32 bits). -/
inductive RegHalf where
  | full | low | high
  deriving DecidableEq, Repr

/-- A frame as received (R493): its 544 bytes; the codeword of the frame stream, as it came from the lanes, that this frame
is the first to need (R491; none where those before it hold the whole frame); log entry 12. -/
structure FrameIn where
  raw : BitVec 4352
  word : Option (BitVec 5440)
  deriving DecidableEq, Repr

/-- What an ATS invalidation request names: a function, and a range of its addresses (R322). -/
structure AtsRange where
  fn : Fin 64
  addr : BitVec 60
  len : Nat
  deriving DecidableEq, Repr

inductive Instr where
  /-- MOVE (R131) -/
  | move (c : Fin 128)
  /-- MOVE_LIST (R112) -/
  | moveList (c : Fin 128)
  /-- MOVE_TILE (R162) -/
  | moveTile (c : Fin 128)
  /-- FILL (R113) -/
  | fill (c : Fin 128)
  /-- MOVE_COORDS (R90) -/
  | moveCoords (c : Fin 128)
  /-- LOOP (R117) -/
  | loop (c : Fin 128)
  /-- STOP (R118) -/
  | stop (c : Fin 128)
  /-- WAIT_FLAG (R360) -/
  | waitFlag (c : Fin 128)
  /-- WAIT_FULL (R372) -/
  | waitFull (c : Fin 128)
  /-- WAIT_PHASE (R123) -/
  | waitPhase (c : Fin 128)
  /-- WAIT_COUNT (R119) -/
  | waitCount (c : Fin 128)
  /-- WAIT_BARRIER (R393) -/
  | waitBarrier (c : Fin 128)
  /-- SIGNAL_FLAG (R359) -/
  | signalFlag (c : Fin 128)
  /-- SIGNAL_COUNT (R363) -/
  | signalCount (c : Fin 128)
  /-- ARRIVE (R393) -/
  | arrive (c : Fin 128)
  /-- FENCE (R125) -/
  | fence (c : Fin 128)
  /-- NOTIFY (R127) -/
  | notify (c : Fin 128)
  /-- REDUCE_SEND (R572) -/
  | reduceSend (c : Fin 128)
  /-- REDUCE_STORE (R573) -/
  | reduceStore (c : Fin 128)
  /-- MOVER_BURST (R26) -/
  | moverBurst (m : Fin 2)
  /-- HALF_EVENT (R150) -/
  | halfEvent (c : Fin 128)
  /-- FULL_EVENT (R150) -/
  | fullEvent (c : Fin 128)
  /-- TIMER_TRIGGER (R147) -/
  | timerTrigger (c : Fin 128)
  /-- CH_RUN (R160) -/
  | chRun (c : Fin 128)
  /-- CH_PAUSE (R154) -/
  | chPause (c : Fin 128) (pause : Bool)
  /-- CH_RESET (R159) -/
  | chReset (c : Fin 128)
  /-- CHANNEL_PAUSED (R154) -/
  | channelPaused (c : Fin 128)
  /-- PHASE_WAKE (R123) -/
  | phaseWake (c : Fin 128)
  /-- WAIT_TIMEOUT_EXPIRY (R389) -/
  | waitTimeoutExpiry (u : WaitUnit)
  /-- RUN_PROGRAM (R101) -/
  | runProgram (q : Fin 1024)
  /-- COPY (R203) -/
  | copy (q : Fin 1024)
  /-- TILE (R203) -/
  | tile (q : Fin 1024)
  /-- FILL_ENTRY (R203) -/
  | fillEntry (q : Fin 1024)
  /-- TOKENIZE (R605) -/
  | tokenize (q : Fin 1024)
  /-- DETOKENIZE (R613) -/
  | detokenize (q : Fin 1024)
  /-- COLLECTIVE (R569) -/
  | collective (q : Fin 1024)
  /-- SIGNAL_ENTRY (R207) -/
  | signalEntry (q : Fin 1024)
  /-- WAIT_ENTRY (R208) -/
  | waitEntry (q : Fin 1024)
  /-- NOP (R209) -/
  | nop (q : Fin 1024)
  /-- DB_SQ (R220) -/
  | dbSq (page : Page)
  /-- DB_SQ_INVAL (R227) -/
  | dbSqInval (page : Page)
  /-- DB_CQ_ARM (R245) -/
  | dbCqArm (page : Page)
  /-- SQ_SCAN (R218) -/
  | sqScan (q : Fin 1024)
  /-- SQ_DISPATCH (R228) -/
  | sqDispatch (q : Fin 1024)
  /-- DEADLINE_DROP (R200) -/
  | deadlineDrop (q : Fin 1024)
  /-- COMPLETION_WRITE (R236) -/
  | completionWrite (q : Fin 1024)
  /-- CQ_IRQ_DELAY (R244) -/
  | cqIrqDelay (q : Fin 1024)
  /-- CQ_HEAD_REREAD (R241) -/
  | cqHeadReread (q : Fin 1024)
  /-- SQ_OVERLOAD (R249) -/
  | sqOverload (q : Fin 1024)
  /-- IDENTIFY (R278) -/
  | identify (k : Fin 64) (pkt : BitVec 512)
  /-- ROOM_CREATE (R280) -/
  | roomCreate (k : Fin 64) (pkt : BitVec 512)
  /-- ROOM_DESTROY (R281) -/
  | roomDestroy (k : Fin 64) (pkt : BitVec 512)
  /-- ROOM_RESET (R346) -/
  | roomReset (k : Fin 64) (pkt : BitVec 512)
  /-- ROOM_RESET_END (R346) -/
  | roomResetEnd (k : Fin 64)
  /-- ROOM_WINDOW_SET (R325) -/
  | roomWindowSet (k : Fin 64) (pkt : BitVec 512)
  /-- ROOM_SHARE_SET (R278) -/
  | roomShareSet (k : Fin 64) (pkt : BitVec 512)
  /-- SQ_CREATE (R283) -/
  | sqCreate (k : Fin 64) (pkt : BitVec 512)
  /-- SQ_DESTROY (R285) -/
  | sqDestroy (k : Fin 64) (pkt : BitVec 512)
  /-- CQ_CREATE (R283) -/
  | cqCreate (k : Fin 64) (pkt : BitVec 512)
  /-- CQ_DESTROY (R286) -/
  | cqDestroy (k : Fin 64) (pkt : BitVec 512)
  /-- SQ_RESUME (R232) -/
  | sqResume (k : Fin 64) (pkt : BitVec 512)
  /-- CHANNEL_ASSIGN (R287) -/
  | channelAssign (k : Fin 64) (pkt : BitVec 512)
  /-- CHANNEL_RELEASE (R288) -/
  | channelRelease (k : Fin 64) (pkt : BitVec 512)
  /-- BUF_ALLOC (R301) -/
  | bufAlloc (k : Fin 64) (pkt : BitVec 512)
  /-- BUF_FREE (R304) -/
  | bufFree (k : Fin 64) (pkt : BitVec 512)
  /-- BUF_QUERY (R307) -/
  | bufQuery (k : Fin 64) (pkt : BitVec 512)
  /-- BUF_RECLAIM (R310) -/
  | bufReclaim (k : Fin 64) (pkt : BitVec 512)
  /-- SYNC_MAP (R289) -/
  | syncMap (k : Fin 64) (pkt : BitVec 512)
  /-- SYNC_UNMAP (R290) -/
  | syncUnmap (k : Fin 64) (pkt : BitVec 512)
  /-- FE_REGION_SET (R291) -/
  | feRegionSet (k : Fin 64) (pkt : BitVec 512)
  /-- POWER_DOMAIN (R292) -/
  | powerDomain (k : Fin 64) (pkt : BitVec 512)
  /-- POWER_CAP_SET (R452) -/
  | powerCapSet (k : Fin 64) (pkt : BitVec 512)
  /-- CADENCE_CONFIG (R435) -/
  | cadenceConfig (k : Fin 64) (pkt : BitVec 512)
  /-- LINK_CONFIG (R486) -/
  | linkConfig (k : Fin 64) (pkt : BitVec 512)
  /-- LINK_KEY_LOAD (R510) -/
  | linkKeyLoad (k : Fin 64) (pkt : BitVec 512)
  /-- HOUSE_POLICY (R546) -/
  | housePolicy (k : Fin 64) (pkt : BitVec 512)
  /-- GROUP_DEFINE (R564) -/
  | groupDefine (k : Fin 64) (pkt : BitVec 512)
  /-- GROUP_RELEASE (R566) -/
  | groupRelease (k : Fin 64) (pkt : BitVec 512)
  /-- STUDY_LOAD_TABLES (R595) -/
  | studyLoadTables (k : Fin 64) (pkt : BitVec 512)
  /-- STUDY_CACHE_FLUSH (R599) -/
  | studyCacheFlush (k : Fin 64) (pkt : BitVec 512)
  /-- FW_UPDATE (R296) -/
  | fwUpdate (k : Fin 64) (pkt : BitVec 512)
  /-- DIAG_ECHO (R297) -/
  | diagEcho (k : Fin 64) (pkt : BitVec 512)
  /-- DIAG_TEMPERATURE (R297) -/
  | diagTemperature (k : Fin 64) (pkt : BitVec 512)
  /-- DIAG_BUFFERS (R297) -/
  | diagBuffers (k : Fin 64) (pkt : BitVec 512)
  /-- DIAG_MISUSE (R297) -/
  | diagMisuse (k : Fin 64) (pkt : BitVec 512)
  /-- FY_CMD_DOORBELL (R258) -/
  | fyCmdDoorbell (k : Fin 64) (prod : BitVec 32)
  /-- FY_CMD_ENABLE (R256) -/
  | fyCmdEnable (k : Fin 64) (size : BitVec 64)
  /-- FY_AUDIT_ENABLE (R314) -/
  | fyAuditEnable (size : BitVec 64)
  /-- FY_AUDIT_HEAD_WRITE (R314) -/
  | fyAuditHeadWrite (head : BitVec 32)
  /-- FLT_ENABLE (R629) -/
  | fltEnable (k : Fin 64) (size : BitVec 64)
  /-- FLT_HEAD_WRITE (R631) -/
  | fltHeadWrite (k : Fin 64) (head : BitVec 32)
  /-- FLT_IRQ_COALESCE (R633) -/
  | fltIrqCoalesce (k : Fin 64)
  /-- WORK_RECORD_WINDOW (R631) -/
  | workRecordWindow
  /-- MISUSE_WINDOW (R309) -/
  | misuseWindow
  /-- DEVICE_RESET_REQUEST (R667) -/
  | deviceResetRequest (data : BitVec 64)
  /-- FOYER_RESTART_REQUEST (R664) -/
  | foyerRestartRequest (data : BitVec 64)
  /-- FOYER_REBOOT (R664) -/
  | foyerReboot
  /-- RECOVERY_LOAD (R689) -/
  | recoveryLoad (data : BitVec 64)
  /-- VF_FLR (R323) -/
  | vfFlr (k : Fin 64)
  /-- VF_BME_CLEAR (R323) -/
  | vfBmeClear (k : Fin 64)
  /-- VF_MSE_CLEAR (R323) -/
  | vfMseClear (k : Fin 64)
  /-- VF_DISABLE (R323) -/
  | vfDisable (numVfs : Fin 64)
  /-- ATS_INVALIDATION (R322) -/
  | atsInvalidation (r : AtsRange)
  /-- VW_FLAG_WRITE (R404) -/
  | vwFlagWrite (k : Fin 64) (id : BitVec 12) (v : Bool)
  /-- VW_ADD_WRITE (R404) -/
  | vwAddWrite (k : Fin 64) (id : BitVec 9) (half : RegHalf) (v : BitVec 64)
  /-- SY_VALUE_WRITE (R402) -/
  | syValueWrite (f : BitVec 16) (v : Bool)
  /-- CT_ADD_WRITE (R402) -/
  | ctAddWrite (t : BitVec 13) (half : RegHalf) (v : BitVec 64)
  /-- BW_MASK_WRITE (R397) -/
  | bwMaskWrite (w : Fin 32) (hi : Bool) (half : RegHalf) (v : BitVec 64)
  /-- BW_ENABLE_CLEAR (R397) -/
  | bwEnableClear (w : Fin 32)
  /-- REMOTE_POLL (R387) -/
  | remotePoll (u : WaitUnit)
  /-- MALFORMED_REG_ACCESS (R8) -/
  | malformedRegAccess (bar : Bar) (offset : BitVec 26) (len : Nat) (isWrite : Bool)
  /-- REGISTER_WRITE (R4) -/
  | registerWrite (bar : Bar) (offset : BitVec 26) (half : RegHalf) (v : BitVec 64)
  /-- ARB_MAP_WRITE (R416) -/
  | arbMapWrite (i : Fin 5) (half : RegHalf) (v : BitVec 64)
  /-- ARB_STARVED_CLEAR (R424) -/
  | arbStarvedClear (i : Fin 5) (bits : BitVec 16)
  /-- QUARANTINE_CLEAR (R537) -/
  | quarantineClear (p : Fin 16)
  /-- TRIPPED_CLEAR (R462) -/
  | trippedClear
  /-- BASE_MW_WRITE (R452) -/
  | baseMwWrite (mw : BitVec 32)
  /-- PORT_RETRAIN (R539) -/
  | portRetrain (p : Fin 16)
  /-- IRQ_MASK_WRITE (R669) -/
  | irqMaskWrite (half : RegHalf) (v : BitVec 64)
  /-- ARB_DECISION (R412) -/
  | arbDecision (a : Fin 68) (requests : BitVec 16) (cycles : BitVec 32)
  /-- ARB_STARVATION (R423) -/
  | arbStarvation (a : Fin 68) (code : Fin 16)
  /-- HOLD_WATCHDOG_CUT (R420) -/
  | holdWatchdogCut (a : Fin 68) (unit : Fin 128)
  /-- SCRUB_BURST (R642) -/
  | scrubBurst (corrected : BitVec 32) (upset : List Nat)
  /-- CELLAR_REFRESH (R427) -/
  | cellarRefresh (p : Fin 4) (streaming : Bool)
  /-- CELLAR_TEMP_SAMPLE (R670) -/
  | cellarTempSample (p : Fin 4) (mc : BitVec 32)
  /-- CAD_REFERENCE_EVENT (R438) -/
  | cadReferenceEvent (level : Bool)
  /-- CAD_MISSED_BOUNDARY (R439) -/
  | cadMissedBoundary
  /-- CAD_ACQUIRE_TIMEOUT (R441) -/
  | cadAcquireTimeout
  /-- SLOT_ENTRY (R453) -/
  | slotEntry
  /-- NRG_TEMP_SAMPLE (R458) -/
  | nrgTempSample (mc : BitVec 32)
  /-- DOMAIN_IDLE_REQUEST (R477) -/
  | domainIdleRequest (d : Fin 17)
  /-- DOMAIN_DRAIN_START (R470) -/
  | domainDrainStart (d : Fin 17)
  /-- DOMAIN_POWER_DOWN (R470) -/
  | domainPowerDown (d : Fin 17)
  /-- DRAIN_LIMIT_CUT (R471) -/
  | drainLimitCut (d : Fin 17)
  /-- DOMAIN_TRANSITION_DONE (R483) -/
  | domainTransitionDone (d : Fin 17)
  /-- HELLO (R488) -/
  | hello (p : Fin 16) (rec : BitVec 512)
  /-- TRAINING_TIMEOUT (R486) -/
  | trainingTimeout (p : Fin 16)
  /-- RETRAIN_END (R485) -/
  | retrainEnd (p : Fin 16)
  /-- LANE_LOSS_OF_LOCK (R489) -/
  | laneLossOfLock (p : Fin 16)
  /-- DATA_FRAME (R517) -/
  | dataFrame (p : Fin 16) (f : FrameIn)
  /-- CTRL_FRAME (R501) -/
  | ctrlFrame (p : Fin 16) (f : FrameIn)
  /-- NAK (R504) -/
  | nak (p : Fin 16) (rec : BitVec 128)
  /-- PORT_SEND_FRAME (R498) -/
  | portSendFrame (p : Fin 16)
  /-- ACK_TIMER (R501) -/
  | ackTimer (p : Fin 16)
  /-- REPLAY_TIMEOUT (R504) -/
  | replayTimeout (p : Fin 16)
  /-- REPLAY_EXHAUSTED (R505) -/
  | replayExhausted (p : Fin 16)
  /-- VIOLATION_WINDOW (R534) -/
  | violationWindow
  /-- OPEN (R518) -/
  | openMsg (p : Fin 16) (f : FrameIn) (i : Fin 8)
  /-- DONE (R519) -/
  | doneMsg (p : Fin 16) (f : FrameIn) (i : Fin 8)
  /-- REFUSE (R518) -/
  | refuseMsg (p : Fin 16) (f : FrameIn) (i : Fin 8)
  /-- READ (R520) -/
  | readMsg (p : Fin 16) (f : FrameIn) (i : Fin 8)
  /-- SIGNAL (R521) -/
  | signalMsg (p : Fin 16) (f : FrameIn) (i : Fin 8)
  /-- SIGNAL_ACK (R521) -/
  | signalAck (p : Fin 16) (f : FrameIn) (i : Fin 8)
  /-- WAIT_REG (R386) -/
  | waitReg (p : Fin 16) (f : FrameIn) (i : Fin 8)
  /-- WAKE (R386) -/
  | wake (p : Fin 16) (f : FrameIn) (i : Fin 8)
  /-- WAIT_CANCEL (R521) -/
  | waitCancel (p : Fin 16) (f : FrameIn) (i : Fin 8)
  /-- POLL (R387) -/
  | poll (p : Fin 16) (f : FrameIn) (i : Fin 8)
  /-- RDX_REQ (R572) -/
  | rdxReq (p : Fin 16) (f : FrameIn) (i : Fin 8)
  /-- RDX_GRANT (R572) -/
  | rdxGrant (p : Fin 16) (f : FrameIn) (i : Fin 8)
  /-- RDX_OPEN (R572) -/
  | rdxOpen (p : Fin 16) (f : FrameIn) (i : Fin 8)
  /-- RDX_ACK (R575) -/
  | rdxAck (p : Fin 16) (f : FrameIn) (i : Fin 8)
  /-- RDX_RETRY (R579) -/
  | rdxRetry (p : Fin 16) (f : FrameIn) (i : Fin 8)
  /-- RDX_FAIL (R574) -/
  | rdxFail (p : Fin 16) (f : FrameIn) (i : Fin 8)
  /-- HB_ARRIVE (R563) -/
  | hbArrive (p : Fin 16) (f : FrameIn) (i : Fin 8)
  /-- HB_RELEASE (R563) -/
  | hbRelease (p : Fin 16) (f : FrameIn) (i : Fin 8)
  /-- ROOM_ABORT (R581) -/
  | roomAbort (p : Fin 16) (f : FrameIn) (i : Fin 8)
  /-- ROOM_ABORT_ACK (R346) -/
  | roomAbortAck (p : Fin 16) (f : FrameIn) (i : Fin 8)
  /-- ROUTE_FAIL (R557) -/
  | routeFail (p : Fin 16) (f : FrameIn) (i : Fin 8)
  /-- ACCUMULATOR_RESERVE (R572) -/
  | accumulatorReserve (g : BitVec 8) (chunk : BitVec 16)
  /-- RDX_GRANT_TIMEOUT (R572) -/
  | rdxGrantTimeout (c : Fin 128)
  /-- CHUNK_COMPLETE (R573) -/
  | chunkComplete (g : BitVec 8) (chunk : BitVec 16)
  /-- CLAIM (R546) -/
  | claim (p : Fin 16) (f : FrameIn)
  /-- HALL_ANNOUNCE (R549) -/
  | hallAnnounce (p : Fin 16) (f : FrameIn)
  /-- JOIN_REQ (R552) -/
  | joinReq (p : Fin 16) (f : FrameIn)
  /-- JOIN_ACK (R551) -/
  | joinAck (p : Fin 16) (f : FrameIn)
  /-- KEY_SHARE (R553) -/
  | keyShare (p : Fin 16) (f : FrameIn)
  /-- KEY_DELIVER (R554) -/
  | keyDeliver (p : Fin 16) (f : FrameIn)
  /-- HOUSE_DISSOLVE (R560) -/
  | houseDissolve (p : Fin 16) (f : FrameIn)
  /-- KEY_REQ (R555) -/
  | keyReq (p : Fin 16) (f : FrameIn)
  /-- MEMBER_UPDATE (R556) -/
  | memberUpdate (p : Fin 16) (f : FrameIn)
  /-- LINK_REPORT (R558) -/
  | linkReport (p : Fin 16) (f : FrameIn)
  /-- TICK (R561) -/
  | tick (p : Fin 16) (f : FrameIn)
  /-- BEACON (R444) -/
  | beacon (p : Fin 16) (f : FrameIn)
  /-- TIME_PING (R561) -/
  | timePing (p : Fin 16) (f : FrameIn)
  /-- TIME_PONG (R561) -/
  | timePong (p : Fin 16) (f : FrameIn)
  /-- GROUP_SET (R564) -/
  | groupSet (p : Fin 16) (f : FrameIn)
  /-- DUP_STOP (R550) -/
  | dupStop (p : Fin 16) (f : FrameIn)
  /-- CLAIM_START (R546) -/
  | claimStart
  /-- CLAIM_REPEAT (R546) -/
  | claimRepeat
  /-- HALL_ELECTED (R549) -/
  | hallElected
  /-- JOIN_RETRY (R551) -/
  | joinRetry
  /-- JOIN_REFUSED_RETRY (R552) -/
  | joinRefusedRetry
  /-- TICK_TIMER (R561) -/
  | tickTimer
  /-- TIME_PING_TIMER (R561) -/
  | timePingTimer
  /-- HALL_LOST (R559) -/
  | hallLost
  /-- WING_REMOVAL (R558) -/
  | wingRemoval (n : BitVec 10)
  /-- GROUP_DEFINE_TIMEOUT (R564) -/
  | groupDefineTimeout (g : BitVec 8)
  /-- STUDY_CACHE_FILL (R598) -/
  | studyCacheFill (j : Fin 16)
  /-- STUDY_JOB_COMPLETE (R610) -/
  | studyJobComplete (j : Fin 16)
  /-- BAR2_WRITE (R649) -/
  | bar2Write (offset : BitVec 29) (data : List Byte) (enables : List Bool)
  /-- BAR2_READ (R651) -/
  | bar2Read (offset : BitVec 29) (len : Nat)
  /-- CONFIG_REQUEST (R660) -/
  | configRequest (k : Fin 64) (reg : BitVec 12) (isWrite : Bool) (v : BitVec 32)
  /-- PWRGD_RISE (R674) -/
  | pwrgdRise
  /-- PWRGD_FALL (R675) -/
  | pwrgdFall
  /-- PERST_N_ASSERT (R661) -/
  | perstNAssert
  /-- PERST_N_DEASSERT (R677) -/
  | perstNDeassert
  /-- PCIE_HOT_RESET (R661) -/
  | pcieHotReset
  /-- PF_FLR (R661) -/
  | pfFlr
  /-- INIT_COMPLETE (R677) -/
  | initComplete
  /-- BOOT_COMPLETE (R684): flash halves 0 and 1 were read without a read error (R683) -/
  | bootComplete (read0 read1 : Bool)
  /-- REFCLK_SYS_LOSS (R692) -/
  | refclkSysLoss
  /-- REFCLK_SYS_RESTORED (R692) -/
  | refclkSysRestored
  /-- REFCLK_PCIE_LOSS (R692) -/
  | refclkPcieLoss
  /-- MCTP_SET_ENDPOINT_ID (R702) -/
  | mctpSetEndpointId (msg : List Byte)
  /-- MCTP_GET_ENDPOINT_ID (R702) -/
  | mctpGetEndpointId (msg : List Byte)
  /-- MCTP_GET_ENDPOINT_UUID (R702) -/
  | mctpGetEndpointUuid (msg : List Byte)
  /-- MCTP_GET_VERSION_SUPPORT (R702) -/
  | mctpGetVersionSupport (msg : List Byte)
  /-- MCTP_GET_MESSAGE_TYPE_SUPPORT (R702) -/
  | mctpGetMessageTypeSupport (msg : List Byte)
  /-- MCTP_UNSUPPORTED_CMD (R702) -/
  | mctpUnsupportedCmd (msg : List Byte)
  /-- JTAG_BYPASS (R703) -/
  | jtagBypass (tdi : List Bool)
  /-- JTAG_IDCODE (R703) -/
  | jtagIdcode (tdi : List Bool)
  /-- JTAG_SAMPLE_PRELOAD (R703) -/
  | jtagSamplePreload (tdi : List Bool)
  /-- JTAG_EXTEST (R703) -/
  | jtagExtest (tdi : List Bool)
  /-- LANE_LOCK (R486) -/
  | laneLock (p : Fin 16) (lanes : BitVec 8)
  /-- LONG_COMMAND_DONE (R272) -/
  | longCommandDone (k : Fin 64)
  /-- PCIE_COMPLETION (R346) -/
  | pcieCompletion (k : Fin 64) (addr : BitVec 60) (data : List Byte) (ok : Bool)
  /-- RC_REGISTER_READ (R654) -/
  | rcRegisterRead (bar : Bar) (offset : BitVec 26) (half : RegHalf)
  /-- DBG_FE_READ (R403) -/
  | dbgFeRead (tag : Bool)
  deriving DecidableEq, Repr

end Sys2Proof
end

