-- ==== Sys2Proof/Decode.lean ====
section
/-! DEFINITION. The block decodes no instruction words: no row of the opcode table gives bits. -/
namespace Sys2Proof

/-- The command a word spells by the table's bits: none, since no row gives bits. -/
def decodeTableWord (_nbits _w : Nat) : Option Instr := none

end Sys2Proof
end

