-- ==== Sys2Proof/Config.lean ====
section
/-! DEFINITION. What an implementation fixes and the values the spec leaves open: constants with no body, so that nothing
can be proved of one value of them. -/
namespace Sys2Proof.Config

/-- NONCE drawn at a device reset (R546): log entry 13. -/
opaque nonce : Nat → Half
/-- What the n-th draw of a P-384 private key takes from the generator (R551). -/
opaque privateKey : Nat → BitVec 384
/-- The shared secret of key pair n with octets that name no point of the curve: the spec states no result. -/
opaque noPointSecret : Nat → BitVec 392 → BitVec 384
/-- The n-th link key and FIXED value drawn by the Hall (R554). -/
opaque linkKey : Nat → BitVec 256
opaque linkFixed : Nat → Half
/-- The n-th reading of the boot flash meets no read error (R683). -/
opaque flashReadOk : Nat → Bool
/-- The n-th write of the boot flash succeeds (R296). -/
opaque flashWriteOk : Nat → Bool
/-- Bytes of a flash half whose n-th writing was cut off or failed: not stated (R296, R679). -/
opaque flashLeft : Nat → List (Nat × Byte)
/-- A residue check of the n-th contribution fails (R579); lane and residues found (R580). -/
opaque residueFault : Nat → Bool
opaque residueFound : Nat → BitVec 16
/-- Lines of a cut burst at the arbiter of the n-th cut that had moved before it: beats before the cut stand (R421). -/
opaque beatsBeforeCut : Nat → Nat
/-- Cycles of the n-th interval between decisions of a Cellar port that were refresh or turnaround (R420). -/
opaque uncountedCycles : Nat → Nat
/-- Payload of the NaN that a SUM of two accumulator values gives where it gives one: the spec states no payload. -/
opaque sumNan : Half → Half → Half
/-- The n-th access of a staging memory meets a parity error (R641). -/
opaque parityFault : Nat → Bool
/-- Bits of a function's configuration space that the spec does not give. -/
opaque configSpace : Nat → Nat → Half
/-- The block asks for an ATS translation of the page of the n-th untranslated Host read: when it does is not stated (R49). -/
opaque translationAsked : Nat → Bool
/-- Contents of the Pantry, the Cellar and the Larder after the n-th reset: not guaranteed (R662, R675). -/
opaque memoryAfterReset : Nat → List (Nat × Byte)
/-- Pytriqua's JEDEC manufacturer code (R703: given on the ordering sheet). -/
opaque jedecMaker : BitVec 11
/-- What the debug view shows of a word, and of its tag, in a line that fails ECC: not valid (R403). -/
opaque badLineValue : Nat → Word
opaque badLineTag : Nat → Bool
/-- The UUID that MCTP gives for a serial number: how it is derived is not stated (R702). -/
opaque endpointUuid : Word → BitVec 128
/-- The MCTP version entry of the base specification and of control messages: not stated (R702). -/
opaque mctpVersion : Half
/-- A level of a boundary cell's ball that the spec does not give. -/
opaque ballLevel : Nat → Bool

end Sys2Proof.Config
end

