-- ==== Sys2Proof/Machine/State.lean ====
section
/-! DEFINITION. The state of the block as plain data, and the state right after reset.
Register files and object tables are lists of (index, record) pairs in one canonical form: indices rising, no record
equal to the default. A structure's field defaults are the reset values the spec gives, but where a log entry is named. -/
namespace Sys2Proof.Machine

abbrev Table (α : Type) := List (Nat × α)

/-- Who raises it: no meaning of this model; the machine goes on after every failure (R634, R643). Safe: no run meets it. -/
inductive Fault where
  /-- Reserved: no path of the model raises it. Safe. -/
  | none
  deriving DecidableEq, Repr

/-- Why a command is turned away. -/
inductive Refusal where
  /-- Raised by an arm of exec whose command has no meaning yet. Safe: the machine stops. -/
  | notModelled (mnemonic : String)
  deriving DecidableEq, Repr

/-! ### Error records and logs (14) -/

/-- An error record (R624, R625). FLAGS is kept as its parts. -/
structure ErrRec where
  status : Byte := 0
  severity : BitVec 3 := 0
  superseded : Bool := false
  auditCopy : Bool := false
  foundUnknown : Bool := false
  detail : BitVec 16 := 0
  room : BitVec 6 := 0
  other : BitVec 6 := 0
  otherValid : Bool := false
  unitKind : Byte := 0
  mode : Byte := 0
  unit : BitVec 16 := 0
  opcode : BitVec 16 := 0
  index : Half := 0
  pcWhere : Word := 0
  object : Word := 0
  arg0 : Word := 0
  arg1 : Word := 0
  timeoutUs : Half := 0
  deriving DecidableEq, Repr

/-- The registers of one log: FLT_ of a Room (R629), or FY_AUDIT_ with ERR_CTL (R314, R644). -/
structure LogRegs where
  base : Word := 0
  log2 : BitVec 5 := 4
  enable : Bool := false
  irqEn : Bool := false
  irqSev : BitVec 3 := 1
  error : Bool := false
  full : Bool := false
  badHead : Bool := false
  vector : Byte := 0
  tail : Half := 0
  seq : Half := 0
  head : Half := 0
  lost : Half := 0
  /-- WORK records generated in one ms of house time, and that ms (R631). -/
  workThisMs : Nat := 0
  workMs : Nat := 0
  /-- The µs of house time in which the last message was sent, plus 1; 0 for none (R633). -/
  sentUs : Nat := 0
  /-- A message falls due at the end of the µs (R633). -/
  irqDue : Bool := false
  deriving DecidableEq, Repr

/-- ERR block registers (R644). -/
structure ErrRegs where
  auditIrqEn : Bool := false
  auditIrqSev : BitVec 3 := 3
  eccIrqEn : Bool := false
  fatalIrqEn : Bool := false
  vector : Byte := 0
  eccUe : Bool := false
  internal : Bool := false
  pantryCorr : Half := 0
  pantryUncorr : Half := 0
  pantryAddr : Option (BitVec 28) := none
  larderCorr : Half := 0
  larderUncorr : Half := 0
  cellarCorr : Half := 0
  cellarUncorr : Half := 0
  cellarAddr : Option (BitVec 38) := none
  parity : Half := 0
  scrubEn : Bool := true
  scrubIntervalUs : BitVec 16 := 100
  scrubPasses : Half := 0
  /-- Next 4 KiB burst of each quadrant's patrol (R642). -/
  scrubPos : List Nat := [0, 0, 0, 0]
  /-- Quadrants that completed a sweep since PASSES last increased. -/
  scrubSwept : List Bool := [false, false, false, false]
  /-- House time of the last patrol burst. -/
  scrubLast : Nat := 0
  deriving DecidableEq, Repr

/-! ### Global control, pins, PCIe functions (15, 16, 07) -/

/-- DEV_STATE (R660). -/
inductive DevState where
  | init | boot | ready | foyerDown
  deriving DecidableEq, Repr

/-- Board pins and clocks as the device sees them (16): log entries 1 and 3. -/
structure Pins where
  pwrgd : Bool := true
  perstN : Bool := true
  strapHallEligible : Bool := false
  strapClaimPrio : BitVec 4 := 0
  strapBootSel : Bool := false
  cadIn : Bool := false
  refclkSys : Bool := true
  refclkPcie : Bool := true
  deriving DecidableEq, Repr

/-- GCTL registers (R659). Straps as sampled; fused fields by log entry 2. -/
structure Gctl where
  devState : DevState := .init
  hallEligible : Bool := false
  claimPrio : BitVec 4 := 0
  bootSel : Bool := false
  bootHalf : Bool := false
  lastReset : BitVec 3 := 0
  devResets : BitVec 16 := 0
  foyerRestarts : BitVec 16 := 0
  irqStatus : Word := 0
  irqMask : Word := 0
  houseTime : Word := 0
  serial : Word := 1
  scratch : Word := 0
  rollback : BitVec 16 := 0
  keyHashSet : Bool := true
  /-- The fused SHA-384 hash of the firmware public key, first byte lowest (R683). -/
  keyHash : BitVec 384 := 0
  debugLocked : Bool := false
  coreVidFused : BitVec 4 := 5
  /-- The part runs at all: false after PWRGD falls or REFCLK_SYS is lost (R675, R692). -/
  powered : Bool := true
  /-- Device time since the current reset or power event began, for INIT (R677): set by the rows that start it. -/
  initStarted : Bool := true
  deriving DecidableEq, Repr

/-- One MSI-X table entry and its pending bit (R636, R646): log entry 16. -/
structure MsixEntry where
  addr : Word := 0
  data : Half := 0
  masked : Bool := true
  pending : Bool := false
  deriving DecidableEq, Repr

/-- PCIe function state that commands read (R320, R323): log entry 16. -/
structure Pcie where
  vfEnable : Bool := false
  numVfs : Nat := 0
  /-- Functions whose Bus Master Enable is set. -/
  bme : List Nat := []
  /-- Functions whose Memory Space Enable is set. -/
  mse : List Nat := []
  linkUp : Bool := true
  /-- Max_Payload_Size in bytes: 128, 256 or 512 (R33); log entry 16. -/
  mps : Nat := 128
  /-- Translated 4 KiB pages that the ATS caches hold, by function and page as in `hostKey` (R49, R321, R322); log
  entry 78. -/
  ats : List Nat := []
  /-- Addresses in PF BAR0, PF BAR2 and VF BAR0 (R645). -/
  bar0 : Word := 0
  bar2 : Word := 0
  vfBar0 : Word := 0
  deriving DecidableEq, Repr

/-! ### Rooms (07) -/

/-- One window (R356). -/
structure Window where
  valid : Bool := false
  cellar : Bool := false
  exported : Bool := false
  pool : Bool := false
  granules : Nat := 0
  physGran : Nat := 0
  roomGran : Nat := 0
  deriving DecidableEq, Repr

/-- STATE of ROOM_STATUS (R356). -/
inductive RoomState where
  | none | active | resetting | destroying
  deriving DecidableEq, Repr

/-- A tagged region of a Room (R291, R368): Room-relative offset and length in bytes. -/
structure FeRegion where
  off : Nat
  len : Nat
  deriving DecidableEq, Repr

/-- A Room reset in progress (R346). -/
structure RoomReset where
  start : Nat
  /-- Peers whose ROOM_ABORT_ACK is awaited. -/
  awaited : List Nat := []
  thermal : Bool := false
  /-- Step 2 waits for bursts that hold grants (R346). -/
  stopping : Bool := false
  /-- The reset is the first part of a destroy (R281). -/
  destroy : Bool := false
  deriving DecidableEq, Repr

/-- One Room's record, energy account and misuse count. -/
structure Room where
  state : RoomState := .none
  admClosed : Bool := false
  resetCount : BitVec 16 := 0
  share : BitVec 16 := 0
  misuseLimit : BitVec 16 := 0
  maxSq : Nat := 0
  maxCq : Nat := 0
  maxCh : Nat := 0
  maxFe : Nat := 0
  maxCounters : Nat := 0
  maxFlags : Nat := 0
  maxGranules : Nat := 0
  maxHandles : Nat := 0
  resetNs : Half := 0
  resetUnacked : BitVec 10 := 0
  resetThermal : Bool := false
  windows : Table Window := []
  regions : Table FeRegion := []
  reset : Option RoomReset := none
  /-- Virtual flag and counter numbers with the physical number each maps to (R289). -/
  flagMap : Table Nat := []
  counterMap : Table Nat := []
  /-- Energy balance in 1/65,536 token; none before the first refill (R453, R454). -/
  balance : Option Int := none
  /-- Carry cap in force since the last refill, in 1/65,536 token (R453, R454). -/
  carry : Nat := 0
  deferred : Bool := false
  misuse : Nat := 0
  misuseOver : Nat := 0
  deriving DecidableEq, Repr

/-! ### Sync fabric (08) -/

/-- SY_LAST_SIGNAL, CT_LAST_SIGNAL (R401). -/
structure LastSignal where
  source : BitVec 3 := 0
  unit : BitVec 10 := 0
  node : BitVec 10 := 0
  time : Half := 0
  deriving DecidableEq, Repr

/-- A physical flag (R359, R401). -/
structure Flag where
  value : Bool := false
  room : BitVec 6 := 0
  virt : BitVec 12 := 0
  mapped : Bool := false
  exported : Bool := false
  /-- The SQ whose doorbell flag it is (R223). -/
  dbSq : Option Nat := none
  last : LastSignal := {}
  deriving DecidableEq, Repr

/-- A physical counter (R363, R401). -/
structure Counter where
  value : Word := 0
  room : BitVec 6 := 0
  virt : BitVec 12 := 0
  mapped : Bool := false
  exported : Bool := false
  last : LastSignal := {}
  deriving DecidableEq, Repr

/-- A barrier wire (R399): the recorded arrivals are the pending arrivals. -/
structure Wire where
  room : BitVec 6 := 0
  enable : Bool := false
  maskLo : Word := 0
  maskHi : Word := 0
  arrivedLo : Word := 0
  arrivedHi : Word := 0
  gen : Half := 0
  deriving DecidableEq, Repr

/-- What a waiter waits on. -/
inductive WaitObj where
  | flag (p : Nat)
  | counter (p : Nat)
  | word (phys : Nat)
  | wire (w : Nat)
  /-- A second ARRIVE before the wire completes (R395). -/
  | wireArrive (w : Nat)
  /-- House barrier of a group (R563). -/
  | house (group : Nat)
  | houseArrive (group : Nat)
  /-- An object of another node (R386). -/
  | remote (node : Nat) (addr : Word)
  /-- TRIGGER_WAIT (R145). -/
  | trigger
  /-- WAIT_PHASE (R123). -/
  | phase (absolute : Bool) (turn : Half) (phase : Half)
  /-- REDUCE_SEND waiting for its grant, REDUCE_STORE for its chunk (R572, R573). -/
  | grant (group chunk : Nat)
  | chunk (group chunk : Nat)
  deriving DecidableEq, Repr

/-- A registered wait (R383): a local channel or SQ, or a remote waiter of another node. -/
structure Waiter where
  unit : WaitUnit
  obj : WaitObj
  /-- EXPECT of a flag wait. -/
  expect : Bool := true
  /-- CONSUME or TAKE, applied when the wait ends. -/
  consume : Bool := false
  /-- Target of a counter wait; recorded generation of a barrier wait. -/
  target : Word := 0
  /-- The object as written, MODE, VALUE and TIMEOUT_US, for the record of R391. -/
  addr : Word := 0
  mode : Byte := 0
  value : Word := 0
  timeoutUs : Half := 0
  /-- House time at which the timeout falls due; none where the wait has no timeout. -/
  deadline : Option Nat := none
  /-- Time left while the waiter is paused (R389). -/
  remaining : Nat := 0
  paused : Bool := false
  /-- The registration was refused, so the object is polled; the next poll's time (R387). -/
  polled : Option Nat := none
  /-- The timeout has expired and is held by a replay (R583). -/
  held : Bool := false
  /-- Status and value of a WAKE that came while the waiter was paused: it is acted on at resume (R154, R155). -/
  woken : Option (Byte × Word) := none
  deriving DecidableEq, Repr

/-! ### Layouts and plans of instructions (02, 03, 04) -/

/-- A layout record as parsed (R61). -/
structure Layout where
  format : BitVec 4 := 0
  packing : BitVec 2 := 0
  swap : BitVec 2 := 0
  rank : Nat := 1
  comp : BitVec 2 := 0
  extent : List Nat := []
  stride : List Int := []
  goff : List Nat := []
  base : Word := 0
  fill : Half := 0
  baseBit : Nat := 0
  planeStride : Nat := 0
  deriving DecidableEq, Repr

/-- A transform specification as parsed (R165). -/
structure Transform where
  map : Bool := false
  round : BitVec 2 := 0
  wrap : Bool := false
  floatOvf : Bool := false
  nanFlush : Bool := false
  scaleExp : Int := 0
  bcast : BitVec 4 := 0
  step : List Nat := []
  split : List Nat := []
  matrix : List (List Int) := []
  seed : Half := 0
  deriving DecidableEq, Repr

/-- A tile descriptor with the records it names, as checked at issue (R114). -/
structure TilePlan where
  rd : Layout
  wr : Layout
  origin : List Nat
  rext : List Nat
  worigin : List Nat
  tr : Transform
  deriving DecidableEq, Repr

/-- What an issued instruction still has to move. -/
inductive Plan where
  /-- A wait or a signal: nothing moves. -/
  | nothing
  | copy (src dst : Word) (len : Nat) (swap : BitVec 2)
  | fill (dst : Word) (len : Nat) (pattern : Word) (patBytes : Nat)
  | list (addr : Word) (count : Nat) (mode : Nat) (contig : Word) (swap : BitVec 2)
  | tile (t : TilePlan)
  | coords (addr : Word) (count : Nat) (mode : Nat) (t : TilePlan)
  /-- A compressed move through a port (R84 to R89): blocks of 4 KiB of source image. -/
  | packed (t : TilePlan)
  /-- REDUCE_SEND after its grant: ELEMENTS of FORMAT from SRC (R572). -/
  | reduceSend (src : Word) (elements : Nat) (format : BitVec 4) (op : BitVec 2) (group chunk node : Nat)
  /-- REDUCE_STORE after its chunk is complete (R573). -/
  | reduceStore (dst : Word) (elements : Nat) (format : BitVec 4) (group chunk : Nat) (done : Word)
      (t : Option TilePlan)
  deriving DecidableEq, Repr

/-- What a list or a coordinate list has in hand: the entry as it was read (R112, R138), or the block of an entry and
whether its read or its write side is a skip entry (R90, R92). A plan without a list has its one item from issue on. -/
inductive Item where
  | none
  | move (src dst : Word) (len : Nat)
  | block (t : TilePlan) (skipRead skipWrite : Bool)
  deriving DecidableEq, Repr

/-- Where the burst, tile or block in progress stands (R26, R154). -/
inductive Stage where
  /-- Nothing of it is laid out: a burst boundary, for a move through the Staircase the end of a tile. -/
  | fresh
  /-- Its read bursts are being carried. -/
  | reading
  /-- Its write bursts are being carried. -/
  | writing
  deriving DecidableEq, Repr

/-- A write burst: its first offset in the write space, and for each byte the bits to write and their values (R69, R80). -/
abbrev BitRun := Nat × List (Byte × Byte)

/-- An instruction in progress (R139): its word, its plan and the work already issued. -/
structure Cur where
  opcode : Byte
  flags : BitVec 16
  plan : Plan
  item : Item := .none
  /-- List or coordinate entry in progress (R157). -/
  entry : Nat := 0
  /-- Bytes done within the entry, or tiles or blocks done. -/
  done : Nat := 0
  /-- Bytes written so far, and the total it will write (R150). -/
  written : Nat := 0
  total : Nat := 0
  /-- Byte offset of the contiguous end of a list (R112). -/
  contigDone : Nat := 0
  halfFired : Bool := false
  /-- A Host or Peer read burst is outstanding: the channel goes on when it completes. -/
  waitRead : Bool := false
  /-- The domains it touches, by number (R469). -/
  domains : List Nat := []
  /-- The burst, tile or block in progress: its read bursts still to be carried (offset in the read space, length), the
  bytes they gave, and its write bursts still to be carried. -/
  stage : Stage := .fresh
  toRead : List (Nat × Nat) := []
  staged : List (Nat × List Byte) := []
  toWrite : List BitRun := []
  /-- The wire unit of a compressed block, and whether it fits its slot (R525). -/
  unit : List Byte × Bool := ([], false)
  /-- LFSR and dropped elements at its end, kept until its last burst has gone (R74, R156). -/
  lfsr : Half := 0
  drops : Nat := 0
  /-- Arbiters on the path of the next burst that have granted its lines (R38, R413). -/
  served : List Nat := []
  /-- The instruction is to be marked bad with this record, once its outstanding read has completed (R142). -/
  bad : Option ErrRec := none
  deriving DecidableEq, Repr

/-- Something of a channel that is issued and not arrived (R141). -/
inductive FlightKind where
  /-- A Host write awaiting the zero-length read's completion. -/
  | host
  /-- A stream to a peer awaiting DONE, by port and stream number. -/
  | stream (port id : Nat)
  /-- A read stream from a peer awaiting its data (R520). -/
  | read (port id : Nat)
  /-- A remote signal awaiting SIGNAL_ACK, by sequence number (R521). -/
  | signal (id : Nat)
  /-- A contribution awaiting RDX_ACK (R575). -/
  | contribution (group chunk : Nat)
  deriving DecidableEq, Repr

structure Flight where
  kind : FlightKind
  /-- The instruction it belongs to, for a failure in flight (R142). -/
  pc : Word
  opcode : Byte
  entry : Nat := 0
  flags : BitVec 16 := 0
  evHalf : Bool := false
  evFull : Bool := false
  /-- Which execution of an instruction it belongs to. -/
  exec : Nat := 0
  /-- CH_PROG_BASE of its program, and whether it was an implicit one (R203). -/
  base : Word := 0
  implicit : Bool := false
  /-- Bytes it carries, for RESULT (R211). -/
  bytes : Nat := 0
  /-- The zero-length read behind a Host write has been sent: later Host writes need one of their own (R141). -/
  proofSent : Bool := false
  /-- That instruction has been marked bad already: its events do not fire. -/
  dead : Bool := false
  /-- The Sync-space address of a remote signal, for its record (R624). -/
  object : Word := 0
  deriving DecidableEq, Repr

/-- STATE of a channel (R100). -/
inductive ChState where
  | unassigned | idle | running | waiting | held | pausing | paused
  deriving DecidableEq, Repr

/-- What the next issue waits for besides its own conditions. -/
inductive IssueHold where
  | none
  /-- BARRIER of the last instruction: its writes must arrive (R140). -/
  | barrier
  /-- FENCE, or the fence of NOTIFY (R125, R127). -/
  | fence
  /-- STOP with BARRIER (R118). -/
  | stop
  deriving DecidableEq, Repr

/-- The work entry a channel serves: SQ and entry count (R195). -/
structure EntryRef where
  sq : Nat
  count : Nat
  barrier : Bool
  deriving DecidableEq, Repr

/-- Why a domain power-down or HELD stops a channel: set of domain numbers. -/
structure Chan where
  state : ChState := .unassigned
  pauseBit : Bool := false
  pauseDomain : List Nat := []
  pauseReset : Bool := false
  heldBy : List Nat := []
  /-- Every domain that the held instruction touches (R469, R473). -/
  touches : List Nat := []
  late : Bool := false
  trigOverrun : Bool := false
  holdCut : Bool := false
  pc : Word := 0
  progBase : Word := 0
  room : BitVec 6 := 0
  assigned : Bool := false
  loop0 : Half := 0
  loop1 : Half := 0
  loop2 : Half := 0
  loop3 : Half := 0
  srcOff : Half := 0
  dstOff : Half := 0
  lastErr : Word := 0
  badCount : Half := 0
  trigSrc : BitVec 2 := 0
  trigPending : BitVec 4 := 0
  trigChannel : BitVec 7 := 0
  trigSlot : Byte := 0
  trigStep : Byte := 0
  trigPeriod : Half := 0
  /-- House time at which the next timer event falls due (R147). -/
  trigNext : Nat := 0
  irqEn : BitVec 4 := 0
  irqPend : BitVec 4 := 0
  irqVector : Byte := 0
  oob : Word := 0
  lfsr : Half := 1
  seed : Half := 0
  consumed : Word := 0
  progress : Word := 0
  /-- The instruction word of an implicit program (R203). -/
  implicit : Option (BitVec 256) := none
  cur : Option Cur := none
  hold : IssueHold := .none
  flights : List Flight := []
  /-- Number of the execution the channel is at: one more for every instruction that ends. -/
  execNo : Nat := 0
  /-- That number when the program started: flights of lower numbers are those of programs that have ended. -/
  progExec : Nat := 0
  /-- HALF and FULL events whose bytes have arrived and that have not fired (R150). -/
  halfDue : Nat := 0
  fullDue : Nat := 0
  /-- The program ended but its writes are awaited before its completion (BARRIER of the entry, R196). -/
  ending : Option (Byte × Word) := none
  /-- Status of an implicit instruction that was marked bad (R203). -/
  implicitBad : Option Byte := none
  /-- Bytes written by the implicit instruction, and those of them whose write failed in flight, for RESULT (R211). -/
  implicitBytes : Nat := 0
  implicitLost : Nat := 0
  /-- The trigger of the instruction at the pc has been taken (R145). -/
  trigTaken : Bool := false
  entry : Option EntryRef := none
  /-- Wires and groups on which the channel has a pending arrival, with the recorded generation (R393). -/
  arrivals : List (Nat × Half) := []
  houseArrivals : List (Nat × Half) := []
  deriving DecidableEq, Repr

/-! ### Queue engine (05) -/

/-- A cached work entry: count, arrival turn, contents (R199, R225). -/
structure Cached where
  count : Half
  turn : Half
  word : BitVec 512
  deriving DecidableEq, Repr

/-- An entry dispatched and not complete. -/
structure Dispatched where
  count : Half
  tag : Word
  opcode : Byte
  late : Bool
  irq : Bool
  deriving DecidableEq, Repr

/-- A completion that waits to be written (R236). -/
structure Report where
  count : Half
  tag : Word
  status : Byte
  result : Word
  irq : Bool
  /-- Opcode of its entry (R238). -/
  opcode : Byte := 0
  deriving DecidableEq, Repr

/-- A submission queue (R250). -/
structure Sq where
  valid : Bool := false
  base : Word := 0
  log2 : BitVec 5 := 0
  phaseMode : Bool := false
  haltPolicy : Bool := false
  dbFlagEn : Bool := false
  dbFlag : BitVec 12 := 0
  cq : BitVec 10 := 0
  room : BitVec 6 := 0
  loc : BitVec 6 := 0
  overloadTurns : Byte := 8
  halted : Bool := false
  admClosed : Bool := false
  dbPending : Bool := false
  overloaded : Bool := false
  overNow : Bool := false
  badProd : Bool := false
  expPhase : Bool := true
  headStatus : Byte := 0
  waitCause : BitVec 4 := 0
  cons : Half := 0
  fetch : Half := 0
  prodAddr : Word := 0
  latchedCount : Half := 0
  latchedStatus : Byte := 0
  latchedValid : Bool := false
  age : Half := 0
  maxAge : Half := 0
  prio : BitVec 4 := 0
  cache : List Cached := []
  dispatched : List Dispatched := []
  reports : List Report := []
  /-- Completions of SIGNAL, WAIT and NOP entries behind an earlier one of theirs that is outstanding, in dispatch order
  (R238). -/
  behind : List Report := []
  /-- Only part of the current slot has passed since the last dispatch (R248). -/
  agePart : Bool := false
  /-- A scan has not been empty since the last doorbell (R221). -/
  scanning : Bool := false
  /-- Service order among equal priorities (R234): lower is served first. -/
  turnNo : Nat := 0
  /-- SQ_DESTROY waits for dispatched entries (R285). -/
  destroying : Bool := false
  deriving DecidableEq, Repr

/-- A SIGNAL entry whose remote signal awaits its acknowledgement (R207, R521). -/
structure SqSignal where
  req : Nat
  sq : Nat
  count : Half
  deriving DecidableEq, Repr

/-- A completion queue (R251). -/
structure Cq where
  valid : Bool := false
  base : Word := 0
  log2 : BitVec 5 := 0
  phaseMode : Bool := false
  room : BitVec 6 := 0
  loc : BitVec 6 := 0
  error : Bool := false
  phase : Bool := true
  armed : Bool := false
  badHead : Bool := false
  fullStall : Bool := false
  reserved : Nat := 0
  tail : Half := 0
  head : Half := 0
  headAddr : Word := 0
  tailAddr : Word := 0
  vector : Byte := 0
  irqEn : Bool := false
  irqCount : BitVec 16 := 1
  delayUs : BitVec 16 := 0
  /-- House times of the completions between HEAD and TAIL, oldest first (R244). -/
  times : List Nat := []
  /-- A completion of an IRQ entry waits for its message. -/
  irqWanted : Bool := false
  /-- House time of the last head read (R241), plus 1; 0 for none. -/
  lastHeadRead : Nat := 0
  /-- House times of the completions before HEAD that are still in the ring, oldest first (R242, R245). -/
  past : List Nat := []
  /-- A head read that DB_CQ_ARM asked for waits for its quadrant or stack (R241, R475). -/
  headDue : Bool := false
  deriving DecidableEq, Repr

/-! ### Arbiters (09) -/

/-- One ARB instance's registers (R430). -/
structure ArbRegs where
  map : Word := 0xFEDC_BA98_7654_3210#64
  starveLimit : Half := 0x0001_0000#32
  holdEn : Bool := false
  holdLimit : Half := 0x001E_8480#32
  starved : BitVec 16 := 0
  starvedGroup : BitVec 6 := 0
  starvedCode : BitVec 4 := 0
  maxWait : Half := 0
  held : BitVec 16 := 0
  heldGroup : BitVec 6 := 0
  heldCode : BitVec 4 := 0
  cuts : Half := 0
  preempts : Half := 0
  starveIrqEn : Bool := false
  heldIrqEn : Bool := false
  vector : Byte := 0
  deriving DecidableEq, Repr

/-- One arbiter: 0 to 63 the bank groups of the Pantry, 64 to 67 the Cellar ports (R409, R412, R423). -/
structure Arbiter where
  /-- Requester code that holds the grant. -/
  owner : Option Nat := none
  /-- Requests asserted at the last decision, by code. -/
  requests : BitVec 16 := 0
  /-- Cycles each requester has waited. -/
  waits : Table Nat := []
  /-- Requesters flagged by the current wait, so that one event is recorded. -/
  flagged : List Nat := []
  /-- Counted cycles in which the owner has held the grant without moving a beat (R420). -/
  hold : Nat := 0
  /-- The owner that input 15 interrupted since the last decision: it has held the grant, and has not waited (R419). -/
  preempted : Option Nat := none
  deriving DecidableEq, Repr

/-! ### Cadence, energy and power domains (10) -/

inductive CadState where
  | internal | acquiring | locked | coasting | cadLost
  deriving DecidableEq, Repr

/-- Cadence unit (R431 to R450). Periods carry 16 bits of fraction (R436). -/
structure Cad where
  source : BitVec 2 := 2
  outEn : Bool := false
  fallingEdge : Bool := false
  irqEn : BitVec 4 := 0
  vector : Byte := 0
  nominalPs : BitVec 40 := 20000000000#40
  state : CadState := .internal
  phaseStep : Bool := false
  turnStep : Bool := false
  lost : Bool := false
  hallLost : Bool := false
  hallSelf : Bool := false
  rejects : BitVec 16 := 0
  /-- Period in use, in 1/65,536 ps. -/
  period : Nat := 20000000000 * 65536
  /-- Period by which the phase now runs, in 1/65,536 ps: the corrected rate of R438 until the boundary. -/
  rate : Nat := 20000000000 * 65536
  phase : Half := 0
  turn : Half := 0
  /-- The phase runs `dist` units in `rate` of time: 2^32 but for a turn that R438 corrects. -/
  dist : Nat := 2 ^ 32
  /-- Boundaries left until the corrected rate ends; 0 for the plain rate (R435, R438). -/
  corr : Nat := 0
  /-- Where an event came before its boundary: the house time in 1/65,536 ps at which the turn after the current one
  ends (R438). -/
  early : Option Nat := none
  /-- Phase below bit 0, as a remainder over `rate` (R433). -/
  frac : Nat := 0
  stamp : Word := 0
  coasted : BitVec 16 := 0
  lostEvents : Half := 0
  /-- The consecutive good intervals of the acquisition, per turn, newest first (R436). -/
  events : List Nat := []
  /-- House time in 1/65,536 ps of the last accepted event. -/
  lastAccepted : Option Nat := none
  /-- House time in 1/65,536 ps of the next predicted boundary (R438). -/
  nextBoundary : Nat := 0
  /-- TURN of the last accepted beacon, and the Hall's period in ps as the latest beacon gives it (R444). -/
  beaconTurn : Option Half := none
  hallPeriod : Nat := 0
  /-- The turn count at the entry to ACQUIRING (R441). -/
  acquireTurns : Nat := 0
  everLocked : Bool := false
  /-- Weights other than the reset value 0x80. -/
  weights : Table Byte := []
  latched : Table Byte := []
  /-- The last slot entered; none before the first (R453). -/
  lastSlot : Option Nat := none
  /-- Turn of the last slot entered. -/
  lastSlotTurn : Half := 0
  deriving DecidableEq, Repr

/-- Energy governor (R451 to R465). Classes are the eight TOKENS values. -/
structure Nrg where
  capMw : Half := 260000
  baseMw : Half := 60000
  tempMc : Half := 0
  peakMc : Half := 0
  factorQ8 : BitVec 9 := 256
  throttling : Bool := false
  tripped : Bool := false
  thrIrqEn : Bool := false
  vector : Byte := 0
  throttledSlots : Half := 0
  classes : List (BitVec 31) := [0, 16, 64, 256, 1024, 4096, 16384, 65536]
  /-- House time of the last sample (R458). -/
  lastSample : Nat := 0
  deriving DecidableEq, Repr

inductive PdState where
  | on | closing | draining | off | retain
  deriving DecidableEq, Repr

/-- A transition in progress (R479, R483): its target and when it began. -/
structure PdMove where
  target : PdState
  started : Nat
  deriving DecidableEq, Repr

/-- A power domain (R468 to R484). -/
structure Domain where
  autoEn : Bool := false
  idleUs : BitVec 16 := 1000
  state : PdState := .on
  waking : Bool := false
  cause : BitVec 2 := 0
  hard : Bool := false
  drainNs : Half := 0
  /-- Target of a soft request in CLOSING or DRAINING, its request time, its drain time. -/
  target : PdState := .on
  requested : Nat := 0
  drainStart : Nat := 0
  move : Option PdMove := none
  /-- House time of the last access served (R477). -/
  lastAccess : Nat := 0
  deriving DecidableEq, Repr

/-- A Cellar controller (R670). -/
structure Cellar where
  /-- A temperature sample has been taken since reset: until then PEAK_MC is no sample's. -/
  sampled : Bool := false
  hot : Bool := false
  postponed : BitVec 4 := 0
  tempMc : Half := 0
  peakMc : Half := 0
  bytes : Word := 0
  forced : Half := 0
  deriving DecidableEq, Repr

/-! ### Links (11) -/

/-- STATE of a port (R485). -/
inductive PortState where
  | disabled | training | clear | secure | quarantined | retrain
  deriving DecidableEq, Repr

/-- A loaded key record (R510). -/
structure KeySlot where
  key : BitVec 256
  fixed : Half
  epoch : Half
  deriving DecidableEq, Repr

/-- Content queued for sending, by frame type (R498). -/
inductive TxItem where
  | ctrl (content : List Byte)
  | mgmt (content : List Byte)
  | msg (m : BitVec 512)
  | data (stream : Nat) (content : List Byte) (last : Bool)
  deriving DecidableEq, Repr

/-- A sequenced frame kept for replay (R504), with what it carries (R535). -/
structure SentFrame where
  seq : BitVec 16
  raw : BitVec 4352
  items : List TxItem
  /-- House time of its last transmission (R504). -/
  sentAt : Nat
  deriving DecidableEq, Repr

/-- A contribution on its way, as a retry sends it again (R576, R579). -/
structure RdxSend where
  group : Nat
  chunk : Nat
  src : Word
  elements : Nat
  format : BitVec 4
  op : BitVec 2
  deriving DecidableEq, Repr

/-- A stream this node sends (R514): the local channel it serves, if any. -/
structure TxStream where
  id : Nat
  chan : Option Nat
  room : BitVec 6
  node : BitVec 10
  rdx : Option RdxSend := none
  deriving DecidableEq, Repr

/-- A stream this node receives (R517, R518). -/
structure RxStream where
  id : Nat
  src : BitVec 10
  room : BitVec 6
  offset : Nat
  stored : Nat
  wire : Nat
  store : Nat
  esize : Nat
  /-- A failed OPEN check: DATA is accepted and discarded (R518). -/
  refused : Bool
  /-- A contribution stream: group, chunk, format, operation (R572). -/
  rdx : Option (Nat × Nat) := none
  /-- REQ of a stream that returns a READ (R520). -/
  req : Nat := 0
  /-- Wire bytes received so far. -/
  got : List Byte := []
  /-- First failure met while storing (R519). -/
  status : Byte := 0
  /-- ARG1 of its OPEN: edge masks, skip and swap (log entry 73). -/
  ext : Word := 0
  deriving DecidableEq, Repr

/-- A link port (R539). -/
structure Port where
  enable : Bool := false
  allow4 : Bool := false
  attempts : BitVec 4 := 8
  violLimit : BitVec 16 := 64
  irqEn : BitVec 6 := 0
  vector : Byte := 0
  state : PortState := .disabled
  width4 : Bool := false
  laneGroup : Bool := false
  keyLow : Bool := false
  keyStall : Bool := false
  lanesOk : Byte := 0
  partnerNode : BitVec 10 := 0
  partnerNodeValid : Bool := false
  partner : Word := 0
  txNext : BitVec 16 := 0
  txAcked : BitVec 16 := 0
  rxExpected : BitVec 16 := 0
  txLimit : BitVec 16 := 0
  /-- The receive limit this node has granted (R499, R500). -/
  rxLimit : BitVec 16 := 0
  txKey : Option KeySlot := none
  txNextKey : Option KeySlot := none
  rxKey : Option KeySlot := none
  rxNextKey : Option KeySlot := none
  /-- The epochs last held, as ZL_KEY shows them. -/
  txEpoch : Half := 0
  rxEpoch : Half := 0
  txIvc : Nat := 0
  rxIvc : Half := 0
  /-- An encrypted frame has been accepted under the current receive key (R508). -/
  rxSecured : Bool := false
  episodes : Half := 0
  exhausted : BitVec 16 := 0
  maxAttempts : BitVec 16 := 0
  retx : Word := 0
  fecCorrected : Half := 0
  fecUncorrected : Half := 0
  crcFail : Half := 0
  trainFails : Half := 0
  violTotal : Half := 0
  violReason : Byte := 0
  violSeq : BitVec 16 := 0
  violMs : BitVec 16 := 0
  violPeak : BitVec 16 := 0
  naksRx : Half := 0
  coded : Half := 0
  rawBlocks : Half := 0
  expanded : Half := 0
  overflows : Half := 0
  /-- Time of entry to TRAINING or RETRAIN. -/
  since : Nat := 0
  /-- Link delay measured, T1 of the ping in progress (R561). -/
  delay : Nat := 0
  pingT1 : Option Nat := none
  /-- Lanes locked and width chosen: HELLO is being sent (R486 step 4). -/
  locked : Bool := false
  helloSeen : Bool := false
  queue : List TxItem := []
  /-- Frames sent and not acknowledged, oldest first. -/
  replay : List SentFrame := []
  /-- Frames of the running attempt still to be resent. -/
  resend : List SentFrame := []
  /-- Replay episode: start time and attempts made; none outside one (R505). -/
  episode : Option (Nat × Nat) := none
  /-- Frames acknowledged of late, newest first: a violation NAK may still name one (R535). -/
  acked : List SentFrame := []
  /-- CREDIT of the last sequenced frame accepted (R533). -/
  seqCredit : BitVec 16 := 0
  /-- Class of the last DATA frame sent: 0 Peer streams, g + 1 a group's (R567). -/
  lastClass : Nat := 0
  /-- Messages of the expected MSG frame processed so far. -/
  msgAt : Nat := 0
  /-- Bits of the received frame stream that no frame has taken yet, their number, and whether their codeword failed
  (R491, R492). -/
  rxBits : Nat := 0
  rxHave : Nat := 0
  rxBad : Bool := false
  /-- Bits sent into the frame stream that fill no codeword yet, and their number (R491). -/
  txBits : Nat := 0
  txHave : Nat := 0
  /-- Acceptance time that no ACK has covered (R501). -/
  ackDue : Option Nat := none
  /-- A NAK is outstanding for the expected SEQ (R502), with the µs it was sent in. -/
  nakFor : Option (BitVec 16 × Nat) := none
  /-- Violation reasons already recorded in this ms (R534). -/
  violReasons : List Nat := []
  violMsNo : Nat := 0
  tx : List TxStream := []
  rx : List RxStream := []
  deriving DecidableEq, Repr

/-- Loopback counters (R540). -/
structure Loopback where
  coded : Half := 0
  rawBlocks : Half := 0
  expanded : Half := 0
  overflows : Half := 0
  deriving DecidableEq, Repr

/-- Overflow registers of a Room (R540). -/
structure Ovf where
  base : BitVec 60 := 0
  blocks : Half := 0
  next : Half := 0
  fullEvents : Half := 0
  deriving DecidableEq, Repr

/-! ### Foyer (06) -/

/-- FY_STATE.STATE (R315). -/
inductive FyState where
  | reset | boot | ready | update | fault | bootFail
  deriving DecidableEq, Repr

/-- A command ring with its reply ring (R316). -/
structure Ring where
  base : Word := 0
  log2 : BitVec 4 := 4
  enable : Bool := false
  vector : Byte := 0
  irqEn : Bool := false
  prod : Half := 0
  replyBase : Word := 0
  cons : Half := 0
  replyPhase : Bool := true
  badProd : Bool := false
  ringError : Bool := false
  /-- Opcode of the packet most recently taken from this ring (LAST_OPCODE of ROOM_CMD_STATE, R316). -/
  lastOpcode : BitVec 16 := 0
  deriving DecidableEq, Repr

/-- A live buffer (R298, R301). -/
structure Buffer where
  room : Nat
  phys : Nat
  off : Nat
  granules : Nat
  deriving DecidableEq, Repr

/-- A slot's generation and buffer (R299, R300). -/
structure BufSlot where
  gen : BitVec 16 := 1
  live : Option Buffer := none
  deriving DecidableEq, Repr

/-- A long command that runs (R272): ring, packet, start time, and what it awaits. -/
structure LongCmd where
  ring : Nat
  packet : BitVec 512
  start : Nat
  /-- Nodes whose answer is awaited, and nodes that have accepted (R564, R566). -/
  awaits : List Nat := []
  done : List Nat := []
  /-- Members of the group in the order of their ranks. -/
  members : List Nat := []
  /-- First failure met (R564). -/
  status : Byte := 0
  detail : BitVec 16 := 0
  /-- Results found so far. -/
  result0 : Word := 0
  result1 : Word := 0
  /-- The ring has been disabled since: no reply is written (R264). -/
  orphan : Bool := false
  deriving DecidableEq, Repr

/-- The Foyer (R258 to R277, R298 to R316, R664). -/
structure Foyer where
  state : FyState := .reset
  lastOpcode : BitVec 16 := 0
  /-- Rings served in the present round (R272). -/
  served : List Nat := []
  fwVersion : Word := 0
  longs : List LongCmd := []
  /-- A restart is requested and waits for long commands (R664). -/
  restart : Bool := false
  slots : Table BufSlot := []
  /-- Slots never used lie from here up; freed slots follow in the order freed (R301). -/
  fresh : Nat := 0
  freed : List Nat := []
  /-- The second for which the misuse counts hold (R309). -/
  misuseSec : Nat := 0
  deriving DecidableEq, Repr

/-! ### The House (12) -/

/-- House states (R541). -/
inductive HState where
  | unattached | claiming | candidate | joining | wing | hall | stopped
  deriving DecidableEq, Repr

/-- A claim or announcement (R544, R546, R549). -/
structure Claim where
  epoch : Half := 0
  prio : BitVec 4 := 0
  serial : Word := 0
  nonce : Half := 0
  deriving DecidableEq, Repr

/-- What the Hall knows of a Wing (R550 to R554). -/
structure Wing where
  node : Nat
  serial : Word
  nonce : Half
  /-- The Wing's public key, once its KEY_SHARE has come, and its House key. -/
  pub : Option (BitVec 392) := none
  key : BitVec 256 := 0
  deriving DecidableEq, Repr

/-- One direction of a link between members, as MEMBER_UPDATE reports it (R544, R556). -/
structure LinkEnd where
  node : Nat
  port : Nat
  partner : Nat
  partnerPort : Nat
  deriving DecidableEq, Repr

/-- A transmit key that the Hall holds until the receive key's delivery is accepted (R554). -/
structure HeldKey where
  node : Nat
  port : Nat
  epoch : Half
  key : BitVec 256
  fixed : Half
  /-- Egress port and content of the receive key's delivery; none where the Hall itself is the receiver. -/
  after : Option (Nat × List Byte) := none
  deriving DecidableEq, Repr

/-- A stream that this node forwards from port to port (R557). -/
structure Fwd where
  inPort : Nat
  inStream : Nat
  outPort : Nat
  outStream : Nat
  src : Nat
  dst : Nat
  room : Nat
  /-- DATA frames still come (R517). -/
  live : Bool := true
  /-- Its answer has gone back. -/
  answered : Bool := false
  deriving DecidableEq, Repr

/-- A port that a member reports up, with its partner's serial (R544, R558). -/
structure LinkRep where
  node : Nat
  port : Nat
  serial : Word
  deriving DecidableEq, Repr

/-- A group in the Hall's group table (R564). -/
structure GroupDef where
  room : Nat
  members : List Nat
  kib : Nat
  deriving DecidableEq, Repr

/-- The Hall's root of a House barrier (R563). -/
structure HallBarrier where
  gen : Half := 0
  arrived : List Nat := []
  deriving DecidableEq, Repr

/-- House bring-up, membership and routing state (12). HOUSE_POLICY's values at reset: log entry 17. -/
structure House where
  hstate : HState := .unattached
  node : BitVec 10 := 0
  nodeValid : Bool := false
  isHall : Bool := false
  epoch : Half := 0
  mgen : Half := 0
  hallAllow : Bool := false
  acceptJoin : Bool := false
  maxNodes : Nat := 1024
  settleUs : Half := 5000
  /-- NONCE of this device reset (R546): log entry 13. -/
  nonce : Half := 0
  /-- House time of link-up; none while no port is up. -/
  linkUpAt : Option Nat := none
  best : Option Claim := none
  /-- Since when the own claim has been the best one seen (R549). -/
  bestSince : Nat := 0
  lastClaim : Nat := 0
  /-- Highest epoch seen in any CLAIM or HALL_ANNOUNCE (R549). -/
  topEpoch : Half := 0
  /-- The Hall this device has joined or is joining, and the port its announcement came through. -/
  hall : Option Claim := none
  viaPort : Nat := 0
  /-- Number of the key pair drawn for the join (R551): log entry 13. -/
  keyPair : Nat := 0
  joinAt : Nat := 0
  refusedAt : Option Nat := none
  /-- JOIN_ACK accepted: the node and epoch wait for the Hall's KEY_SHARE. -/
  houseKey : Option (BitVec 256) := none
  /-- Members by node ID (R556), and the links between them. -/
  members : List Nat := []
  links : List LinkEnd := []
  /-- Egress port by destination node, and hops to the Hall (R556). -/
  routes : Table Nat := []
  hops : Nat := 0
  lastTick : Nat := 0
  /-- House time since which no route leads to a node (R558, R559). -/
  noRoute : Table Nat := []
  /-- Correction of house time still to slew, in ns, and ns since the last slewed one (R561). -/
  slew : Int := 0
  slewCount : Nat := 0
  lastTickSent : Nat := 0
  lastPing : Nat := 0
  /-- HALL_TIME of the last TICK relayed (R561). -/
  hallTime : Word := 0
  /-- Ports through which candidates asked to join, by serial, and the one a KEY_SHARE of the Hall goes to (R551). -/
  relays : List (Word × Nat) := []
  relayTo : Option Nat := none
  /-- Turn of the last beacon forwarded (R562). -/
  lastBeacon : Option Half := none
  irqEn : BitVec 4 := 0
  vector : Byte := 0
  /-- Management messages that wait for the Foyer, with their ports, oldest first (R666). -/
  parked : List (Nat × BitVec 512) := []
  /-- The last announcement of another Hall: its claim, MGEN, the port and the member it came from (R549, R560). -/
  heard : Option (Claim × Half × Nat × Nat) := none
  /-- A HALL_ANNOUNCE has been received since link-up (R546). -/
  announced : Bool := false
  /-- Epoch of the HOUSE_DISSOLVE that a stopped device has carried on last (R550). -/
  dissolved : Option Half := none
  /-- The Hall's own records: Wings, joins whose KEY_SHARE is awaited (relaying node, JOIN_REQ), next ID,
  numbers exhausted, ports reported up, groups, held keys, barriers. -/
  joins : List (Nat × BitVec 512) := []
  reports : List LinkRep := []
  wings : List Wing := []
  nextId : Nat := 1
  wrapped : Bool := false
  groupDefs : Table GroupDef := []
  heldKeys : List HeldKey := []
  barriers : Table HallBarrier := []
  fwd : List Fwd := []
  deriving DecidableEq, Repr

/-! ### The Reducer (12) -/

/-- A chunk's accumulator (R571, R573, R575, R579): ELEMENTS 32-bit words in the Larder. -/
structure RChunk where
  elements : Nat
  base : Nat
  committed : Nat := 0
  /-- The chunk's retry has been used. -/
  retried : Bool := false
  /-- A contribution has been asked for again and has not come (R585). -/
  retrying : Bool := false
  deriving DecidableEq, Repr

/-- A reservation that waits for quota or for an instance (R572): the requesting node, its REQ and Room, or a local channel. -/
structure Reservation where
  node : Nat
  room : Nat
  req : Half
  chan : Option Nat
  chunk : Nat
  elements : Nat
  format : BitVec 4
  op : BitVec 2
  deriving DecidableEq, Repr

/-- An open instance of a group (R568, R569). -/
structure Instance where
  sq : Nat
  count : Half
  format : BitVec 4
  op : BitVec 2
  contrib : Nat
  first : Nat
  range : Nat
  timeoutUs : Half
  sends : Half
  stores : Half
  acked : Half := 0
  stored : Half := 0
  chunks : Table RChunk := []
  deriving DecidableEq, Repr

/-- A group active on this node (R564, R565), with its place in the slots of R587. -/
structure Group where
  slot : Nat
  room : Nat
  members : Nat
  rank : Nat
  kib : Nat
  inst : Option Instance := none
  resv : List Reservation := []
  /-- House barrier generation, and whether this node has arrived in it (R563). -/
  gen : Half := 0
  arrived : Bool := false
  deriving DecidableEq, Repr

/-- RDX_RESIDUE (R587). -/
structure Reducer where
  retries : Half := 0
  mismatches : Half := 0
  deriving DecidableEq, Repr

/-! ### The Study (13) -/

/-- A table set of a Room (R591 to R596). -/
structure TableSet where
  valid : Bool := false
  vocabCount : BitVec 21 := 0
  mergeCount : BitVec 21 := 0
  vocabAddr : Word := 0
  mergeAddr : Word := 0
  pretokAddr : Word := 0
  /-- POOL_BYTES of the record as loaded (R591). -/
  poolBytes : Nat := 0
  loadGen : Half := 0
  deriving DecidableEq, Repr

/-- A line of the Study cache (R598): most recently used first in the cache's list. Set, generation and Cellar line
number are its tag. -/
structure StudyLine where
  room : Nat
  set : Nat
  gen : Half
  addr : Nat
  data : BitVec 512
  deriving DecidableEq, Repr

/-- A job in a job place (R588): its entry, the set it started with, and how far it has come. -/
structure Job where
  room : Nat
  sq : Nat
  count : Half
  word : BitVec 512
  set : TableSet
  /-- OFFS of a TOKENIZE or LENS of a DETOKENIZE as read by the checks of R607 and R614; none before them. -/
  table : Option (List Nat) := none
  /-- Next row, and how many table lookups of it have been counted. -/
  row : Nat := 0
  seen : Nat := 0
  /-- Bytes written, positions, truncated rows, rows with an invalid byte or unknown tokens. -/
  bytes : Nat := 0
  positions : Nat := 0
  truncated : Nat := 0
  odd : Nat := 0
  deriving DecidableEq, Repr

structure Study where
  sets : Table TableSet := []
  jobs : List (Nat × Job) := []
  cache : List StudyLine := []
  hits : Half := 0
  misses : Half := 0
  bytes : Word := 0
  deriving DecidableEq, Repr

/-! ### Boot and sideband (16) -/

/-- MCTP and JTAG state (R702, R703): log entry 19. -/
structure Sideband where
  eid : Byte := 0
  /-- Boundary cells of the 24 LVCMOS balls, and the levels EXTEST drives. -/
  cells : List Bool := []
  extest : Bool := false
  deriving DecidableEq, Repr


/-- A Host-space read the device has sent and not had completed: Room, channel, address, length (R141). -/
structure HostRead where
  room : Nat
  chan : Nat
  addr : Nat
  len : Nat
  /-- The pc of the instruction, so that a late completion finds nothing (R346). -/
  pc : Word
  deriving DecidableEq, Repr

/-- A READ sent to another node (R520): its tag, channel, source offset and length. Its bytes are a read burst of the
channel; `staged` says that ARG1 names no destination, so that the answer's OPEN has no range to check. -/
structure PeerRead where
  req : Nat
  chan : Nat
  off : Nat
  len : Nat
  staged : Bool
  deriving DecidableEq, Repr

/-- What the block has put on its outputs; log entry 14. -/
inductive Output where
  /-- MSI-X message of a function's table entry (R636). -/
  | msix (fn vec : Nat)
  /-- A frame on a port's lanes (R493). -/
  | frame (port : Nat) (raw : BitVec 4352)
  /-- A codeword on a port's lanes: each active lane with its symbols (R491). -/
  | codeword (port : Nat) (lanes : List (Nat × List (BitVec 10)))
  /-- A register read's value (R4). -/
  | readData (v : Word)
  /-- A BAR2 read's completion: bytes, Poisoned bit (R651). -/
  | bar2Data (bytes : List Byte) (poisoned : Bool)
  /-- Completer Abort (R475). -/
  | completerAbort
  /-- An access a function refuses as unsupported (R323). -/
  | unsupported
  /-- Configuration completion: Request Retry Status, or a value (R660). -/
  | configRetry
  | configData (v : Half)
  /-- ATS Invalidate Completion (R322). -/
  | atsComplete (fn : Nat)
  /-- A Host read request: function, address, bytes; 0 bytes is the zero-length read of R141. A translated request uses an
  ATS translation that the block holds (R49). -/
  | hostRead (fn addr len : Nat) (translated : Bool)
  /-- A Host write request, of at most Max_Payload_Size (R33, R49). -/
  | hostWrite (fn addr len : Nat) (translated : Bool)
  /-- MCTP response bytes (R702). -/
  | mctp (bytes : List Byte)
  /-- Bits shifted out on TDO (R703). -/
  | jtag (bits : List Bool)
  deriving DecidableEq, Repr

/-- The whole block. -/
structure State where
  pending : List Instr := []
  /-- The counter that free values are applied to; log entry 8. -/
  free : Nat := 0
  outputs : List Output := []
  g : Gctl := {}
  pins : Pins := {}
  pcie : Pcie := {}
  /-- MSI-X entries by function number × 256 + entry. -/
  msix : Table MsixEntry := []
  err : ErrRegs := {}
  audit : LogRegs := { irqSev := 3 }
  logs : Table LogRegs := []
  rooms : Table Room := []
  /-- Room (plus 1) whose window last held a physical granule: Pantry 0 to 127, Cellar from 128 (R329). -/
  granules : Table Nat := []
  chans : Table Chan := []
  /-- Bytes of the BAR2 write under way that the cut of its grant lets stand (R421). -/
  bar2Cut : Option Nat := none
  /-- Channel (within its Mover) that each Mover's rotation serves next (R26); log entry 18. -/
  rotor : List Nat := [0, 0]
  hostReads : List HostRead := []
  /-- Zero-length reads outstanding, by Room and channel (R141). -/
  proofs : List (Nat × Nat) := []
  peerReads : List PeerRead := []
  sqSignals : List SqSignal := []
  sqs : Table Sq := []
  cqs : Table Cq := []
  flags : Table Flag := []
  counters : Table Counter := []
  wires : Table Wire := []
  waiters : List Waiter := []
  /-- Full tags: physical Pantry word numbers in rising order (R368). -/
  tags : List Nat := []
  dbgFeAddr : BitVec 25 := 0
  polls : Half := 0
  arbs : Table ArbRegs := []
  arbiters : Table Arbiter := []
  cad : Cad := {}
  nrg : Nrg := {}
  domains : Table Domain := []
  cellars : Table Cellar := []
  pantry : List Host.Cell := []
  cellar : List Host.Cell := []
  larder : List Host.Cell := []
  /-- Host memory as each function reads it: function number × 2^60 + address; log entry 6. -/
  host : List Host.Cell := []
  /-- Lines (Pantry, Cellar) and words (Larder) with an uncorrectable error (R639). -/
  pantryUe : List Nat := []
  cellarUe : List Nat := []
  larderUe : List Nat := []
  ports : Table Port := []
  loopback : Loopback := {}
  ovf : Table Ovf := []
  house : House := {}
  fy : Foyer := {}
  rings : Table Ring := []
  /-- Next request tag and stream number the node gives out (R514). -/
  reqSeq : Nat := 0
  groups : Table Group := []
  rdx : Reducer := {}
  study : Study := {}
  flash : List Host.Cell := []
  side : Sideband := {}
  deriving DecidableEq, Repr

/-- The block right after reset (R660, R662, R677); log entry 1. -/
def State.reset : State := {}

end Sys2Proof.Machine
end

