-- ==== Sys2Proof/Machine/Ops.lean ====
section
/-! DEFINITION. Named operations over tables, memories, time, interrupts, records, windows and domains. -/
namespace Sys2Proof.Machine

/-! ### Tables -/

/-- The record at an index: the default where none is listed. -/
def tget {α : Type} : Table α → α → Nat → α
  | [], d, _ => d
  | (i, a) :: r, d, k => if i = k then a else tget r d k

/-- Drop the entry at an index. -/
def tdel {α : Type} : Table α → Nat → Table α
  | [], _ => []
  | (i, a) :: r, k => if i = k then r else if k < i then (i, a) :: r else (i, a) :: tdel r k

/-- Place an entry in index order, replacing one of the same index. -/
def tput {α : Type} : Table α → Nat → α → Table α
  | [], k, v => [(k, v)]
  | (i, a) :: r, k, v =>
    if i = k then (k, v) :: r else if k < i then (k, v) :: (i, a) :: r else (i, a) :: tput r k v

/-- Write an index, keeping the canonical form: the default is not listed. -/
def tset {α : Type} [DecidableEq α] (t : Table α) (d : α) (k : Nat) (v : α) : Table α :=
  if v = d then tdel t k else tput t k v

/-- Apply a function to every listed record. -/
def tmap {α : Type} [DecidableEq α] (t : Table α) (d : α) (f : Nat → α → α) : Table α :=
  t.foldl (fun acc p => tset acc d p.1 (f p.1 p.2)) t

/-- The canonical form: indices rising, no default listed. -/
def tableWf {α : Type} [DecidableEq α] (d : α) : Table α → Bool
  | [] => true
  | [(_, a)] => a ≠ d
  | (i, a) :: (j, b) :: r => a ≠ d && i < j && tableWf d ((j, b) :: r)

/-! ### Memory -/

/-- One byte: 0 where none is listed. -/
abbrev mget (m : List Host.Cell) (a : Nat) : Byte := tget m 0#8 a
abbrev mset (m : List Host.Cell) (a : Nat) (b : Byte) : List Host.Cell := tset m 0#8 a b

/-- The canonical form of a memory. -/
def Memory.wf (m : List Host.Cell) : Bool := tableWf 0#8 m

def mread (m : List Host.Cell) (a : Nat) : Nat → List Byte
  | 0 => []
  | n + 1 => mget m a :: mread m (a + 1) n

def mwrite (m : List Host.Cell) (a : Nat) : List Byte → List Host.Cell
  | [] => m
  | b :: bs => mwrite (mset m a b) (a + 1) bs

/-- Write the bytes whose enable is set (R133). -/
def mwriteEn (m : List Host.Cell) (a : Nat) : List (Byte × Bool) → List Host.Cell
  | [] => m
  | (b, true) :: bs => mwriteEn (mset m a b) (a + 1) bs
  | (_, false) :: bs => mwriteEn m (a + 1) bs

/-- Drop every listed cell in [a, a + n). -/
def mzero (m : List Host.Cell) (a n : Nat) : List Host.Cell :=
  m.filter fun c => c.1 < a || a + n ≤ c.1

/-! ### Sorted lists of numbers (tags, bad lines) -/

def ninsert : List Nat → Nat → List Nat
  | [], k => [k]
  | i :: r, k => if i = k then i :: r else if k < i then k :: i :: r else i :: ninsert r k

def nremove (l : List Nat) (k : Nat) : List Nat := l.filter (· ≠ k)

/-! ### Reading and writing the tables of the state -/

namespace State

def room (s : State) (k : Nat) : Room := tget s.rooms {} k
def setRoom (s : State) (k : Nat) (r : Room) : State := { s with rooms := tset s.rooms {} k r }
def chan (s : State) (c : Nat) : Chan := tget s.chans {} c
def setChan (s : State) (c : Nat) (r : Chan) : State := { s with chans := tset s.chans {} c r }
def sq (s : State) (g : Nat) : Sq := tget s.sqs {} g
def setSq (s : State) (g : Nat) (r : Sq) : State := { s with sqs := tset s.sqs {} g r }
def cq (s : State) (g : Nat) : Cq := tget s.cqs {} g
def setCq (s : State) (g : Nat) (r : Cq) : State := { s with cqs := tset s.cqs {} g r }
def flag (s : State) (p : Nat) : Flag := tget s.flags {} p
def setFlag (s : State) (p : Nat) (r : Flag) : State := { s with flags := tset s.flags {} p r }
def counter (s : State) (p : Nat) : Counter := tget s.counters {} p
def setCounter (s : State) (p : Nat) (r : Counter) : State := { s with counters := tset s.counters {} p r }
def wire (s : State) (w : Nat) : Wire := tget s.wires {} w
def setWire (s : State) (w : Nat) (r : Wire) : State := { s with wires := tset s.wires {} w r }
def log (s : State) (k : Nat) : LogRegs := tget s.logs {} k
def setLog (s : State) (k : Nat) (r : LogRegs) : State := { s with logs := tset s.logs {} k r }
def arb (s : State) (i : Nat) : ArbRegs := tget s.arbs {} i
def setArb (s : State) (i : Nat) (r : ArbRegs) : State := { s with arbs := tset s.arbs {} i r }
def arbiter (s : State) (a : Nat) : Arbiter := tget s.arbiters {} a
def setArbiter (s : State) (a : Nat) (r : Arbiter) : State := { s with arbiters := tset s.arbiters {} a r }
def domain (s : State) (d : Nat) : Domain := tget s.domains {} d
def setDomain (s : State) (d : Nat) (r : Domain) : State := { s with domains := tset s.domains {} d r }
def cel (s : State) (p : Nat) : Cellar := tget s.cellars {} p
def setCel (s : State) (p : Nat) (r : Cellar) : State := { s with cellars := tset s.cellars {} p r }
def port (s : State) (p : Nat) : Port := tget s.ports {} p
def setPort (s : State) (p : Nat) (r : Port) : State := { s with ports := tset s.ports {} p r }
def ovfOf (s : State) (k : Nat) : Ovf := tget s.ovf {} k
def setOvf (s : State) (k : Nat) (r : Ovf) : State := { s with ovf := tset s.ovf {} k r }

/-- House time in ns (R663). -/
def now (s : State) : Nat := s.g.houseTime.toNat

/-- The cadence stamp of this moment (R16). -/
def stamp (s : State) : Word := s.cad.turn ++ s.cad.phase

/-- Put an output on the list, newest first. -/
def emit (s : State) (o : Output) : State := { s with outputs := o :: s.outputs }

end State

/-- Add 1 to a saturating counter. -/
def satInc {n : Nat} (x : BitVec n) : BitVec n := if x = BitVec.allOnes n then x else x + 1

/-- Add to a saturating counter. -/
def satAdd {n : Nat} (x : BitVec n) (k : Nat) : BitVec n :=
  if x.toNat + k < 2 ^ n then BitVec.ofNat n (x.toNat + k) else BitVec.allOnes n

/-! ### Status codes (R634) -/

namespace St
abbrev ok : Byte := 0x00
abbrev late : Byte := 0x01
abbrev partialDone : Byte := 0x02
abbrev malformed : Byte := 0x10
abbrev badOpcode : Byte := 0x11
abbrev badWindow : Byte := 0x12
abbrev busError : Byte := 0x13
abbrev eccUncorrected : Byte := 0x14
abbrev overflowFull : Byte := 0x15
abbrev bufStale : Byte := 0x20
abbrev bufNotOwner : Byte := 0x21
abbrev bufExhausted : Byte := 0x22
abbrev waitTimeout : Byte := 0x30
abbrev syncRange : Byte := 0x31
abbrev syncUnmapped : Byte := 0x32
abbrev domainOff : Byte := 0x40
abbrev domainClosing : Byte := 0x41
abbrev roomReset : Byte := 0x50
abbrev quota : Byte := 0x51
abbrev linkDown : Byte := 0x60
abbrev linkRetryExhausted : Byte := 0x61
abbrev residueMismatch : Byte := 0x62
abbrev peerViolation : Byte := 0x63
abbrev duplicateSerial : Byte := 0x64
abbrev energyDeferred : Byte := 0x70
abbrev textInvalid : Byte := 0x71
abbrev internal : Byte := 0x7F
end St

/-! ### Interrupts (R636, R668, R713) -/

/-- Vectors of a function's MSI-X table (R713). -/
def vectorLimit (fn : Nat) : Nat := if fn = 0 then 256 else 32

/-- A message of a vector: sent, or held pending where its entry is masked (R636). -/
def sendMsix (fn vec : Nat) (s : State) : State :=
  let e := tget s.msix {} (fn * 256 + vec)
  if e.masked then { s with msix := tset s.msix {} (fn * 256 + vec) { e with pending := true } }
  else s.emit (.msix fn vec)

/-- A PF cause of a summary group becomes due: STATUS is set, and the message goes unless MASK withholds it
(R668, R669). -/
def pfCause (bit : Nat) (vec : Byte) (s : State) : State :=
  let s := { s with g := { s.g with irqStatus := s.g.irqStatus ||| (1#64 <<< bit) } }
  if s.g.irqMask.getLsbD bit then s else sendMsix 0 vec.toNat s

/-! ### Host memory as the functions reach it (R49, R323) -/

/-- A function exists: the PF, and the VFs that are enabled (R320). -/
def fnExists (s : State) (fn : Nat) : Bool := fn = 0 || (s.pcie.vfEnable && fn ≤ s.pcie.numVfs)

/-- A function can send Host-space requests: it exists, Bus Master Enable is set and the PCIe link is up (R323). -/
def hostReach (s : State) (fn : Nat) : Bool := s.pcie.linkUp && fnExists s fn && s.pcie.bme.contains fn

/-- A function's BAR0 answers: from BOOT on, where it exists and its Memory Space Enable is set (R320, R323, R660). -/
def fnOpen (s : State) (fn : Nat) : Bool :=
  s.pcie.linkUp && s.g.devState ≠ .init && s.pcie.mse.contains fn && fnExists s fn

/-- An access through a function's BAR0: unsupported where the function does not answer, and ignored through a VF whose
Room does not exist (R323, R657, R660). -/
def throughBar (fn : Nat) (f : State → State) (s : State) : State :=
  if !fnOpen s fn then s.emit .unsupported
  else if fn ≠ 0 && (s.room fn).state = .none then s else f s

def hostKey (fn a : Nat) : Nat := fn * 2 ^ 60 + a % 2 ^ 60

/-- Device read of Host memory: none is BUS_ERROR. -/
def hostGet (s : State) (fn a n : Nat) : Option (List Byte) :=
  if hostReach s fn then some (mread s.host (hostKey fn a) n) else none

/-- The 4 KiB page of a function's address, as the ATS caches name it. -/
def hostPage (fn a : Nat) : Nat := hostKey fn a / 4096

/-- A function's access of an address goes out as a translated request (R49). -/
def isTranslated (s : State) (fn a : Nat) : Bool := s.pcie.ats.contains (hostPage fn a)

/-- The parts of [a, a + n) between multiples of a payload size: start and length (R33; DESIGN CHOICE, log entry 78). -/
def payloadParts (mps a n : Nat) : List (Nat × Nat) :=
  if n = 0 then [] else
  (List.range ((a + n - 1) / mps - a / mps + 1)).map fun i =>
    let lo := max a ((a / mps + i) * mps)
    (lo, min (a + n) ((a / mps + i + 1) * mps) - lo)

/-- Host write requests leave through a function, each of at most Max_Payload_Size (R33, R49). -/
def hostWriteOut (fn a n : Nat) (s : State) : State :=
  let put (l : List Output) (x : Nat × Nat) : List Output := .hostWrite fn x.1 x.2 (isTranslated s fn x.1) :: l
  { s with outputs := (payloadParts s.pcie.mps a n).foldl put s.outputs }

/-- Device write of Host memory: false is BUS_ERROR. -/
def hostPut (s : State) (fn a : Nat) (bs : List Byte) : State × Bool :=
  if hostReach s fn then (hostWriteOut fn a bs.length { s with host := mwrite s.host (hostKey fn a) bs }, true)
  else (s, false)

/-- A Host-space read request leaves through a function (R49); 0 bytes is the zero-length read of R141. After an untranslated
one the block may hold a translation of its page (log entry 78). -/
def hostReadOut (fn addr len : Nat) (s : State) : State :=
  let s' := s.emit (.hostRead fn addr len (isTranslated s fn addr))
  if isTranslated s fn addr then s'
  else { s' with free := s.free + 1
                 pcie := { s.pcie with ats := if Config.translationAsked s.free then ninsert s.pcie.ats (hostPage fn addr)
                                               else s.pcie.ats } }

/-- A function's translations that a condition selects leave its ATS cache (R322). -/
def dropTranslations (sel : Nat → Bool) (s : State) : State :=
  { s with pcie := { s.pcie with ats := s.pcie.ats.filter fun p => !sel p } }

/-! ### Records and logs (R624 to R633) -/

def leB {n : Nat} (k : Nat) (v : BitVec n) : List Byte := leBytes k v.toNat

/-- Pad with zeros to n bytes. -/
def padTo (n : Nat) (bs : List Byte) : List Byte := bs ++ List.replicate (n - bs.length) 0

/-- Cut a list into pieces of n bytes; fuel bounds the number of pieces. -/
def chunks (n : Nat) : Nat → List Byte → List (List Byte)
  | 0, _ => []
  | f + 1, l => if l = [] then [] else l.take n :: chunks n f (l.drop n)

/-- The 64 bytes of a record with its stamp and sequence number (R624). -/
def ErrRec.bytes (r : ErrRec) (stamp : Word) (seq : Half) : List Byte :=
  let flags : Nat := r.severity.toNat + (if r.superseded then 8 else 0) + (if r.auditCopy then 16 else 0)
    + (if r.foundUnknown then 32 else 0)
  leB 1 r.status ++ leBytes 1 flags ++ leB 2 r.detail ++ leB 1 r.room
    ++ leBytes 1 (r.other.toNat + if r.otherValid then 128 else 0) ++ leB 1 r.unitKind ++ leB 1 r.mode
    ++ leB 2 r.unit ++ leB 2 r.opcode ++ leB 4 r.index ++ leB 8 r.pcWhere ++ leB 8 r.object ++ leB 8 r.arg0
    ++ leB 8 r.arg1 ++ leB 8 stamp ++ leB 4 r.timeoutUs ++ leB 4 seq

/-- Ring size of a log in records. -/
def LogRegs.size (l : LogRegs) : Nat := 2 ^ l.log2.toNat

def LogRegs.isFull (l : LogRegs) : Bool := (l.tail - l.head).toNat = l.size

/-- Count a generated record: it takes a SEQ, and a WORK record counts towards its ms (R630, R631). -/
def LogRegs.generate (l : LogRegs) (sev : BitVec 3) (ms : Nat) : LogRegs :=
  let n := if l.workMs = ms then l.workThisMs else 0
  { l with seq := l.seq + 1
           full := l.full || (l.isFull && l.enable && !l.error)
           workMs := if sev = 1 then ms else l.workMs
           workThisMs := if sev = 1 then n + 1 else l.workThisMs }

/-- The record is not written: disabled, full, in error, or over the WORK limit (R631). -/
def LogRegs.loses (l : LogRegs) (sev : BitVec 3) (ms : Nat) (limited : Bool) : Bool :=
  !l.enable || l.error || l.isFull
    || (limited && sev = 1 && l.workMs = ms && 64 ≤ l.workThisMs)

/-- Write a record to the audit log (R630, R631, R644). A failed write sets ERROR (R314). -/
def auditRec (r : ErrRec) (s : State) : State :=
  let ms := s.now / 1000000
  let l := s.audit
  let l' := l.generate r.severity ms
  if l.loses r.severity ms false then { s with audit := { l' with lost := satInc l'.lost } }
  else
    match hostPut s 0 ((l.base.toNat % 2 ^ 60) + (l.tail.toNat % l.size) * 64) (r.bytes s.stamp l.seq) with
    | (s1, true) =>
      let s1 := { s1 with audit := { l' with tail := l.tail + 1 } }
      if s1.err.auditIrqEn && s1.err.auditIrqSev ≤ r.severity then pfCause 0 s1.err.vector s1 else s1
    | (s1, false) =>
      let s1 := { s1 with audit := { l' with error := true, lost := satInc l'.lost } }
      if s1.err.auditIrqEn then pfCause 0 s1.err.vector s1 else s1

/-- One message at most in each µs; a later one waits for the µs to end (R633). -/
def logIrq (k : Nat) (sev : BitVec 3) (s : State) : State :=
  let l := s.log k
  if l.irqEn && l.irqSev ≤ sev then
    if l.sentUs = s.now / 1000 + 1 then s.setLog k { l with irqDue := true }
    else sendMsix k l.vector.toNat (s.setLog k { l with sentUs := s.now / 1000 + 1 })
  else s

/-- Write a record to Room k's fault log whatever the Room is doing (R629 to R633). -/
def faultLogRec (k : Nat) (r : ErrRec) (s : State) : State :=
  let ms := s.now / 1000000
  let l := s.log k
  let l' := l.generate r.severity ms
  if l.loses r.severity ms true then s.setLog k { l' with lost := satInc l'.lost }
  else
    match hostPut s k ((l.base.toNat % 2 ^ 60) + (l.tail.toNat % l.size) * 64) (r.bytes s.stamp l.seq) with
    | (s1, true) => logIrq k r.severity (s1.setLog k { l' with tail := l.tail + 1 })
    | (s1, false) =>
      auditRec { status := St.busError, severity := 2, room := BitVec.ofNat 6 k }
        (s1.setLog k { l' with error := true, lost := satInc l'.lost })

/-- A record of a failure of the Room's own work: none from step 1 of a Room reset to its end (R628). -/
def roomRec (k : Nat) (r : ErrRec) (s : State) : State :=
  if (s.room k).reset.isSome then s else faultLogRec k { r with room := BitVec.ofNat 6 k } s

/-- A record of a Room's own act that no reset of the Room causes: it is written during a reset as well (R628). -/
def actRec (k : Nat) (r : ErrRec) (s : State) : State := faultLogRec k { r with room := BitVec.ofNat 6 k } s

/-- A DEVICE record of the audit log with its WORK copy in a Room's log; the copy carries the Room-relative object
(R627). -/
def deviceRec (k : Nat) (roomObject : Word) (r : ErrRec) (s : State) : State :=
  let r := { r with severity := 3, auditCopy := true, room := BitVec.ofNat 6 k }
  faultLogRec k { r with severity := 1, object := roomObject } (auditRec r s)

/-- An event record (R715). -/
def eventRec (detail : BitVec 16) (sev : BitVec 3) : ErrRec := { status := St.ok, detail := detail, severity := sev }

/-! ### Windows (R24, R32, R326) -/

def pantrySize : Nat := 0x1000_0000
def cellarSize : Nat := 144 * 2 ^ 30
def larderSize : Nat := 24 * 2 ^ 20
def granule : Nat := 2 ^ 21

/-- Quadrant of a physical Pantry offset (R24). -/
def quadrant (a : Nat) : Nat := a / 2 ^ 26 % 4

/-- Bank group 0 to 63 of a physical Pantry offset: quadrant and group (R24). -/
def bankGroup (a : Nat) : Nat := quadrant a * 16 + a / 64 % 16

/-- Controller of a physical Cellar offset (R32). -/
def cellarPort (a : Nat) : Nat := a / 4096 % 4

/-- The window that covers an offset, and the physical offset (R326). -/
def translateIn : Table Window → Bool → Nat → Option (Window × Nat)
  | [], _, _ => none
  | (_, w) :: r, c, o =>
    if w.valid && w.cellar == c && w.roomGran * granule ≤ o && o < (w.roomGran + w.granules) * granule
    then some (w, w.physGran * granule + (o - w.roomGran * granule)) else translateIn r c o

/-- Physical offset of a Room-relative offset; none is BAD_WINDOW (R45, R326). -/
def translate (s : State) (k : Nat) (cellar : Bool) (o : Nat) : Option Nat :=
  (translateIn (s.room k).windows cellar o).map (·.2)

/-- Every 4 KiB granule of a span that lies in a pool window lies in a live buffer of the Room (R308). -/
def poolOk (s : State) (k lo n : Nat) : Bool :=
  n = 0 || (List.range ((lo + n - 1) / 4096 - lo / 4096 + 1)).all fun i =>
    let o := (lo / 4096 + i) * 4096
    match translateIn (s.room k).windows false (max lo o) with
    | some (w, p) => !w.pool || s.fy.slots.any fun b => match b.2.live with
        | some x => x.room = k && x.phys ≤ p && p < x.phys + x.granules * 4096
        | none => false
    | none => true

/-- Room-relative offset of a physical offset in one of the Room's windows of a space. -/
def reverseIn : Table Window → Bool → Nat → Option Nat
  | [], _, _ => none
  | (_, w) :: r, c, p =>
    if w.valid && w.cellar == c && w.physGran * granule ≤ p && p < (w.physGran + w.granules) * granule
    then some (w.roomGran * granule + (p - w.physGran * granule)) else reverseIn r c p

/-- Every granule of a span lies in the Room's windows (R45, R71). -/
def spanOk (s : State) (k : Nat) (cellar : Bool) (lo n : Nat) : Bool :=
  n = 0 || (List.range ((lo + n - 1) / granule - lo / granule + 1)).all fun i =>
    (translate s k cellar (max lo ((lo / granule + i) * granule))).isSome

/-! ### Device addresses (R41, R42) -/

inductive Space where
  | pantry | cellar | host | peer | sync
  deriving DecidableEq, Repr

/-- Address space; none for the reserved codes (R41). -/
def spaceOf (a : Word) : Option Space :=
  match (fld a 60 4).toNat with
  | 0 => some .pantry
  | 1 => some .cellar
  | 2 => some .host
  | 3 => some .peer
  | 4 => some .sync
  | _ => none

/-- Offset bits [59:0]. -/
def offOf (a : Word) : Nat := (fld a 0 60).toNat
def peerNode (a : Word) : Nat := (fld a 50 10).toNat
def peerOff (a : Word) : Nat := (fld a 0 50).toNat

/-- A Sync-space operand (R42): node of a remote object, kind, identifier. -/
structure SyncRef where
  remote : Bool
  node : Nat
  isCounter : Bool
  id : Nat
  deriving DecidableEq, Repr

/-- Decode a Sync-space operand: MALFORMED under R43, SYNC_RANGE under R44. -/
def syncRef (a : Word) : Except Byte SyncRef :=
  if spaceOf a ≠ some .sync then .error St.malformed
  else if fld a 16 33 ≠ 0 then .error St.malformed
  else if 1 < (fld a 12 4).toNat then .error St.malformed
  else if !(a.getLsbD 49) && fld a 50 10 ≠ 0 then .error St.malformed
  else
    let r : SyncRef := { remote := a.getLsbD 49, node := peerNode a, isCounter := a.getLsbD 12,
                         id := (fld a 0 12).toNat }
    if r.isCounter && 511 < r.id then .error St.syncRange else .ok r

/-! ### Power domains (R466, R468, R469) -/

def pdOf (s : State) (d : Nat) : PdState := (s.domain d).state
def pdOn (s : State) (d : Nat) : Bool := (s.domain d).state = .on
def pdMover (c : Nat) : Nat := if c < 64 then 1 else 2
def pdPantry (a : Nat) : Nat := 3 + quadrant a
def pdLinks (p : Nat) : Nat := 7 + p / 4
def pdLarder : Nat := 11
def pdStudy : Nat := 12
def pdCellar (a : Nat) : Nat := 13 + cellarPort a

/-- The domain serves an access now (R477). -/
def pdTouch (d : Nat) (s : State) : State := s.setDomain d { s.domain d with lastAccess := s.now }

/-- Quadrants that a Pantry span reaches, as domain numbers (R469). -/
def pdPantrySpan (s : State) (k lo n : Nat) : List Nat :=
  if n = 0 then [] else
  ((List.range ((lo + n - 1) / granule - lo / granule + 1)).filterMap fun i =>
    (translate s k false (max lo ((lo / granule + i) * granule))).map pdPantry).eraseDups

/-- Controllers that a Cellar span reaches (R32, R469). -/
def pdCellarSpan (s : State) (k lo n : Nat) : List Nat :=
  if n = 0 then [] else
  ((List.range (min 4 ((lo + n - 1) / 4096 - lo / 4096 + 1))).filterMap fun i =>
    (translate s k true (max lo ((lo / 4096 + i) * 4096))).map pdCellar).eraseDups

/-- The node's own ID, or local ID 0 before it has one (R48, R542). -/
def bv (n v : Nat) : BitVec n := BitVec.ofNat n v

end Sys2Proof.Machine
end

