-- ==== Sys2Proof/Machine/Flags.lean ====
section
/-! DEFINITION. The FLAGS of instructions and work entries, the opcodes, and which flags and operand bytes each opcode
permits (03 R106 to R109, R111, 05 R195, R196). -/
namespace Sys2Proof.Machine

/-! ### Channel instruction opcodes (03, opcode table) -/
namespace Op
abbrev move : Byte := 0x01
abbrev moveList : Byte := 0x02
abbrev moveTile : Byte := 0x03
abbrev fill : Byte := 0x04
abbrev moveCoords : Byte := 0x05
abbrev loop : Byte := 0x08
abbrev stop : Byte := 0x0F
abbrev waitFlag : Byte := 0x10
abbrev waitFull : Byte := 0x11
abbrev waitPhase : Byte := 0x12
abbrev waitCount : Byte := 0x13
abbrev waitBarrier : Byte := 0x14
abbrev signalFlag : Byte := 0x18
abbrev signalCount : Byte := 0x19
abbrev arrive : Byte := 0x1A
abbrev fence : Byte := 0x1C
abbrev notify : Byte := 0x20
abbrev reduceSend : Byte := 0x28
abbrev reduceStore : Byte := 0x29
end Op

/-- The opcode table of channel instructions. -/
def opKnown (o : Byte) : Bool :=
  [Op.move, Op.moveList, Op.moveTile, Op.fill, Op.moveCoords, Op.loop, Op.stop, Op.waitFlag, Op.waitFull, Op.waitPhase,
   Op.waitCount, Op.waitBarrier, Op.signalFlag, Op.signalCount, Op.arrive, Op.fence, Op.notify, Op.reduceSend,
   Op.reduceStore].contains o

/-- Flags an instruction may set (R108). -/
def flagMask (o : Byte) : BitVec 16 :=
  match o.toNat with
  | 0x01 => 0x0FFF | 0x02 => 0x0FFF
  | 0x03 => 0x0FCF | 0x05 => 0x0FCF
  | 0x04 => 0x02CF
  | 0x10 => 0x00C0 | 0x11 => 0x00C0 | 0x13 => 0x00C0 | 0x14 => 0x00C0
  | 0x12 => 0x0040
  | 0x18 => 0x00C1 | 0x19 => 0x00C1 | 0x1A => 0x00C1 | 0x20 => 0x00C1
  | 0x1C => 0x0040 | 0x08 => 0x0040
  | 0x28 => 0x01CD
  | 0x29 => 0x02CD
  | 0x0F => 0x0041
  | _ => 0

/-- Fields of FLAGS (R107). -/
abbrev flBarrier (f : BitVec 16) : Bool := f.getLsbD 0
abbrev flHalf (f : BitVec 16) : Bool := f.getLsbD 1
abbrev flFull (f : BitVec 16) : Bool := f.getLsbD 2
abbrev flHold (f : BitVec 16) : Bool := f.getLsbD 3
abbrev flSwap (f : BitVec 16) : BitVec 2 := fld f 4 2
abbrev flTrigger (f : BitVec 16) : Bool := f.getLsbD 6
abbrev flStopOnBad (f : BitVec 16) : Bool := f.getLsbD 7
abbrev flOffSrc (f : BitVec 16) : Bool := f.getLsbD 8
abbrev flOffDst (f : BitVec 16) : Bool := f.getLsbD 9
abbrev flWire (f : BitVec 16) : BitVec 2 := fld f 10 2

/-- Only permitted flags are set, and WIRE_COMP is not the reserved code (R107, R108). -/
def flagsOk (o : Byte) (f : BitVec 16) : Bool := f &&& ~~~(flagMask o) = 0 && flWire f ≠ 3

/-- Bytes [k, l) of an instruction word or entry are 0. -/
def zeroBytes {n : Nat} (w : BitVec n) (k l : Nat) : Bool := fld w (8 * k) (8 * (l - k)) = 0

/-- Operand bytes that an instruction's table does not name are 0 (R111, R128). -/
def operandsReservedOk (w : BitVec 256) : Bool :=
  match (fld w 0 8).toNat with
  | 0x01 => zeroBytes w 24 32
  | 0x02 => zeroBytes w 25 32
  | 0x03 => zeroBytes w 4 8 && zeroBytes w 16 32
  | 0x04 => zeroBytes w 25 32
  | 0x05 => zeroBytes w 25 32
  | 0x08 => zeroBytes w 5 8 && zeroBytes w 24 32
  | 0x0F => zeroBytes w 4 8 && zeroBytes w 16 32
  | 0x10 => zeroBytes w 5 8 && zeroBytes w 16 24 && zeroBytes w 28 32
  | 0x11 => zeroBytes w 5 8 && zeroBytes w 16 24 && zeroBytes w 28 32
  | 0x13 => zeroBytes w 5 8 && zeroBytes w 28 32
  | 0x12 => zeroBytes w 5 8 && zeroBytes w 16 32
  | 0x14 => zeroBytes w 7 24 && zeroBytes w 28 32
  | 0x1A => zeroBytes w 7 32
  | 0x18 => zeroBytes w 5 8 && zeroBytes w 16 32
  | 0x19 => zeroBytes w 4 8 && zeroBytes w 20 32
  | 0x1C => zeroBytes w 4 32
  | 0x20 => zeroBytes w 6 8 && zeroBytes w 24 32
  | 0x28 => fld w 142 2 = 0 && fld w 170 6 = 0 && zeroBytes w 22 32
  | 0x29 => fld w 141 3 = 0
  | _ => true

/-! ### Work entries (R195, R196) -/

abbrev wePhase (w : BitVec 512) : Bool := w.getLsbD 8
abbrev weBarrier (w : BitVec 512) : Bool := w.getLsbD 9
abbrev weDeadline (w : BitVec 512) : Bool := w.getLsbD 10
abbrev weDropLate (w : BitVec 512) : Bool := w.getLsbD 11
abbrev weFence (w : BitVec 512) : Bool := w.getLsbD 12
abbrev weIrq (w : BitVec 512) : Bool := w.getLsbD 13
abbrev weOpcode (w : BitVec 512) : Byte := fld w 0 8
abbrev weClass (w : BitVec 512) : BitVec 3 := fld w 16 3
abbrev weTag (w : BitVec 512) : Word := fld w 64 64

/-- The header of an entry is well formed: reserved bits 0, DROP_IF_LATE only with DEADLINE (R195, R196, R229). -/
def entryHeaderOk (w : BitVec 512) : Bool :=
  fld w 14 2 = 0 && fld w 19 5 = 0 && (weDeadline w || (fld w 24 8 = 0 && fld w 32 32 = 0))
    && (weDeadline w || !weDropLate w)

/-- The stamp reaches a deadline: turns compared as a signed difference, phases unsigned (R199). -/
def reached (turn : Half) (phase : Half) (t p : Half) : Bool :=
  0 < (turn - t).toInt || (turn = t && p ≤ phase)

end Sys2Proof.Machine
end

