-- ==== Sys2Proof/Machine/Operands.lean ====
section
/-! DEFINITION. Operand forms: element formats, layout records, transforms, tile descriptors and their checks
(02, 03 R114 to R116, 04 R165 to R171). -/
namespace Sys2Proof.Machine

/-- Width in bits of a format (R53); 0 for the reserved codes. -/
def fmtWidth (f : BitVec 4) : Nat :=
  match f.toNat with
  | 0 => 32 | 1 => 16 | 2 => 16 | 3 => 8 | 4 => 8 | 5 => 32 | 6 => 16 | 7 => 8 | 8 => 8
  | 9 => 4 | 10 => 4 | 11 => 1 | 12 => 10 | 13 => 12 | _ => 0

/-- Byte formats (R55). -/
def fmtIsByte (f : BitVec 4) : Bool := fmtWidth f % 8 = 0 && 0 < fmtWidth f

/-- Formats a packing mode permits (R55, R56). -/
def packingOk (f : BitVec 4) (p : BitVec 2) : Bool :=
  match p.toNat with
  | 0 => fmtIsByte f || f = 11 || f = 12 || f = 13
  | 1 => f = 9 || f = 10
  | 2 => f = 9 || f = 10 || f = 11 || f = 12 || f = 13
  | _ => false

/-- Swap unit in bytes (R58). -/
def swapUnit (s : BitVec 2) : Nat := match s.toNat with | 0 => 1 | 1 => 2 | _ => 4

/-- Where logical byte i of memory lies after the swap of R58: an involution within aligned units. -/
def swapAddr (s : BitVec 2) (a : Nat) : Nat :=
  match s.toNat with
  | 0 => a
  | 1 => a / 2 * 2 + (1 - a % 2)
  | 2 => a / 4 * 4 + (3 - a % 4)
  | _ => a / 4 * 4 + (a % 4 + 2) % 4

/-- Reducible formats (R128). -/
def fmtReducible (f : BitVec 4) : Bool := f = 0 || f = 1 || f = 2 || f = 5 || f = 7

/-- Slot size of a compression class (R84); 0 for none. -/
def slotSize (comp : Nat) : Nat := match comp with | 1 => 2048 | 2 => 1024 | _ => 0

/-- Add a signed offset of CH_OFFSET to an address: none where the sum leaves the offset field (R110). -/
def addOff (a : Word) (off : Half) : Option Word :=
  let n := if spaceOf a = some .peer then 50 else 60
  let v : Int := (a.toNat % 2 ^ n : Nat) + off.toInt
  if v < 0 || (2 ^ n : Nat) ≤ v then none
  else some (BitVec.ofNat 64 (a.toNat / 2 ^ n * 2 ^ n + v.toNat))

/-- 32-bit fields of a structure, by byte offset. -/
def u32s {n : Nat} (w : BitVec n) (k : Nat) : Nat → List Nat
  | 0 => []
  | m + 1 => (fld w (8 * k) 32).toNat :: u32s w (k + 4) m

/-- Elements of a 4 KiB source block (R85). -/
def blockElements (f : BitVec 4) : Nat := 4096 * 8 / fmtWidth f

/-- Parse a layout record and check it alone (R61 to R66, R84, R85); BASE and strides against SWAP follow in
`layoutBaseOk`, after CH_OFFSET is added. -/
def parseLayout (w : BitVec 512) : Option Layout :=
  let f := fld w 0 4
  let p := fld w 4 2
  let rank := (fld w 8 2).toNat + 1
  let ext := u32s w 4 4
  let str : List Int := [0, (fld w 160 32).toInt, (fld w 192 32).toInt, (fld w 224 32).toInt]
  let goff := u32s w 32 4
  let comp := fld w 10 2
  let bb := (fld w 480 3).toNat
  let ps := (fld w 496 16).toNat
  let fw := fmtWidth f
  let fill := fld w 448 32
  let resOk := fld w 12 4 = 0 && fld w 16 16 = 0 && fld w 483 5 = 0 && fld w 488 8 = 0
  let dimOk := (List.range 4).all fun d =>
    if d < rank then 1 ≤ ext.getD d 0 && goff.getD d 0 + ext.getD d 0 ≤ 0xFFFF_FFFF
    else ext.getD d 0 = 0 && goff.getD d 0 = 0 && str.getD d 0 = 0
  let bbOk := if fmtIsByte f then bb = 0 else if p = 1 then bb = 0 || bb = 4 else true
  let psOk := if p = 2 && 1 < fw then 1 ≤ ps else ps = 0
  let fillOk := fill.toNat < 2 ^ fw
  let compOk := comp = 0 || (comp ≠ 3 && rank = 1 && p = 0 && fld w 6 2 = 0 && fmtIsByte f
    && goff.getD 0 0 % blockElements f = 0)
  if fw ≠ 0 && packingOk f p && resOk && dimOk && bbOk && psOk && fillOk && compOk then
    some { format := f, packing := p, swap := fld w 6 2, rank := rank, comp := comp, extent := ext, stride := str,
           goff := goff, base := fld w 384 64, fill := fill, baseBit := bb, planeStride := ps }
  else none

/-- BASE and every stride in use sit on the swap unit (R59); a compressed BASE sits on its slot and lies in Pantry or
Peer space (R85); BASE is in a space that data moves may name (R12, R43). -/
def layoutBaseOk (l : Layout) : Bool :=
  let u := swapUnit l.swap
  let sp := spaceOf l.base
  (sp = some .pantry || sp = some .cellar || sp = some .host || sp = some .peer)
    && (offOf l.base % u = 0)
    && ((List.range l.rank).all fun d => (l.stride.getD d 0) % (u : Int) = 0)
    && (l.comp = 0 || (offOf l.base % slotSize l.comp.toNat = 0 && (sp = some .pantry || sp = some .peer)))

/-- Signed byte k of a structure. -/
def s8 {n : Nat} (w : BitVec n) (k : Nat) : Int := (fld w (8 * k) 8).toInt

/-- Parse a transform specification (R165); checks that need the records follow in `transformOk`. -/
def parseTransform (w : BitVec 512) : Option Transform :=
  let resOk := fld w 1 7 = 0 && fld w 13 3 = 0 && fld w 28 4 = 0 && fld w 96 32 = 0 && fld w 416 96 = 0
  let t : Transform :=
    { map := w.getLsbD 0, round := fld w 8 2, wrap := w.getLsbD 10, floatOvf := w.getLsbD 11,
      nanFlush := w.getLsbD 12, scaleExp := s8 w 2, bcast := fld w 24 4,
      step := (List.range 4).map fun d => (fld w (8 * (4 + d)) 8).toNat,
      split := (List.range 4).map fun d => (fld w (8 * (8 + d)) 8).toNat,
      matrix := (List.range 4).map fun e => (List.range 8).map fun a => s8 w (16 + 8 * e + a),
      seed := fld w 384 32 }
  if resOk && t.round ≠ 3 && (t.seed = 0 || t.round = 2) then some t else none

/-- Read step of dimension d (R166). -/
def rstep (t : Transform) (d : Nat) : Nat :=
  if t.bcast.getLsbD d then 0 else if t.step.getD d 0 = 0 then 1 else t.step.getD d 0

/-- Offsets of dimension d: an extent of 0 above the rank stands for one (R115). -/
def offsets (t : TilePlan) (d : Nat) : Nat := max 1 (t.rext.getD d 0)

def splitOf (t : Transform) (d : Nat) : Nat := if t.split.getD d 0 ≤ 1 then 0 else t.split.getD d 0

/-- The records, region and transform of a tile descriptor fit together (R86, R115, R167, R170, R171). -/
def tileOk (t : TilePlan) : Bool :=
  let rr := t.rd.rank
  let wr := t.wr.rank
  let compressed := t.rd.comp ≠ 0 || t.wr.comp ≠ 0
  ((List.range 4).all fun d =>
    (if d < rr then 1 ≤ t.rext.getD d 0 else t.rext.getD d 0 = 0 && t.origin.getD d 0 = 0)
      && (d < wr || t.worigin.getD d 0 = 0)
      && t.origin.getD d 0 + t.rext.getD d 0 ≤ 0xFFFF_FFFF
      && t.origin.getD d 0 + (t.rext.getD d 0 - 1) * rstep t.tr d ≤ 0xFFFF_FFFF)
  && (if t.tr.map then
        ((List.range 4).all fun e => (List.range 8).all fun a =>
          let c := (t.tr.matrix.getD e []).getD a 0
          c = 0 || (e < wr && a / 2 < rr && (a % 2 = 0 || splitOf t.tr (a / 2) ≠ 0)))
      else
        t.tr.bcast = 0 && t.tr.split.all (· = 0) && t.tr.matrix.all (fun r => r.all (· = 0))
          && ((List.range 4).all fun d => d < wr || offsets t d = 1))
  && (!compressed ||
       (!t.tr.map && t.tr.round ≠ 2 && t.tr.scaleExp = 0 && t.tr.bcast = 0 && t.tr.seed = 0
         && t.tr.step.all (· = 0) && t.tr.split.all (· = 0) && t.tr.matrix.all (fun r => r.all (· = 0))
         && rr = 1 && wr = 1 && t.rd.format = t.wr.format
         && (t.rd.comp = 0 || t.wr.comp = 0 || t.rd.comp = t.wr.comp)))

/-- A compressed end holds the region on block boundaries and wholly inside its piece (R85, R86). -/
def compRegionOk (l : Layout) (origin ext : Nat) : Bool :=
  l.comp = 0 ||
    (let per := blockElements l.format
     l.goff.getD 0 0 % per = 0 && origin % per = 0 && l.goff.getD 0 0 ≤ origin
       && origin + ext ≤ l.goff.getD 0 0 + l.extent.getD 0 0)

/-- Parse the region fields of a tile descriptor (R114). -/
def parseRegion (w : BitVec 1024) : List Nat × List Nat × List Nat := (u32s w 16 4, u32s w 32 4, u32s w 48 4)

/-! ### Coordinates (R72, R163 to R169) -/

/-- Read coordinate of an offset (R166). -/
def readCoord (t : TilePlan) (o : List Nat) : List Nat :=
  (List.range 4).map fun d => t.origin.getD d 0 + o.getD d 0 * rstep t.tr d

/-- Axis values of an offset (R168). -/
def axisVal (t : TilePlan) (o : List Nat) (a : Nat) : Nat :=
  let d := a / 2
  let f := splitOf t.tr d
  if f = 0 then (if a % 2 = 0 then o.getD d 0 else 0)
  else if a % 2 = 0 then o.getD d 0 % f else o.getD d 0 / f

/-- Write coordinate of an offset, exact (R167, R168). -/
def writeCoord (t : TilePlan) (o : List Nat) : List Int :=
  (List.range 4).map fun e =>
    (t.worigin.getD e 0 : Int) +
      if t.tr.map then
        ((List.range 8).map fun a => (t.tr.matrix.getD e []).getD a 0 * (axisVal t o a : Int)).foldl (· + ·) 0
      else if e < t.wr.rank then (o.getD e 0 : Int) else 0

/-- Local index of a global coordinate; none outside the piece (R72). -/
def localIdx (l : Layout) (g : List Int) : Option (List Nat) :=
  if (List.range 4).all fun d =>
    if d < l.rank then (l.goff.getD d 0 : Int) ≤ g.getD d 0 && g.getD d 0 < (l.goff.getD d 0 + l.extent.getD d 0 : Nat)
    else g.getD d 0 = 0
  then some ((List.range 4).map fun d => (g.getD d 0).toNat - l.goff.getD d 0) else none

/-- Bit address of bit k of a local element, relative to 8 × BASE (R68). -/
def elemBit (l : Layout) (i : List Nat) (k : Nat) : Int :=
  let row : Int := 8 * ((i.getD 1 0 : Int) * l.stride.getD 1 0 + (i.getD 2 0 : Int) * l.stride.getD 2 0
    + (i.getD 3 0 : Int) * l.stride.getD 3 0)
  if l.packing = 2 then (8 * k * l.planeStride * 64 + l.baseBit + i.getD 0 0 : Nat) + row
  else (l.baseBit + i.getD 0 0 * fmtWidth l.format + k : Nat) + row

/-- Offsets of tile number n of a region, dimension 0 fastest (R163, R164). -/
def tileOffsets (ext : List Nat) (n : Nat) : List (List Nat) :=
  let e := fun d => max 1 (ext.getD d 0)
  let t0 := (e 0 + 255) / 256
  let t1 := (e 1 + 255) / 256
  let i0 := n % t0 * 256
  let i1 := n / t0 % t1 * 256
  let i2 := n / (t0 * t1) % e 2
  let i3 := n / (t0 * t1 * e 2)
  (List.range (min 256 (e 1 - i1))).flatMap fun b =>
    (List.range (min 256 (e 0 - i0))).map fun a => [i0 + a, i1 + b, i2, i3]

/-- Number of tiles of a region (R163). -/
def tileCount (ext : List Nat) : Nat :=
  let e := fun d => max 1 (ext.getD d 0)
  (e 0 + 255) / 256 * ((e 1 + 255) / 256) * e 2 * e 3

end Sys2Proof.Machine
end

