-- ==== Sys2Proof/Machine/Channel.lean ====
section
/-! DEFINITION. What a channel does around its instructions: events, completion of entries, advancing, marking bad, the
end of a program (03 R100 to R105, R142, R147 to R153, 05 R197, R201, R236). -/
namespace Sys2Proof.Machine

/-! ### Work entries complete (R197, R201, R211, R236) -/

/-- Work opcodes that the queue engine itself runs: SIGNAL, WAIT and NOP (R195). -/
def engineOp (o : Byte) : Bool := o = 0x18 || o = 0x19 || o = 0x7E

/-- A completion of a SIGNAL, WAIT or NOP entry waits behind an earlier one of them that is still outstanding (R238). -/
def behindEngine (q : Sq) (r : Report) : Bool :=
  engineOp r.opcode && q.dispatched.any fun d => engineOp d.opcode && 0 < (r.count - d.count).toInt

/-- Place a completion by dispatch order. -/
def putReport (r : Report) : List Report → List Report
  | [] => [r]
  | x :: xs => if (r.count - x.count).toInt < 0 then r :: x :: xs else x :: putReport r xs

/-- A completion joins those that wait to be written, with what it held back (R236, R238). -/
def addReport (r : Report) (q : Sq) : Sq :=
  let rs := putReport r q.behind
  { q with reports := q.reports ++ rs.filter fun x => !behindEngine q x
           behind := rs.filter (behindEngine q) }

/-- A target reports an entry complete: its completion joins the SQ's reports, OK turning into LATE for an entry
dispatched after its deadline (R201). -/
def completeEntry (g : Nat) (count : Half) (status : Byte) (result : Word) (s : State) : State :=
  let q := s.sq g
  match q.dispatched.find? (·.count = count) with
  | none => s
  | some d =>
    let st := if status = St.ok && d.late then St.late else status
    s.setSq g (addReport { count := count, tag := d.tag, status := st, result := result, irq := d.irq, opcode := d.opcode }
      { q with dispatched := q.dispatched.filter (·.count ≠ count) })

/-! ### Trigger events and interrupts of channels (R145, R147, R148, R153) -/

/-- One trigger event reaches a channel: counted up to 15, then lost; a channel that waits for one runs on. -/
def triggerEvent (c : Nat) (s : State) : State :=
  let h := s.chan c
  if h.trigPending = 15 then s.setChan c { h with trigOverrun := true }
  else
    let h := { h with trigPending := h.trigPending + 1 }
    if h.state = .waiting && s.waiters.any (fun w => w.unit == .chan (Fin.ofNat 128 c) && w.obj == .trigger) then
      { s.setChan c { h with state := .running } with
        waiters := s.waiters.filter fun w => !(w.unit == .chan (Fin.ofNat 128 c) && w.obj == .trigger) }
    else s.setChan c h

/-- Channels whose trigger follows channel c (R147, SRC 2). -/
def followers (s : State) (c : Nat) : List Nat :=
  (s.chans.filter fun p => p.2.trigSrc = 2 && p.2.trigChannel.toNat = c).map (·.1)

/-- Event bits of CH_IRQ. -/
abbrev evHalf : Nat := 0
abbrev evFull : Nat := 1
abbrev evStop : Nat := 2
abbrev evBad : Nat := 3

/-- An event of a channel: PEND is set, an enabled vector is sent, and HALF, FULL and STOP drive other channels'
triggers (R147, R153). -/
def raiseEvent (c bit : Nat) (s : State) : State :=
  let h := s.chan c
  let s := s.setChan c { h with irqPend := h.irqPend ||| (1#4 <<< bit) }
  let s := if h.irqEn.getLsbD bit then sendMsix h.room.toNat h.irqVector.toNat s else s
  if bit = evBad then s else (followers s c).foldl (fun t d => triggerEvent d t) s

/-- A channel runs on, unless a pause holds it (R154). -/
def runState (h : Chan) : ChState := if h.state = .paused || h.state = .pausing then h.state else .running

/-- Some cause of a pause stands (R158). -/
def pauseCause (h : Chan) : Bool := h.pauseBit || h.pauseDomain ≠ [] || h.pauseReset

/-! ### The end of a program (R103) -/

/-- The channel returns to IDLE and its entry, if any, completes. A program's end raises STOP; the implicit instruction
of a COPY, TILE or FILL is no program (log entry 20). -/
def finishProgram (c : Nat) (status : Byte) (result : Word) (s : State) : State :=
  let h := s.chan c
  let s1 := s.setChan c { h with state := .idle, cur := none, hold := .none, implicit := none, entry := none,
                                 ending := none, implicitBad := none, implicitBytes := 0, implicitLost := 0,
                                 trigTaken := false,
                                 progress := 0, heldBy := [], touches := [], execNo := h.execNo + 1 }
  let s1 := { s1 with waiters := s1.waiters.filter fun w => w.unit != .chan (Fin.ofNat 128 c) }
  let s1 := match h.entry with
    | some e => completeEntry e.sq (BitVec.ofNat 32 e.count) status result s1
    | none => s1
  if h.implicit.isSome then s1 else raiseEvent c evStop s1

/-- The program ends; with BARRIER on its entry the completion waits for the entry's writes and signals (R103, R196). -/
def endProgram (c : Nat) (status : Byte) (result : Word) (s : State) : State :=
  let h := s.chan c
  match h.entry with
  | some e =>
    if e.barrier && h.flights ≠ [] then
      s.setChan c { h with ending := some (status, result), cur := none, state := runState h }
    else finishProgram c status result s
  | none => finishProgram c status result s

/-! ### One instruction ends -/

/-- The opcode of the instruction a channel is at, as CUR_OPCODE shows it. -/
def instrIndex (h : Chan) (pc : Word) : Nat := (pc.toNat - h.progBase.toNat) / 32

/-- The instruction at the pc has completed: the next one follows, or an implicit program ends (R139, R203). -/
def advance (c : Nat) (s : State) : State :=
  let h := s.chan c
  match h.implicit with
  | some _ => endProgram c (h.implicitBad.getD St.ok)
      (BitVec.ofNat 64 (h.implicitBytes - h.implicitLost)) s
  | none => s.setChan c { h with pc := h.pc + 32, cur := none, trigTaken := false, state := runState h, progress := 0,
                                 heldBy := [], touches := [], execNo := h.execNo + 1 }

/-- Write one byte at a device address of a Room, in the Pantry or the Cellar, where a window
and, in a pool, a live buffer covers it (R308). -/
def pokeByte (k : Nat) (a : Word) (b : Byte) (s : State) : State :=
  match spaceOf a with
  | some .pantry => match translate s k false (offOf a) with
    | some p => if poolOk s k (offOf a) 1 then { s with pantry := mset s.pantry p b } else s
    | none => s
  | some .cellar => match translate s k true (offOf a) with
    | some p => { s with cellar := mset s.cellar p b }
    | none => s
  | _ => s

/-- Position of an instruction from the start of its program (R160). -/
def indexFrom (base pc : Word) : Nat := (pc.toNat - base.toNat) / 32

/-- The record of a failed instruction (R142 step 4, R624). -/
def instrRec (h : Chan) (c : Nat) (pc : Word) (opcode : Byte) (entry : Nat) (status : Byte) : ErrRec :=
  { status := status, severity := 1, room := h.room, unitKind := 1, unit := BitVec.ofNat 16 c,
    opcode := opcode.setWidth 16,
    index := if entry = 0 then BitVec.ofNat 32 (instrIndex h pc) else BitVec.ofNat 32 entry, pcWhere := pc }

/-- Steps 2, 4 and 5 of marking an instruction bad (R142): status byte, the record given, the BAD event. An implicit
instruction has no memory. -/
def badReport (c : Nat) (implicit : Bool) (pc : Word) (status : Byte) (r : ErrRec) (s : State) : State :=
  let k := (s.chan c).room.toNat
  raiseEvent c evBad (roomRec k r (if implicit then s else pokeByte k (pc + 1) status s))

/-- Step 3 (R142): CH_LAST_ERR and CH_BAD_COUNT of the program that runs. An implicit instruction keeps its status for its
entry (R203). -/
def badCounts (pc : Word) (opcode : Byte) (entry : Nat) (status : Byte) (h : Chan) : Chan :=
  { h with
    lastErr := BitVec.ofNat 32 (instrIndex h pc) ++ BitVec.ofNat 16 entry ++ opcode ++ status,
    badCount := satInc h.badCount,
    implicitBad := if h.implicit.isSome then some (h.implicitBad.getD status) else none }

/-- Steps 2 to 5 of marking an instruction bad (R142). -/
def badSteps (c : Nat) (pc : Word) (opcode : Byte) (entry : Nat) (status : Byte) (r : ErrRec) (s : State) : State :=
  badReport c (s.chan c).implicit.isSome pc status r (s.setChan c (badCounts pc opcode entry status (s.chan c)))

/-- Something that the instruction the channel is at has issued is still on its way. -/
def ownFlights (h : Chan) : Bool := h.flights.any (·.exec = h.execNo)

/-- A zero-length read goes out behind the Host writes of the instruction that have none yet (R141). -/
def proveWrites (c : Nat) (s : State) : State :=
  let h := s.chan c
  let open_ (f : Flight) : Bool := f.kind = .host && f.exec = h.execNo && !f.proofSent
  if h.flights.any open_ then
    hostReadOut h.room.toNat 0 0 { s.setChan c { h with
        flights := h.flights.map fun f => if open_ f then { f with proofSent := true } else f } with
      proofs := s.proofs ++ [(h.room.toNat, c)] }
  else s

/-- Mark the instruction at the pc bad (R142): its program ends under STOP_ON_BAD, and otherwise the channel goes on with
the next instruction, under BARRIER once everything that it issued has arrived or failed (R140). -/
def markBadRec (c : Nat) (opcode : Byte) (flags : BitVec 16) (entry : Nat) (status : Byte) (r : ErrRec)
    (s : State) : State :=
  let s := badSteps c (s.chan c).pc opcode entry status r (proveWrites c s)
  let h := s.chan c
  if flStopOnBad flags && h.implicit.isNone then endProgram c status 0 s
  else if flBarrier flags && ownFlights h then s.setChan c { h with hold := .barrier, cur := none }
  else advance c s

def markBad (c : Nat) (opcode : Byte) (flags : BitVec 16) (entry : Nat) (status : Byte) (s : State) : State :=
  markBadRec c opcode flags entry status (instrRec (s.chan c) c (s.chan c).pc opcode entry status) s

/-! ### Arrival (R125, R140, R141, R150) -/

/-- Continue a channel whose writes have arrived: BARRIER once the instruction's own have (R140), FENCE and STOP with
BARRIER once all have (R118, R125). -/
def afterArrival (c : Nat) (s : State) : State :=
  let h := s.chan c
  match h.ending with
  | some (st, r) =>
    if h.flights ≠ [] then s else
    let st := if st ≠ St.ok then st else if h.implicit.isSome then h.implicitBad.getD st
      else if h.badCount = 0 then st else St.partialDone
    finishProgram c st (if h.implicit.isSome then BitVec.ofNat 64 (h.implicitBytes - h.implicitLost) else r) s
  | none =>
    match h.hold with
    | .barrier => if ownFlights h then s else advance c (s.setChan c { h with hold := .none })
    | .fence => if h.flights ≠ [] then s else s.setChan c { h with hold := .none }
    | _ => s

/-- An issued write, signal or contribution of a channel arrives. HALF and FULL fall due when the last of what they wait
for has arrived (R150). -/
def arrive1 (c : Nat) (k : FlightKind) (s : State) : State :=
  let h := s.chan c
  match h.flights.find? (·.kind = k) with
  | none => s
  | some f =>
    let rest := h.flights.eraseP (·.kind = k)
    let due (ev : Flight → Bool) : Nat := if ev f && !f.dead && !rest.any (fun g => g.exec = f.exec && ev g) then 1 else 0
    afterArrival c (s.setChan c { h with flights := rest, halfDue := h.halfDue + due (·.evHalf),
                                         fullDue := h.fullDue + due (·.evFull) })

/-- The record of a failure in flight: that of a signal names its remote object (R142 step 4, R624). -/
def flightRec (h : Chan) (c : Nat) (f : Flight) (status : Byte) : ErrRec :=
  { instrRec h c f.pc f.opcode f.entry status with
    index := if f.entry = 0 then BitVec.ofNat 32 (indexFrom f.base f.pc) else BitVec.ofNat 32 f.entry
    object := f.object, detail := match f.kind with | .signal _ => 0xFFFF | _ => 0 }

/-- The failed flight leaves the channel, and nothing of its instruction is reported again: its bytes count no more, and
its read, if it is one, is no longer awaited. -/
def loseFlight (f : Flight) (h : Chan) : Chan :=
  { h with
    flights := (h.flights.eraseP (·.kind = f.kind)).map fun (g : Flight) =>
      if g.exec = f.exec then { g with dead := true } else g
    implicitLost := if f.implicit && h.progExec ≤ f.exec then h.implicitLost + f.bytes else h.implicitLost
    cur := h.cur.map fun (q : Cur) => match f.kind with
      | .read _ _ => { q with waitRead := false }
      | _ => q }

/-- An issued write, signal or contribution fails in flight: its instruction is marked bad once, whether it is still in
progress or the channel has gone on (R142, R143). An instruction that waits for a read burst is marked when that burst has
completed (R142 step 1). One of a program that has ended leaves the program that runs now alone. -/
def failFlight (c : Nat) (k : FlightKind) (status : Byte) (s : State) : State :=
  let h := s.chan c
  match h.flights.find? (·.kind = k) with
  | none => s
  | some f =>
    let r := flightRec h c f status
    let h := loseFlight f h
    let s := s.setChan c h
    if f.dead then afterArrival c s
    else if f.exec < h.progExec then afterArrival c (badReport c f.implicit f.pc status r s)
    else if f.exec = h.execNo && (h.cur.isSome || h.hold = .barrier) then
      if (h.cur.map (·.waitRead)).getD false then
        s.setChan c { h with cur := h.cur.map fun (q : Cur) => { q with bad := some (q.bad.getD r) } }
      else
        let r := ((h.cur.map (·.bad)).getD none).getD r
        markBadRec c f.opcode f.flags f.entry r.status r
          (s.setChan c { h with hold := .none, cur := none,
                                implicitBytes := ((h.cur.map (·.written)).getD h.implicitBytes) })
    else
      let s := badSteps c f.pc f.opcode f.entry status r s
      if flStopOnBad f.flags && h.implicit.isNone && h.state ≠ .idle then endProgram c status 0 s
      else afterArrival c s

/-- Start a program on an idle channel (R101, R184). The seed default is 0xACE1_0000 plus the channel number. For the
implicit instruction of a COPY, TILE or FILL the spec gives no start address: CH_PROG_BASE takes CH_PC's value, which the
entry leaves as it is (DESIGN CHOICE, log entry 42). -/
def startProgram (c : Nat) (pc : Word) (implicit : Option (BitVec 256)) (entry : Option EntryRef) (s : State) : State :=
  let h := s.chan c
  s.setChan c { h with
    state := if pauseCause h then .paused else .running, pc := pc, progBase := pc, loop0 := 0, loop1 := 0, loop2 := 0, loop3 := 0, srcOff := 0,
    dstOff := 0, consumed := 0, progress := 0, badCount := 0, lastErr := 0,
    lfsr := if h.seed = 0 then BitVec.ofNat 32 (0xACE1_0000 + c) else h.seed,
    implicit := implicit, entry := entry, cur := none, hold := .none, ending := none, implicitBad := none,
    implicitBytes := 0, implicitLost := 0, trigTaken := false, progExec := h.execNo }

/-- Load CH_TRIGGER: PENDING becomes 0, a period below 100 is stored as 100, the timer counts from now (R147, R149). -/
def loadTrigger (v : Word) (now : Nat) (h : Chan) : Chan :=
  let per := fld v 32 32
  let per := if per.toNat < 100 then 100 else per
  { h with trigSrc := fld v 0 2, trigPending := 0, trigChannel := fld v 8 7, trigSlot := fld v 16 8,
           trigStep := fld v 24 8, trigPeriod := per, trigNext := now + per.toNat }

/-- CH_RESET's register values: everything but CH_ROOM returns to reset (R159, R78). -/
def Chan.clear (h : Chan) : Chan :=
  { (({} : Chan)) with room := h.room, assigned := h.assigned, state := if h.assigned then .idle else .unassigned }

end Sys2Proof.Machine
end

