-- ==== Sys2Proof/Machine/Sync.lean ====
section
/-! DEFINITION. The sync fabric: flags, counters, full/empty tags, barrier wires, waiters and their endings (08). -/
namespace Sys2Proof.Machine

/-! ### Messages to other nodes (R514) -/

/-- The node's own ID, or its local ID 0 while it has none (R48, R542). -/
def ownNode (s : State) : Nat := if s.house.nodeValid then s.house.node.toNat else 0

/-- A node is a current House member (R46). -/
def isMember (s : State) (n : Nat) : Bool := s.house.nodeValid && s.house.members.contains n

/-- Egress port towards a node: its route's port while that port carries messages (R557, R485). -/
def egress (s : State) (n : Nat) : Option Nat :=
  match s.house.routes.find? (·.1 = n) with
  | some (_, p) => if (s.port p).state = .secure then some p else none
  | none => none

/-- Put content on a port's send queue (R498). -/
def enqueue (p : Nat) (i : TxItem) (s : State) : State :=
  s.setPort p { s.port p with queue := (s.port p).queue ++ [i] }

/-- A message's 64 bytes (R514). -/
structure Msg where
  mtype : Byte
  mflags : Byte := 0
  stream : BitVec 16 := 0
  src : BitVec 16 := 0
  dst : BitVec 16 := 0
  room : Byte := 0
  status : Byte := 0
  req : Half := 0
  addr : Word := 0
  arg0 : Word := 0
  arg1 : Word := 0
  /-- Bytes 40 to 63, used by types from 0x40 (R514). -/
  rest : BitVec 192 := 0
  deriving DecidableEq, Repr

def Msg.pack (m : Msg) : BitVec 512 :=
  m.rest ++ m.arg1 ++ m.arg0 ++ m.addr ++ m.req ++ (0#16 : BitVec 16) ++ m.status ++ m.room ++ m.dst ++ m.src
    ++ m.stream ++ m.mflags ++ m.mtype

def Msg.unpack (w : BitVec 512) : Msg :=
  { mtype := fld w 0 8, mflags := fld w 8 8, stream := fld w 16 16, src := fld w 32 16, dst := fld w 48 16,
    room := fld w 64 8, status := fld w 72 8, req := fld w 96 32, addr := fld w 128 64, arg0 := fld w 192 64,
    arg1 := fld w 256 64, rest := fld w 320 192 }

/-- Send a message towards its DST_NODE; none where no port carries it (R557). -/
def sendMsg (m : Msg) (s : State) : State :=
  match egress s m.dst.toNat with
  | some p => enqueue p (.msg ({ m with src := BitVec.ofNat 16 (ownNode s) }).pack) s
  | none => s

/-! ### Conditions of waits (R360, R364, R372, R393) -/

/-- A counter has reached a target (R364). -/
def hasReached (v t : Word) : Bool := 0 ≤ (v - t).toInt

def tagFull (s : State) (word : Nat) : Bool := s.tags.contains word

/-- The value or tag a wait finds, for RESULT and the record (R211, R391). That of a remote object is unknown to this node
at a timeout, and the spec gives RESULT no value for it: the model returns 0 there (DESIGN CHOICE, log entry 74). -/
def foundOf (s : State) : WaitObj → Word
  | .flag p => if (s.flag p).value then 1 else 0
  | .counter p => (s.counter p).value
  | .word a => if tagFull s (a / 8) then 1 else 0
  | .wire w => (s.wire w).gen.setWidth 64
  | _ => 0

/-- The Room of a flag or counter (R359, R363). -/
def objRoom (s : State) : WaitObj → Byte
  | .flag p => (s.flag p).room.setWidth 8
  | .counter p => (s.counter p).room.setWidth 8
  | _ => 0

/-- The Room of a unit that waits here. -/
def unitRoom (s : State) : WaitUnit → Nat
  | .chan c => (s.chan c).room.toNat
  | .sq q => (s.sq q).room.toNat
  | .peer _ _ => 0

def condHolds (s : State) (w : Waiter) : Bool :=
  match w.obj with
  | .flag p => (s.flag p).value == w.expect
  | .counter p => hasReached (s.counter p).value w.target
  | .word a => tagFull s (a / 8)
  | .wire i => (s.wire i).gen.setWidth 64 ≠ w.target
  | .wireArrive i =>
    match w.unit with
    | .chan c => !(s.chan c).arrivals.any (·.1 = i)
    | _ => false
  | _ => false

/-! ### Barrier wires (R392 to R398) -/

/-- A channel is an effective member of a wire (R392). -/
def effMember (s : State) (w : Wire) (c : Nat) : Bool :=
  (if c < 64 then w.maskLo.getLsbD c else w.maskHi.getLsbD (c - 64))
    && (s.chan c).assigned && (s.chan c).room = w.room

def arrived (w : Wire) (c : Nat) : Bool := if c < 64 then w.arrivedLo.getLsbD c else w.arrivedHi.getLsbD (c - 64)

/-- Set or withdraw a channel's arrival input. -/
def setArrived (w : Wire) (c : Nat) (v : Bool) : Wire :=
  let put (x : Word) (i : Nat) : Word := if v then x ||| (1#64 <<< i) else x &&& ~~~(1#64 <<< i)
  if c < 64 then { w with arrivedLo := put w.arrivedLo c } else { w with arrivedHi := put w.arrivedHi (c - 64) }

/-- Every effective member has arrived, and there is one (R394). -/
def wireReady (s : State) (w : Wire) : Bool :=
  let ms := (List.range 128).filter (effMember s w)
  w.enable && ms ≠ [] && ms.all (arrived w)

/-- Clear every arrival of a wire, in the wire and in its channels. -/
def clearArrivals (i : Nat) (s : State) : State :=
  let s := s.setWire i { s.wire i with arrivedLo := 0, arrivedHi := 0 }
  { s with chans := tmap s.chans {} fun _ h => { h with arrivals := h.arrivals.filter (·.1 ≠ i) } }

/-- Evaluate the AND: a complete wire adds 1 to GEN and clears every arrival (R394). -/
def evalWire (i : Nat) (s : State) : State :=
  if wireReady s (s.wire i) then
    clearArrivals i (s.setWire i { s.wire i with gen := (s.wire i).gen + 1 })
  else s

/-- A channel arrives on a wire: the current GEN is recorded (R393). -/
def arriveWire (c i : Nat) (s : State) : State :=
  let h := s.chan c
  let s := s.setChan c { h with arrivals := h.arrivals ++ [(i, (s.wire i).gen)] }
  evalWire i (s.setWire i (setArrived (s.wire i) c true))

/-- Withdraw a channel's arrivals on every wire (R398). -/
def withdrawArrivals (c : Nat) (s : State) : State :=
  let s := (s.chan c).arrivals.foldl (fun t a => t.setWire a.1 (setArrived (t.wire a.1) c false)) s
  s.setChan c { s.chan c with arrivals := [], houseArrivals := [] }

/-! ### Ending a wait (R122, R208, R386, R391) -/

/-- Count of the WAIT entry that an SQ has dispatched (R208). -/
def waitingCount (q : Sq) : Half :=
  match q.dispatched.find? (·.opcode = 0x19) with
  | some d => d.count
  | none => q.cons - 1

/-- The target of a wait: EXPECT of a flag, VALUE of a counter, FULL of a tag, the generation of a wire (R515, R625). -/
def waitTarget (w : Waiter) : Word :=
  let expect : Word := if w.expect then 1 else 0
  match w.obj with
  | .flag _ => expect
  | .remote _ _ => if w.addr.getLsbD 12 then w.target else expect
  | .word _ => 1
  | _ => w.target

/-- The record of a wait that ends bad (R391, R625). -/
def waitRec (s : State) (w : Waiter) (status : Byte) (found : Word) : ErrRec :=
  let phys : BitVec 16 := match w.obj with
    | .flag p => BitVec.ofNat 16 p
    | .counter p => BitVec.ofNat 16 p
    | .word _ => 0
    | .wire i => BitVec.ofNat 16 i
    | .wireArrive i => BitVec.ofNat 16 i
    | .remote _ _ => 0xFFFF
    | _ => 0
  let unk := match w.obj with | .remote _ _ => true | _ => false
  let superseding := w.held && status = St.linkRetryExhausted
  match w.unit with
  | .chan c =>
    let h := s.chan c
    { status := status, severity := 1, room := h.room, unitKind := 1, unit := BitVec.ofNat 16 c.val, mode := w.mode,
      detail := phys, foundUnknown := unk, superseded := superseding, index := BitVec.ofNat 32 (instrIndex h h.pc),
      pcWhere := h.pc, object := w.addr, arg0 := waitTarget w, arg1 := if unk then 0 else found,
      timeoutUs := w.timeoutUs }
  | .sq q =>
    let x := s.sq q
    { status := status, severity := 1, room := x.room, unitKind := 2, unit := BitVec.ofNat 16 q.val, mode := w.mode,
      opcode := 0x19, detail := phys, foundUnknown := unk, superseded := superseding, index := waitingCount x,
      pcWhere := (x.loc.setWidth 32 : Half) ++ waitingCount x, object := w.addr, arg0 := waitTarget w,
      arg1 := if unk then 0 else found, timeoutUs := w.timeoutUs }
  | .peer _ _ => { status := status }

/-- Opcode and flags of the instruction a channel waits in, from memory or the implicit word; held with the wait. -/
def waitingOp (h : Chan) : Byte × BitVec 16 :=
  match h.cur with
  | some k => (k.opcode, k.flags)
  | none => (0, 0)

/-- Take a waiter off the list. -/
def dropWaiter (w : Waiter) (s : State) : State :=
  { s with waiters := s.waiters.filter fun v => !(v.unit == w.unit && v.obj == w.obj && v.target == w.target) }

/-- A wait ends with a status: a channel goes on or is marked bad, an SQ's WAIT entry completes, another node's waiter
gets a WAKE (R122, R208, R386). `found` is the value that ended it. -/
def endWait (w : Waiter) (status : Byte) (found : Word) (s : State) : State :=
  let s := dropWaiter w s
  match w.unit with
  | .chan c =>
    let h := s.chan c
    let (o, f) := waitingOp h
    if status = St.ok then
      let h := { h with consumed := if o ≠ Op.waitCount then h.consumed else if w.mode = 1 then h.consumed + w.value
                                      else if w.mode = 2 then found else h.consumed,
                        cur := none }
      advance c (s.setChan c h)
    else
      let r := { waitRec s w status found with opcode := o.setWidth 16 }
      markBadRec c o f 0 status r s
  | .sq q =>
    let x := s.sq q
    let s := if status = St.ok || status = St.roomReset then s else roomRec x.room.toNat (waitRec s w status found) s
    completeEntry q.val (waitingCount x) status
      (if status = St.ok || status = St.waitTimeout then found else 0)
      (s.setSq q { s.sq q with waitCause := 0 })
  | .peer n r =>
    sendMsg { mtype := 0x0B, dst := BitVec.ofNat 16 n, room := objRoom s w.obj, req := BitVec.ofNat 32 r, status := status, arg0 := found } s

/-- What the end of a wait does to its object in the same operation: CONSUME, TAKE, or the next arrival
(R119, R360, R372, R395). -/
def consumeObj (w : Waiter) (s : State) : State :=
  match w.obj with
  | .flag p => if w.consume then s.setFlag p { s.flag p with value := !w.expect } else s
  | .word a => if w.consume then { s with tags := nremove s.tags (a / 8) } else s
  | .wireArrive i => match w.unit with
    | .chan c => arriveWire c i s
    | _ => s
  | _ => s

/-- The line of a waited-for word, read with its tag, is uncorrectable (R374). -/
def wordBad (s : State) (w : Waiter) : Bool :=
  match w.obj with
  | .word a => s.pantryUe.contains (a / 64)
  | _ => false

/-- A wait whose condition holds ends, with what its end does to its object; one whose word's line is bad ends with
ECC_UNCORRECTED (R374). -/
def meetWait (w : Waiter) (s : State) : State :=
  if wordBad s w then endWait w St.eccUncorrected 0 s
  else endWait w St.ok (foundOf s w.obj) (consumeObj w s)

/-- Evaluate the waiters one at a time in the order in which they began, until none ends (R361, R365, R372). -/
def settleN : Nat → State → State
  | 0, s => s
  | n + 1, s =>
    match s.waiters.find? (fun w => !w.paused && condHolds s w) with
    | none => s
    | some w => settleN n (meetWait w s)

def settle (s : State) : State := settleN s.waiters.length s

/-- End every wait on an object with a status (R384). -/
def releaseN (p : Waiter → Bool) (status : Byte) : Nat → State → State
  | 0, s => s
  | n + 1, s =>
    match s.waiters.find? p with
    | none => s
    | some w => releaseN p status n (endWait w status 0 s)

def releaseWaits (p : Waiter → Bool) (status : Byte) (s : State) : State :=
  releaseN p status s.waiters.length s

/-! ### Signals (R359, R362, R363, R378, R401) -/

/-- Who sends a signal (R401). -/
def lastSignal (s : State) (source unit node : Nat) : LastSignal :=
  { source := BitVec.ofNat 3 source, unit := BitVec.ofNat 10 unit, node := BitVec.ofNat 10 node,
    time := fld s.g.houseTime 0 32 }

/-- A doorbell reaches an SQ (R220). -/
def setDbPending (g : Nat) (s : State) : State := s.setSq g { s.sq g with dbPending := true }

/-- Apply a signal to a flag: the queue engine's consumption comes before any waiter (R359, R361, R362). -/
def signalFlag (p : Nat) (v : Bool) (l : LastSignal) (s : State) : State :=
  let f := s.flag p
  match f.dbSq, v with
  | some g, true => settle (setDbPending g (s.setFlag p { f with value := false, last := l }))
  | _, _ => settle (s.setFlag p { f with value := v, last := l })

/-- Apply a signal to a counter (R363, R365). -/
def signalCounter (p : Nat) (add : Word) (l : LastSignal) (s : State) : State :=
  let k := s.counter p
  settle (s.setCounter p { k with value := k.value + add, last := l })

/-! ### Identifiers (R375 to R377) -/

/-- Physical object of a Room-virtual identifier. -/
def flagPhys (s : State) (k id : Nat) : Option Nat := ((s.room k).flagMap.find? (·.1 = id)).map (·.2)
def counterPhys (s : State) (k id : Nat) : Option Nat := ((s.room k).counterMap.find? (·.1 = id)).map (·.2)

/-- Where a Sync-space operand leads: a local object, or a node (R376, R377). -/
inductive SyncTarget where
  | localFlag (p : Nat)
  | localCounter (p : Nat)
  | remote (node : Nat)
  deriving DecidableEq, Repr

/-- Translate an operand: SYNC_UNMAPPED, LINK_DOWN, MALFORMED or SYNC_RANGE on failure (R43, R44, R376). A counter's
KIND with an ID above 511 where a flag is required meets both R43 and R44, and R635 gives no order between MALFORMED and
SYNC_RANGE: the model reports SYNC_RANGE (DESIGN CHOICE, log entry 74). -/
def syncTarget (s : State) (k : Nat) (a : Word) (wantCounter : Bool) : Except Byte SyncTarget :=
  match syncRef a with
  | .error e => .error e
  | .ok r =>
    if r.isCounter ≠ wantCounter then .error St.malformed
    else if r.remote && r.node ≠ ownNode s then
      if isMember s r.node then .ok (.remote r.node) else .error St.linkDown
    else if wantCounter then
      match counterPhys s k r.id with
      | some p => .ok (.localCounter p)
      | none => .error St.syncUnmapped
    else
      match flagPhys s k r.id with
      | some p => .ok (.localFlag p)
      | none => .error St.syncUnmapped

/-! ### Full/empty words (R368 to R372) -/

/-- The tagged region, if any, that covers a physical Pantry byte: Room, region number, region. -/
def regionAt (s : State) (phys : Nat) : Option (Nat × Nat × FeRegion) :=
  s.rooms.findSome? fun k => match reverseIn k.2.windows false phys with
    | none => none
    | some o => k.2.regions.findSome? fun r =>
      if r.2.off ≤ o && o < r.2.off + r.2.len then some (k.1, r.1, r.2) else none

/-- Set the tags of the whole words a write enables (R370); waiters follow. -/
def fillTags (lo : Nat) (en : List Bool) (s : State) : State :=
  let n := en.length
  let words := (List.range (n / 8 + 2)).filterMap fun i =>
    let a := (lo / 8 + i) * 8
    if lo ≤ a && a + 8 ≤ lo + n && ((en.drop (a - lo)).take 8).all id && (regionAt s a).isSome then some (a / 8)
    else none
  if words = [] then s else settle { s with tags := words.foldl ninsert s.tags }

/-! ### Timeouts (R120, R389) -/

/-- Deadline of a wait issued now: 0 selects 10 ms (R120, R389). -/
def waitDeadline (s : State) (us : Half) : Nat :=
  s.now + (if us = 0 then 10000 else us.toNat) * 1000

/-- Register a waiter at the end of the order (R383). -/
def addWaiter (w : Waiter) (s : State) : State := { s with waiters := s.waiters ++ [w] }

/-- The request tag under which a unit registers at another node (R514). -/
def unitReq : WaitUnit → Nat
  | .chan c => c.val
  | .sq q => 128 + q.val
  | .peer _ r => r

/-- The MTYPE argument fields of a WAIT_REG or POLL (R515). -/
def waitMsg (mtype : Byte) (k : Nat) (node : Nat) (w : Waiter) : Msg :=
  { mtype := mtype, mflags := if w.consume then 4 else 0, dst := BitVec.ofNat 16 node, room := BitVec.ofNat 8 k,
    req := BitVec.ofNat 32 (unitReq w.unit), addr := (fld w.addr 0 16).setWidth 64,
    arg0 := waitTarget w }

end Sys2Proof.Machine
end

