-- ==== Sys2Proof/Machine/Time.lean ====
section
/-! DEFINITION. House time and the running phase (15 R663, 10 R433, R438, R450, 12 R561). -/
namespace Sys2Proof.Machine

/-- 1/65,536 ps in one ns: the unit of periods (R436). -/
def nsUnits : Nat := 1000 * 65536

/-- House time in 1/65,536 ps. -/
def nowUnits (s : State) : Nat := s.now * nsUnits

/-- The weight of each slot is latched at the start of a turn (R450). -/
def latchWeights (c : Cad) : Cad := { c with latched := c.weights }

/-- The phase runs for n units of time by `dist` in `rate`: 2^32 × 1,000 / P for each ns, with a carry into the turn
(R433). A corrected rate ends at the boundary it was set for, and the plain one follows (R435, R438). -/
def runPhase (n : Nat) (c : Cad) : Cad :=
  let num := c.phase.toNat * c.rate + c.frac + n * c.dist
  let stop := 2 ^ 32 * c.corr * c.rate
  if c.corr ≠ 0 && stop ≤ num then
    let past := (num - stop) / c.dist * 2 ^ 32
    let c' := { c with turn := c.turn + BitVec.ofNat 32 c.corr, corr := 0, dist := 2 ^ 32, rate := c.period,
                       phase := BitVec.ofNat 32 (past / c.period), frac := past % c.period }
    latchWeights c'
  else
    let total := num / c.rate
    let c' := { c with phase := BitVec.ofNat 32 total, frac := num % c.rate }
    if total < 2 ^ 32 then c'
    else latchWeights { c' with turn := c.turn + BitVec.ofNat 32 (total / 2 ^ 32), corr := c.corr - total / 2 ^ 32 }

/-- The phase runs for n ns up to house time `upto`. Where an event came before its boundary, the turn from that
boundary runs to its scheduled end (R438). -/
def advancePhase (n upto : Nat) (c : Cad) : Cad :=
  let num := c.phase.toNat * c.rate + c.frac + n * nsUnits * c.dist
  let stop := 2 ^ 32 * c.corr * c.rate
  match c.early with
  | none => runPhase (n * nsUnits) c
  | some e =>
    if stop ≤ num then
      let past := (num - stop) / c.dist
      runPhase past { c with turn := c.turn + BitVec.ofNat 32 c.corr, phase := 0, frac := 0, dist := 2 ^ 32, corr := 1,
                             rate := max 1 (e - (upto * nsUnits - past)), early := none
                             latched := c.weights }
    else runPhase (n * nsUnits) c

/-- House time and phase advance by n ns. -/
def advanceTime (n : Nat) (s : State) : State :=
  { s with g := { s.g with houseTime := s.g.houseTime + BitVec.ofNat 64 n }
           cad := advancePhase n (s.now + n) s.cad }

/-- One ns of slewing: one ns more, or one ns withheld, in each 1,000 (R561). -/
def tickStep (s : State) : Nat × House :=
  let h := s.house
  if h.slew = 0 then (1, h)
  else if h.slewCount < 999 then (1, { h with slewCount := h.slewCount + 1 })
  else if 0 < h.slew then (2, { h with slew := h.slew - 1, slewCount := 0 })
  else (0, { h with slew := h.slew + 1, slewCount := 0 })

/-- What passes while no command waits: one ns of device time (log entry 4). Nothing runs without power (R675). -/
def tick (s : State) : State :=
  if s.g.powered then
    let (n, h) := tickStep s
    advanceTime n { s with house := h }
  else s

end Sys2Proof.Machine
end

