-- ==== Sys2Proof/Machine/Cadence.lean ====
section
/-! DEFINITION. The Cadence unit: reference events, locking, tracking, coasting and loss, phase and turn steps
(10 R431 to R450). Times are house times in 1/65,536 ps. -/
namespace Sys2Proof.Machine

/-! ### Interrupts and records -/

abbrev cadLock : Nat := 0
abbrev cadCoast : Nat := 1
abbrev cadLostBit : Nat := 2
abbrev cadStep : Nat := 3

/-- An interrupt of CAD_CTL (R449). -/
def cadIrq (bit : Nat) (s : State) : State :=
  if s.cad.irqEn.getLsbD bit then pfCause 1 s.cad.vector s else s

/-- An event record of the Cadence unit (R715). -/
def cadRec (code : BitVec 16) (sev : BitVec 3) (arg0 arg1 : Word) (s : State) : State :=
  auditRec { eventRec code sev with unitKind := 9, arg0 := arg0, arg1 := arg1 } s

/-! ### Periods (R435, R436) -/

/-- The unit uses a new period: at once, or from the boundary where a corrected rate ends (R435). -/
def setPeriod (p : Nat) (c : Cad) : Cad :=
  if c.corr = 0 then { c with period := p, rate := p, frac := c.frac * p / c.rate }
  else { c with period := p, early := none }

/-- Turns to the next reference event: one beacon in each ⌈1 ms / period⌉ turns where the Hall's period, as its beacons
give it, is below 1 ms (R444). -/
def eventTurns (c : Cad) : Nat :=
  let ms : Nat := 1000000000
  if c.source = 1 && 0 < c.hallPeriod && c.hallPeriod < ms then (ms + c.hallPeriod - 1) / c.hallPeriod else 1

/-- Turns from the last accepted reference event to this one, counted from the boundaries that beacons give; none for an
edge, which names no turn (R444). -/
def turnsBetween (c : Cad) (hallTurn : Option Half) : Option Nat :=
  match hallTurn, c.beaconTurn with
  | some t, some l => some (max 1 (t - l).toInt.toNat)
  | some _, none => some 1
  | none, _ => none

/-! ### Phase positions -/

/-- Turn and phase as one number. -/
def phasePos (c : Cad) : Nat := c.turn.toNat * 2 ^ 32 + c.phase.toNat

/-- Where the phase stood `back` units of time ago. -/
def posAt (c : Cad) (back : Nat) : Int := (phasePos c : Int) - (back * c.dist / c.rate : Nat)

/-- The turn boundary nearest to a position, by its turn. -/
def nearestTurn (x : Int) : Int := (x + 2 ^ 31) / 2 ^ 32

/-- A Cadence trigger selects a slot (R147). -/
def slotSelected (h : Chan) (n : Nat) : Bool :=
  h.trigSrc = 3 &&
    (if h.trigStep = 0 then n = h.trigSlot.toNat
     else h.trigSlot.toNat ≤ n && (n - h.trigSlot.toNat) % h.trigStep.toNat = 0)

/-- Entry to a slot drives the Cadence triggers that select it (R147). -/
def cadTriggers (n : Nat) (s : State) : State :=
  ((s.chans.filter fun h => slotSelected h.2 n).map (·.1)).foldl (fun t c => triggerEvent c t) s

/-- The slots from the last one entered to the end of the turn are passed at a step: one event for each selected one
(R442). The next slot to enter is slot 0 of the new turn. -/
def skipSlots (s : State) : State :=
  let c := s.cad
  let first := if c.lastSlotTurn = c.turn then c.lastSlot.getD 0 + 1 else 0
  let s := ((List.range 256).filter (first ≤ ·)).foldl (fun t n => cadTriggers n t) s
  { s with cad := { s.cad with lastSlot := some 255, lastSlotTurn := c.turn } }

/-! ### Alignment and steps (R437, R438, R442, R443, R445) -/

/-- The next boundary lies a period after the event at time e, which falls near the boundary of turn rb, and the phase
is run so as to reach it exactly. A turn whose boundary is still to come reaches it at the rate it has, and the turn
after it is the one that the correction makes longer or shorter (R438). -/
def alignTo (e p now : Nat) (rb : Int) (c : Cad) : Cad :=
  let next := e + p * eventTurns { c with period := p }
  if (phasePos c : Int) < rb * 2 ^ 32 && now < e + p then
    { c with period := p, early := some (e + p), corr := max 1 ((rb - c.turn.toNat).toNat), nextBoundary := next }
  else
    let k := max 1 ((now - e) / p + 1)
    { c with period := p, rate := e + k * p - now, dist := max 1 (((rb + k) * 2 ^ 32 - phasePos c).toNat), frac := 0,
             corr := max 1 ((rb + k - c.turn.toNat).toNat), early := none, nextBoundary := next }

/-- The phase steps forward to the start of a turn at the event (R437). -/
def stepPhase (e p now : Nat) (s : State) : State :=
  let old := s.cad.phase
  let s := skipSlots s
  let c := s.cad
  let run := (now - e) * 2 ^ 32
  let c := { c with turn := c.turn + 1 + BitVec.ofNat 32 (run / p / 2 ^ 32), phase := BitVec.ofNat 32 (run / p),
                    frac := run % p, period := p, rate := p, dist := 2 ^ 32, corr := 0, early := none, phaseStep := true
                    nextBoundary := e + p * eventTurns { c with period := p } }
  cadIrq cadStep (cadRec 0x0201 3 (old.setWidth 64) 0 { s with cad := latchWeights c })

/-- The turn count takes a new value: NEXT waits keep their moment, ABSOLUTE waits and deadlines are compared with the
new count; an ABSOLUTE wait that the step passes wakes with LATE (R123, R443). -/
def stepTurn (delta : Half) (s : State) : State :=
  if delta = 0 then s else
  let old := s.cad.turn
  let new := old + delta
  let s : State := { s with
    cad := { s.cad with turn := new, turnStep := true, lastSlotTurn := s.cad.lastSlotTurn + delta
                        acquireTurns := s.cad.acquireTurns + delta.toNat }
    waiters := s.waiters.map fun (w : Waiter) => match w.obj with
      | .phase false t p => { w with obj := .phase false (t + delta) p }
      | _ => w }
  let passed (w : Waiter) : Bool := match w.obj with
    | .phase true t p => reached new s.cad.phase t p && !reached old s.cad.phase t p
    | _ => false
  let s := (s.waiters.filter passed).foldl (fun t w => match w.unit with
    | .chan c => t.setChan c { t.chan c with late := true }
    | _ => t) s
  cadIrq cadStep (cadRec 0x0202 3 (old.setWidth 64) (new.setWidth 64) s)

/-- Lock with period p at the event of time e: align within 1/32 turn, else step; a beacon's turn is adopted
(R437, R445). -/
def lockCad (e p now : Nat) (hallTurn : Option Half) (s : State) : State :=
  let x := posAt s.cad (now - e)
  let rb := nearestTurn x
  let near : Bool := (x - rb * 2 ^ 32).natAbs ≤ 2 ^ 27
  let at_ : Half := if near then BitVec.ofInt 32 rb else s.cad.turn + 1
  let s := if near then { s with cad := alignTo e p now rb s.cad } else stepPhase e p now s
  let s := match hallTurn with
    | some t => stepTurn (t - at_) s
    | none => s
  cadIrq cadLock { s with cad := { s.cad with state := .locked, coasted := 0, everLocked := true, events := [] } }

/-! ### Reference events (R436, R438) -/

/-- A rejected event (R436, R438). -/
def rejectEvent (s : State) : State := { s with cad := { s.cad with rejects := satInc s.cad.rejects } }

/-- An accepted event's time, and its turn where it is a beacon (R444, R449). -/
def acceptAt (e : Nat) (hallTurn : Option Half) (s : State) : State :=
  { s with cad := { s.cad with lastAccepted := some e, beaconTurn := hallTurn, stamp := BitVec.ofNat 64 (e / nsUnits) } }

/-- An event while ACQUIRING or in CAD_LOST: the third good interval in a row locks (R436). -/
def acquireEvent (e now : Nat) (hallTurn : Option Half) (s : State) : State :=
  let c := s.cad
  match c.lastAccepted with
  | none => acceptAt e hallTurn { s with cad := { c with events := [] } }
  | some l =>
    let iv := (e - l) / (turnsBetween c hallTurn).getD 1
    let good : Bool := 7 * c.period ≤ 8 * iv && 8 * iv ≤ 9 * c.period
    let ivs := if good then iv :: c.events else []
    let s := acceptAt e hallTurn { s with cad := { c with events := ivs } }
    if 3 ≤ ivs.length then lockCad e ((ivs.take 3).foldl (· + ·) 0 / 3) now hallTurn s else s

/-- Distance of an event from the predicted boundary it falls near: the next one, or for a beacon any turn's (R438, R444). -/
def boundaryError (c : Cad) (e : Nat) (beacon : Bool) : Int :=
  let off : Int := (e : Int) - c.nextBoundary
  if beacon && c.period ≠ 0 then (off + c.period / 2) % c.period - (c.period / 2 : Nat) else off

/-- An event while LOCKED or COASTING: accepted within 1/32 turn of a predicted boundary (R438, R439). -/
def trackEvent (e now : Nat) (hallTurn : Option Half) (s : State) : State :=
  let c := s.cad
  let off := boundaryError c e hallTurn.isSome
  if c.period < 32 * off.natAbs then rejectEvent s
  else
    let n := (turnsBetween c hallTurn).getD (if c.state = .coasting then c.coasted.toNat + 1 else 1)
    let iv := (e - c.lastAccepted.getD e) / n
    let p := ((c.period : Int) + ((iv : Int) - c.period).tdiv 8).toNat
    let coasting := c.state = .coasting
    let x := posAt c (now - e)
    let s := acceptAt e hallTurn { s with cad := { alignTo e p now (nearestTurn x) c with state := .locked, coasted := 0 } }
    if coasting then cadIrq cadLock s else s

/-- A reference event at time e (R436, R438). -/
def refEvent (e : Nat) (hallTurn : Option Half) (s : State) : State :=
  let c := s.cad
  let soon : Bool := match c.lastAccepted with
    | some l => 8 * (e - l) < c.period
    | none => false
  match c.state with
  | .internal => s
  | .acquiring => if soon then rejectEvent s else acquireEvent e (nowUnits s) hallTurn s
  | .cadLost => if soon then rejectEvent s else acquireEvent e (nowUnits s) hallTurn s
  | .locked => if soon then rejectEvent s else trackEvent e (nowUnits s) hallTurn s
  | .coasting => if soon then rejectEvent s else trackEvent e (nowUnits s) hallTurn s

/-- CAD_REFERENCE_EVENT: CAD_IN takes a level; a change in the selected direction is an event for SOURCE 0. -/
def execCadReferenceEvent (level : Bool) (s : State) : Host.Outcome State Fault Refusal :=
  let edge : Bool := level != s.pins.cadIn && (level != s.cad.fallingEdge)
  let s := { s with pins := { s.pins with cadIn := level } }
  .next (if edge && s.cad.source = 0 then refEvent (nowUnits s) none s else s)

/-- A beacon's turn, boundary time, and the Hall's period in ps and state (R444 to R446). -/
def cadBeacon (turn : Half) (boundaryNs periodPs : Nat) (hallLost : Bool) (s : State) : State :=
  let s := { s with cad := { s.cad with hallLost := hallLost, hallPeriod := periodPs } }
  if s.cad.source = 1 then refEvent (boundaryNs * nsUnits) (some turn) s else s

/-! ### Missed boundaries and loss (R439 to R441) -/

/-- Entry to CAD_LOST (R440). -/
def enterLost (s : State) : State :=
  let s := { s with cad := { s.cad with state := .cadLost, lost := true, lostEvents := s.cad.lostEvents + 1,
                                        events := [] } }
  cadIrq cadLostBit (cadRec 0x0200 3 0 0 s)

/-- CAD_MISSED_BOUNDARY: the predicted boundary and 1/32 turn have passed with no accepted event (R439, R440). Where beacons
come less often than once a turn, the first one missed is that of the boundary at which a beacon was due; from then on every
turn's boundary counts (R444). -/
def execCadMissedBoundary (s : State) : Host.Outcome State Fault Refusal :=
  let c := s.cad
  let watching : Bool := c.state = .locked || c.state = .coasting || c.state = .cadLost
  if watching && 32 * c.nextBoundary + c.period < 32 * nowUnits s then
    let k := satInc c.coasted
    let s := { s with cad := { c with coasted := k, nextBoundary := c.nextBoundary + c.period } }
    .next (match c.state with
      | .locked => cadIrq cadCoast { s with cad := { s.cad with state := .coasting } }
      | .coasting => if k.toNat = 64 then enterLost s else s
      | _ => s)
  else .next s

/-- CAD_ACQUIRE_TIMEOUT: 64 turns of ACQUIRING have not locked (R441). -/
def execCadAcquireTimeout (s : State) : Host.Outcome State Fault Refusal :=
  let c := s.cad
  if c.state = .acquiring && 64 ≤ (c.turn - BitVec.ofNat 32 c.acquireTurns).toNat then
    let c := setPeriod (c.nominalPs.toNat * 65536) c
    let left := (2 ^ 32 - c.phase.toNat) * c.period / 2 ^ 32
    .next (enterLost { s with cad := { c with nextBoundary := nowUnits s + left, coasted := 0 } })
  else .next s

/-! ### Configuration and the Hall (R435, R447) -/

/-- Enter ACQUIRING on the current period (R435). -/
def enterAcquiring (s : State) : State :=
  { s with cad := { s.cad with state := .acquiring, events := [], lastAccepted := none, beaconTurn := none, coasted := 0,
                               acquireTurns := s.cad.turn.toNat } }

/-- A Hall with SOURCE 1 runs INTERNAL on the period in use (R447). -/
def cadHall (s : State) : State :=
  if s.house.isHall && s.cad.source = 1 && !s.cad.hallSelf then
    cadRec 0x0203 0 0 0 { s with cad := { setPeriod s.cad.period s.cad with state := .internal, hallSelf := true,
                                                                            coasted := 0 } }
  else if !s.house.isHall && s.cad.hallSelf then
    let s := { s with cad := { s.cad with hallSelf := false } }
    if s.cad.source = 1 then enterAcquiring s else s
  else s

/-- CADENCE_CONFIG's effect (R435, R447). -/
def cadConfig (source : BitVec 2) (outEn falling : Bool) (nominal : BitVec 40) (s : State) : State :=
  let c := { s.cad with source := source, outEn := outEn, fallingEdge := falling, nominalPs := nominal }
  if source = 2 then
    { s with cad := { setPeriod (nominal.toNat * 65536) c with state := .internal, hallSelf := false, coasted := 0,
                                                               events := [], lastAccepted := none } }
  else if source = 1 && s.house.isHall then cadHall { s with cad := { c with hallSelf := false } }
  else enterAcquiring { s with cad := { c with hallSelf := false } }

end Sys2Proof.Machine
end

