-- ==== Sys2Proof/Machine/Mgmt.lean ====
section
/-! DEFINITION. Management messages: their layout, the ports they go out of, and flooding (12 R544, R557). -/
namespace Sys2Proof.Machine

/-- A port carries MGMT frames (R485). -/
def portUp (p : Port) : Bool := p.state = .clear || p.state = .secure || p.state = .quarantined

/-- Ports up now, by number. -/
def upPorts (s : State) : List Nat := (s.ports.filter fun p => portUp p.2).map (·.1)

/-- DST_NODE of a message for the neighbour only (R544). -/
abbrev neighbour : Nat := 0x8000

/-- SRC_NODE of a device without a node ID (R544). -/
abbrev noNode : Nat := 0x8000

/-- SRC_NODE of this node's own management messages. -/
def mgSrc (s : State) : Nat := if s.house.nodeValid then s.house.node.toNat else noNode

/-- A management message: type, flags, nodes, and (byte, value) pairs of its body (R544). -/
def mgMsg (t flags src dst : Nat) (fs : List (Nat × Nat)) : BitVec 512 :=
  BitVec.ofNat 512 (fs.foldl (fun n f => n + f.2 * 2 ^ (8 * f.1))
    (t + flags * 2 ^ 8 + src * 2 ^ 32 + dst * 2 ^ 48))

/-- n bytes of a message from byte k. -/
abbrev mgF (w : BitVec 512) (k n : Nat) : BitVec (8 * n) := fld w (8 * k) (8 * n)
abbrev mgN (w : BitVec 512) (k n : Nat) : Nat := (mgF w k n).toNat

/-- Queue a management message on a port that carries MGMT frames. -/
def sendMgmt (p : Nat) (w : BitVec 512) (s : State) : State :=
  if portUp (s.port p) then enqueue p (.mgmt (leB 64 w)) s else s

/-- A device that has STOPPED sends no management message of its own (R550). -/
def sendOwn (p : Nat) (w : BitVec 512) (s : State) : State :=
  if s.house.hstate = .stopped then s else sendMgmt p w s

/-- Send a message on every up port but one. -/
def floodBut (but : Option Nat) (w : BitVec 512) (s : State) : State :=
  ((upPorts s).filter fun p => some p ≠ but).foldl (fun t p => sendMgmt p w t) s

/-- Flood an own message. -/
def flood (w : BitVec 512) (s : State) : State :=
  if s.house.hstate = .stopped then s else floodBut none w s

/-- Egress port towards a node for management messages (R556). -/
def mgmtPort (s : State) (n : Nat) : Option Nat :=
  match s.house.routes.find? (·.1 = n) with
  | some (_, p) => if portUp (s.port p) then some p else none
  | none => none

/-- Send a management message to a member; nothing where no route leads to it. -/
def mgmtTo (n : Nat) (w : BitVec 512) (s : State) : State :=
  match mgmtPort s n with
  | some p => sendMgmt p w s
  | none => s

/-- Raise a port's interrupt (R539): its summary bit is 16 + p. -/
def portIrq (p bit : Nat) (s : State) : State :=
  if (s.port p).irqEn.getLsbD bit then pfCause (16 + p) (s.port p).vector s else s

abbrev irqUp : Nat := 0
abbrev irqDown : Nat := 1
abbrev irqExhausted : Nat := 2
abbrev irqQuarantine : Nat := 3
abbrev irqKeyLow : Nat := 4
abbrev irqKeyStall : Nat := 5

/-- An audit record of a port (R625). -/
def portRec (p : Nat) (status : Byte) (detail : BitVec 16) (s : State) : State :=
  auditRec { status := status, severity := 3, detail := detail, unitKind := 7, unit := BitVec.ofNat 16 p } s

end Sys2Proof.Machine
end

