-- ==== Sys2Proof/Machine/Casts.lean ====
section
/-! DEFINITION. Casts between element formats: exact scaling, rounding, saturation, NaN and infinity (04 R174 to R187). -/
namespace Sys2Proof.Machine

/-- An element's value: magnitude m × 2^e, or a special value with its fraction bits and their width (R53). -/
inductive Val where
  | zero (neg : Bool)
  | fin (neg : Bool) (m : Nat) (e : Int)
  | inf (neg : Bool)
  | nan (neg : Bool) (frac width : Nat)
  deriving DecidableEq, Repr

/-- Exponent bits, fraction bits and bias of a floating-point format (R53); none for integers and BIT. -/
def floatShape (f : BitVec 4) : Option (Nat × Nat × Nat) :=
  match f.toNat with
  | 0 => some (8, 23, 127)
  | 1 => some (8, 7, 127)
  | 2 => some (5, 10, 15)
  | 3 => some (4, 3, 7)
  | 4 => some (5, 2, 15)
  | _ => none

def fmtSigned (f : BitVec 4) : Bool := f = 5 || f = 6 || f = 7 || f = 9

/-- FP8_E4M3 has no infinity (R53). -/
def isE4M3 (f : BitVec 4) : Bool := f = 3

/-- Read the bits of an element as a value (R53). -/
def decodeElem (f : BitVec 4) (bits : Nat) : Val :=
  match floatShape f with
  | some (eb, fb, bias) =>
    let neg := decide (1 ≤ bits / 2 ^ (eb + fb) % 2)
    let ex := bits / 2 ^ fb % 2 ^ eb
    let fr := bits % 2 ^ fb
    if isE4M3 f then
      if ex = 15 && fr = 7 then .nan neg fr fb
      else if ex = 0 then (if fr = 0 then .zero neg else .fin neg fr (1 - (bias : Int) - fb))
      else .fin neg (2 ^ fb + fr) ((ex : Int) - bias - fb)
    else if ex = 2 ^ eb - 1 then (if fr = 0 then .inf neg else .nan neg fr fb)
    else if ex = 0 then (if fr = 0 then .zero neg else .fin neg fr (1 - (bias : Int) - fb))
    else .fin neg (2 ^ fb + fr) ((ex : Int) - bias - fb)
  | none =>
    let w := fmtWidth f
    let v := bits % 2 ^ w
    if v = 0 then .zero false
    else if fmtSigned f && 2 ^ (w - 1) ≤ v then .fin true (2 ^ w - v) 0 else .fin false v 0

/-- Round m × 2^e to a multiple of 2^q: the quotient, rounded under ROUND with LFSR state r (R175, R183). -/
def roundTo (mode : BitVec 2) (r : Half) (m : Nat) (e q : Int) : Nat :=
  if q ≤ e then m * 2 ^ (e - q).toNat
  else
    let k := (q - e).toNat
    let n := m / 2 ^ k
    let rem := m % 2 ^ k
    let up : Bool := match mode.toNat with
      | 0 => 2 ^ k < 2 * rem || (2 * rem = 2 ^ k && n % 2 = 1)
      | 1 => false
      | _ => r.toNat < rem * 2 ^ 32 / 2 ^ k
    if up then n + 1 else n

/-- Cast controls of a transform (R165). -/
structure CastCtl where
  round : BitVec 2 := 0
  wrap : Bool := false
  floatOvf : Bool := false
  nanFlush : Bool := false
  scaleExp : Int := 0
  deriving DecidableEq, Repr

def castCtl (t : Transform) : CastCtl :=
  { round := t.round, wrap := t.wrap, floatOvf := t.floatOvf, nanFlush := t.nanFlush, scaleExp := t.scaleExp }

def signBit (neg : Bool) (n : Nat) : Nat := if neg then 2 ^ n else 0

/-- The largest finite value's bits, without sign (R53, R177). -/
def maxFinite (f : BitVec 4) (eb fb : Nat) : Nat :=
  if isE4M3 f then 2 ^ (eb + fb) - 2 else 2 ^ (eb + fb) - 2 ^ fb - 1

/-- What a value beyond the largest finite becomes (R177, R179). -/
def overflowBits (f : BitVec 4) (c : CastCtl) (neg : Bool) (eb fb : Nat) (towardZeroStops : Bool) : Nat :=
  if c.floatOvf && !(towardZeroStops && c.round = 1) then
    signBit neg (eb + fb) + (if isE4M3 f then 2 ^ (eb + fb) - 1 else 2 ^ (eb + fb) - 2 ^ fb)
  else signBit neg (eb + fb) + maxFinite f eb fb

/-- Encode a value into a floating-point format (R175 to R180). With ROUND 2 the spec does not say whether a value between
the largest finite and the next step overflows before or after rounding: the model judges after (DESIGN CHOICE, log entry
74). -/
def encodeFloat (f : BitVec 4) (c : CastCtl) (r : Half) (eb fb bias : Nat) : Val → Nat
  | .zero neg => signBit neg (eb + fb)
  | .nan neg fr w =>
    if c.nanFlush then 0
    else if isE4M3 f then signBit neg (eb + fb) + (2 ^ (eb + fb) - 1)
    else
      let rest := fr % 2 ^ (w - 1)
      let kept := if w ≤ fb then rest * 2 ^ (fb - w) else rest / 2 ^ (w - fb)
      signBit neg (eb + fb) + (2 ^ eb - 1) * 2 ^ fb + 2 ^ (fb - 1) + kept
  | .inf neg =>
    if isE4M3 f then overflowBits f c neg eb fb false
    else signBit neg (eb + fb) + (2 ^ eb - 1) * 2 ^ fb
  | .fin neg m e =>
    let e := e + c.scaleExp
    let lead : Int := (Nat.log2 m : Int) + e
    let q : Int := max lead (1 - bias) - fb
    let n := roundTo c.round r m e q
    if n = 0 then signBit neg (eb + fb)
    else if n < 2 ^ fb then signBit neg (eb + fb) + n
    else
      let carry := decide (2 ^ (fb + 1) ≤ n)
      let ex := (q + fb + bias).toNat + (if carry then 1 else 0)
      let fr := if carry then 0 else n - 2 ^ fb
      if 2 ^ eb ≤ ex || maxFinite f eb fb < ex * 2 ^ fb + fr then overflowBits f c neg eb fb true
      else signBit neg (eb + fb) + ex * 2 ^ fb + fr

/-- Bring an integer result into the target's range (R178). -/
def intoRange (signed wrap : Bool) (w : Nat) (v : Int) : Nat :=
  let lo : Int := if signed then -(2 ^ (w - 1) : Nat) else 0
  let hi : Int := if signed then (2 ^ (w - 1) : Nat) - 1 else (2 ^ w : Nat) - 1
  let v := if wrap then v else if v < lo then lo else if hi < v then hi else v
  (v % (2 ^ w : Nat)).toNat

/-- Encode a value into an integer or BIT format (R178, R179). -/
def encodeInt (f : BitVec 4) (c : CastCtl) (r : Half) : Val → Nat
  | .zero _ => 0
  | .nan _ _ _ => 0
  | .inf neg =>
    if c.wrap then 0 else
      let w := fmtWidth f
      if fmtSigned f then (if neg then 2 ^ (w - 1) else 2 ^ (w - 1) - 1) else if neg then 0 else 2 ^ w - 1
  | .fin neg m e =>
    let n := roundTo c.round r m (e + c.scaleExp) 0
    intoRange (fmtSigned f) c.wrap (fmtWidth f) (if neg then -(n : Int) else (n : Int))

/-- Cast the bits of one element (R162, R174 to R180). -/
def castElem (src dst : BitVec 4) (c : CastCtl) (r : Half) (bits : Nat) : Nat :=
  let v := decodeElem src bits
  if src = dst && c.scaleExp = 0 then
    match v with
    | .nan _ _ _ => if c.nanFlush then 0 else bits
    | _ => bits
  else
    match floatShape dst with
    | some (eb, fb, bias) => encodeFloat dst c r eb fb bias v
    | none => encodeInt dst c r v

/-- One step of the LFSR (04, stochastic rounding). -/
def lfsrStep (x : Half) : Half := if x.getLsbD 0 then (x >>> 1) ^^^ 0x80200003#32 else x >>> 1

def lfsrSteps : Nat → Half → Half
  | 0, x => x
  | n + 1, x => lfsrSteps n (lfsrStep x)

end Sys2Proof.Machine
end

