-- ==== Sys2Proof/Machine/Access.lean ====
section
/-! DEFINITION. Reads and writes of the Pantry, the Cellar and Host memory by the block's units: windows, pool checks,
uncorrectable lines, tags, traffic counts (07, 03 R131 to R135, 06 R308, 14 R638, R639). -/
namespace Sys2Proof.Machine

/-! ### Checks (R45, R71, R138, R308) -/

/-- Status of a local span: OK, BAD_WINDOW or BUF_STALE; a Host span is always OK here (R45, R49, R308). -/
def spanStatus (s : State) (k : Nat) (a : Word) (n : Nat) : Byte :=
  match spaceOf a with
  | some .pantry =>
    if !spanOk s k false (offOf a) n then St.badWindow
    else if !poolOk s k (offOf a) n then St.bufStale else St.ok
  | some .cellar => if spanOk s k true (offOf a) n then St.ok else St.badWindow
  | some .host => St.ok
  | some .peer => if peerOff a + n ≤ 2 ^ 50 then St.ok else St.badWindow
  | _ => St.malformed

/-- Domains that an access of a span touches, without the Mover's own (R469). -/
def spanDomains (s : State) (k : Nat) (a : Word) (n : Nat) : List Nat :=
  match spaceOf a with
  | some .pantry => pdPantrySpan s k (offOf a) n
  | some .cellar => pdCellarSpan s k (offOf a) n
  | some .peer =>
    if peerNode a = ownNode s then [pdLarder]
    else match s.house.routes.find? (·.1 = peerNode a) with
      | some (_, p) => [pdLarder, pdLinks p]
      | none => [pdLarder]
  | _ => []

/-! ### Uncorrectable errors (R639, R644) -/

/-- Report an uncorrectable line: counter, address register, ECC_UE and its interrupt, and the audit record with its
WORK copy (R639, R627). `k` is none for the scrub, which writes no copy (R642). -/
def eccReport (mem : Nat) (k : Option Nat) (roomObject : Word) (phys : Nat) (s : State) : State :=
  let e := s.err
  let e' := match mem with
    | 0 => { e with pantryUncorr := satInc e.pantryUncorr, pantryAddr := some (BitVec.ofNat 28 (phys / 64 * 64)) }
    | 1 => { e with larderUncorr := satInc e.larderUncorr }
    | _ => { e with cellarUncorr := satInc e.cellarUncorr, cellarAddr := some (BitVec.ofNat 38 (phys / 64 * 64)) }
  let s := { s with err := { e' with eccUe := true } }
  let s := if !e.eccUe && e.eccIrqEn then pfCause 0 e.vector s else s
  let r : ErrRec := { status := St.eccUncorrected, severity := 3, unitKind := 14, unit := BitVec.ofNat 16 mem,
                      object := BitVec.ofNat 64 phys }
  match k with
  | some k => deviceRec k roomObject r s
  | none => auditRec r s

/-- First uncorrectable line of a span, by line number. -/
def badLine (ue : List Nat) (lo n : Nat) : Option Nat :=
  if n = 0 then none else ue.find? fun l => lo / 64 ≤ l && l ≤ (lo + n - 1) / 64

/-! ### Traffic and tags -/

/-- CEL_TRAFFIC: 64 bytes for each line of a span (R670). -/
def celCount (lo n : Nat) (times : Nat) (s : State) : State :=
  if n = 0 then s else
  (List.range ((lo + n - 1) / 64 - lo / 64 + 1)).foldl (fun t i =>
    let p := cellarPort ((lo / 64 + i) * 64)
    t.setCel p { t.cel p with bytes := satAdd (t.cel p).bytes (64 * times) }) s

/-! ### Physical reads and writes -/

/-- Read physical Pantry bytes: none with an uncorrectable line (R132, R639). -/
def pantryGet (k : Option Nat) (obj : Word) (phys n : Nat) (s : State) : State × Option (List Byte) :=
  match badLine s.pantryUe phys n with
  | some l => (eccReport 0 k obj (l * 64) s, none)
  | none => (pdTouch (pdPantry phys) s, some (mread s.pantry phys n))

def cellarGet (k : Option Nat) (obj : Word) (phys n : Nat) (s : State) : State × Option (List Byte) :=
  match badLine s.cellarUe phys n with
  | some l => (eccReport 2 k obj (l * 64) (celCount phys n 1 s), none)
  | none => (pdTouch (pdCellar phys) (celCount phys n 1 s), some (mread s.cellar phys n))

/-- Lines of [lo, lo + n) whose 64 bytes the enables do not all cover, and that are bad (R639). -/
def refusedLines (ue : List Nat) (lo : Nat) (en : List Bool) : List Nat :=
  ue.filter fun l =>
    let a := l * 64
    lo < a + 64 && a < lo + en.length
      && ((List.range 64).any fun i => lo ≤ a + i && en.getD (a + i - lo) false)
      && !(lo ≤ a && a + 64 ≤ lo + en.length && ((en.drop (a - lo)).take 64).all id)

/-- Lines wholly covered by the enables: their check bits are stored anew (R639). -/
def healedLines (ue : List Nat) (lo : Nat) (en : List Bool) : List Nat :=
  ue.filter fun l =>
    let a := l * 64
    lo ≤ a && a + 64 ≤ lo + en.length && ((en.drop (a - lo)).take 64).all id

/-- Mask out the bytes of refused lines. -/
def maskLines (bad : List Nat) (lo : Nat) (en : List Bool) : List Bool :=
  (List.range en.length).map fun i => en.getD i false && !(bad.contains ((lo + i) / 64))

/-- Write enabled bytes to the Pantry: bad lines written in part are refused and reported, whole words set their tags
(R134, R370, R639). `whole` marks the bytes all of whose bits are written: a bit merge under R80 sets no tag and heals
no line. The result says whether a line was refused. -/
def pantryPutM (k : Option Nat) (obj : Word) (phys : Nat) (bs : List Byte) (en whole : List Bool) (s : State) :
    State × Bool :=
  let heal := healedLines s.pantryUe phys whole
  let bad := (refusedLines s.pantryUe phys en).filter fun l => !(heal.contains l)
  let en := maskLines bad phys en
  let s := pdTouch (pdPantry phys) { s with pantry := mwriteEn s.pantry phys (bs.zip en),
                                            pantryUe := s.pantryUe.filter fun l => !(heal.contains l) }
  let s := bad.foldl (fun t l => eccReport 0 k obj (l * 64) t) s
  (fillTags phys (en.zipWith (· && ·) whole) s, bad ≠ [])

def pantryPut (k : Option Nat) (obj : Word) (phys : Nat) (bs : List Byte) (en : List Bool) (s : State) : State × Bool :=
  pantryPutM k obj phys bs en en s

def cellarPut (k : Option Nat) (obj : Word) (phys : Nat) (bs : List Byte) (en : List Bool) (s : State) : State × Bool :=
  let bad := refusedLines s.cellarUe phys en
  let heal := healedLines s.cellarUe phys en
  let en := maskLines bad phys en
  let s := pdTouch (pdCellar phys) { s with cellar := mwriteEn s.cellar phys (bs.zip en),
                                            cellarUe := s.cellarUe.filter fun l => !(heal.contains l) }
  let whole := phys % 64 = 0 && bs.length % 64 = 0 && en.all id
  let s := celCount phys bs.length (if whole then 1 else 2) s
  (bad.foldl (fun t l => eccReport 2 k obj (l * 64) t) s, bad ≠ [])

/-! ### Arbiters and the emergency input (R409, R419) -/

/-- Configuration instance of an arbiter (R409). -/
def arbInst (a : Nat) : Nat := if a < 64 then 0 else a - 63

/-- Input 15 takes a grant from another owner (R419). -/
def countPreempt (i : Nat) (s : State) : State :=
  s.setArb i { s.arb i with preempts := satInc (s.arb i).preempts }

/-- The owner loses its grant to input 15, which holds it for one burst and drops it: the owner's request stays (R419). -/
def emergency (a : Nat) (s : State) : State :=
  let x := s.arbiter a
  match x.owner with
  | some c =>
    if c = 15 then s
    else countPreempt (arbInst a) (s.setArbiter a { x with owner := none, hold := 0, preempted := some c })
  | none => s

/-- Bank groups of the Pantry bytes that the scrub engine zeroes: all 16 of each quadrant once 1 KiB is reached (R24). -/
def zeroedGroups (phys n : Nat) : List Nat :=
  if n < 1024 then ((List.range ((phys + n - 1) / 64 - phys / 64 + 1)).map fun i => bankGroup ((phys / 64 + i) * 64)).eraseDups
  else (List.range 4).flatMap fun q =>
    if phys < (q + 1) * 2 ^ 26 && q * 2 ^ 26 < phys + n then (List.range 16).map (q * 16 + ·) else []

/-- The scrub engine zeroes Pantry bytes through input 15: valid ECC, tags unchanged (R303, R329, R370, R410). -/
def scrubZero (phys n : Nat) (s : State) : State :=
  (zeroedGroups phys n).foldl (fun t a => emergency a t) { s with
    pantry := mzero s.pantry phys n
    pantryUe := s.pantryUe.filter fun l => l * 64 < phys || phys + n ≤ l * 64 }

/-! ### Wake on demand (R461, R478) -/

/-- A domain that the idle policy lowered starts back to ON for an access it holds, once it has reached the state it was
going down to; none does while TRIPPED is set (R461, R462). -/
def wakeOnDemand (d : Nat) (s : State) : State :=
  let x := s.domain d
  if x.cause = 2 && (x.state = .off || x.state = .retain) && x.move.isNone && !x.waking && !s.nrg.tripped then
    s.setDomain d { x with waking := true, move := some { target := .on, started := s.now } }
  else s

/-- A set of domains that hold an access wake on demand. -/
def wakeAll (ds : List Nat) (s : State) : State := ds.foldl (fun t d => wakeOnDemand d t) s

/-! ### Accesses of a Room by device address -/

/-- The device address at an offset of the space that a base lies in; Peer offsets carry their node (R41). -/
def atOff (base : Word) (o : Nat) : Word := BitVec.ofNat 64 (base.toNat / 2 ^ 60 * 2 ^ 60 + o % 2 ^ 60)

/-- The parts of [o, o + n) that lie in one 2 MiB granule each, so that each is translated on its own (R45, R326). -/
def granParts (o n : Nat) : List (Nat × Nat) :=
  if n = 0 then [] else
  (List.range ((o + n - 1) / granule - o / granule + 1)).map fun i =>
    let lo := max o ((o / granule + i) * granule)
    (lo, min (o + n) ((o / granule + i + 1) * granule) - lo)

/-- Read bytes of one granule of a local space. -/
def partGet (k : Nat) (cellar : Bool) (base : Word) (r : Nat × Nat) (s : State) : State × Except Byte (List Byte) :=
  match translate s k cellar r.1 with
  | none => (s, .error St.badWindow)
  | some p =>
    if cellar then match cellarGet (some k) (atOff base r.1) p r.2 s with
      | (s, some b) => (s, .ok b)
      | (s, none) => (s, .error St.eccUncorrected)
    else if !poolOk s k r.1 r.2 then (s, .error St.bufStale)
    else match pantryGet (some k) (atOff base r.1) p r.2 s with
      | (s, some b) => (s, .ok b)
      | (s, none) => (s, .error St.eccUncorrected)

/-- Read the granules of a span one after the other, up to the first that fails. -/
def partsGet (k : Nat) (cellar : Bool) (base : Word) : List (Nat × Nat) → State → State × Except Byte (List Byte)
  | [], s => (s, .ok [])
  | r :: rs, s => match partGet k cellar base r s with
    | (s, .error e) => (s, .error e)
    | (s, .ok b) => match partsGet k cellar base rs s with
      | (s, .error e) => (s, .error e)
      | (s, .ok c) => (s, .ok (b ++ c))

/-- Read n bytes at a device address of a Room: bytes, or the status of the failure (R45, R49, R132). -/
def devGet (k : Nat) (a : Word) (n : Nat) (s : State) : State × Except Byte (List Byte) :=
  match spaceOf a with
  | some .pantry => partsGet k false a (granParts (offOf a) n) s
  | some .cellar => partsGet k true a (granParts (offOf a) n) s
  | some .host => match hostGet s k (offOf a) n with
    | some b => (s, .ok b)
    | none => (s, .error St.busError)
  | _ => (s, .error St.malformed)

/-- Write the enabled bytes of one granule of a local space; `whole` marks the bytes all of whose bits are written. -/
def partPut (k : Nat) (cellar : Bool) (base : Word) (o : Nat) (bs : List Byte) (en whole : List Bool) (s : State) :
    State × Byte :=
  match translate s k cellar o with
  | none => (s, St.badWindow)
  | some p =>
    if cellar then match cellarPut (some k) (atOff base o) p bs en s with
      | (s, true) => (s, St.eccUncorrected)
      | (s, false) => (s, St.ok)
    else if !poolOk s k o bs.length then (s, St.bufStale)
    else match pantryPutM (some k) (atOff base o) p bs en whole s with
      | (s, true) => (s, St.eccUncorrected)
      | (s, false) => (s, St.ok)

/-- Write the granules of a span one after the other: the first failure is the status, and lines that can be written are
(R143). -/
def partsPut (k : Nat) (cellar : Bool) (base : Word) (o : Nat) (bs : List Byte) (en whole : List Bool) :
    List (Nat × Nat) → State → State × Byte
  | [], s => (s, St.ok)
  | r :: rs, s =>
    let cut {α : Type} (l : List α) : List α := (l.drop (r.1 - o)).take r.2
    match partPut k cellar base r.1 (cut bs) (cut en) (cut whole) s with
    | (s, st) => match partsPut k cellar base o bs en whole rs s with
      | (s, st') => (s, if st = St.ok then st' else st)

/-- Write the enabled bytes at a device address of a Room: OK or the status of the failure (R45, R133, R135). -/
def devPut (k : Nat) (a : Word) (bs : List Byte) (en : List Bool) (s : State) : State × Byte :=
  match spaceOf a with
  | some .pantry => partsPut k false a (offOf a) bs en en (granParts (offOf a) bs.length) s
  | some .cellar => partsPut k true a (offOf a) bs en en (granParts (offOf a) bs.length) s
  | some .host =>
    if hostReach s k then
      (hostWriteOut k (offOf a) bs.length { s with host := mwriteEn s.host (hostKey k (offOf a)) (bs.zip en) }, St.ok)
    else (s, St.busError)
  | _ => (s, St.malformed)

def devPutAll (k : Nat) (a : Word) (bs : List Byte) (s : State) : State × Byte :=
  devPut k a bs (bs.map fun _ => true) s

/-- A structure of n bytes read as one little-endian word. -/
def devWord (n : Nat) (k : Nat) (a : Word) (s : State) : State × Except Byte (BitVec (8 * n)) :=
  match devGet k a n s with
  | (s, .ok b) => (s, .ok (BitVec.ofNat (8 * n) (leNat b)))
  | (s, .error e) => (s, .error e)

/-! ### Bit merges (R80 to R83) -/

/-- Bytes of a run over the bytes that memory holds. -/
def mergeRun (old : List Byte) (run : List (Byte × Byte)) : List Byte :=
  (old.zip run).map fun p => (p.1 &&& ~~~p.2.1) ||| (p.2.2 &&& p.2.1)

/-- The bytes that memory holds at an offset of a Room's window, without an access. -/
def rawBytes (s : State) (k : Nat) (cellar : Bool) (o n : Nat) : List Byte :=
  (List.range n).map fun i => match translate s k cellar (o + i) with
    | some p => mget (if cellar then s.cellar else s.pantry) p
    | none => 0

/-- Write a run in a local space of a Room. Bytes written in part are merged: in the Pantry within the one access (R81),
in the Cellar by a read and then a write (R82); in Host space no run has one (R83). -/
def putRun (k : Nat) (base : Word) (run : BitRun) (s : State) : State × Byte :=
  let a := atOff base run.1
  let n := run.2.length
  let en := run.2.map fun _ => true
  let whole := run.2.map fun p => decide (p.1 = 0xFF)
  match spaceOf a with
  | some .pantry =>
    partsPut k false a run.1 (mergeRun (rawBytes s k false run.1 n) run.2) en whole (granParts run.1 n) s
  | some .cellar =>
    if whole.all id then devPut k a (run.2.map (·.2)) en s
    else match devGet k a n s with
      | (s, .error e) => (s, e)
      | (s, .ok old) => devPut k a (mergeRun old run.2) en s
  | some .host => devPut k a (run.2.map (·.2)) en s
  | _ => (s, St.malformed)

end Sys2Proof.Machine
end

