-- ==== Sys2Proof/Machine/Codec.lean ====
section
/-! DEFINITION. The CB2 and CB4 block format: encoding, checking and expanding blocks, overflow areas (11 R522 to R532). -/
namespace Sys2Proof.Machine

/-- Slot size of WIRE or STORE (R515, R84). -/
def unitSize (wire : Nat) : Nat := match wire with | 1 => 2048 | 2 => 1024 | _ => 0

/-- Elements of a 4 KiB source block, E bytes each (R522). -/
def blockElems (e : Nat) (src : List Byte) : List (List Byte) := chunks e (4096 / e) (padTo 4096 src)

/-- Bitmap bytes: bit i mod 8 of byte i / 8 (R523). -/
def bitmapBytes (bits : List Bool) : List Byte :=
  (List.range (bits.length / 8)).map fun j =>
    BitVec.ofNat 8 (leNatBits ((bits.drop (8 * j)).take 8))
where
  leNatBits : List Bool → Nat
    | [] => 0
    | b :: r => (if b then 1 else 0) + 2 * leNatBits r

def blockHeader (kind esize nnz blen ovf : Nat) : List Byte :=
  leBytes 1 kind ++ leBytes 1 esize ++ leBytes 2 nnz ++ leBytes 2 blen ++ leBytes 2 0 ++ leBytes 8 ovf

/-- The unit of a source block for a slot of S bytes, and whether it fits (R523 to R525). `el` is log2 E. -/
def encodeUnit (el slot : Nat) (src : List Byte) : List Byte × Bool :=
  let e := 2 ^ el
  let els := blockElems e src
  let nz := els.filter fun x => x.any (· ≠ 0)
  let bits := els.map fun x => x.any (· ≠ 0)
  let blen := 4096 / (8 * e) + nz.length * e
  if nz = [] then (padTo slot (blockHeader 0 el 0 0 0), true)
  else if 16 + blen ≤ slot then
    (padTo slot (blockHeader 1 el nz.length blen 0 ++ bitmapBytes bits ++ nz.flatten), true)
  else (padTo slot (blockHeader 2 el 0 4096 0) ++ padTo 4096 src, false)

/-- A block header as read (R522). -/
structure BlockHdr where
  kind : Nat
  esize : Nat
  nnz : Nat
  blen : Nat
  ovf : Nat
  resOk : Bool
  deriving DecidableEq, Repr

def parseBlock (bs : List Byte) : BlockHdr :=
  { kind := leNat (bs.take 1), esize := leNat ((bs.drop 1).take 1), nnz := leNat ((bs.drop 2).take 2),
    blen := leNat ((bs.drop 4).take 2), ovf := leNat ((bs.drop 8).take 8), resOk := leNat ((bs.drop 6).take 2) = 0 }

/-- Expand the values of a CODED block over its bitmap (R523). -/
def spread (e : Nat) : List Bool → List Byte → List Byte
  | [], _ => []
  | true :: r, vs => padTo e (vs.take e) ++ spread e r (vs.drop e)
  | false :: r, vs => List.replicate e 0 ++ spread e r vs

def bitmapBits (bs : List Byte) : List Bool := bs.flatMap fun b => (List.range 8).map fun i => b.getLsbD i

/-- The source bytes of a CODED, ZERO or RAW unit: none where R530 calls the block malformed. -/
def decodeUnit (el : Nat) (unit : List Byte) (slot : Nat) : Option (List Byte) :=
  let h := parseBlock unit
  let e := 2 ^ el
  let body := unit.drop 16
  let bits := bitmapBits (body.take (4096 / (8 * e)))
  if !h.resOk || h.esize ≠ el then none
  else match h.kind with
    | 0 => if h.nnz = 0 && h.blen = 0 && h.ovf = 0 then some (List.replicate 4096 0) else none
    | 1 =>
      if h.ovf = 0 && h.blen = 4096 / (8 * e) + h.nnz * e && 16 + h.blen ≤ slot
          && (bits.filter id).length = h.nnz then
        some (spread e bits (body.drop (4096 / (8 * e))))
      else none
    | 2 => if h.ovf = 0 && h.nnz = 0 && h.blen = 4096 then some ((unit.drop slot).take 4096) else none
    | _ => none

/-- Overflow area of a Room: base and blocks (R526, R540). -/
def ovfContains (v : Ovf) (o : Nat) : Bool :=
  o % 4096 = 0 && v.base.toNat ≤ o && o < v.base.toNat + v.blocks.toNat * 4096

/-- Read a stored slot as a wire unit; an OVERFLOW slot reads its block and travels RAW (R529, R530). The status is
OVERFLOW_FULL for a LOST slot and MALFORMED for a malformed one. -/
def slotUnit (k el slot : Nat) (a : Word) (s : State) : State × Except Byte (List Byte × Bool) :=
  match devGet k a slot s with
  | (s, .error e) => (s, .error e)
  | (s, .ok bs) =>
    let h := parseBlock bs
    if h.kind = 4 then (s, .error St.overflowFull)
    else if h.kind = 3 then
      if h.resOk && h.esize = el && ovfContains (s.ovfOf k) h.ovf then
        match devGet k (BitVec.ofNat 64 h.ovf) 4096 s with
        | (s, .error e) => (s, .error e)
        | (s, .ok src) => (s, .ok (padTo slot (blockHeader 2 el 0 4096 0) ++ src, false))
      else (s, .error St.malformed)
    else match decodeUnit el bs slot with
      | some _ => if h.kind = 2 then (s, .error St.malformed) else (s, .ok (bs, true))
      | none => (s, .error St.malformed)

/-- Store a wire unit into a slot: a RAW unit goes to the overflow area, or the slot becomes LOST (R525, R526, R528). -/
def storeUnit (k el slot : Nat) (a : Word) (unit : List Byte) (s : State) : State × Byte :=
  if decodeUnit el unit slot = none then (s, St.malformed)
  else if (parseBlock unit).kind = 2 then
    let v := s.ovfOf k
    if v.next.toNat < v.blocks.toNat then
      let o := v.base.toNat + v.next.toNat * 4096
      match devPutAll k (BitVec.ofNat 64 o) ((unit.drop slot).take 4096) s with
      | (s, st) =>
        if st ≠ St.ok then (s, st)
        else devPutAll k a (padTo slot (blockHeader 3 el 0 0 o)) (s.setOvf k { s.ovfOf k with next := v.next + 1 })
    else
      match devPutAll k a (padTo slot (blockHeader 4 el 0 0 0)) s with
      | (s, _) => (s.setOvf k { s.ovfOf k with fullEvents := (s.ovfOf k).fullEvents + 1 }, St.overflowFull)
  else devPutAll k a (padTo slot (unit.take slot)) s

/-- Store the units of a slot stream one after the other (R516, R525). -/
def storeUnits (k el slot : Nat) : Nat → Nat → List Byte → State → State × Byte
  | 0, _, _, s => (s, St.ok)
  | n + 1, off, bytes, s =>
    if bytes = [] then (s, St.ok) else
    let len := if (parseBlock bytes).kind = 2 then slot + 4096 else slot
    match storeUnit k el slot (BitVec.ofNat 64 off) (bytes.take len) s with
    | (s, st) => match storeUnits k el slot n (off + slot) (bytes.drop len) s with
      | (s, st') => (s, if st = St.ok then st' else st)

/-! ### Streams as the receiver stores them (R515, R519, R531) -/

/-- ARG1 of an OPEN (log entry 73): the written bits of its first and of its last stored byte (0 stands for all of them), the
bytes of its source block that lie before ADDR, and the swap of the record it writes. -/
def extFirst (x : Word) : Byte := if fld x 0 8 = 0 then 0xFF else fld x 0 8
def extLast (x : Word) : Byte := if fld x 8 8 = 0 then 0xFF else fld x 8 8
def extSkip (x : Word) : Int := (fld x 16 16).toInt
def extSwap (x : Word) : BitVec 2 := fld x 32 2
def extOf (first last : Byte) (skip : Int) (swap : BitVec 2) : Word :=
  BitVec.ofNat 64 ((if first = 0xFF then 0 else first.toNat) + (if last = 0xFF then 0 else last.toNat) * 2 ^ 8
    + (BitVec.ofInt 16 skip).toNat * 2 ^ 16 + swap.toNat * 2 ^ 32)

/-- Bits written of byte i of a stream of n stored bytes. -/
def extMask (x : Word) (n i : Nat) : Byte :=
  (if i = 0 then extFirst x else 0xFF) &&& (if i + 1 = n then extLast x else 0xFF)

/-- Bytes i onwards of a stream of n stored bytes, as a run at its Pantry offset (R80, R81). -/
def streamRun (x : Word) (off n i : Nat) (bs : List Byte) : BitRun :=
  (off + i, (List.range bs.length).map fun j => (extMask x n (i + j), bs.getD j 0))

/-- The bytes of an expanded block that a stream stores from its offset on (R87, R531). -/
def expandedAt (x : Word) (off n : Nat) (src : List Byte) : List Byte :=
  (List.range n).map fun i => src.getD (((swapAddr (extSwap x) (off + i) : Int) - off + extSkip x).toNat) 0

/-- Store the wire bytes of one stream at the receiver: plain bytes, an expanded unit, or slots (R515, R519, R531). The
destination is a Pantry offset of the Room. -/
def storeStream (k : Nat) (off stored wire store el : Nat) (ext : Word) (bytes : List Byte) (s : State) : State × Byte :=
  if wire = 0 then putRun k 0 (streamRun ext off stored 0 (bytes.take stored)) s
  else if store = 0 then
    match decodeUnit el bytes (unitSize wire) with
    | some src => putRun k 0 (streamRun ext off stored 0 (expandedAt ext off stored src)) s
    | none => (s, St.malformed)
  else storeUnits k el (unitSize wire) (stored / unitSize wire) off bytes s

/-- Count a block in ZL_COMP of a port, or of the loopback port (R539, R540). -/
def countComp (p : Option Nat) (fits : Bool) (s : State) : State :=
  match p with
  | some i =>
    let x := s.port i
    s.setPort i (if fits then { x with coded := satInc x.coded } else { x with rawBlocks := satInc x.rawBlocks })
  | none =>
    let x := s.loopback
    { s with loopback := if fits then { x with coded := satInc x.coded } else { x with rawBlocks := satInc x.rawBlocks } }

/-- Count what a store did in ZL_EXP of a port, or of the loopback port (R539, R540). -/
def countExp (p : Option Nat) (expanded overflows : Nat) (s : State) : State :=
  match p with
  | some i =>
    let x := s.port i
    s.setPort i { x with expanded := satAdd x.expanded expanded, overflows := satAdd x.overflows overflows }
  | none =>
    let x := s.loopback
    { s with loopback := { x with expanded := satAdd x.expanded expanded, overflows := satAdd x.overflows overflows } }

/-- Store a stream that came through a port (none: the loopback port), counting blocks expanded and overflow blocks
taken. -/
def storeCounted (p : Option Nat) (k off stored wire store el : Nat) (ext : Word) (bytes : List Byte) (s : State) :
    State × Byte :=
  let n0 := (s.ovfOf k).next
  match storeStream k off stored wire store el ext bytes s with
  | (s, st) => (countExp p (if wire ≠ 0 && store = 0 && st = St.ok then 1 else 0)
      ((s.ovfOf k).next - n0).toNat s, st)

/-- The quadrant of a Pantry offset serves Peer accesses (R475). -/
def quadStatus (s : State) (k off : Nat) : Byte :=
  match translate s k false off with
  | none => St.badWindow
  | some p =>
    match pdOf s (pdPantry p) with
    | .closing => St.domainClosing
    | .draining => St.domainClosing
    | .off => St.domainOff
    | .retain => St.domainOff
    | .on => St.ok

/-- The checks of an OPEN or READ at the node that holds the range (R518, R520). -/
def rangeCheck (k off len : Nat) (slots : Bool) (s : State) : Byte :=
  let r := s.room k
  let wins := r.windows.filter fun w => w.2.exported
  if r.state = .none then St.badWindow
  else if r.state ≠ .active then St.roomReset
  else if !((List.range 2).all fun i =>
      (translateIn wins false (if i = 0 then off else off + len - 1)).isSome) then St.badWindow
  else if !poolOk s k off len then St.bufStale
  else
    let last := if len = 0 then off else off + len - 1
    let st := quadStatus s k off
    let st := if st = St.ok then quadStatus s k last else st
    if st ≠ St.ok then st else
    let v := s.ovfOf k
    if slots && v.blocks ≠ 0 && !spanOk s k false v.base.toNat (v.blocks.toNat * 4096) then St.badWindow else St.ok

end Sys2Proof.Machine
end

