-- ==== Sys2Proof/Machine/Tiles.lean ====
section
/-! DEFINITION. One tile through a Staircase: elements read, cast, routed and packed in processing order (02 R68 to R83,
04 R161 to R169, R182 to R186). -/
namespace Sys2Proof.Machine

/-- Bytes to write: by byte offset, the bits enabled and their values, the later write winning bit by bit (R69). -/
abbrev BitImage := Table (Byte × Byte)

def putBit (img : BitImage) (a : Nat) (v : Bool) : BitImage :=
  let (m, x) := tget img (0, 0) (a / 8)
  let b : Byte := 1#8 <<< (a % 8)
  tput img (a / 8) (m ||| b, if v then x ||| b else x &&& ~~~b)

/-- The bit of memory that holds bit k of a local element: byte offset in its space after the swap, and bit. -/
def memBit (l : Layout) (i : List Nat) (k : Nat) : Nat :=
  let b := (8 * (offOf l.base : Int) + elemBit l i k).toNat
  swapAddr l.swap (b / 8) * 8 + b % 8

/-- Offset bits of a space: 50 in Peer space. -/
def spaceBase (a : Word) : Nat := if spaceOf a = some .peer then peerNode a * 2 ^ 50 else 0

/-- Read an element through a byte reader (R68, R58). -/
def readElem (fetch : Nat → Byte) (l : Layout) (i : List Nat) : Nat :=
  (List.range (fmtWidth l.format)).foldl (fun acc k =>
    let b := memBit l i k
    acc + if (fetch (b / 8)).getLsbD (b % 8) then 2 ^ k else 0) 0

/-- Place an element's bits in an image. -/
def writeElem (img : BitImage) (l : Layout) (i : List Nat) (v : Nat) : BitImage :=
  (List.range (fmtWidth l.format)).foldl (fun acc k => putBit acc (memBit l i k) (v.testBit k)) img

/-- The running result of a tile. -/
structure TileAcc where
  img : BitImage := []
  drops : Nat := 0
  lfsr : Half
  elems : Nat := 0
  deriving DecidableEq, Repr

/-- One offset: LFSR step, read or FILL, cast, write or drop (R162, R182). `skipRead` is a skip entry's FILL and `skipWrite`
one whose write is skipped; neither is counted (R92). -/
def tileElem (t : TilePlan) (fetch : Nat → Byte) (skipRead skipWrite : Bool) (acc : TileAcc) (o : List Nat) : TileAcc :=
  let lf := if t.tr.round = 2 then lfsrStep acc.lfsr else acc.lfsr
  let acc := { acc with lfsr := lf }
  if skipWrite then acc else
  let bits := if skipRead then t.rd.fill.toNat else
    match localIdx t.rd ((readCoord t o).map Int.ofNat) with
    | some i => readElem fetch t.rd i
    | none => t.rd.fill.toNat
  let v := castElem t.rd.format t.wr.format (castCtl t.tr) lf bits
  match localIdx t.wr (writeCoord t o) with
  | some i => { acc with img := writeElem acc.img t.wr i v, elems := acc.elems + 1 }
  | none => if skipRead then acc else { acc with drops := acc.drops + 1 }

/-- A whole tile in the order of R164. -/
def tileRun (t : TilePlan) (fetch : Nat → Byte) (skipRead skipWrite : Bool) (n : Nat) (lfsr : Half) : TileAcc :=
  (tileOffsets t.rext n).foldl (tileElem t fetch skipRead skipWrite) { lfsr := lfsr }

/-- Byte offsets an element occupies in its space. -/
def elemBytes (l : Layout) (i : List Nat) : List Nat :=
  ((List.range (fmtWidth l.format)).map fun k => memBit l i k / 8).eraseDups

/-- Bytes that a set of offsets reads at the read end (R71, R73). -/
def readBytes (t : TilePlan) (os : List (List Nat)) : List Nat :=
  (os.flatMap fun o => match localIdx t.rd ((readCoord t o).map Int.ofNat) with
    | some i => elemBytes t.rd i
    | none => []).eraseDups

def writeBytes (t : TilePlan) (os : List (List Nat)) : List Nat :=
  (os.flatMap fun o => match localIdx t.wr (writeCoord t o) with
    | some i => elemBytes t.wr i
    | none => []).eraseDups

/-- Every offset of a region. -/
def allOffsets (ext : List Nat) : List (List Nat) := (List.range (tileCount ext)).flatMap (tileOffsets ext)

/-- Lowest byte and length of a set of byte offsets: the span of R71. -/
def spanOf (l : List Nat) : Nat × Nat :=
  match l with
  | [] => (0, 0)
  | a :: r =>
    let lo := r.foldl min a
    let hi := r.foldl max a
    (lo, hi - lo + 1)

/-- Some byte of the image is written in part (R80, R83). -/
def hasPartial (img : BitImage) : Bool := img.any fun p => p.2.1 ≠ 0xFF

/-- The bits that a tile plan adds to those an instruction writes, without values (R83). -/
def maskImage (t : TilePlan) (img : BitImage) : BitImage :=
  (allOffsets t.rext).foldl (fun img o => match localIdx t.wr (writeCoord t o) with
    | some i => writeElem img t.wr i 0
    | none => img) img

/-- Some element of a set of offsets lies inside the write end's piece (R76). -/
def someWritten (t : TilePlan) (os : List (List Nat)) : Bool := os.any fun o => (localIdx t.wr (writeCoord t o)).isSome

/-- The tile plan of block k of a coordinate list (R90, R716): coordinates as listed. -/
def blockAt (t : TilePlan) (rd wr : List Nat) : TilePlan := { t with origin := rd, worigin := wr }

/-- R_STEP of R716. -/
def rStep (t : TilePlan) : Nat := let d := t.rd.rank - 1; t.rext.getD d 0 * rstep t.tr d

/-- W_STEP of R716: the span one block covers in the write end's outermost dimension. -/
def wStep (t : TilePlan) : Nat :=
  let e := t.wr.rank - 1
  let cs := (allOffsets t.rext).map fun o => (writeCoord t o).getD e 0
  match cs with
  | [] => 1
  | c :: r => max 1 ((r.foldl max c) - (r.foldl min c) + 1).toNat

/-- Runs of consecutive byte offsets that stay within one 4 KiB unit: the bursts of an image (R26). Where `edges` is set
a byte written in part is the first or the last of its run, as a stream's OPEN can say it (log entry 73). -/
def imageRuns (edges : Bool) : BitImage → List BitRun
  | [] => []
  | (a, b) :: r =>
    match imageRuns edges r with
    | (a', bs) :: rest =>
      if a + 1 = a' && a' % 4096 ≠ 0 && (!edges || bs.length ≤ 1 || (bs.head?.map (·.1)) = some 0xFF)
      then (a, b :: bs) :: rest else (a, [b]) :: (a', bs) :: rest
    | [] => [(a, [b])]

/-- Runs of consecutive offsets within one 4 KiB unit, as offset and length (R26). -/
def byteRuns (os : List Nat) : List (Nat × Nat) :=
  (imageRuns false ((os.foldl ninsert []).map fun o => (o, ((0, 0) : Byte × Byte)))).map fun r => (r.1, r.2.length)

/-- The byte at an offset in what a unit's read bursts gave. -/
def stagedByte (st : List (Nat × List Byte)) (o : Nat) : Byte :=
  match st.find? fun p => p.1 ≤ o && o < p.1 + p.2.length with
  | some p => p.2.getD (o - p.1) 0
  | none => 0

end Sys2Proof.Machine
end

