-- ==== Sys2Proof/Machine/Burst.lean ====
section
/-! DEFINITION. What the Movers carry: streams to other nodes, the bursts that a move, a tile, a block of a compressed move or
a fill is made of, what its write bursts put where, list and coordinate entries, events and the end of an instruction
(01 R26, 02 R69 to R95, 03 R112, R113, R131 to R143, R150 to R152, 11 R514 to R531). -/
namespace Sys2Proof.Machine

/-! ### Streams to other nodes -/

/-- Lowest free stream number of a port, from 1: 0 marks a message that names no stream (R514, R517). -/
def freeStream (p : Port) : Nat :=
  ((List.range 4095).find? fun i => !p.tx.any (·.id = i + 1) && !p.queue.any (fun q => match q with
    | .data id _ _ => id = i + 1
    | _ => false)).getD 0 + 1

/-- Open a stream and queue its bytes in frames of at most 512 (R514, R517): the port and stream, or LINK_DOWN. `ext` is
ARG1 (log entry 73). -/
def sendStream (c : Option Nat) (k node off stored wire store el : Nat) (ext : Word) (req : Half) (bytes : List Byte)
    (s : State) : State × Option (Nat × Nat) :=
  match egress s node with
  | none => (s, none)
  | some p =>
    let id := freeStream (s.port p)
    let s := s.setPort p { s.port p with tx := (s.port p).tx ++
      [{ id := id, chan := c, room := BitVec.ofNat 6 k, node := BitVec.ofNat 10 node }] }
    let s := sendMsg { mtype := 0x01, stream := BitVec.ofNat 16 id, dst := BitVec.ofNat 16 node,
                       room := BitVec.ofNat 8 k, addr := BitVec.ofNat 64 off, req := req,
                       arg0 := BitVec.ofNat 64 (stored + wire * 2 ^ 16 + store * 2 ^ 18 + el * 2 ^ 20), arg1 := ext }
      (pdTouch pdLarder s)
    let ps := chunks 512 16 bytes
    let s := (List.range ps.length).foldl (fun t i =>
      enqueue p (.data id (ps.getD i []) (i + 1 = ps.length)) t) s
    (s, some (p, id))

/-- Open a contribution stream and queue its bytes (R572). -/
def sendContribution (c k node : Nat) (x : RdxSend) (arg0 : Word) (bytes : List Byte) (s : State) :
    State × Option (Nat × Nat) :=
  match egress s node with
  | none => (s, none)
  | some p =>
    let id := freeStream (s.port p)
    let s := s.setPort p { s.port p with tx := (s.port p).tx ++
      [{ id := id, chan := some c, room := BitVec.ofNat 6 k, node := BitVec.ofNat 10 node, rdx := some x }] }
    let s := sendMsg { mtype := 0x42, stream := BitVec.ofNat 16 id, dst := BitVec.ofNat 16 node,
                       room := BitVec.ofNat 8 k, arg0 := arg0 } s
    let ps := chunks 512 (bytes.length / 512 + 1) bytes
    ((List.range ps.length).foldl (fun t i => enqueue p (.data id (ps.getD i []) (i + 1 = ps.length)) t) s,
      some (p, id))

/-- A fresh request tag, above those of units and aborts (R514). -/
def nextReq (s : State) : State × Nat := ({ s with reqSeq := s.reqSeq + 1 }, s.reqSeq + 4096)

/-! ### Events and completion of an instruction (R139 to R141, R150, R151) -/

/-- HALF or FULL waits for everything that the instruction has issued and that has not arrived; it falls due now where
nothing is awaited (R150). -/
def eventOnArrival (c : Nat) (isHalf : Bool) (s : State) : State :=
  let h := s.chan c
  let mark (f : Flight) : Flight := if isHalf then { f with evHalf := true } else { f with evFull := true }
  s.setChan c (if ownFlights h then { h with flights := h.flights.map fun f => if f.exec = h.execNo then mark f else f }
    else if isHalf then { h with halfDue := h.halfDue + 1 } else { h with fullDue := h.fullDue + 1 })

/-- HALF of the instruction in progress, with the proof of the Host writes before it (R141, R150). -/
def fireHalf (c : Nat) (s : State) : State :=
  proveWrites c (eventOnArrival c true
    (s.setChan c { s.chan c with cur := (s.chan c).cur.map fun k => { k with halfFired := true } }))

/-- Raise HALF once the written bytes reach half of the total; an instruction that writes none raises it on completion
(R150, R151). -/
def checkHalf (c : Nat) (s : State) : State :=
  match (s.chan c).cur with
  | some k => if flHalf k.flags && !k.halfFired && 0 < k.total && k.total ≤ 2 * k.written then fireHalf c s else s
  | none => s

/-- The last burst of the instruction has issued: FULL on arrival, BARRIER, then the next instruction (R139, R140). -/
def completeInstr (c : Nat) (s : State) : State :=
  match (s.chan c).cur with
  | none => s
  | some k =>
    let s := if flHalf k.flags && !k.halfFired then fireHalf c s else s
    let s := proveWrites c (if flFull k.flags then eventOnArrival c false s else s)
    let h := s.chan c
    let bytes := if h.implicit.isSome then k.written else h.implicitBytes
    if flBarrier k.flags && ownFlights h then
      s.setChan c { h with hold := .barrier, cur := none, implicitBytes := bytes }
    else advance c (s.setChan c { h with cur := none, implicitBytes := bytes })

/-- Add something issued and not arrived, with the bytes it carries. One Host flight stands for all Host writes of an
instruction that wait for the same zero-length read (R141). -/
def addFlight (c : Nat) (k : FlightKind) (s : State) (bytes : Nat := 0) (object : Word := 0) : State :=
  let h := s.chan c
  let f : Flight := { kind := k, pc := h.pc, opcode := (h.cur.map (·.opcode)).getD 0,
                      entry := (h.cur.map (·.entry)).getD 0, flags := (h.cur.map (·.flags)).getD 0,
                      exec := h.execNo, base := h.progBase, implicit := h.implicit.isSome, bytes := bytes,
                      object := object }
  let same (g : Flight) : Bool := k = .host && g.kind = .host && g.exec = h.execNo && !g.proofSent
  if h.flights.any same then
    s.setChan c { h with flights := h.flights.map fun g => if same g then { g with bytes := g.bytes + bytes } else g }
  else s.setChan c { h with flights := h.flights ++ [f] }

/-- The instruction in progress fails: bursts already issued stand, data still on its way is discarded, and nothing of
the instruction is reported again (R142, R143). An earlier failure of it that waited for a read is the one reported. -/
def failCur (c : Nat) (status : Byte) (s : State) : State :=
  match (s.chan c).cur with
  | some k =>
    let h := s.chan c
    let entry := match k.plan with | .list .. => k.entry | .coords .. => k.entry | _ => 0
    let r := k.bad.getD (instrRec h c h.pc k.opcode entry status)
    let s := { s with hostReads := s.hostReads.filter (·.chan ≠ c) }.setChan c { h with
      cur := none, implicitBytes := if h.implicit.isSome then k.written else h.implicitBytes
      flights := h.flights.map fun (f : Flight) => if f.exec = h.execNo then { f with dead := true } else f }
    markBadRec c k.opcode k.flags entry r.status r s
  | none => s

def setCur (c : Nat) (f : Cur → Cur) (s : State) : State :=
  s.setChan c { s.chan c with cur := (s.chan c).cur.map f }

/-- Bring CH_PROGRESS up to date (R157). -/
def noteProgress (c : Nat) (s : State) : State :=
  match (s.chan c).cur with
  | some k => s.setChan c { s.chan c with progress := BitVec.ofNat 64 (match k.plan with
      | .list .. => k.entry * 2 ^ 32 + k.done
      | .coords .. => k.entry * 2 ^ 32 + k.done
      | .reduceStore _ _ _ _ _ _ (some _) => k.written
      | _ => k.done) }
  | none => s

/-! ### Reads and writes of one burst -/

/-- Bytes up to the next 4 KiB boundary of either end (R26). -/
def burstLen (src dst left : Nat) : Nat := min left (min (4096 - src % 4096) (4096 - dst % 4096))

/-- Swap the bytes of a burst within units aligned in it (R58, R137). -/
def swapBytes (sw : BitVec 2) (bs : List Byte) : List Byte :=
  (List.range bs.length).map fun i => bs.getD (swapAddr sw i) 0

/-- Every bit of a list of bytes. -/
def wholeRun (o : Nat) (bs : List Byte) : BitRun := (o, bs.map fun b => (0xFF, b))

/-- Read the source bytes of a burst that is not a remote Peer read. -/
def burstGet (k : Nat) (a : Word) (n : Nat) (s : State) : State × Except Byte (List Byte) :=
  match spaceOf a with
  | some .peer =>
    let st := rangeCheck k (peerOff a) n false s
    if st = St.ok then devGet k (BitVec.ofNat 64 (peerOff a)) n (pdTouch pdLarder s) else (s, .error st)
  | _ => devGet k a n s

/-- First and last byte's bits of a run. -/
def runExt (run : BitRun) : Word := extOf ((run.2.head?.map (·.1)).getD 0xFF) ((run.2.getLast?.map (·.1)).getD 0xFF) 0 0

/-- Write one run of a channel's instruction in the space of `base`: the status, with the flight added for Host and remote
Peer ends (R75, R80 to R83). `wc` is WIRE_COMP and `el` the log2 element size of its block (R109). -/
def runPut (c k : Nat) (base : Word) (run : BitRun) (wc el : Nat) (s : State) : State × Byte :=
  let a := atOff base run.1
  let n := run.2.length
  let bs := run.2.map (·.2)
  match spaceOf a with
  | some .host => match putRun k a run s with
    | (s, st) => if st = St.ok then (addFlight c .host s n, st) else (s, st)
  | some .peer =>
    let u := encodeUnit el (unitSize wc) bs
    let wire := if wc = 0 then bs else u.1
    let count (p : Option Nat) (s : State) : State := if wc = 0 then s else countComp p u.2 s
    if peerNode a = ownNode s then
      let st := rangeCheck k (peerOff a) n false s
      if st ≠ St.ok then (s, st)
      else if wc = 0 then putRun k 0 (peerOff a, run.2) (pdTouch pdLarder s)
      else storeCounted none k (peerOff a) n wc 0 el (runExt run) wire (count none (pdTouch pdLarder s))
    else match sendStream (some c) k (peerNode a) (peerOff a) n wc 0 el (runExt run) 0 wire s with
      | (s, some (p, id)) => (addFlight c (.stream p id) (count (some p) s) n, St.ok)
      | (s, none) => (s, St.linkDown)
  | _ => putRun k a run s

def isRemotePeer (s : State) (a : Word) : Bool := spaceOf a = some .peer && peerNode a ≠ ownNode s

/-- A remote Peer read of at most 4 KiB (R520). `dst` is the Pantry destination that ARG1 names, where there is one; `code`
asks the node for coded units: WIRE, STORE and the element size as in an OPEN (log entry 73). -/
def remoteRead (c k : Nat) (src : Word) (n : Nat) (dst : Option Nat) (code : Nat) (s : State) : State × Byte :=
  match egress s (peerNode src) with
  | none => (s, St.linkDown)
  | some p =>
    let (s, id) := nextReq s
    let s := sendMsg { mtype := 0x04, dst := BitVec.ofNat 16 (peerNode src), room := BitVec.ofNat 8 k,
                       req := BitVec.ofNat 32 id, addr := BitVec.ofNat 64 (peerOff src),
                       arg0 := BitVec.ofNat 64 (n + code * 2 ^ 16), arg1 := BitVec.ofNat 64 (dst.getD 0) } (pdTouch pdLarder s)
    let r : PeerRead := { req := id, chan := c, off := offOf src, len := n, staged := dst.isNone }
    (addFlight c (.read p id) { s with peerReads := s.peerReads ++ [r] }, St.ok)

/-- Send a Host-space read for a channel (R49). -/
def hostReadReq (c k a n : Nat) (s : State) : State :=
  let r : HostRead := { room := k, chan := c, addr := a, len := n, pc := (s.chan c).pc }
  hostReadOut k a n { s with hostReads := s.hostReads ++ [r] }

/-- Pattern bytes of a FILL burst (R113). -/
def fillBytes (pattern : Word) (pb start n : Nat) : List Byte :=
  (List.range n).map fun i => fld pattern (8 * ((start + i) % pb)) 8

/-! ### Lists (R112, R138) -/

/-- A list entry as it applies to one move: source, destination, length. -/
def listEntry (k : Nat) (addr : Word) (mode i : Nat) (contig : Word) (contigDone : Nat) (h : Chan) (flags : BitVec 16)
    (s : State) : State × Except Byte (Word × Word × Nat) :=
  let size := if mode = 2 then 32 else 16
  match devGet k (addr + BitVec.ofNat 64 (i * size)) size s with
  | (s, .error e) => (s, .error e)
  | (s, .ok bs) =>
    let a : Word := BitVec.ofNat 64 (leNat (bs.take 8))
    let b : Word := BitVec.ofNat 64 (leNat ((bs.drop 8).take 8))
    let off (on : Bool) (x : Word) (o : Half) : Option Word := if on then addOff x o else some x
    let cg := contig + BitVec.ofNat 64 contigDone
    let (src, dst, len, res) := match mode with
      | 0 => (a, cg, leNat ((bs.drop 8).take 4), leNat (bs.drop 12))
      | 1 => (cg, a, leNat ((bs.drop 8).take 4), leNat (bs.drop 12))
      | _ => (a, b, leNat ((bs.drop 16).take 4), leNat (bs.drop 20))
    match off (flOffSrc flags && mode ≠ 1) src h.srcOff, off (flOffDst flags && mode ≠ 0) dst h.dstOff with
    | some src, some dst => if res = 0 then (s, .ok (src, dst, len)) else (s, .error St.malformed)
    | _, _ => (s, .error St.malformed)

/-- Ranges overlap in the same space (R136). -/
def overlaps (a b : Word) (n m : Nat) : Bool :=
  spaceOf a = spaceOf b && 0 < n && 0 < m && offOf a < offOf b + m && offOf b < offOf a + n

/-- The two ends of a move may be paired: data spaces, and a Peer end with a Pantry end (R22, R43, R12). -/
def pairOk (a b : Word) : Bool :=
  match spaceOf a, spaceOf b with
  | some .sync, _ => false
  | _, some .sync => false
  | none, _ => false
  | _, none => false
  | some .peer, x => x = some .pantry
  | x, some .peer => x = some .pantry
  | _, _ => true

/-- The static checks of a plain move; LINK_DOWN comes before the other causes (R22, R45, R46, R136, R137, R138, R308,
R635). -/
def moveStatus (s : State) (k : Nat) (src dst : Word) (len : Nat) (sw : BitVec 2) : Byte :=
  let u := swapUnit sw
  if isRemotePeer s src && !isMember s (peerNode src) then St.linkDown
  else if isRemotePeer s dst && !isMember s (peerNode dst) then St.linkDown
  else if !pairOk src dst then St.malformed
  else if overlaps src dst len len then St.malformed
  else if offOf src % u ≠ 0 || offOf dst % u ≠ 0 || len % u ≠ 0 then St.malformed
  else
    let st := if isRemotePeer s src then St.ok else if spaceOf src = some .peer then
        (if len = 0 then St.ok else rangeCheck k (peerOff src) len false s) else spanStatus s k src len
    if st ≠ St.ok then st
    else if spaceOf dst = some .peer then St.ok else spanStatus s k dst len

/-! ### Coordinate lists (R90 to R95) -/

/-- The block of entry i: its tile plan, and whether its read or its write side is a skip entry. R95 bounds the coordinates
that an entry holds. Where a stepped or advanced coordinate of the other end (R90) passes 0xFFFF_FFFF the spec says nothing:
the model lets it lie outside the piece, as R93 has it of any block (DESIGN CHOICE, log entry 74). -/
def coordEntry (k : Nat) (addr : Word) (mode i : Nat) (t : TilePlan) (s : State) :
    State × Except Byte (TilePlan × Bool × Bool) :=
  let size := if mode = 2 then 32 else 16
  match devGet k (addr + BitVec.ofNat 64 (i * size)) size s with
  | (s, .error e) => (s, .error e)
  | (s, .ok bs) =>
    let set (j : Nat) : List Nat := (List.range 4).map fun d => leNat ((bs.drop (16 * j + 4 * d)).take 4)
    let isSkip (x : List Nat) : Bool := x.getD 0 0 = 0xFFFF_FFFF
    let ok (x : List Nat) (rank : Nat) : Bool :=
      isSkip x || (List.range 4).all fun d => if d < rank then x.getD d 0 + t.rext.getD d 0 ≤ 0xFFFF_FFFF
        else x.getD d 0 = 0
    let adv (x : List Nat) (d n : Nat) : List Nat := x.set d (x.getD d 0 + n)
    let a := set 0
    let b := set 1
    match mode with
    | 0 => if !ok a t.rd.rank then (s, .error St.malformed) else
      (s, .ok (blockAt t (if isSkip a then t.origin else a) (adv t.worigin (t.wr.rank - 1) (i * wStep t)),
        isSkip a, false))
    | 1 => if !ok a t.wr.rank then (s, .error St.malformed) else
      (s, .ok (blockAt t (adv t.origin (t.rd.rank - 1) (i * rStep t)) (if isSkip a then t.worigin else a),
        false, isSkip a))
    | _ => if !ok a t.rd.rank || !ok b t.wr.rank then (s, .error St.malformed) else
      (s, .ok (blockAt t (if isSkip a then t.origin else a) (if isSkip b then t.worigin else b),
        isSkip a, isSkip b))

/-! ### Compressed ends (R84 to R89, R522 to R532) -/

/-- A tile plan with a compressed end. -/
def TilePlan.packed (t : TilePlan) : Bool := t.rd.comp ≠ 0 || t.wr.comp ≠ 0

/-- Element size in bytes of a compressed move, its log2, and its slot size. -/
def packedEs (t : TilePlan) : Nat := fmtWidth t.rd.format / 8
def packedEl (t : TilePlan) : Nat := Nat.log2 (packedEs t)
def packedClass (t : TilePlan) : Nat := if t.rd.comp ≠ 0 then t.rd.comp.toNat else t.wr.comp.toNat
def packedSlot (t : TilePlan) : Nat := slotSize (packedClass t)

/-- Bytes of the region's source image, its blocks, and the bytes of block i. -/
def packedBytes (t : TilePlan) : Nat := offsets t 0 * packedEs t
def blockCount (t : TilePlan) : Nat := (packedBytes t + 4095) / 4096
def blockLen (t : TilePlan) (i : Nat) : Nat := min 4096 (packedBytes t - i * 4096)

/-- Offset in its space of byte o of the source image at an uncompressed end whose region starts at element g; none outside
the piece (R72, R58). -/
def plainAt (l : Layout) (g o : Nat) : Option Nat :=
  let es := fmtWidth l.format / 8
  let e := g + o / es
  if l.goff.getD 0 0 ≤ e && e < l.goff.getD 0 0 + l.extent.getD 0 0 then
    some (swapAddr l.swap (offOf l.base + (e - l.goff.getD 0 0) * es + o % es))
  else none

/-- Offset of the slot of block i at a compressed end (R84). -/
def slotAt (l : Layout) (g i : Nat) : Nat :=
  offOf l.base + ((g - l.goff.getD 0 0) * (fmtWidth l.format / 8) / 4096 + i) * slotSize l.comp.toNat

/-- Bytes of block i, by their place in the region's image. -/
def blockBytes (t : TilePlan) (i : Nat) : List Nat := (List.range (blockLen t i)).map (i * 4096 + ·)

/-- Read offsets of block i at an uncompressed read end. -/
def plainReads (t : TilePlan) (i : Nat) : List Nat := (blockBytes t i).filterMap (plainAt t.rd (t.origin.getD 0 0))

/-- Some element of block i lies inside the write end's piece. -/
def blockWritten (t : TilePlan) (i : Nat) : Bool :=
  t.wr.comp ≠ 0 || (blockBytes t i).any fun o => (plainAt t.wr (t.worigin.getD 0 0) o).isSome

/-- A block at another node's uncompressed read end is coded by that node's port where one READ gives all of it, in order
(R88; DESIGN CHOICE, log entry 73). -/
def codedThere (s : State) (t : TilePlan) (i : Nat) : Bool :=
  isRemotePeer s t.rd.base && (t.rd.comp ≠ 0 ||
    (t.rd.swap = 0 && (plainReads t i).length = blockLen t i && (byteRuns (plainReads t i)).length = 1))

/-- WIRE, STORE and element size that the READ of a block asks for. -/
def packedCode (s : State) (t : TilePlan) (i : Nat) : Nat :=
  if codedThere s t i then packedClass t + t.rd.comp.toNat * 4 + packedEl t * 16 else 0

/-- The port on a compressed move's path; none for the loopback port (R89). -/
def packedPort (s : State) (t : TilePlan) : Option Nat :=
  if isRemotePeer s t.rd.base then egress s (peerNode t.rd.base)
  else if isRemotePeer s t.wr.base then egress s (peerNode t.wr.base) else none

/-- Read bursts of block i. -/
def packedReads (t : TilePlan) (skR : Bool) (i : Nat) : List (Nat × Nat) :=
  if skR || !blockWritten t i then []
  else if t.rd.comp ≠ 0 then [(slotAt t.rd (t.origin.getD 0 0) i, packedSlot t)]
  else byteRuns (plainReads t i)

/-- What is to be done with the bytes of a slot: a unit, the offset of an overflow block still to read, or a status
(R529, R530). -/
inductive Slotted where
  | unit (u : List Byte) (fits : Bool)
  | more (o : Nat)
  | fail (status : Byte)
  deriving DecidableEq, Repr

/-- The wire unit of a stored slot; an OVERFLOW slot reads its block and travels RAW (R529, R530). -/
def slotted (v : Ovf) (el slot : Nat) (bs : List Byte) (block : Nat → Option (List Byte)) : Slotted :=
  let h := parseBlock bs
  if h.kind = 4 then .fail St.overflowFull
  else if h.kind = 3 then
    if !(h.resOk && h.esize = el && ovfContains v h.ovf) then .fail St.malformed
    else match block h.ovf with
      | some src => .unit (padTo slot (blockHeader 2 el 0 4096 0) ++ src) false
      | none => .more h.ovf
  else if (decodeUnit el bs slot).isSome && h.kind ≠ 2 then .unit bs true else .fail St.malformed

/-- The source image of block i from what its read bursts gave: FILL outside the piece and for a skip entry (R73, R92). -/
def blockSource (t : TilePlan) (staged : List (Nat × List Byte)) (skR : Bool) (i : Nat) : List Byte :=
  (blockBytes t i).map fun o =>
    let fill : Byte := fld t.rd.fill (8 * (o % packedEs t)) 8
    match (if skR then none else plainAt t.rd (t.origin.getD 0 0) o) with
    | some a => stagedByte staged a
    | none => fill

/-- The unit of block i. -/
def blockUnit (k : Nat) (t : TilePlan) (staged : List (Nat × List Byte)) (skR : Bool) (i : Nat) (s : State) : Slotted :=
  if !skR && codedThere s t i then
    match staged.head? with
    | some p => .unit p.2 ((parseBlock p.2).kind ≠ 2)
    | none => .fail St.busError
  else if !skR && t.rd.comp ≠ 0 then
    match staged.head? with
    | some p =>
      slotted (s.ovfOf k) (packedEl t) (packedSlot t) p.2 fun o => ((staged.drop 1).find? fun q => q.1 % 2 ^ 50 = o).map (·.2)
    | none => .fail St.busError
  else
    let u := encodeUnit (packedEl t) (packedSlot t) (blockSource t staged skR i)
    .unit u.1 u.2

/-- Write bursts of block i: its slot, or its bytes inside the write end's piece (R74, R84, R87). -/
def packedWrites (t : TilePlan) (src : List Byte) (i : Nat) : List BitRun :=
  if t.wr.comp ≠ 0 then [wholeRun (slotAt t.wr (t.worigin.getD 0 0) i) (List.replicate (packedSlot t) 0)]
  else imageRuns false (((blockBytes t i).foldr (fun o (img : BitImage) => match plainAt t.wr (t.worigin.getD 0 0) o with
    | some a => tput img a (0xFF, src.getD (o - i * 4096) 0)
    | none => img) []))

/-- Elements of block i that fall outside the write end's piece (R74, R76). -/
def packedDrops (t : TilePlan) (skR : Bool) (i : Nat) : Nat :=
  if skR || t.wr.comp ≠ 0 then 0 else
  ((blockBytes t i).filter fun o => (plainAt t.wr (t.worigin.getD 0 0) o).isNone).length / packedEs t

/-- The checks of a write at an end that is local or reached through the loopback port. -/
def nearStatus (k : Nat) (a : Word) (n : Nat) (slots : Bool) (s : State) : Byte :=
  if spaceOf a = some .peer then rangeCheck k (peerOff a) n slots s else spanStatus s k a n

/-- Pantry offset that an address of a local end, or of a Peer end of this node, names. -/
def nearOff (a : Word) : Nat := if spaceOf a = some .peer then peerOff a else offOf a

/-- Write one run of block i: the unit travels once for each stream, and is stored as slots or expanded into the run (R88,
R525, R531, R532). -/
def packedPut (c k : Nat) (t : TilePlan) (skR : Bool) (u : List Byte × Bool) (i : Nat) (run : BitRun) (s : State) :
    State × Byte :=
  let a := atOff t.wr.base run.1
  let n := run.2.length
  let cls := packedClass t
  let el := packedEl t
  let store := t.wr.comp.toNat
  let block : Int := offOf t.wr.base + ((t.worigin.getD 0 0 : Int) - t.wr.goff.getD 0 0) * packedEs t + i * 4096
  let ext := if store ≠ 0 then 0 else extOf 0xFF 0xFF (run.1 - block) t.wr.swap
  if isRemotePeer s a then
    match sendStream (some c) k (peerNode a) (peerOff a) n cls store el ext 0 u.1 s with
    | (s, some (p, id)) => (addFlight c (.stream p id) (countComp (some p) u.2 s) n, St.ok)
    | (s, none) => (s, St.linkDown)
  else
    let p := packedPort s t
    let bad := nearStatus k a n (store ≠ 0) s
    if bad ≠ St.ok then (s, bad)
    else storeCounted p k (nearOff a) n cls store el ext u.1
      (pdTouch pdLarder (if !skR && codedThere s t i then s else countComp p u.2 s))

/-! ### What a unit of work is made of (R26, R139) -/

/-- The base whose space the read and the write bursts of the work in hand lie in. -/
def readBase (q : Cur) : Word :=
  match q.item with
  | .move src _ _ => src
  | .block t _ _ => t.rd.base
  | .none => match q.plan with
    | .reduceSend src _ _ _ _ _ _ => src
    | _ => 0

def writeEnd (q : Cur) : Word :=
  match q.item with
  | .move _ dst _ => dst
  | .block t _ _ => t.wr.base
  | .none => match q.plan with
    | .fill dst _ _ _ => dst
    | .reduceStore dst _ _ _ _ _ _ => dst
    | _ => 0

/-- The contribution of a REDUCE_SEND or the result of a REDUCE_STORE in bytes. -/
def rdxLen (elements : Nat) (format : BitVec 4) : Nat := elements * (fmtWidth format / 8)

/-- Read bursts of the burst, tile or block that comes next. A tile or block none of whose elements is written reads
nothing (R76; DESIGN CHOICE, log entry 74). -/
def unitReads (q : Cur) : List (Nat × Nat) :=
  match q.plan with
  | .fill _ _ _ _ => []
  | .reduceStore _ _ _ _ _ _ _ => []
  | .reduceSend src n f _ _ _ _ => [(offOf src + q.done, burstLen (offOf src + q.done) 0 (rdxLen n f - q.done))]
  | _ => match q.item with
    | .none => []
    | .move src dst len => [(offOf src + q.done, burstLen (offOf src + q.done) (offOf dst + q.done) (len - q.done))]
    | .block t skR skW =>
      if t.packed then packedReads t skR q.done
      else if skR || skW || !someWritten t (tileOffsets t.rext q.done) then []
      else byteRuns (readBytes t (tileOffsets t.rext q.done))

/-- A tile laid out from the bytes that its read bursts gave. A write end in Peer space takes runs whose bytes written in part
are the first and the last (R69, R80; log entry 73). -/
def layTile (t : TilePlan) (fetch : Nat → Byte) (skR skW : Bool) (lfsr : Half) (q : Cur) : Cur :=
  let out := tileRun t fetch skR skW q.done lfsr
  { q with toWrite := imageRuns (spaceOf t.wr.base = some .peer) out.img, lfsr := out.lfsr, drops := out.drops }

/-- A block of a compressed move laid out, or the read it still needs. -/
def layBlock (k : Nat) (t : TilePlan) (skR : Bool) (s : State) (q : Cur) : Except Byte Cur :=
  let i := q.done
  let q := { q with drops := packedDrops t skR i }
  if !blockWritten t i then .ok q else
  match blockUnit k t q.staged skR i s with
  | .fail e => .error e
  | .more o => .ok { q with stage := .reading, toRead := [(offOf t.rd.base / 2 ^ 50 * 2 ^ 50 + o, 4096)] }
  | .unit u fits =>
    if t.wr.comp ≠ 0 then .ok { q with unit := (u, fits), toWrite := packedWrites t [] i }
    else match decodeUnit (packedEl t) u (packedSlot t) with
      | some src => .ok { q with unit := (u, fits), toWrite := packedWrites t src i }
      | none => .error St.malformed

/-- Lay out the write bursts of the work whose read bursts have given their bytes, or say what is still to read. `acc` reads
the accumulator of a REDUCE_STORE. -/
def layWrites (k : Nat) (h : Chan) (acc : Nat → Byte) (s : State) (q : Cur) : Except Byte Cur :=
  let q := { q with stage := .writing, lfsr := h.lfsr, drops := 0, toWrite := [] }
  match q.plan with
  | .fill dst len pattern pb =>
    let a := offOf dst + q.done
    .ok { q with toWrite := [wholeRun a (fillBytes pattern pb q.done (burstLen 0 a (len - q.done)))] }
  | .reduceSend _ _ _ _ _ _ _ => .ok q
  | .reduceStore _ _ _ _ _ _ (some t) => .ok (layTile t acc false false h.lfsr q)
  | .reduceStore dst n format _ _ _ none =>
    let es := fmtWidth format / 8
    let a := offOf dst + q.done
    let wide : BitVec 4 := if format = 5 || format = 7 then 5 else 0
    let bytes := (List.range (burstLen 0 a (rdxLen n format - q.done))).map fun i =>
      let j := q.done + i
      let v := castElem wide format {} 0 (leNat ((List.range 4).map fun b => acc (4 * (j / es) + b)))
      BitVec.ofNat 8 (v / 256 ^ (j % es))
    .ok { q with toWrite := [wholeRun a bytes] }
  | _ => match q.item with
    | .none => .ok q
    | .move _ dst _ =>
      let sw := match q.plan with
        | .copy _ _ _ sw => sw
        | .list _ _ _ _ sw => sw
        | _ => 0
      .ok { q with toWrite := [wholeRun (offOf dst + q.done) (swapBytes sw (q.staged.flatMap (·.2)))] }
    | .block t skR skW =>
      if t.packed then layBlock k t skR s q else .ok (layTile t (stagedByte q.staged) skR skW h.lfsr q)

/-- Log2 element size of the block that a stream under WIRE_COMP is coded as: that of the read record's FORMAT, and 1 byte
for a format narrower than a byte (R109). UINT10P and UINT12P have no whole size of 1, 2 or 4: the model takes 1 byte
(DESIGN CHOICE, log entry 74). -/
def wireEl (q : Cur) : Nat :=
  match q.item with
  | .block t _ _ => Nat.log2 (max 1 (fmtWidth t.rd.format / 8))
  | _ => 0

/-- Carry one write burst of the work in hand. -/
def writeOne (c k : Nat) (q : Cur) (run : BitRun) (s : State) : State × Byte :=
  let plain := runPut c k (writeEnd q) run (flWire q.flags).toNat (wireEl q) s
  match q.item with
  | .block t skR _ => if t.packed then packedPut c k t skR q.unit q.done run s else plain
  | _ => plain

end Sys2Proof.Machine
end

