-- ==== Sys2Proof/Machine/Issue.lean ====
section
/-! DEFINITION. How a channel issues an instruction: fetch, trigger, static checks, held domains, and the operands of
moves and tiles (03 R98 to R116, R136 to R146, 10 R469 to R478). -/
namespace Sys2Proof.Machine

/-! ### Domains at issue (R469, R473, R478) -/

/-- The quadrant or stack that holds the channel's instruction (R469). -/
def fetchDomains (s : State) (h : Chan) : List Nat :=
  if h.implicit.isSome then [] else
  match spaceOf h.pc with
  | some .pantry => pdPantrySpan s h.room.toNat (offOf h.pc) 32
  | some .cellar => pdCellarSpan s h.room.toNat (offOf h.pc) 32
  | _ => []

/-- What every instruction of a channel touches but a sync operation: its Mover and its instruction fetch (R469). -/
def baseDomains (c : Nat) (s : State) : List Nat := pdMover c :: fetchDomains s (s.chan c)

/-- Hold the channel at issue on the domains of a list that are not ON; none of them: carry on (R470, R473, R478). -/
def holdOn (c : Nat) (ds : List Nat) (k : State → State) (s : State) : State :=
  let down := ds.filter fun d => !pdOn s d
  if down = [] then k s
  else wakeAll down (s.setChan c { s.chan c with state := .held, heldBy := down, touches := ds })

/-- The same with what every instruction touches. -/
def withDomains (c : Nat) (ds : List Nat) (k : State → State) (s : State) : State :=
  holdOn c (baseDomains c s ++ ds).eraseDups k s

/-! ### The issue of an instruction -/

/-- The channel may issue: RUNNING, nothing in progress, no hold. -/
def issueReady (h : Chan) : Bool :=
  h.state = .running && h.cur.isNone && h.hold = .none && h.ending.isNone

/-- The instruction at the pc: an implicit one, or 32 bytes of Pantry or Cellar (R98, R99, R103, R203). -/
def fetchInstr (c : Nat) (s : State) : State × Except Byte (BitVec 256) :=
  let h := s.chan c
  match h.implicit with
  | some w => (s, .ok w)
  | none =>
    match spaceOf h.pc with
    | some .pantry =>
      let st := spanStatus s h.room.toNat h.pc 32
      if st ≠ St.ok then (s, .error st) else devWord 32 h.room.toNat h.pc s
    | some .cellar => devWord 32 h.room.toNat h.pc s
    | _ => (s, .error St.badWindow)

/-- A program ends without STOP: its status is the completion's, and a record reports it (R103, R626). -/
def endBadly (c : Nat) (opcode : Byte) (status : Byte) (s : State) : State :=
  let h := s.chan c
  endProgram c status 0 (roomRec h.room.toNat (instrRec h c h.pc opcode 0 status) s)

/-- WIRE_COMP needs a Peer destination (R109); checked here for the instructions whose word names it. -/
def wireOk (fl : BitVec 16) (dst : Word) : Bool := flWire fl = 0 || spaceOf dst = some .peer

/-- TRIGGER_WAIT (R145, R146): wait for a pending event, or take one. The continuation issues. -/
def withTrigger (c : Nat) (o : Byte) (fl : BitVec 16) (k : State → State) (s : State) : State :=
  let h := s.chan c
  if !flTrigger fl || h.trigTaken then k s
  else if h.trigSrc = 0 then markBad c o fl 0 St.malformed s
  else if h.trigPending = 0 then
    addWaiter { unit := .chan (Fin.ofNat 128 c), obj := .trigger } (s.setChan c { h with state := .waiting })
  else k (s.setChan c { h with trigPending := h.trigPending - 1, trigTaken := true })

/-- Neither OFF nor in RETAIN: what has begun, and the reading of an instruction word, still go on (R468). -/
def pdUp (s : State) (d : Nat) : Bool := !(pdOf s d = .off || pdOf s d = .retain)

/-- Issue the instruction at the pc where it has opcode o; a channel that is not ready, or whose instruction is another
one, is left as it is (log entry 9). An unknown opcode or a failed fetch ends the program (R103). A word in a quadrant that is
down cannot be read, and a channel whose Mover is down is held at its next instruction (R473); a closing domain holds an
instruction by what it touches, in its body (R469, R470). -/
def issueAs (o : Byte) (c : Nat) (body : BitVec 256 → State → State) (s : State) : State :=
  let h := s.chan c
  if !issueReady h then s
  else if !(fetchDomains s h).all (pdUp s) then withDomains c [] id s
  else match fetchInstr c s with
    | (s1, .error e) => endBadly c 0 e s1
    | (s1, .ok w) =>
      let op : Byte := fld w 0 8
      let fl : BitVec 16 := fld w 16 16
      if op ≠ o then (if opKnown op then s else endBadly c op St.badOpcode s1)
      else if !pdUp s (pdMover c) then withDomains c [] id s1
      else withTrigger c o fl (fun s =>
        if !flagsOk o fl || !operandsReservedOk w then markBad c o fl 0 St.malformed s else body w s)
        (pdTouch (pdMover c) s1)

/-- FLAGS of an instruction word. -/
abbrev wFlags (w : BitVec 256) : BitVec 16 := fld w 16 16

/-- The instruction fails its checks and nothing moves (R144). -/
def issueBad (c : Nat) (w : BitVec 256) (status : Byte) (s : State) : State :=
  markBad c (fld w 0 8) (wFlags w) 0 status s

/-- Start moving: the plan stands in the channel until the Mover has carried it; a plan of no bytes completes at once
(R151). -/
def startPlan (c : Nat) (w : BitVec 256) (plan : Plan) (item : Item) (total : Nat) (empty : Bool) (ds : List Nat)
    (s : State) : State :=
  let s := s.setChan c { s.chan c with
    cur := some { opcode := fld w 0 8, flags := wFlags w, plan := plan, item := item, total := total
                  domains := (baseDomains c s ++ ds).eraseDups } }
  if empty then completeInstr c s else s

/-! ### MOVE, FILL, MOVE_LIST (R112, R113, R131, R136 to R138) -/

/-- An address with its CH_OFFSET part added (R110). -/
def withOff (on : Bool) (a : Word) (o : Half) : Option Word := if on then addOff a o else some a

/-- The instruction word of MOVE. -/
def issueMove (c : Nat) (w : BitVec 256) (s : State) : State :=
  let h := s.chan c
  let k := h.room.toNat
  let fl := wFlags w
  let len := (fld w 32 32).toNat
  match withOff (flOffSrc fl) (fld w 64 64) h.srcOff, withOff (flOffDst fl) (fld w 128 64) h.dstOff with
  | some src, some dst =>
    let st := if wireOk fl dst then moveStatus s k src dst len (flSwap fl) else St.malformed
    if st ≠ St.ok then issueBad c w st s else
    let ds := spanDomains s k src len ++ spanDomains s k dst len
    withDomains c ds (startPlan c w (.copy src dst len (flSwap fl)) (.move src dst len) len (len = 0) ds) s
  | _, _ => issueBad c w St.malformed s

/-- Checks of a fill's destination (R43, R45, R46, R113). -/
def fillStatus (s : State) (k : Nat) (dst : Word) (len pb : Nat) : Byte :=
  if isRemotePeer s dst && !isMember s (peerNode dst) then St.linkDown
  else if !([1, 2, 4, 8].contains pb) then St.malformed
  else match spaceOf dst with
    | none => St.malformed
    | some .sync => St.malformed
    | some .peer => if peerOff dst + len ≤ 2 ^ 50 then St.ok else St.badWindow
    | _ => spanStatus s k dst len

def issueFill (c : Nat) (w : BitVec 256) (s : State) : State :=
  let h := s.chan c
  let k := h.room.toNat
  let len := (fld w 32 32).toNat
  let pb := (fld w 192 8).toNat
  match withOff (flOffDst (wFlags w)) (fld w 64 64) h.dstOff with
  | some dst =>
    let st := fillStatus s k dst len pb
    if st ≠ St.ok then issueBad c w st s else
    let ds := spanDomains s k dst len
    withDomains c ds (startPlan c w (.fill dst len (fld w 128 64) pb) .none len (len = 0) ds) s
  | none => issueBad c w St.malformed s

/-- A list or descriptor lies in Pantry or Cellar space, aligned, inside the windows (R91, R98, R112, R114). -/
def tableStatus (s : State) (k : Nat) (a : Word) (align len : Nat) : Byte :=
  if !(spaceOf a = some .pantry || spaceOf a = some .cellar) then St.malformed
  else if offOf a % align ≠ 0 then St.malformed else spanStatus s k a len

/-- Bytes and domains of a list's entries, read ahead for the half point and the hold at issue. -/
def listAhead (k : Nat) (addr : Word) (mode : Nat) (contig : Word) (h : Chan) (fl : BitVec 16) (s : State) :
    Nat → Nat → Nat → Nat × List Nat
  | 0, _, _ => (0, [])
  | n + 1, i, cd =>
    match (listEntry k addr mode i contig cd h fl s).2 with
    | .error _ => (0, [])
    | .ok (src, dst, len) =>
      let (t, ds) := listAhead k addr mode contig h fl s n (i + 1) (cd + len)
      (len + t, (spanDomains s k src len ++ spanDomains s k dst len ++ ds).eraseDups)

def issueMoveList (c : Nat) (w : BitVec 256) (s : State) : State :=
  let h := s.chan c
  let k := h.room.toNat
  let fl := wFlags w
  let count := (fld w 32 32).toNat
  let list : Word := fld w 64 64
  let mode := (fld w 192 8).toNat
  let size := if mode = 2 then 32 else 16
  let contig := match mode with
    | 0 => withOff (flOffDst fl) (fld w 128 64) h.dstOff
    | 1 => withOff (flOffSrc fl) (fld w 128 64) h.srcOff
    | _ => if fld w 128 64 = 0 then some 0 else none
  match contig with
  | none => issueBad c w St.malformed s
  | some cg =>
    let st := if 2 < mode || count = 0 || 65536 < count then St.malformed
      else if mode = 0 && !wireOk fl cg then St.malformed
      else tableStatus s k list size (count * size)
    if st ≠ St.ok then issueBad c w st s else
    let table := spanDomains s k list (count * size)
    withDomains c table (fun s =>
      let (total, ds) := listAhead k list mode cg h fl s count 0 0
      withDomains c (table ++ ds) (startPlan c w (.list list count mode cg (flSwap fl)) .none total false (table ++ ds)) s) s

/-! ### Tiles (R67, R71, R83 to R86, R89, R92, R114 to R116, R136) -/

/-- Local bits an element takes at an end, as an offset in its space that may lie below it. -/
def elemLow (l : Layout) (i : List Nat) : Int :=
  (List.range (fmtWidth l.format)).foldl (fun m k => min m (8 * (offOf l.base : Int) + elemBit l i k))
    (8 * (offOf l.base : Int) + elemBit l i 0)

/-- A block as an instruction moves it: its plan, and whether its read or its write side is a skip entry. -/
abbrev Block := TilePlan × Bool × Bool

/-- A block reads; a block writes (R92). -/
def Block.reads (b : Block) : Bool := !b.2.1 && !b.2.2
def Block.writes (b : Block) : Bool := !b.2.2

/-- Some element that the block touches would lie below offset 0 of its space, which is BAD_WINDOW under R71. For an end in
Host or Peer space, which has no windows here, the spec names no status: the model reports BAD_WINDOW there too (DESIGN
CHOICE, log entry 74). -/
def belowZero (b : Block) : Bool :=
  (allOffsets b.1.rext).any fun o =>
    (b.reads && (match localIdx b.1.rd ((readCoord b.1 o).map Int.ofNat) with
      | some i => elemLow b.1.rd i < 0
      | none => false))
    || (b.writes && (match localIdx b.1.wr (writeCoord b.1 o) with | some i => elemLow b.1.wr i < 0 | none => false))

/-- Bytes that a block reads, and those that it writes, as offsets in the spaces of its ends; of a slot, the first and the
last (R71, R84). -/
def readSide (b : Block) : List Nat :=
  let t := b.1
  if !b.reads then []
  else if !t.packed then readBytes t (allOffsets t.rext)
  else (List.range (blockCount t)).flatMap fun i =>
    if t.rd.comp ≠ 0 then [slotAt t.rd (t.origin.getD 0 0) i, slotAt t.rd (t.origin.getD 0 0) i + packedSlot t - 1]
    else plainReads t i

def writeSide (b : Block) : List Nat :=
  let t := b.1
  if !b.writes then []
  else if !t.packed then writeBytes t (allOffsets t.rext)
  else (List.range (blockCount t)).flatMap fun i =>
    if t.wr.comp ≠ 0 then [slotAt t.wr (t.worigin.getD 0 0) i, slotAt t.wr (t.worigin.getD 0 0) i + packedSlot t - 1]
    else (blockBytes t i).filterMap (plainAt t.wr (t.worigin.getD 0 0))

/-- Bytes that a block writes, tile by tile, for the half point (R150); of a compressed write end, those of its source
image. -/
def writeTotal (b : Block) : Nat :=
  let t := b.1
  if !b.writes then 0
  else if t.packed then (if t.wr.comp ≠ 0 then packedBytes t else (writeSide b).length)
  else ((List.range (tileCount t.rext)).map fun n => (writeBytes t (tileOffsets t.rext n)).length).foldl (· + ·) 0

/-- Parse what a tile descriptor names, with CH_OFFSET added to its records' bases (R67, R110, R114); `readOff` and
`writeOff` are the offsets to add. `reduce` is a REDUCE_STORE's accumulator, whose READ_REC is 0 (R130). The spec gives a
record's place no alignment of its own. -/
def readTile (k : Nat) (d : BitVec 1024) (readOff writeOff : Option Half) (reduce : Option Layout) (s : State) :
    State × Except Byte TilePlan :=
  let recOf (a : Word) (off : Option Half) (s : State) : State × Except Byte Layout :=
    let st := tableStatus s k a 1 64
    if st ≠ St.ok then (s, .error st) else
    match devWord 64 k a s with
    | (s, .error e) => (s, .error e)
    | (s, .ok r) => match parseLayout r with
      | none => (s, .error St.malformed)
      | some l => match (match off with | some o => addOff l.base o | none => some l.base) with
        | none => (s, .error St.malformed)
        | some b => if layoutBaseOk { l with base := b } then (s, .ok { l with base := b })
          else (s, .error St.malformed)
  let rd := match reduce with
    | some l => if (fld d 0 64 : Word) = 0 then (s, Except.ok l) else (s, .error St.malformed)
    | none => recOf (fld d 0 64) readOff s
  match rd with
  | (s, .error e) => (s, .error e)
  | (s, .ok rl) => match recOf (fld d 64 64) writeOff s with
    | (s, .error e) => (s, .error e)
    | (s, .ok wl) => match parseTransform (fld d 512 512) with
      | none => (s, .error St.malformed)
      | some tr =>
        let (o, e, wo) := parseRegion d
        (s, .ok { rd := rl, wr := wl, origin := o, rext := e, worigin := wo, tr := tr })

/-- Read a descriptor and its records once their quadrants or stacks serve (R67, R114, R468): the status, or the plan. -/
def withTile (c k : Nat) (desc : Word) (readOff writeOff : Option Half) (reduce : Option Layout)
    (bad : Byte → State → State) (cont : TilePlan → State → State) (s : State) : State :=
  let st := tableStatus s k desc 64 128
  if st ≠ St.ok then bad st s else
  withDomains c (spanDomains s k desc 128) (fun s =>
    match devWord 128 k desc s with
    | (s, .error e) => bad e s
    | (s, .ok d) =>
      let recs : List Word := (if reduce.isSome then [] else [fld d 0 64]) ++ [fld d 64 64]
      withDomains c (recs.flatMap fun a => spanDomains s k a 64) (fun s =>
        match readTile k d readOff writeOff reduce s with
        | (s, .error e) => bad e s
        | (s, .ok t) => cont t s) s) s

/-- Status of one end's span: windows and buffers of a local end, membership of a Peer end (R45, R46, R71, R75). -/
def endStatus (s : State) (k : Nat) (base : Word) (bytes : List Nat) : Byte :=
  let (lo, n) := spanOf bytes
  match spaceOf base with
  | some .peer => if isRemotePeer s base && !isMember s (peerNode base) then St.linkDown
    else if bytes = [] || (lo % 2 ^ 50 + n ≤ 2 ^ 50 && lo / 2 ^ 50 = peerNode base) then St.ok else St.badWindow
  | some .host => St.ok
  | _ => if bytes = [] then St.ok else spanStatus s k (atOff base lo) n

/-- Domains of one end's span. -/
def endDomains (s : State) (k : Nat) (base : Word) (bytes : List Nat) : List Nat :=
  let (lo, n) := spanOf bytes
  match spaceOf base with
  | some .peer => spanDomains s k base 1
  | _ => if bytes = [] then [] else spanDomains s k (atOff base lo) n

/-- The two spans lie in one space and overlap (R136). -/
def spansMeet (a b : Word) (rb wb : List Nat) : Bool :=
  let (rlo, rn) := spanOf rb
  let (wlo, wn) := spanOf wb
  spaceOf a = spaceOf b && 0 < rn && 0 < wn && rlo < wlo + wn && wlo < rlo + rn

/-- The static checks of a record-driven move over all the blocks that it is to move, before any byte moves (R22, R46, R71,
R83, R85, R86, R89, R109, R136, R635). -/
def tileStatus (s : State) (k : Nat) (t : TilePlan) (fl : BitVec 16) (bs : List Block) : Byte :=
  let rb := bs.flatMap readSide
  let wb := bs.flatMap writeSide
  if (isRemotePeer s t.rd.base && !isMember s (peerNode t.rd.base))
      || (isRemotePeer s t.wr.base && !isMember s (peerNode t.wr.base)) then St.linkDown
  else if !tileOk t || !pairOk t.rd.base t.wr.base then St.malformed
  else if flWire fl ≠ 0 && (spaceOf t.wr.base ≠ some .peer || t.packed) then St.malformed
  else if t.packed && !(spaceOf t.rd.base = some .peer || spaceOf t.wr.base = some .peer) then St.malformed
  else if t.packed && !(bs.all fun b =>
      (!Block.reads b || compRegionOk b.1.rd (b.1.origin.getD 0 0) (offsets b.1 0))
        && (!Block.writes b || compRegionOk b.1.wr (b.1.worigin.getD 0 0) (offsets b.1 0))) then St.malformed
  else if spaceOf t.wr.base = some .host
      && hasPartial (bs.foldl (fun img b => if Block.writes b then maskImage b.1 img else img) []) then St.malformed
  else if spansMeet t.rd.base t.wr.base rb wb then St.malformed
  else if !t.packed && bs.any belowZero then St.badWindow
  else
    let st := endStatus s k t.rd.base rb
    if st ≠ St.ok then st else endStatus s k t.wr.base wb

/-- Domains of the two ends over all blocks (R469). -/
def tileDomains (s : State) (k : Nat) (t : TilePlan) (bs : List Block) : List Nat :=
  endDomains s k t.rd.base (bs.flatMap readSide) ++ endDomains s k t.wr.base (bs.flatMap writeSide)

/-- A transform with ROUND 2 and a SEED other than 0 loads the channel's LFSR when it issues (R185). -/
def tileSeed (c : Nat) (t : TilePlan) (s : State) : State :=
  if t.tr.round ≠ 2 || t.tr.seed = 0 then s else s.setChan c { s.chan c with lfsr := t.tr.seed }

/-- Check a record-driven move over its blocks, hold it on what it touches, and start it. -/
def issueBlocks (c k : Nat) (w : BitVec 256) (t : TilePlan) (bs : List Block) (plan : Plan) (item : Item) (extra : List Nat)
    (s : State) : State :=
  let st := tileStatus s k t (wFlags w) bs
  if st ≠ St.ok then issueBad c w st s else
  let ds := extra ++ tileDomains s k t bs
  withDomains c ds (fun s =>
    startPlan c w plan item ((bs.map writeTotal).foldl (· + ·) 0) false ds (tileSeed c t s)) s

def issueMoveTile (c : Nat) (w : BitVec 256) (s : State) : State :=
  let h := s.chan c
  let k := h.room.toNat
  let fl := wFlags w
  withTile c k (fld w 64 64) (if flOffSrc fl then some h.srcOff else none) (if flOffDst fl then some h.dstOff else none) none
    (issueBad c w) (fun t => issueBlocks c k w t [(t, false, false)] (if t.packed then .packed t else .tile t)
      (.block t false false) []) s

/-- The blocks of a coordinate list, up to the entry that fails (R95). -/
def coordBlocks (k : Nat) (addr : Word) (mode : Nat) (t : TilePlan) (s : State) : Nat → Nat → List Block
  | 0, _ => []
  | n + 1, i =>
    match (coordEntry k addr mode i t s).2 with
    | .error _ => []
    | .ok b => b :: coordBlocks k addr mode t s n (i + 1)

def issueMoveCoords (c : Nat) (w : BitVec 256) (s : State) : State :=
  let h := s.chan c
  let k := h.room.toNat
  let fl := wFlags w
  let count := (fld w 32 32).toNat
  let list : Word := fld w 64 64
  let mode := (fld w 192 8).toNat
  let size := if mode = 2 then 32 else 16
  let st := if 2 < mode || count = 0 || 65536 < count then St.malformed else tableStatus s k list size (count * size)
  if st ≠ St.ok then issueBad c w st s else
  withTile c k (fld w 128 64) (if flOffSrc fl then some h.srcOff else none) (if flOffDst fl then some h.dstOff else none) none
    (issueBad c w) (fun t s =>
      let zero (l : List Nat) : Bool := l.all (· = 0)
      let modeOk := match mode with
        | 0 => zero t.origin
        | 1 => zero t.worigin
        | _ => zero t.origin && zero t.worigin
      if !modeOk then issueBad c w (if tileStatus s k t fl [] = St.linkDown then St.linkDown else St.malformed) s else
      let table := spanDomains s k list (count * size)
      withDomains c table (fun s =>
        issueBlocks c k w t (coordBlocks k list mode t s count 0) (.coords list count mode t) .none table s) s) s

end Sys2Proof.Machine
end

