-- ==== Sys2Proof/Machine/Groups.lean ====
section
/-! DEFINITION. Collective groups on a node: instances, chunks, reservations, contributions and House barriers
(12 R563 to R581). -/
namespace Sys2Proof.Machine

/-! ### Groups and their members -/

def groupOf (s : State) (g : Nat) : Option Group := (s.groups.find? (·.1 = g)).map (·.2)

def setGroup (g : Nat) (x : Group) (s : State) : State := { s with groups := tput s.groups g x }

/-- The instance open on a group. -/
def instOf (s : State) (g : Nat) : Option Instance := (groupOf s g).bind (·.inst)

def setInst (g : Nat) (i : Option Instance) (s : State) : State :=
  match groupOf s g with
  | some x => setGroup g { x with inst := i } s
  | none => s

def chunkOf (i : Instance) (n : Nat) : Option RChunk := (i.chunks.find? (·.1 = n)).map (·.2)

def setChunk (g n : Nat) (c : Option RChunk) (s : State) : State :=
  match instOf s g with
  | some i => setInst g (some { i with chunks := match c with
      | some c => tput i.chunks n c
      | none => tdel i.chunks n }) s
  | none => s

/-- Nodes that a group's messages go to: its members at the Hall, which holds the group table; elsewhere every other
member of the House (log entry 21). -/
def groupPeers (s : State) (g : Nat) : List Nat :=
  let all := if s.house.isHall then (match s.house.groupDefs.find? (·.1 = g) with
      | some d => d.2.members
      | none => []) else s.house.members
  all.filter (· ≠ ownNode s)

/-- ARG0 of an RDX message (R545). -/
def rdxArg (g : Nat) (format : BitVec 4) (op : BitVec 2) (chunk elements : Nat) : Word :=
  BitVec.ofNat 64 (g + format.toNat * 2 ^ 8 + op.toNat * 2 ^ 12 + chunk % 2 ^ 16 * 2 ^ 16 + elements * 2 ^ 32)

/-- A chunk number lies in an instance's range, counted modulo 2^16 from FIRST_CHUNK (R568). -/
def inRange (i : Instance) (chunk : Nat) : Bool := (chunk + 2 ^ 16 - i.first) % 2 ^ 16 < i.range

/-! ### Accumulators (R571, R572) -/

/-- Bytes of an accumulator (R571). -/
def accBytes (elements : Nat) : Nat := (elements * 4 + 63) / 64 * 64

def usedBytes (i : Instance) : Nat := i.chunks.foldl (fun n c => n + accBytes c.2.elements) 0

/-- Larder ranges that accumulators take now. -/
def larderUsed (s : State) : List (Nat × Nat) :=
  s.groups.flatMap fun g => match g.2.inst with
    | some i => i.chunks.map fun c => (c.2.base, accBytes c.2.elements)
    | none => []

/-- Lowest Larder place of n bytes that no accumulator takes (log entry 22). -/
def larderPlace (s : State) (n : Nat) : Option Nat :=
  let used := larderUsed s
  (0 :: used.map fun u => u.1 + u.2).foldl (fun (best : Option Nat) a =>
    if a + n ≤ larderSize && used.all (fun u => u.1 + u.2 ≤ a || a + n ≤ u.1) then
      match best with
      | some b => some (min a b)
      | none => some a
    else best) none

/-! ### The end of an instance (R569, R574) -/

/-- Reduction plans of a group in progress on a channel. -/
def planGroup : Plan → Option Nat
  | .reduceSend _ _ _ _ g _ _ => some g
  | .reduceStore _ _ _ g _ _ _ => some g
  | _ => none

/-- Every channel whose instruction of the group is pending, with what is pending (R574). -/
def pendingOf (s : State) (g : Nat) : List Nat :=
  (s.chans.filter fun h =>
    (match h.2.cur with | some k => planGroup k.plan = some g | none => false)
      || h.2.flights.any (fun f => match f.kind with | .contribution x _ => x = g | _ => false)
      || s.waiters.any (fun w => w.unit == .chan (Fin.ofNat 128 h.1) &&
          (match w.obj with | .grant x _ => x == g | .chunk x _ => x == g | _ => false))).map (·.1)

/-- Mark a channel's pending instructions of the group bad with a status. -/
def failPending (g : Nat) (status : Byte) (s : State) (c : Nat) : State :=
  let s := (s.chan c).flights.foldl (fun t f => match f.kind with
    | .contribution x n => if x = g then failFlight c (.contribution x n) status t else t
    | _ => t) s
  let s := match s.waiters.find? (fun w => w.unit == .chan (Fin.ofNat 128 c) &&
      (match w.obj with | .grant x _ => x == g | .chunk x _ => x == g | _ => false)) with
    | some w => endWait w status 0 s
    | none => s
  match (s.chan c).cur with
  | some k => if planGroup k.plan = some g then failCur c status s else s
  | none => s

/-- RESULT of a COLLECTIVE: stores and acknowledgements counted (R569). -/
def instResult (i : Instance) : Word := i.acked ++ i.stored

/-- The open instance of a group ends: its accumulators are freed, its pending instructions are marked bad, and its
entry completes; `tell` sends RDX_FAIL to the other members, where the failure started here (R574). -/
def endInstance (g : Nat) (status : Byte) (tell : Bool) (s : State) : State :=
  match groupOf s g with
  | none => s
  | some x => match x.inst with
    | none => s
    | some i =>
      let ps := pendingOf s g
      let s := setGroup g { x with inst := none, resv := [] } s
      let s := ps.foldl (failPending g status) s
      let s := completeEntry i.sq i.count status (instResult i) s
      if tell && (s.room x.room).reset.isNone then
        (groupPeers s g).foldl (fun t n => sendMsg {
          mtype := 0x45, dst := BitVec.ofNat 16 n, room := BitVec.ofNat 8 x.room, status := status,
          arg0 := rdxArg g i.format i.op 0 0 } t) s
      else s

/-- Complete an instance whose counts have been reached (R569). -/
def checkDone (g : Nat) (s : State) : State :=
  match groupOf s g with
  | some x => match x.inst with
    | some i => if i.sends ≤ i.acked && i.stores ≤ i.stored then
        completeEntry i.sq i.count St.ok (instResult i) (setGroup g { x with inst := none } s)
      else s
    | none => s
  | none => s

/-! ### Reservations and grants (R129, R572) -/


/-- Answer a reservation: RDX_GRANT to its node, or the local channel's wait ends. -/
def answerGrant (g : Nat) (r : Reservation) (status : Byte) (s : State) : State :=
  match r.chan with
  | none => sendMsg { mtype := 0x41, dst := BitVec.ofNat 16 r.node, room := BitVec.ofNat 8 r.room, req := r.req
                      status := status } s
  | some c =>
    match s.waiters.find? (fun w => w.unit == .chan (Fin.ofNat 128 c) && w.obj == .grant g r.chunk) with
    | some w =>
      if status = St.ok then
        { s.setChan c { s.chan c with state := runState (s.chan c) } with waiters := (dropWaiter w s).waiters }
      else endInstance g status true (endWait w status 0 s)
    | none => s

/-- A REDUCE_STORE that waits for the chunk named other ELEMENTS (R129). -/
def storeMismatch (s : State) (g chunk elements : Nat) : Option Waiter :=
  s.waiters.find? fun w => w.obj == .chunk g chunk && w.value.toNat ≠ elements

/-- What a reservation gets now: a grant with a status and the state in which it holds, or nothing (R572). -/
def tryGrant (g : Nat) (r : Reservation) (s : State) : Option State :=
  match groupOf s g with
  | none => none
  | some x => match x.inst with
    | none => none
    | some i =>
      if !inRange i r.chunk then none
      else match chunkOf i r.chunk with
        | some c => some (answerGrant g r (if c.elements = r.elements then St.ok else St.malformed) s)
        | none =>
          if x.kib * 1024 < usedBytes i + accBytes r.elements then none
          else match larderPlace s (accBytes r.elements) with
            | none => none
            | some b =>
              let s := setChunk g r.chunk (some { elements := r.elements, base := b }) s
              match storeMismatch s g r.chunk r.elements with
              | some w => some (endInstance g St.malformed true (endWait w St.malformed 0 s))
              | none => some (answerGrant g r St.ok s)

/-- The first waiting reservation of a chunk that can be granted: one that needs credit waits behind earlier ones that
need it (R572). -/
def nextResv (s : State) (g chunk : Nat) : Option Reservation :=
  match groupOf s g with
  | none => none
  | some x => match x.inst with
    | none => none
    | some i =>
      let ready := x.resv.filter fun r => inRange i r.chunk
      match ready.find? (fun r => r.chunk = chunk) with
      | none => none
      | some r =>
        if (chunkOf i chunk).isSome then some r
        else match ready.find? (fun q => (chunkOf i q.chunk).isNone) with
          | some q => if q.chunk = chunk then some q else none
          | none => none

/-- Queue a reservation, or grant it at once where nothing waits before it. -/
def reserve (g : Nat) (r : Reservation) (s : State) : State :=
  match groupOf s g with
  | none => answerGrant g r St.malformed s
  | some x =>
    let s1 := setGroup g { x with resv := x.resv ++ [r] } s
    match nextResv s1 g r.chunk with
    | some q =>
      if q = r then (match tryGrant g r s with | some t => t | none => s1) else s1
    | none => s1

/-! ### Accumulation (R575, R577) -/

/-- FP32 sum rounded to nearest even; a NaN result has an unstated payload. -/
def addFp32 (a b : Half) : Half :=
  let nan : Half := 0x7FC00000#32 ||| Config.sumNan a b
  match decodeElem 0 a.toNat, decodeElem 0 b.toNat with
  | .nan _ _ _, _ => nan
  | _, .nan _ _ _ => nan
  | .inf x, .inf y => if x = y then a else nan
  | .inf _, _ => a
  | _, .inf _ => b
  | .zero x, .zero y => if x && y then a else 0
  | .zero _, _ => b
  | _, .zero _ => a
  | .fin x m e, .fin y n f =>
    let q := min e f
    let v : Int := (if x then -1 else 1) * (m * 2 ^ (e - q).toNat : Nat)
      + (if y then -1 else 1) * (n * 2 ^ (f - q).toNat : Nat)
    if v = 0 then 0
    else BitVec.ofNat 32 (encodeFloat 0 { floatOvf := true } 0 8 23 127 (.fin (v < 0) v.natAbs q))

/-- Order key of an FP32 value that is no NaN: −0 below +0 (R577). -/
def fp32Key (a : Half) : Int := if a.getLsbD 31 then -(a.toNat - 2 ^ 31 : Nat) - 1 else a.toNat

def isNan32 (a : Half) : Bool := match decodeElem 0 a.toNat with | .nan _ _ _ => true | _ => false

/-- One element: accumulator, contribution (R577). FORMAT 0, 1 and 2 accumulate in FP32, 5 and 7 in INT32. -/
def accElem (format : BitVec 4) (op : BitVec 2) (a b : Half) : Half :=
  if format = 5 || format = 7 then
    match op.toNat with
    | 0 => a + b
    | 1 => if a.toInt < b.toInt then b else a
    | _ => if b.toInt < a.toInt then b else a
  else if op = 0 then addFp32 a b
  else if isNan32 a then a ||| 0x00400000
  else if isNan32 b then b ||| 0x00400000
  else if op = 1 then (if fp32Key a < fp32Key b then b else a)
  else (if fp32Key b < fp32Key a then b else a)

/-- Widen a contribution's elements to the accumulator's form (R34). -/
def widen (format : BitVec 4) (bytes : List Byte) : List Half :=
  let es := fmtWidth format / 8
  let aim : BitVec 4 := if format = 5 || format = 7 then 5 else 0
  (chunks es (bytes.length / es + 1) bytes).map fun b =>
    BitVec.ofNat 32 (castElem format aim {} 0 (leNat b))

/-- Words of an accumulator. -/
def accRead (s : State) (base n : Nat) : List Half :=
  (List.range n).map fun i => BitVec.ofNat 32 (leNat (mread s.larder (base + 4 * i) 4))

def accWrite (base : Nat) (ws : List Half) (s : State) : State :=
  { s with larder := mwrite s.larder base (ws.flatMap fun w => leBytes 4 w.toNat) }

/-- An uncorrectable Larder word among an accumulator's (R640). -/
def accBad (s : State) (c : RChunk) : Bool :=
  s.larderUe.any fun w => c.base / 8 ≤ w && w * 8 < c.base + c.elements * 4

/-- Raise a House interrupt (R587). -/
def houseIrq (bit : Nat) (s : State) : State :=
  if s.house.irqEn.getLsbD bit then pfCause 3 s.house.vector s else s

/-- A second residue failure of a chunk (R580). -/
def residueFail (g chunk : Nat) (room : Nat) (s : State) : State :=
  let found := Config.residueFound s.free
  let s := { s with rdx := { s.rdx with mismatches := satInc s.rdx.mismatches } }
  let r : ErrRec := {
    status := St.residueMismatch, severity := 3, unitKind := 6, unit := BitVec.ofNat 16 g,
    index := BitVec.ofNat 32 chunk, room := BitVec.ofNat 6 room, arg0 := found.setWidth 64 }
  endInstance g St.residueMismatch true (houseIrq 3 (auditRec r s))

/-- Add a contribution to a chunk: committed, asked for again, or the end of the instance. The answer says which
(R573, R575, R579, R580): none where the instance has ended. -/
def commit (g chunk : Nat) (ws : List Half) (s : State) : State × Option Bool :=
  match groupOf s g, instOf s g with
  | some x, some i => match chunkOf i chunk with
    | none => (endInstance g St.malformed true s, none)
    | some c =>
      if i.contrib ≤ c.committed then (endInstance g St.malformed true s, none)
      else if accBad s c then
        (endInstance g St.eccUncorrected true (eccReport 1 (some x.room) 0 c.base s), none)
      else
        let fault := Config.residueFault s.free
        let s := { s with free := s.free + 1 }
        if fault then
          if c.retried then (residueFail g chunk x.room s, none)
          else
            let s := { s with rdx := { s.rdx with retries := satInc s.rdx.retries } }
            (setChunk g chunk (some { c with retried := true, retrying := true }) s, some false)
        else
          let ws := ws.take c.elements
          let out := if c.committed = 0 then ws
            else (accRead s c.base c.elements).zipWith (accElem i.format i.op) ws
          (setChunk g chunk (some { c with committed := c.committed + 1, retrying := false })
            (accWrite c.base out s), some true)
  | _, _ => (s, none)

/-- A REDUCE_SEND of this node has been acknowledged (R569, R575). -/
def countAck (g : Nat) (s : State) : State :=
  match instOf s g with
  | some i => checkDone g (setInst g (some { i with acked := satInc i.acked }) s)
  | none => s

/-! ### House barriers (R563) -/

/-- Release the House barrier of a group on this node for a new generation: its waiters end, but for a paused one, whose
wait is looked at again on resume (R154, R155); the first further ARRIVE arrives in it. -/
def houseRelease (g : Nat) (gen : Half) (s : State) : State :=
  match groupOf s g with
  | none => s
  | some x =>
    let s := setGroup g { x with gen := gen, arrived := false } s
    let s := { s with chans := tmap s.chans {} fun _ h =>
      { h with houseArrivals := h.houseArrivals.filter (·.1 ≠ g) } }
    releaseWaits (fun w => w.obj == .house g && !w.paused && w.target ≠ gen.setWidth 64) St.ok s

/-- Every member of a group has arrived at the Hall: flood the release. The list of nodes is the Hall's own. -/
def hallArrive (g node : Nat) (gen : Half) (s : State) : State :=
  match s.house.groupDefs.find? (·.1 = g) with
  | none => s
  | some d =>
    let b := tget s.house.barriers {} g
    if gen ≠ b.gen then s else
    let arr := if b.arrived.contains node then b.arrived else b.arrived ++ [node]
    if d.2.members.all arr.contains then
      let s := { s with house := { s.house with barriers := tset s.house.barriers {} g { gen := gen + 1, arrived := [] } } }
      let s := (d.2.members.filter (· ≠ 0)).foldl (fun t n => sendMsg {
        mtype := 0x49, dst := BitVec.ofNat 16 n,
        room := BitVec.ofNat 8 d.2.room, arg0 := BitVec.ofNat 64 g, arg1 := (gen + 1).setWidth 64 } t) s
      houseRelease g (gen + 1) s
    else { s with house := { s.house with barriers := tset s.house.barriers {} g { b with arrived := arr } } }

/-- A channel arrives on a House barrier: the first ARRIVE of the generation on this node tells the Hall. -/
def arriveHouse (c g : Nat) (s : State) : State :=
  match groupOf s g with
  | none => s
  | some x =>
    let h := s.chan c
    let s := s.setChan c { h with houseArrivals := h.houseArrivals ++ [(g, x.gen)] }
    let s := setGroup g { x with arrived := true } s
    if s.house.isHall then hallArrive g 0 x.gen s
    else sendMsg { mtype := 0x48, dst := 0, room := BitVec.ofNat 8 x.room, arg0 := BitVec.ofNat 64 g,
                   arg1 := x.gen.setWidth 64 } s

/-- Further ARRIVEs of a released generation: the first one waiting arrives in the next (R395, R563). A WAIT_BARRIER goes
on to wait for it. -/
def nextHouseArrive (g : Nat) (s : State) : State :=
  match groupOf s g with
  | none => s
  | some x =>
    if x.arrived then s else
    match s.waiters.find? (fun w => w.obj == .houseArrive g && !w.paused) with
    | none => s
    | some w => match w.unit with
      | .chan c =>
        if (waitingOp (s.chan c)).1 = Op.waitBarrier then
          let w' := { w with obj := .house g, target := x.gen.setWidth 64 }
          arriveHouse c g (addWaiter w' (dropWaiter w s))
        else endWait w St.ok 0 (arriveHouse c g s)
      | _ => dropWaiter w s

end Sys2Proof.Machine
end

