-- ==== Sys2Proof/Machine/ChannelOps.lean ====
section
/-! DEFINITION. The channel instructions: moves, loops, waits, signals, fences and NOTIFY (03, 08). A command names the
channel; the instruction is the one at its pc (log entry 9). -/
namespace Sys2Proof.Machine

/-! ### Moves and fill -/

/-- MOVE (R131, R136 to R138). -/
def execMove (c : Fin 128) (s : State) : Host.Outcome State Fault Refusal :=
  .next (issueAs Op.move c (issueMove c) s)

/-- MOVE_LIST (R112, R138). -/
def execMoveList (c : Fin 128) (s : State) : Host.Outcome State Fault Refusal :=
  .next (issueAs Op.moveList c (issueMoveList c) s)

/-- MOVE_TILE (R114, R115). -/
def execMoveTile (c : Fin 128) (s : State) : Host.Outcome State Fault Refusal :=
  .next (issueAs Op.moveTile c (issueMoveTile c) s)

/-- FILL (R113). -/
def execFill (c : Fin 128) (s : State) : Host.Outcome State Fault Refusal :=
  .next (issueAs Op.fill c (issueFill c) s)

/-- MOVE_COORDS (R90 to R95, R116). -/
def execMoveCoords (c : Fin 128) (s : State) : Host.Outcome State Fault Refusal :=
  .next (issueAs Op.moveCoords c (issueMoveCoords c) s)

/-! ### LOOP and STOP (R117, R118) -/

def loopGet (h : Chan) (n : Nat) : Half :=
  match n with | 0 => h.loop0 | 1 => h.loop1 | 2 => h.loop2 | _ => h.loop3

def loopSet (h : Chan) (n : Nat) (v : Half) : Chan :=
  match n with
  | 0 => { h with loop0 := v } | 1 => { h with loop1 := v } | 2 => { h with loop2 := v } | _ => { h with loop3 := v }

/-- The registers after a LOOP (R117). -/
def loopStep (n : Nat) (count target srcStep dstStep : Half) (h : Chan) : Chan :=
  let r := (if loopGet h n = 0 then count else loopGet h n) - 1
  let h := loopSet h n r
  if r ≠ 0 then
    { h with srcOff := h.srcOff + srcStep, dstOff := h.dstOff + dstStep,
             pc := h.pc + (target.signExtend 64) * 32 }
  else
    { h with srcOff := h.srcOff - srcStep * (count - 1), dstOff := h.dstOff - dstStep * (count - 1),
             pc := h.pc + 32 }

def issueLoop (c : Nat) (w : BitVec 256) (s : State) : State :=
  let n := (fld w 32 8).toNat
  let count : Half := fld w 64 32
  let target : Half := fld w 96 32
  if count = 0 || 3 < n || 0 < target.toInt then issueBad c w St.malformed s else
  withDomains c [] (fun s =>
    let h := loopStep n count target (fld w 128 32) (fld w 160 32) (s.chan c)
    s.setChan c { h with cur := none, trigTaken := false, progress := 0, heldBy := [], touches := []
                         execNo := h.execNo + 1 }) s

/-- LOOP (R117). -/
def execLoop (c : Fin 128) (s : State) : Host.Outcome State Fault Refusal := .next (issueAs Op.loop c (issueLoop c) s)

def issueStop (c : Nat) (w : BitVec 256) (s : State) : State :=
  withDomains c [] (fun s =>
    let h := s.chan c
    let st := if h.badCount = 0 then St.ok else St.partialDone
    if flBarrier (wFlags w) && h.flights ≠ [] then
      s.setChan c { h with hold := .stop, ending := some (st, fld w 64 64), cur := none }
    else endProgram c st (fld w 64 64) s) s

/-- STOP (R103, R118). -/
def execStop (c : Fin 128) (s : State) : Host.Outcome State Fault Refusal := .next (issueAs Op.stop c (issueStop c) s)

/-! ### Waits (R119 to R124, R383) -/

/-- The record of a wait, arrival or signal that fails at issue: OBJECT as written, 0xFFFF for an object that is remote
or unmapped, and for a wait its MODE, its target and its timeout (R624, R625). -/
def syncRec (s : State) (c : Nat) (w : BitVec 256) (status : Byte) : ErrRec :=
  let h := s.chan c
  let o : Byte := fld w 0 8
  let named : Bool := [Op.waitFlag, Op.waitCount, Op.waitFull, Op.signalFlag, Op.signalCount].contains o
  let moded : Bool := [Op.waitFlag, Op.waitCount, Op.waitFull].contains o
  let target : Word :=
    if o = Op.waitFlag then fld w 32 1 |>.setWidth 64
    else if o = Op.waitFull then 1
    else if o ≠ Op.waitCount then 0
    else if (fld w 32 8 : Byte) = 1 then h.consumed + fld w 128 64 else fld w 128 64
  { instrRec h c h.pc o 0 status with
    object := if named then fld w 64 64 else 0
    detail := if [St.syncUnmapped, St.syncRange, St.linkDown].contains status then 0xFFFF else 0
    mode := if moded then fld w 32 8 else 0
    arg0 := target
    timeoutUs := if moded || o = Op.waitBarrier then fld w 192 32 else 0 }

/-- A wait, arrival or signal is marked bad at issue (R142). -/
def syncBad (c : Nat) (w : BitVec 256) (status : Byte) (s : State) : State :=
  markBadRec c (fld w 0 8) (wFlags w) 0 status (syncRec s c w status) s

/-- Put the channel to sleep in a wait instruction. -/
def sleepIn (c : Nat) (w : BitVec 256) (plan : Plan) (s : State) : State :=
  s.setChan c { s.chan c with state := .waiting, cur := some { opcode := fld w 0 8, flags := wFlags w, plan := plan } }

/-- Register a local wait and evaluate it: it may end at once (R383). -/
def localWait (c : Nat) (w : BitVec 256) (x : Waiter) (s : State) : State :=
  settle (addWaiter x (sleepIn c w .nothing s))

/-- TIMEOUT_US of a wait instruction. -/
abbrev wTimeout (w : BitVec 256) : Half := fld w 192 32

/-- A timeout too short for an object reached through a link, or for a House barrier (R120). -/
def tooShort (t : Half) : Bool := t ≠ 0 && t.toNat < 64

/-- The waiter of channel c on an object. -/
def chanWaiter (c : Nat) (obj : WaitObj) (w : BitVec 256) (s : State) : Waiter :=
  { unit := .chan (Fin.ofNat 128 c), obj := obj, addr := fld w 64 64, mode := fld w 32 8, value := fld w 128 64,
    timeoutUs := wTimeout w, deadline := some (waitDeadline s (wTimeout w)) }

/-- Register a wait at another node (R386, R388). -/
def remoteWait (c : Nat) (w : BitVec 256) (node : Nat) (x : Waiter) (mtype : Byte) (s : State) : State :=
  if tooShort (wTimeout w) then syncBad c w St.syncRange s
  else if (egress s node).isNone then syncBad c w St.linkDown s
  else sendMsg (waitMsg mtype (s.chan c).room.toNat node x) (addWaiter x (sleepIn c w .nothing s))

/-- WAIT_FLAG: MODE bit 0 EXPECT, bit 1 CONSUME (R119, R360). -/
def issueWaitFlag (c : Nat) (w : BitVec 256) (s : State) : State :=
  let mode := (fld w 32 8).toNat
  if 3 < mode then syncBad c w St.malformed s else
  let a : Word := fld w 64 64
  let mk (o : WaitObj) : Waiter := { chanWaiter c o w s with expect := mode % 2 = 1, consume := 2 ≤ mode }
  match syncTarget s (s.chan c).room.toNat a false with
  | .error e => syncBad c w e s
  | .ok (.remote n) => remoteWait c w n (mk (.remote n a)) 0x0A s
  | .ok (.localFlag p) => localWait c w (mk (.flag p)) s
  | .ok (.localCounter _) => syncBad c w St.malformed s

def execWaitFlag (c : Fin 128) (s : State) : Host.Outcome State Fault Refusal :=
  .next (issueAs Op.waitFlag c (issueWaitFlag c) s)

/-- WAIT_COUNT: ABSOLUTE, CONSUME, and SNAPSHOT, which does not wait (R119, R364). -/
def issueWaitCount (c : Nat) (w : BitVec 256) (s : State) : State :=
  let mode := (fld w 32 8).toNat
  let v : Word := fld w 128 64
  if 2 < mode || (mode = 2 && v ≠ 0) then syncBad c w St.malformed s else
  let a : Word := fld w 64 64
  let target := if mode = 1 then (s.chan c).consumed + v else v
  let mk (o : WaitObj) : Waiter := { chanWaiter c o w s with target := target }
  match syncTarget s (s.chan c).room.toNat a true with
  | .error e => syncBad c w e s
  | .ok (.remote n) => remoteWait c w n (mk (.remote n a)) (if mode = 2 then 0x0D else 0x0A) s
  | .ok (.localCounter p) =>
    if mode = 2 then advance c (s.setChan c { s.chan c with consumed := (s.counter p).value })
    else localWait c w (mk (.counter p)) s
  | .ok (.localFlag _) => syncBad c w St.malformed s

def execWaitCount (c : Fin 128) (s : State) : Host.Outcome State Fault Refusal :=
  .next (issueAs Op.waitCount c (issueWaitCount c) s)

/-- The Room's tagged regions cover a word (R121). -/
def inRegion (s : State) (k o : Nat) : Bool :=
  (s.room k).regions.any fun r => r.2.off ≤ o && o + 8 ≤ r.2.off + r.2.len

/-- WAIT_FULL: MODE bit 1 TAKE (R119, R121, R372 to R374). An address outside every tagged region is SYNC_UNMAPPED before
its window is looked at (R121); the word's quadrant holds the instruction (R469), and its line is read with its tag, so that
its window and its buffer are checked (R45, R308, R374). -/
def issueWaitFull (c : Nat) (w : BitVec 256) (s : State) : State :=
  let mode := (fld w 32 8).toNat
  let a : Word := fld w 64 64
  let k := (s.chan c).room.toNat
  if !(mode = 0 || mode = 2) || spaceOf a ≠ some .pantry || offOf a % 8 ≠ 0 || fld w 128 64 ≠ 0 then
    syncBad c w St.malformed s
  else if !inRegion s k (offOf a) then syncBad c w St.syncUnmapped s
  else
    let st := spanStatus s k a 8
    if st ≠ St.ok then syncBad c w st s
    else holdOn c (spanDomains s k a 8) (fun s =>
      match devGet k a 8 s, translate s k false (offOf a) with
      | (s, .ok _), some p => localWait c w { chanWaiter c (.word p) w s with consume := mode = 2 } s
      | (s, .error e), _ => syncBad c w e s
      | (s, _), none => syncBad c w St.badWindow s) s

def execWaitFull (c : Fin 128) (s : State) : Host.Outcome State Fault Refusal :=
  .next (issueAs Op.waitFull c (issueWaitFull c) s)

/-- WAIT_PHASE: NEXT is kept as the turn in which the phase is next crossed (R123). -/
def issueWaitPhase (c : Nat) (w : BitVec 256) (s : State) : State :=
  let mode := (fld w 32 8).toNat
  let p : Half := fld w 64 32
  let t : Half := fld w 96 32
  if 1 < mode || (mode = 0 && t ≠ 0) then syncBad c w St.malformed s else
  let turn := if mode = 1 then t else if p ≤ s.cad.phase then s.cad.turn + 1 else s.cad.turn
  withDomains c [] (fun s =>
    if reached s.cad.turn s.cad.phase turn p then
      let late := s.cad.turn ≠ turn || s.cad.phase ≠ p
      advance c (s.setChan c { s.chan c with late := (s.chan c).late || late })
    else
      addWaiter { unit := .chan (Fin.ofNat 128 c), obj := .phase (mode = 1) turn p, mode := fld w 32 8 }
        (setCur c (fun q => { q with domains := baseDomains c s }) (sleepIn c w .nothing s))) s

def execWaitPhase (c : Fin 128) (s : State) : Host.Outcome State Fault Refusal :=
  .next (issueAs Op.waitPhase c (issueWaitPhase c) s)

/-! ### Barriers (R124, R392 to R397, R563) -/

/-- WIRE, SCOPE and GROUP of ARRIVE and WAIT_BARRIER: a wire, a group, or malformed. -/
def barrierOf (w : BitVec 256) : Option (Nat ⊕ Nat) :=
  let wire := (fld w 32 8).toNat
  let scope := (fld w 40 8).toNat
  let group := (fld w 48 8).toNat
  if scope = 0 && wire ≤ 31 && group = 0 then some (.inl wire)
  else if scope = 1 && wire = 0 then some (.inr group) else none

/-- The channel is an effective member of an enabled wire of its Room (R396). -/
def mayArrive (s : State) (c i : Nat) : Bool := (s.wire i).enable && effMember s (s.wire i) c

/-- The group is active on this node and belongs to the channel's Room. -/
def groupActive (s : State) (c g : Nat) : Bool :=
  match groupOf s g with
  | some x => x.room = (s.chan c).room.toNat
  | none => false

/-- The Hall can be reached for a House barrier. -/
def hallReachable (s : State) : Bool := s.house.isHall || (egress s 0).isSome

/-- A waiter of the default timeout, for a second ARRIVE (R395). -/
def arriveWaiter (c : Nat) (o : WaitObj) (w : BitVec 256) (s : State) : Waiter :=
  { chanWaiter c o w s with addr := 0, mode := 0, value := 0, deadline := some (waitDeadline s 0) }

def issueArrive (c : Nat) (w : BitVec 256) (s : State) : State :=
  match barrierOf w with
  | none => syncBad c w St.malformed s
  | some (.inl i) =>
    if !mayArrive s c i then syncBad c w St.syncUnmapped s
    else if (s.chan c).arrivals.any (·.1 = i) then localWait c w (arriveWaiter c (.wireArrive i) w s) s
    else settle (arriveWire c i (advance c s))
  | some (.inr g) =>
    if !groupActive s c g then syncBad c w St.syncUnmapped s
    else if !hallReachable s then syncBad c w St.linkDown s
    else if ((groupOf s g).map (·.arrived)).getD false then
      addWaiter (arriveWaiter c (.houseArrive g) w s) (sleepIn c w .nothing s)
    else nextHouseArrive g (arriveHouse c g (advance c s))

/-- ARRIVE (R124, R393, R395). -/
def execArrive (c : Fin 128) (s : State) : Host.Outcome State Fault Refusal :=
  .next (issueAs Op.arrive c (issueArrive c) s)

def issueWaitBarrier (c : Nat) (w : BitVec 256) (s : State) : State :=
  match barrierOf w with
  | none => syncBad c w St.malformed s
  | some (.inl i) =>
    if !mayArrive s c i then syncBad c w St.syncUnmapped s else
    let gen := match (s.chan c).arrivals.find? (·.1 = i) with
      | some a => a.2
      | none => (s.wire i).gen
    let s := addWaiter { chanWaiter c (.wire i) w s with addr := 0, mode := 0, target := gen.setWidth 64 } (sleepIn c w .nothing s)
    settle (if (s.chan c).arrivals.any (·.1 = i) then s else arriveWire c i s)
  | some (.inr g) =>
    if !groupActive s c g then syncBad c w St.syncUnmapped s
    else if tooShort (wTimeout w) then syncBad c w St.syncRange s
    else if !hallReachable s then syncBad c w St.linkDown s
    else match groupOf s g with
      | none => syncBad c w St.syncUnmapped s
      | some x =>
        let mk (o : WaitObj) : Waiter := { chanWaiter c o w s with addr := 0, mode := 0, target := x.gen.setWidth 64 }
        if (s.chan c).houseArrivals.any (·.1 = g) then addWaiter (mk (.house g)) (sleepIn c w .nothing s)
        else if x.arrived then addWaiter (mk (.houseArrive g)) (sleepIn c w .nothing s)
        else nextHouseArrive g (arriveHouse c g (addWaiter (mk (.house g)) (sleepIn c w .nothing s)))

/-- WAIT_BARRIER (R124, R393). -/
def execWaitBarrier (c : Fin 128) (s : State) : Host.Outcome State Fault Refusal :=
  .next (issueAs Op.waitBarrier c (issueWaitBarrier c) s)

/-! ### Signals (R126, R359, R363, R376, R378) -/

/-- A signal of channel c: applied at once here, or sent with a request for its acknowledgement (R521). -/
def issueSignal (c : Nat) (w : BitVec 256) (isCounter : Bool) (v : Word) (s : State) : State :=
  let a : Word := fld w 64 64
  let k := (s.chan c).room.toNat
  match syncTarget s k a isCounter with
  | .error e => syncBad c w e s
  | .ok (.localFlag p) => signalFlag p (v ≠ 0) (lastSignal s 1 c (ownNode s)) (advance c s)
  | .ok (.localCounter p) => signalCounter p v (lastSignal s 1 c (ownNode s)) (advance c s)
  | .ok (.remote n) =>
    if (egress s n).isNone then syncBad c w St.linkDown s else
    let (s, id) := nextReq s
    let s := s.setChan c { s.chan c with cur := some { opcode := fld w 0 8, flags := wFlags w, plan := .nothing } }
    let m : Msg := {
      mtype := 0x08, mflags := 1, dst := BitVec.ofNat 16 n, room := BitVec.ofNat 8 k, req := BitVec.ofNat 32 id,
      addr := (fld a 0 16).setWidth 64, arg0 := v }
    completeInstr c (addFlight c (.signal id) (sendMsg m s) 0 a)

/-- SIGNAL_FLAG (R359). -/
def issueSignalFlag (c : Nat) (w : BitVec 256) (s : State) : State :=
  if 1 < (fld w 32 8).toNat then syncBad c w St.malformed s
  else issueSignal c w false ((fld w 32 8).setWidth 64) s

def execSignalFlag (c : Fin 128) (s : State) : Host.Outcome State Fault Refusal :=
  .next (issueAs Op.signalFlag c (issueSignalFlag c) s)

/-- SIGNAL_COUNT (R363). -/
def issueSignalCount (c : Nat) (w : BitVec 256) (s : State) : State :=
  if fld w 128 32 = 0 then syncBad c w St.malformed s
  else issueSignal c w true ((fld w 128 32).setWidth 64) s

def execSignalCount (c : Fin 128) (s : State) : Host.Outcome State Fault Refusal :=
  .next (issueAs Op.signalCount c (issueSignalCount c) s)

/-! ### FENCE and NOTIFY (R125, R127) -/

def issueFence (c : Nat) (_w : BitVec 256) (s : State) : State :=
  withDomains c [] (fun s =>
    let s := advance c s
    if (s.chan c).flights ≠ [] then s.setChan c { s.chan c with hold := .fence } else s) s

/-- FENCE (R125). -/
def execFence (c : Fin 128) (s : State) : Host.Outcome State Fault Refusal :=
  .next (issueAs Op.fence c (issueFence c) s)

/-- The static checks of a NOTIFY (R127). -/
def notifyStatus (s : State) (k : Nat) (w : BitVec 256) : Byte :=
  let action := (fld w 40 8).toNat
  let a : Word := fld w 64 64
  if action % 2 = 1 && isRemotePeer s a && !isMember s (peerNode a) then St.linkDown
  else if vectorLimit k ≤ (fld w 32 8).toNat || action = 0 || 3 < action then St.malformed
  else if action = 2 then (if a = 0 then St.ok else St.malformed)
  else if offOf a % 8 ≠ 0 then St.malformed
  else match spaceOf a with
    | none => St.malformed
    | some .sync => St.malformed
    | some .peer => if peerOff a + 8 ≤ 2 ^ 50 then St.ok else St.badWindow
    | _ => spanStatus s k a 8

def issueNotify (c : Nat) (w : BitVec 256) (s : State) : State :=
  let k := (s.chan c).room.toNat
  let action := (fld w 40 8).toNat
  let a : Word := fld w 64 64
  let st := notifyStatus s k w
  if st ≠ St.ok then issueBad c w st s
  else if (s.chan c).flights ≠ [] then s.setChan c { s.chan c with hold := .fence }
  else
    let ds := if action % 2 = 1 then spanDomains s k a 8 else []
    withDomains c ds (fun s =>
      let s := s.setChan c { s.chan c with cur := some { opcode := fld w 0 8, flags := wFlags w, plan := .nothing } }
      let irq (s : State) : State := if 2 ≤ action then sendMsix k (fld w 32 8).toNat s else s
      if action % 2 = 1 then
        match runPut c k a (wholeRun (offOf a) (leB 8 (fld w 128 64 : Word))) 0 0 s with
        | (s, st) => if st = St.ok then completeInstr c (irq s) else failCur c st s
      else completeInstr c (irq s)) s

/-- NOTIFY (R127). -/
def execNotify (c : Fin 128) (s : State) : Host.Outcome State Fault Refusal :=
  .next (issueAs Op.notify c (issueNotify c) s)

end Sys2Proof.Machine
end

