-- ==== Sys2Proof/Machine/Mover.lean ====
section
/-! DEFINITION. Reductions at issue and the work of the Movers: bursts, tiles, contributions and stores, their events and
triggers (01 R26, R27, 03 R112, R128 to R130, R139 to R153, 12 R570 to R575). -/
namespace Sys2Proof.Machine

/-! ### REDUCE_SEND and REDUCE_STORE at issue (R128 to R130, R570 to R573) -/

/-- A reduction instruction is marked bad: the open instance of its group fails with it (R574). -/
def reduceFails (k g : Nat) (status : Byte) (s : State) : State :=
  match groupOf s g with
  | some x => if x.room = k then endInstance g status true s else s
  | none => s

def issueReduceBad (c : Nat) (w : BitVec 256) (status : Byte) (s : State) : State :=
  reduceFails (s.chan c).room.toNat (fld w 128 8).toNat status (issueBad c w status s)

/-- The open instance of the group, where the Room, FORMAT and CHUNK fit it (R570). -/
def instanceFor (s : State) (k g : Nat) (format : BitVec 4) (chunk : Nat) : Option (Group × Instance) :=
  match groupOf s g with
  | some x => match x.inst with
    | some i => if x.room = k && i.format = format && inRange i chunk then some (x, i) else none
    | none => none
  | none => none

/-- Elements that an accumulator can hold (R129). -/
def elementsOk (n : Nat) : Bool := 1 ≤ n && n ≤ 6291456

def issueReduceSend (c : Nat) (w : BitVec 256) (s : State) : State :=
  let h := s.chan c
  let k := h.room.toNat
  let n := (fld w 32 32).toNat
  let g := (fld w 128 8).toNat
  let fmt : BitVec 4 := fld w 136 4
  let op : BitVec 2 := fld w 140 2
  let chunk := (fld w 144 16).toNat
  let node := (fld w 160 10).toNat
  match withOff (flOffSrc (wFlags w)) (fld w 64 64) h.srcOff with
  | none => issueReduceBad c w St.malformed s
  | some src =>
    if node ≠ ownNode s && (!isMember s node || (egress s node).isNone) then issueReduceBad c w St.linkDown s
    else if !fmtReducible fmt || op = 3 || !elementsOk n || spaceOf src ≠ some .pantry then
      issueReduceBad c w St.malformed s
    else match instanceFor s k g fmt chunk with
      | none => issueReduceBad c w St.malformed s
      | some (x, i) =>
        let len := n * (fmtWidth fmt / 8)
        let st := if i.op ≠ op then St.malformed
          else if x.kib * 1024 < accBytes n then St.quota
          else spanStatus s k src len
        if st ≠ St.ok then issueReduceBad c w st s else
        let ds := pdLarder :: spanDomains s k src len
          ++ (if node = ownNode s then [] else spanDomains s k (BitVec.ofNat 64 (3 * 2 ^ 60 + node * 2 ^ 50)) 1)
        withDomains c ds (fun s =>
          let s := startPlan c w (.reduceSend src n fmt op g chunk node) .none len false ds s
          let s := s.setChan c { s.chan c with state := .waiting }
          let s := addWaiter { unit := .chan (Fin.ofNat 128 c), obj := .grant g chunk, timeoutUs := i.timeoutUs,
                               deadline := some (waitDeadline s i.timeoutUs) } s
          if node = ownNode s then
            reserve g { node := node, room := k, req := BitVec.ofNat 32 c, chan := some c, chunk := chunk, elements := n,
                        format := fmt, op := op } s
          else sendMsg { mtype := 0x40, dst := BitVec.ofNat 16 node, room := BitVec.ofNat 8 k,
                         req := BitVec.ofNat 32 c, arg0 := rdxArg g fmt op chunk n } s) s

/-- REDUCE_SEND (R572). -/
def execReduceSend (c : Fin 128) (s : State) : Host.Outcome State Fault Refusal :=
  .next (issueAs Op.reduceSend c (issueReduceSend c) s)

/-- The accumulator of a chunk as a read end: rank 1, in its 32-bit form (R130). It has no record, so the spec gives no
FILL for a region that reaches beyond its ELEMENTS (R73): the model reads 0 there (DESIGN CHOICE, log entry 74). -/
def accLayout (fmt : BitVec 4) (n : Nat) : Layout :=
  { format := if fmt = 5 || fmt = 7 then 5 else 0, extent := [n, 0, 0, 0], stride := [0, 0, 0, 0], goff := [0, 0, 0, 0]
    fill := 0 }

/-- The destination of a REDUCE_STORE: plain bytes, or a tile plan checked over its region (R130, R189, R190). -/
def withTarget (c k : Nat) (w : BitVec 256) (n : Nat) (cont : Word → Option TilePlan → State → State) (s : State) : State :=
  let h := s.chan c
  let fmt : BitVec 4 := fld w 136 4
  let bad := issueReduceBad c w
  if w.getLsbD 140 then
    withTile c k (fld w 64 64) none (if flOffDst (wFlags w) then some h.dstOff else none) (some (accLayout fmt n)) bad
      (fun t s =>
        if t.wr.format ≠ fmt || t.wr.comp ≠ 0 || spaceOf t.wr.base ≠ some .pantry || !tileOk t then bad St.malformed s
        else
          let b : Block := (t, false, false)
          let st := if belowZero b then St.badWindow else endStatus s k t.wr.base (writeSide b)
          if st ≠ St.ok then bad st s else cont t.wr.base (some t) s) s
  else match withOff (flOffDst (wFlags w)) (fld w 64 64) h.dstOff with
    | none => bad St.malformed s
    | some dst =>
      let st := if spaceOf dst ≠ some .pantry then St.malformed else spanStatus s k dst (rdxLen n fmt)
      if st ≠ St.ok then bad st s else cont dst none s

/-- The chunk of a group has all its contributions (R573). -/
def chunkReady (s : State) (g chunk : Nat) : Bool :=
  match instOf s g with
  | some i => match chunkOf i chunk with
    | some c => i.contrib ≤ c.committed
    | none => false
  | none => false

def issueReduceStore (c : Nat) (w : BitVec 256) (s : State) : State :=
  let k := (s.chan c).room.toNat
  let n := (fld w 32 32).toNat
  let g := (fld w 128 8).toNat
  let fmt : BitVec 4 := fld w 136 4
  let chunk := (fld w 144 16).toNat
  let us : Half := fld w 160 32
  let done : Word := fld w 192 64
  if !fmtReducible fmt || !elementsOk n then issueReduceBad c w St.malformed s
  else match instanceFor s k g fmt chunk with
    | none => issueReduceBad c w St.malformed s
    | some (_, i) =>
      let mismatch : Bool := match chunkOf i chunk with
        | some x => decide (x.elements ≠ n)
        | none => false
      let doneSt := if done = 0 then St.ok else match syncTarget s k done true with
        | .error e => e
        | .ok _ => St.ok
      if mismatch then issueReduceBad c w St.malformed s
      else if doneSt ≠ St.ok then issueReduceBad c w doneSt s
      else withTarget c k w n (fun dst t s =>
          let ds := pdLarder :: (match t with
            | some t => endDomains s k t.wr.base (writeSide (t, false, false))
            | none => spanDomains s k dst (rdxLen n fmt))
          withDomains c ds (fun s =>
            let s := match t with | some t => tileSeed c t s | none => s
            let item : Item := match t with | some t => .block t false false | none => .none
            let total := match t with | some t => writeTotal (t, false, false) | none => rdxLen n fmt
            let s := startPlan c w (.reduceStore dst n fmt g chunk done t) item total false ds s
            let ready := chunkReady s g chunk
            let s := s.setChan c { s.chan c with state := if ready then .running else .waiting }
            if ready then s else
              addWaiter { unit := .chan (Fin.ofNat 128 c), obj := .chunk g chunk, value := BitVec.ofNat 64 n,
                          timeoutUs := us, deadline := some (waitDeadline s us) } s) s) s

/-- REDUCE_STORE (R573). -/
def execReduceStore (c : Fin 128) (s : State) : Host.Outcome State Fault Refusal :=
  .next (issueAs Op.reduceStore c (issueReduceStore c) s)

/-- The REDUCE_STOREs that wait for a complete chunk run on (R573). -/
def wakeStores (g chunk : Nat) (s : State) : State :=
  if !chunkReady s g chunk then s else
  (s.waiters.filter fun w => w.obj == .chunk g chunk && !w.paused).foldl (fun t w => match w.unit with
    | .chan c => { t.setChan c { t.chan c with state := runState (t.chan c) } with waiters := (dropWaiter w t).waiters }
    | _ => t) s

/-! ### The next item of a list (R90 to R95, R112, R138) -/

/-- The instruction in progress fails; a reduction's instance fails with it (R574). -/
def failWork (c : Nat) (status : Byte) (s : State) : State :=
  match (s.chan c).cur with
  | some q =>
    let k := (s.chan c).room.toNat
    let s := failCur c status s
    match planGroup q.plan with
    | some g => reduceFails k g status s
    | none => s
  | none => s

/-- Finish the instruction once its last entry is done; step a list on to its next entry (R112, R157). -/
def nextEntry (c count len : Nat) (s : State) : State :=
  let s := noteProgress c (setCur c (fun q => { q with entry := q.entry + 1, done := 0, item := .none
                                                       contigDone := q.contigDone + len }) s)
  match (s.chan c).cur with
  | some q => if count ≤ q.entry then completeInstr c s else s
  | none => s

/-- Read and check the next entry of a MOVE_LIST (R112, R138). -/
def loadEntry (c k : Nat) (q : Cur) (addr : Word) (count mode : Nat) (contig : Word) (sw : BitVec 2) (s : State) : State :=
  match listEntry k addr mode q.entry contig q.contigDone (s.chan c) q.flags s with
  | (s, .error e) => failCur c e s
  | (s, .ok (src, dst, len)) =>
    let st := if wireOk q.flags dst then moveStatus s k src dst len sw else St.malformed
    if st ≠ St.ok then failCur c st s
    else if len = 0 then nextEntry c count 0 s
    else setCur c (fun q => { q with item := .move src dst len }) s

/-- Read the coordinates of the next block of a MOVE_COORDS (R90 to R95). A skipped write of a compressed move does nothing
at all; any other block is gone through offset by offset, so that the LFSR steps (R92, R182). -/
def loadBlock (c k : Nat) (q : Cur) (addr : Word) (count mode : Nat) (t : TilePlan) (s : State) : State :=
  match coordEntry k addr mode q.entry t s with
  | (s, .error e) => failCur c e s
  | (s, .ok (b, skR, skW)) =>
    if t.packed && skW then nextEntry c count 0 s else setCur c (fun q => { q with item := .block b skR skW }) s

/-- The item in hand, or the next one of a list. -/
def loadItem (c k : Nat) (s : State) : State :=
  match (s.chan c).cur with
  | some q =>
    if q.item ≠ .none then s else
    match q.plan with
    | .list addr count mode contig sw => loadEntry c k q addr count mode contig sw s
    | .coords addr count mode t => loadBlock c k q addr count mode t s
    | _ => s
  | none => s

/-! ### Contributions and stores (R572 to R575) -/

/-- The source of a REDUCE_SEND has been read: it is committed here, where one retry reads the source again, or sent
(R572, R575, R579). -/
def contribute (c k : Nat) (q : Cur) (n : Nat) (format : BitVec 4) (op : BitVec 2) (g chunk node : Nat) (src : Word)
    (s : State) : State :=
  let bytes := q.staged.flatMap (·.2)
  if node = ownNode s then
    match commit g chunk (widen format bytes) (pdTouch pdLarder s) with
    | (s, some true) => countAck g (completeInstr c s)
    | (s, some false) => setCur c (fun q => { q with done := 0, written := 0, staged := [] }) s
    | (s, none) => if ((s.chan c).cur.map (·.plan)) = some q.plan then failWork c St.residueMismatch s else s
  else
    let x : RdxSend := { group := g, chunk := chunk, src := src, elements := n, format := format, op := op }
    match sendContribution c k node x (rdxArg g format op chunk n) bytes (pdTouch pdLarder s) with
    | (s, some _) => completeInstr c (addFlight c (.contribution g chunk) s bytes.length)
    | (s, none) => failWork c St.linkDown s

/-- DONE of a REDUCE_STORE advances by 1 (R573, R578). -/
def signalDone (c k : Nat) (done : Word) (s : State) : State × Byte :=
  if done = 0 then (s, St.ok) else
  match syncTarget s k done true with
  | .error e => (s, e)
  | .ok (.localCounter p) => (signalCounter p 1 (lastSignal s 1 c (ownNode s)) s, St.ok)
  | .ok (.localFlag _) => (s, St.malformed)
  | .ok (.remote n) =>
    if (egress s n).isNone then (s, St.linkDown) else
    let (s, id) := nextReq s
    let m : Msg := {
      mtype := 0x08, mflags := 1, dst := BitVec.ofNat 16 n, room := BitVec.ofNat 8 k, req := BitVec.ofNat 32 id,
      addr := (fld done 0 16).setWidth 64, arg0 := 1 }
    (addFlight c (.signal id) (sendMsg m s) 0 done, St.ok)

/-- Every result has arrived: DONE, the accumulator, the store's count, and what waited for its room (R572, R573). -/
def finishStore (c k g chunk : Nat) (done : Word) (s : State) : State :=
  match signalDone c k done s with
  | (s, st) =>
    if st ≠ St.ok then failWork c st s else
    let s := setChunk g chunk none s
    let s := match instOf s g with
      | some i => setInst g (some { i with stored := satInc i.stored }) s
      | none => s
    checkDone g (completeInstr c s)

/-- The accumulator that a REDUCE_STORE reads, and what keeps it from being read (R573, R640). -/
def storeChunk (s : State) (q : Cur) : Option (Except Byte RChunk) :=
  match q.plan with
  | .reduceStore _ _ _ g chunk _ _ => match (instOf s g).bind (chunkOf · chunk) with
    | none => some (.error St.malformed)
    | some x => some (if accBad s x then .error St.eccUncorrected else .ok x)
  | _ => none

/-! ### One burst, tile or block after the other (R26, R139, R154) -/

/-- The work in hand is done: its LFSR and its drops stand (R74, R156), progress steps on, and the instruction goes on to
its next work, its next entry, or its end. -/
def workDone (c k : Nat) (s : State) : State :=
  match (s.chan c).cur with
  | none => s
  | some q =>
    let h := s.chan c
    let clean (q : Cur) (n : Nat) : Cur :=
      { q with stage := .fresh, toRead := [], toWrite := [], staged := [], unit := ([], false), served := [], drops := 0
               done := q.done + n }
    let s := s.setChan c { h with lfsr := q.lfsr, oob := satAdd h.oob q.drops }
    let step (n : Nat) (s : State) : State := noteProgress c (setCur c (clean · n) s)
    match q.plan with
    | .nothing => s
    | .copy src dst len _ =>
      let n := burstLen (offOf src + q.done) (offOf dst + q.done) (len - q.done)
      let s := step n s
      if len ≤ q.done + n then completeInstr c s else s
    | .fill dst len _ _ =>
      let n := burstLen 0 (offOf dst + q.done) (len - q.done)
      let s := step n s
      if len ≤ q.done + n then completeInstr c s else s
    | .list _ count _ _ _ => match q.item with
      | .move src dst len =>
        let n := burstLen (offOf src + q.done) (offOf dst + q.done) (len - q.done)
        let s := step n s
        if len ≤ q.done + n then nextEntry c count len s else s
      | _ => s
    | .tile t =>
      let s := step 1 s
      if tileCount t.rext ≤ q.done + 1 then completeInstr c s else s
    | .packed t =>
      let s := step 1 s
      if blockCount t ≤ q.done + 1 then completeInstr c s else s
    | .coords _ count _ t =>
      let s := step 1 s
      if (if t.packed then blockCount t else tileCount t.rext) ≤ q.done + 1 then nextEntry c count 0 s else s
    | .reduceSend src n f op g chunk node =>
      let m := burstLen (offOf src + q.done) 0 (rdxLen n f - q.done)
      let s := noteProgress c (setCur c (fun q => { clean q m with staged := q.staged, written := q.written + m }) s)
      let s := checkHalf c s
      if rdxLen n f ≤ q.done + m then
        match (s.chan c).cur with
        | some q' => contribute c k q' n f op g chunk node src s
        | none => s
      else s
    | .reduceStore dst n f g chunk done t =>
      match t with
      | some t =>
        let s := step 1 s
        if tileCount t.rext ≤ q.done + 1 then finishStore c k g chunk done s else s
      | none =>
        let m := burstLen 0 (offOf dst + q.done) (rdxLen n f - q.done)
        let s := step m s
        if rdxLen n f ≤ q.done + m then finishStore c k g chunk done s else s

/-- Every read burst of the work in hand has given its bytes: its write bursts are laid out; with none, it is done. -/
def layOut (c k : Nat) (s : State) : State :=
  match (s.chan c).cur with
  | none => s
  | some q =>
    match storeChunk s q with
    | some (.error e) =>
      let base := match q.plan with
        | .reduceStore _ _ _ g chunk _ _ => (((instOf s g).bind (chunkOf · chunk)).map (·.base)).getD 0
        | _ => 0
      failWork c e (if e = St.eccUncorrected then eccReport 1 (some k) 0 base s else s)
    | r =>
      let acc : Nat → Byte := match r with
        | some (.ok x) => fun o => mget s.larder (x.base + o)
        | _ => fun _ => 0
      match layWrites k (s.chan c) acc s q with
      | .error e => failWork c e s
      | .ok q' =>
        let s := setCur c (fun _ => q') s
        if q'.toRead = [] && q'.toWrite = [] then workDone c k s else s

/-- Bytes of a read burst are here: the next read burst is carried, or the work's writes are laid out. A failure that waited
for them marks the instruction bad now (R142). -/
def readArrived (c : Nat) (o : Nat) (bytes : List Byte) (s : State) : State :=
  let k := (s.chan c).room.toNat
  let s := setCur c (fun q => { q with waitRead := false, staged := q.staged ++ [(o, bytes)] }) s
  match (s.chan c).cur with
  | none => s
  | some q => match q.bad with
    | some r => failWork c r.status s
    | none => if q.toRead = [] then layOut c k s else s

/-- Lay out the next work of a channel that stands between two (R26). -/
def prepare (c : Nat) (s : State) : State :=
  let k := (s.chan c).room.toNat
  let s := loadItem c k s
  match (s.chan c).cur with
  | none => s
  | some q =>
    let listed : Bool := match q.plan with | .list .. => true | .coords .. => true | _ => false
    if q.plan = .nothing || (listed && q.item = .none) then s
    else
      let rs := unitReads q
      if rs = [] then layOut c k s else setCur c (fun q => { q with stage := .reading, toRead := rs }) s

/-! ### Arbiters on a burst's path (R21, R24, R32, R38, R410 to R413) -/

/-- Arbiters that a burst of n bytes at a local address, or at a Peer address of this node, passes. -/
def pathArbs (s : State) (k : Nat) (a : Word) (n : Nat) : List Nat :=
  let lines (p m : Nat) : List Nat := (List.range ((p + m - 1) / 64 - p / 64 + 1)).map fun i => (p / 64 + i) * 64
  let parts (cellar : Bool) (o : Nat) : List Nat := (granParts o n).flatMap fun r => match translate s k cellar r.1 with
    | some p => if r.2 = 0 then [] else (lines p r.2).map fun l => if cellar then 64 + cellarPort l else bankGroup l
    | none => []
  (match spaceOf a with
    | some .pantry => parts false (offOf a)
    | some .cellar => parts true (offOf a)
    | some .peer => if peerNode a = ownNode s then parts false (peerOff a) else []
    | _ => []).eraseDups

/-- Requester codes of a link group: its egress and its ingress (R410); the loopback port is in group 0. -/
def egressCode (p : Nat) : Nat := 5 - p / 4
def ingressCode (p : Nat) : Nat := 9 - p / 4

/-- The port towards the node of a remote Peer end. -/
def remotePort (s : State) (a : Word) : Option Nat := if isRemotePeer s a then egress s (peerNode a) else none

/-- The code under which a channel's read burst asks: the egress of the port that sends the bytes as they are, and
otherwise its Mover (R21, R50, R410, R411). -/
def readCode (s : State) (c : Nat) (q : Cur) : Nat :=
  let straight : Bool := match q.item with
    | .move _ _ _ => true
    | .block t _ _ => t.packed
    | .none => true
  match spaceOf (readBase q) with
  | some .cellar => 11 + c / 64
  | some .peer => egressCode 0
  | _ => match q.plan with
    | .reduceSend _ _ _ _ _ _ node => if node = ownNode s then 10 + c / 64 else egressCode ((egress s node).getD 0)
    | _ =>
      if straight && spaceOf (writeEnd q) = some .peer then egressCode ((remotePort s (writeEnd q)).getD 0)
      else 10 + c / 64

/-- The code under which its write burst asks: the Reducer's store, the ingress of the port that the bytes came through,
or its Mover. -/
def writeCode (s : State) (c : Nat) (q : Cur) : Nat :=
  let straight : Bool := match q.item with
    | .move _ _ _ => true
    | .block t _ _ => t.packed
    | .none => false
  match q.plan with
  | .reduceStore _ _ _ _ _ _ _ => 14
  | _ => match spaceOf (writeEnd q) with
    | some .cellar => 13 + c / 64
    | some .peer => ingressCode 0
    | _ =>
      if straight && spaceOf (readBase q) = some .peer then ingressCode ((remotePort s (readBase q)).getD 0)
      else 12 + c / 64

/-- The burst that a channel carries next: its address, its length, and the code that asks for its arbiters. -/
def nextBurst (s : State) (c : Nat) : Option (Word × Nat × Nat) :=
  match (s.chan c).cur with
  | none => none
  | some q => match q.stage, q.toRead, q.toWrite with
    | .reading, r :: _, _ => some (atOff (readBase q) r.1, r.2, readCode s c q)
    | .writing, _, w :: _ => some (atOff (writeEnd q) w.1, w.2.length, writeCode s c q)
    | _, _, _ => none

/-- Arbiters whose grant the channel's next burst still needs, with the code that asks (R38). -/
def wants (s : State) (c : Nat) : List (Nat × Nat) :=
  match nextBurst s c, (s.chan c).cur with
  | some (a, n, code), some q =>
    ((pathArbs s (s.chan c).room.toNat a n).filter fun x => !q.served.contains x).map fun x => (x, code)
  | _, _ => []

/-- The grants that are there move their lines: the counts of cycles without a beat start again (R413, R420). -/
def serveGrants (c : Nat) (s : State) : State :=
  let got := (wants s c).filter fun x => (s.arbiter x.1).owner = some x.2
  let s := got.foldl (fun t x => t.setArbiter x.1 { t.arbiter x.1 with hold := 0 }) s
  setCur c (fun q => { q with served := q.served ++ got.map (·.1) }) s

/-! ### Carrying a burst -/

/-- Carry the next read burst: bytes of this node are read now, and those of Host space or of another node are asked for
(R49, R520). -/
def readBurst (c k : Nat) (q : Cur) (r : Nat × Nat) (s : State) : State :=
  let a := atOff (readBase q) r.1
  let s := setCur c (fun q => { q with toRead := q.toRead.drop 1, served := [] }) s
  let wait (s : State) : State := setCur c (fun q => { q with waitRead := true }) s
  if isRemotePeer s a then
    let dst := match q.item with
      | .move _ dst _ => if spaceOf dst = some .pantry then some (offOf dst + q.done) else none
      | _ => none
    let code := match q.item with
      | .block t skR _ => if t.packed && !skR then packedCode s t q.done else 0
      | _ => 0
    match remoteRead c k a r.2 dst code s with
    | (s, st) => if st = St.ok then wait s else failWork c st s
  else if spaceOf a = some .host then
    if hostReach s k then wait (hostReadReq c k (offOf a) r.2 s) else failWork c St.busError s
  else match burstGet k a r.2 s with
    | (s, .error e) => failWork c e s
    | (s, .ok bs) => readArrived c r.1 bs s

/-- Carry the next write burst; after the last one the work is done. -/
def writeBurst (c k : Nat) (q : Cur) (run : BitRun) (s : State) : State :=
  let n := match q.item with
    | .block t _ _ => if t.packed && t.wr.comp ≠ 0 then blockLen t q.done else run.2.length
    | _ => run.2.length
  let s := setCur c (fun q => { q with toWrite := q.toWrite.drop 1, served := [] }) s
  match writeOne c k q run s with
  | (s, st) =>
    if st ≠ St.ok then failWork c st s
    else
      let s := checkHalf c (setCur c (fun q => { q with written := q.written + n }) s)
      match (s.chan c).cur with
      | some q => if q.toWrite = [] then workDone c k s else s
      | none => s

/-- Carry the next burst of a channel. -/
def carryBurst (c : Nat) (s : State) : State :=
  let k := (s.chan c).room.toNat
  match (s.chan c).cur with
  | none => s
  | some q => match q.stage, q.toRead, q.toWrite with
    | .reading, r :: _, _ => readBurst c k q r s
    | .writing, _, w :: _ => writeBurst c k q w s
    | _, _, _ => s

/-! ### The rotation (R26, R38) -/

/-- A domain that serves a channel's bursts: new ones while it is ON or CLOSING, and those of the burst, tile or block in
flight also while it drains (R468, R470). -/
def pdServes (s : State) (busy : Bool) (d : Nat) : Bool :=
  pdOf s d = .on || pdOf s d = .closing || (busy && pdOf s d = .draining)

/-- A burst, tile or block of the channel is in flight (R154). -/
def midWork (h : Chan) : Bool := match h.cur with | some q => q.stage ≠ .fresh | none => false

/-- The channel's next burst has begun: some arbiter on its path has moved its lines (R327, R346). -/
def burstHeld (h : Chan) : Bool := match h.cur with | some q => q.served ≠ [] | none => false

/-- The channel has a burst to carry now. A PAUSING channel carries what it has in flight (R154). -/
def burstReady (s : State) (c : Nat) : Bool :=
  let h := s.chan c
  (h.state = .running || (h.state = .pausing && midWork h)) && match h.cur with
    | some q => q.plan ≠ .nothing && !q.waitRead && q.domains.all (pdServes s (midWork h))
    | none => false

/-- The ready channel of Mover m that the rotation reaches first, from place `start` (R26). -/
def nextReady (s : State) (m start : Nat) : Option Nat :=
  ((List.range 64).map fun i => m * 64 + (start + i) % 64).find? (burstReady s)

/-- The turn of a channel: its next work is laid out where it stands between two, the grants that are there are taken, and
the burst is carried once each arbiter on its path has granted; until then the turn stays with the channel (R26, R38). -/
def moverTurn (m c : Nat) (s : State) : State :=
  let s := pdTouch (pdMover c) s
  let s := if midWork (s.chan c) then s else prepare c s
  let s := serveGrants c s
  if wants s c = [] then carryBurst c { s with rotor := s.rotor.set m ((c + 1) % 64) } else s

/-! ### Events and triggers (R145, R147, R150) -/

/-- HALF_EVENT: a half point whose bytes have arrived (R150, R153). -/
def execHalfEvent (c : Fin 128) (s : State) : Host.Outcome State Fault Refusal :=
  let h := s.chan c
  if h.halfDue = 0 then .next s else .next (raiseEvent c evHalf (s.setChan c { h with halfDue := h.halfDue - 1 }))

/-- FULL_EVENT: an instruction all of whose writes have arrived (R150, R153). -/
def execFullEvent (c : Fin 128) (s : State) : Host.Outcome State Fault Refusal :=
  let h := s.chan c
  if h.fullDue = 0 then .next s else .next (raiseEvent c evFull (s.setChan c { h with fullDue := h.fullDue - 1 }))

/-- TIMER_TRIGGER: one event for each period that has passed (R147). -/
def execTimerTrigger (c : Fin 128) (s : State) : Host.Outcome State Fault Refusal :=
  let h := s.chan c
  if h.trigSrc = 1 && h.trigNext ≤ s.now then
    .next (triggerEvent c (s.setChan c { h with trigNext := h.trigNext + h.trigPeriod.toNat }))
  else .next s

/-- PHASE_WAKE: a WAIT_PHASE whose moment has come (R123). -/
def execPhaseWake (c : Fin 128) (s : State) : Host.Outcome State Fault Refusal :=
  match s.waiters.find? (fun w => w.unit == .chan c && !w.paused) with
  | some w => match w.obj with
    | .phase _ t p => if reached s.cad.turn s.cad.phase t p then .next (endWait w St.ok 0 s) else .next s
    | _ => .next s
  | none => .next s

end Sys2Proof.Machine
end

