-- ==== Sys2Proof/Machine/Control.lean ====
section
/-! DEFINITION. Channel control: start, pause, resume, reset; timeouts, polls and grants that fall due
(03 R101, R103, R154 to R160, 08 R385 to R390, 12 R572, R573, R583 to R585). -/
namespace Sys2Proof.Machine

/-! ### Pause and resume (R154, R158) -/

/-- Reads of the channel are still on their way (R154). The spec does not say when an issued write burst to Peer or Host
space has completed: the model counts it as complete once it is sent, and lets only reads hold the channel in PAUSING
(DESIGN CHOICE, log entry 74). -/
def readsOut (h : Chan) : Bool :=
  (h.cur.map (·.waitRead)).getD false || h.flights.any fun f => match f.kind with | .read _ _ => true | _ => false

/-- Time left to a deadline, in whole µs as CH_PROGRESS holds it. -/
def timeLeft (s : State) (w : Waiter) : Nat :=
  match w.deadline with
  | some d => (d - s.now + 999) / 1000 * 1000
  | none => 0

/-- CH_PROGRESS as it reads: for WAIT_FLAG, WAIT_FULL, WAIT_COUNT and WAIT_BARRIER the timeout left in µs (R157). -/
def chProgress (s : State) (c : Nat) : Word :=
  let timed : List Byte := [Op.waitFlag, Op.waitFull, Op.waitCount, Op.waitBarrier]
  match s.waiters.find? (·.unit == .chan (Fin.ofNat 128 c)) with
  | some w =>
    if timed.contains (waitingOp (s.chan c)).1 then
      BitVec.ofNat 64 ((if w.paused then w.remaining else timeLeft s w) / 1000)
    else (s.chan c).progress
  | none => (s.chan c).progress

/-- The channel's waits stop counting and are not acted on (R154). -/
def pauseWaits (c : Nat) (s : State) : State :=
  let mine (w : Waiter) : Bool := w.unit == .chan (Fin.ofNat 128 c) && !w.paused
  { s with waiters := s.waiters.map fun w => if mine w then { w with paused := true, remaining := timeLeft s w } else w }

/-- A burst, tile or read of the channel is under way: a pause takes hold when it is done (R154). -/
def underWay (h : Chan) : Bool := readsOut h || midWork h

/-- A pause takes hold: at once where nothing is in flight (R154). -/
def applyPause (c : Nat) (s : State) : State :=
  let h := s.chan c
  match h.state with
  | .running => s.setChan c { h with state := if underWay h then .pausing else .paused }
  | .waiting => pauseWaits c (s.setChan c { h with state := .paused })
  | .held => s.setChan c { h with state := .paused }
  | _ => s

/-- What a resumed wait does: it counts on, and its condition is checked again (R155, R389). -/
def resumeWaits (c : Nat) (s : State) : State :=
  let me := WaitUnit.chan (Fin.ofNat 128 c)
  let s : State := { s with waiters := s.waiters.map fun (w : Waiter) =>
    if w.unit == me && w.paused then
      { w with paused := false, deadline := w.deadline.map fun _ => s.now + w.remaining } else w }
  match s.waiters.find? (·.unit == me) with
  | none => s.setChan c { s.chan c with state := .running }
  | some w =>
    let s := s.setChan c { s.chan c with state := .waiting }
    match w.obj with
    | .trigger => if (s.chan c).trigPending = 0 then s
      else { s.setChan c { s.chan c with state := .running } with waiters := (dropWaiter w s).waiters }
    | .chunk g n => wakeStores g n s
    | .house g =>
      if ((groupOf s g).map fun x => x.gen.setWidth 64) = some w.target then s else endWait w St.ok 0 s
    | .houseArrive g => nextHouseArrive g s
    | _ => match w.woken with
      | some (st, v) => endWait w st v s
      | none => settle s

/-- The last cause is gone: the channel goes on from where it stopped (R158). -/
def resumeChan (c : Nat) (s : State) : State :=
  let h := s.chan c
  if pauseCause h then s
  else match h.state with
    | .pausing => s.setChan c { h with state := .running }
    | .paused =>
      let down := h.heldBy.filter fun d => !pdOn s d
      if down ≠ [] then s.setChan c { h with state := .held, heldBy := down }
      else resumeWaits c (s.setChan c { h with heldBy := [], touches := [] })
    | _ => s

/-- The PAUSE bit takes a value (R154, R158). -/
def setPause (c : Nat) (pause : Bool) (s : State) : State :=
  let s := s.setChan c { s.chan c with pauseBit := pause }
  if pause then applyPause c s else resumeChan c s

/-- CH_PAUSE: the PAUSE bit of CH_CTL (R154, R158). -/
def execChPause (c : Fin 128) (pause : Bool) (s : State) : Host.Outcome State Fault Refusal :=
  .next (throughBar 0 (setPause c pause) s)

/-- CHANNEL_PAUSED: the last issued burst of a PAUSING channel has completed (R154). -/
def execChannelPaused (c : Fin 128) (s : State) : Host.Outcome State Fault Refusal :=
  let h := s.chan c
  .next (if h.state = .pausing && !underWay h then s.setChan c { h with state := .paused } else s)

/-! ### Start and reset (R101, R159, R160) -/

/-- RUN is written 1 (R101, R160). -/
def runChan (c : Nat) (s : State) : State :=
  if (s.chan c).state = .idle then startProgram c (s.chan c).pc none none s else s

/-- CH_RUN: RUN written 1 while IDLE starts a program at CH_PC (R101, R160). -/
def execChRun (c : Fin 128) (s : State) : Host.Outcome State Fault Refusal :=
  .next (throughBar 0 (runChan c) s)

/-- Tell the other node that a remote wait has ended here (R390, R521). -/
def cancelRemote (w : Waiter) (s : State) : State :=
  match w.obj with
  | .remote n _ => sendMsg { mtype := 0x0C, dst := BitVec.ofNat 16 n, room := BitVec.ofNat 8 (unitRoom s w.unit)
                             req := BitVec.ofNat 32 (unitReq w.unit) } s
  | _ => s

/-- Take a channel's waits, reads and reservations away without reports. -/
def dropChannelWork (c : Nat) (s : State) : State :=
  let me := WaitUnit.chan (Fin.ofNat 128 c)
  let s := (s.waiters.filter (·.unit == me)).foldl (fun t w => cancelRemote w t) s
  { s with
    waiters := s.waiters.filter (·.unit != me)
    hostReads := s.hostReads.filter (·.chan ≠ c)
    peerReads := s.peerReads.filter (·.chan ≠ c)
    groups := s.groups.map fun g => (g.1, { g.2 with resv := g.2.resv.filter (·.chan ≠ some c) })
    ports := tmap s.ports {} fun _ p => { p with tx := p.tx.map fun t => if t.chan = some c then { t with chan := none } else t } }

/-- The barrier wires are evaluated again after their members changed (R392, R394). -/
def evalWires (s : State) : State := settle ((List.range 32).foldl (fun t i => evalWire i t) s)

/-- CH_RESET: the program ends PARTIAL, and every register but CH_ROOM returns to reset (R78, R103, R159, R398). `ends`
says whether its entry gets a completion (R285). -/
def resetChannel (c : Nat) (ends : Bool) (s : State) : State :=
  let h := s.chan c
  let loaded := h.state ≠ .idle && h.state ≠ .unassigned
  let s := dropChannelWork c s
  let s := withdrawArrivals c s
  let r : ErrRec := { instrRec h c h.pc ((h.cur.map (·.opcode)).getD 0) 0 St.partialDone with detail := 0x0100 }
  let s := if loaded then
      finishProgram c St.partialDone 0 (roomRec h.room.toNat r
        (if ends then s else s.setChan c { s.chan c with entry := none }))
    else s
  evalWires (s.setChan c (s.chan c).clear)

/-- CH_RESET (R159). -/
def execChReset (c : Fin 128) (s : State) : Host.Outcome State Fault Refusal :=
  .next (throughBar 0 (resetChannel c true) s)

/-! ### Timeouts (R120, R389, R390, R583 to R585) -/

/-- Ports of this node on the path to a wait's object (R583). -/
def pathPorts (s : State) (w : Waiter) : List Nat :=
  match w.obj with
  | .remote n _ => (egress s n).toList
  | .house _ => if s.house.isHall then [] else (egress s 0).toList
  | .houseArrive _ => if s.house.isHall then [] else (egress s 0).toList
  | .grant _ _ => match w.unit with
    | .chan c => match (s.chan c).cur with
      | some q => match q.plan with
        | .reduceSend _ _ _ _ _ _ n => if n = ownNode s then [] else (egress s n).toList
        | _ => []
      | none => []
    | _ => []
  | .chunk g n => (s.ports.filter fun p => p.2.rx.any (·.rdx = some (g, n))).map (·.1)
  | _ => []

/-- A port on the path is in a replay episode (R505, R583). -/
def pathReplays (s : State) (w : Waiter) : Bool := (pathPorts s w).any fun p => (s.port p).episode.isSome

/-- A REDUCE_STORE's chunk waits for a contribution that has been asked for again (R585). -/
def residuePending (s : State) (w : Waiter) : Bool :=
  match w.obj with
  | .chunk g n => match (instOf s g).bind (chunkOf · n) with
    | some c => c.retrying
    | none => false
  | _ => false

/-- The timeout of a wait has expired: it is held over a replay, or the wait ends with WAIT_TIMEOUT (R122, R390). -/
def expireWait (w : Waiter) (s : State) : State :=
  if residuePending s w then s
  else if pathReplays s w then
    { s with waiters := s.waiters.map fun v => if v = w then { v with held := true, deadline := none } else v }
  else
    let found := foundOf s w.obj
    let s := cancelRemote w s
    match w.unit, w.obj with
    | .chan c, .chunk g _ => reduceFails (s.chan c).room.toNat g St.waitTimeout (endWait w St.waitTimeout found s)
    | .chan c, .grant g _ =>
      let s := match groupOf s g with
        | some x => setGroup g { x with resv := x.resv.filter (·.chan ≠ some c.val) } s
        | none => s
      reduceFails (s.chan c).room.toNat g St.waitTimeout (endWait w St.waitTimeout found s)
    | _, _ => endWait w St.waitTimeout found s

/-- The deadline of a wait has come and nothing keeps it from expiring. -/
def isDue (s : State) (w : Waiter) : Bool :=
  !w.paused && !condHolds s w && match w.deadline with
    | some d => d ≤ s.now
    | none => false

def isGrant (o : WaitObj) : Bool := match o with | .grant _ _ => true | _ => false

/-- WAIT_TIMEOUT_EXPIRY: a wait ends at its timeout (R389). -/
def execWaitTimeoutExpiry (u : WaitUnit) (s : State) : Host.Outcome State Fault Refusal :=
  match s.waiters.find? (fun w => w.unit == u && isDue s w && !isGrant w.obj) with
  | some w => .next (expireWait w s)
  | none => .next s

/-- RDX_GRANT_TIMEOUT: the grant of a REDUCE_SEND has not come in time (R572). -/
def execRdxGrantTimeout (c : Fin 128) (s : State) : Host.Outcome State Fault Refusal :=
  match s.waiters.find? (fun w => w.unit == .chan c && isDue s w && isGrant w.obj) with
  | some w => .next (expireWait w s)
  | none => .next s

/-- REMOTE_POLL: a refused registration is polled every 8 µs (R387). -/
def execRemotePoll (u : WaitUnit) (s : State) : Host.Outcome State Fault Refusal :=
  match s.waiters.find? (fun w => w.unit == u && !w.paused) with
  | none => .next s
  | some w => match w.obj, w.polled with
    | .remote n _, some t =>
      if t ≤ s.now then
        let w' := { w with polled := some (s.now + 8000) }
        .next (sendMsg (waitMsg 0x0D (unitRoom s u) n w)
          { s with polls := satInc s.polls, waiters := s.waiters.map fun v => if v = w then w' else v })
      else .next s
    | _, _ => .next s

/-! ### The Reducer (R572, R573) -/

/-- ACCUMULATOR_RESERVE: the first waiting reservation of a chunk that can be granted is granted (R572). -/
def execAccumulatorReserve (g : BitVec 8) (chunk : BitVec 16) (s : State) : Host.Outcome State Fault Refusal :=
  let g := g.toNat
  match nextResv s g chunk.toNat, groupOf s g with
  | some r, some x => match tryGrant g r (setGroup g { x with resv := x.resv.erase r } s) with
    | some t => .next t
    | none => .next s
  | _, _ => .next s

/-- CHUNK_COMPLETE: the REDUCE_STORE of a chunk with all its contributions runs on (R573). -/
def execChunkComplete (g : BitVec 8) (chunk : BitVec 16) (s : State) : Host.Outcome State Fault Refusal :=
  .next (wakeStores g.toNat chunk.toNat s)

end Sys2Proof.Machine
end

