-- ==== Sys2Proof/Machine/Queues.lean ====
section
/-! DEFINITION. The queue engine: scans, the checks of the head entry, dispatch, completions and their interrupts, and the
doorbells (05 R191 to R253, 10 R455, R456). -/
namespace Sys2Proof.Machine

/-! ### Rings -/

def Sq.size (q : Sq) : Nat := 2 ^ q.log2.toNat
def Cq.size (q : Cq) : Nat := 2 ^ q.log2.toNat

/-- Address of the slot of a count (R195). -/
def sqSlot (q : Sq) (n : Half) : Word := q.base + BitVec.ofNat 64 (n.toNat % q.size * 64)
def cqSlot (q : Cq) (n : Half) : Word := q.base + BitVec.ofNat 64 (n.toNat % q.size * 32)

/-- Domains under a span of a ring that are not ON: its accesses hold (R247). -/
def ringDown (s : State) (k : Nat) (a : Word) (n : Nat) : List Nat := (spanDomains s k a n).filter fun d => !pdOn s d

/-- Slots of a CQ that no completion and no reservation takes (R225, R237). -/
def cqFree (c : Cq) : Nat := c.size - (c.tail - c.head).toNat - c.reserved

/-- The record of a queue (R625). -/
def sqRec (g : Nat) (q : Sq) (status : Byte) (sev : BitVec 3) (count : Half) : ErrRec :=
  { status := status, severity := sev, room := q.room, unitKind := 2, unit := BitVec.ofNat 16 g, index := count,
    pcWhere := (q.loc.setWidth 32 : Half) ++ count }

/-- DEFERRED of a Room shows whether a head waits for energy (R456). -/
def noteDeferred (k : Nat) (s : State) : State :=
  s.setRoom k { s.room k with deferred := s.sqs.any fun q => q.2.valid && q.2.room.toNat = k && q.2.waitCause = 3 }

/-- The SQ halts with a latched count and status (R231, R235, R247). -/
def haltSq (g : Nat) (count : Half) (status : Byte) (s : State) : State :=
  noteDeferred (s.sq g).room.toNat
    (s.setSq g { s.sq g with halted := true, latchedCount := count, latchedStatus := status, latchedValid := true,
                             waitCause := 7, headStatus := 0 })

/-- WAIT_CAUSE as it reads: what stops the whole queue comes before what its head waits for (R250). -/
def shownCause (q : Sq) : BitVec 4 :=
  if q.halted then 7 else if q.admClosed then 6 else if q.dispatched.any (·.opcode = 0x19) then 5
  else if q.waitCause.toNat ≤ 4 then q.waitCause else 0

/-! ### Scans (R213 to R218, R221, R225, R235) -/

/-- The producer count, or how the scan ends (R213, R215). -/
def readProducer (g : Nat) (s : State) : State × Option Half :=
  let q := s.sq g
  match devGet q.room.toNat q.prodAddr 4 s with
  | (s, .error e) => (haltSq g q.fetch e (roomRec q.room.toNat (sqRec g q e 2 q.fetch) s), none)
  | (s, .ok bs) =>
    let p : Half := BitVec.ofNat 32 (leNat bs)
    if q.size < (p - q.cons).toNat then
      let s := s.setSq g { s.sq g with badProd := true, scanning := false }
      (roomRec q.room.toNat { sqRec g q St.malformed 1 q.fetch with arg1 := p.setWidth 64 } s, none)
    else (s, some p)

/-- What one look at the slot at FETCH finds. -/
inductive Looked where
  | taken | empty | blocked | failed
  deriving DecidableEq, Repr

/-- Look at the slot at FETCH and take its entry, where a place and a CQ slot are free (R218, R225). `p` is the producer
count in index mode. -/
def fetchOne (g : Nat) (p : Option Half) (s : State) : State × Looked :=
  let q := s.sq g
  let c := s.cq q.cq.toNat
  let a := sqSlot q q.fetch
  let k := q.room.toNat
  if p = some q.fetch then (s, .empty)
  else if c.error || 32 ≤ q.cache.length then (s, .blocked)
  else if cqFree c = 0 then
    (((s.setCq q.cq.toNat { c with fullStall := true }).setSq g
      { q with waitCause := if q.cache = [] && q.waitCause = 0 then 4 else q.waitCause }), .blocked)
  else if ringDown s k a 64 ≠ [] then (wakeAll (ringDown s k a 64) s, .blocked)
  else match devWord 64 k a s with
    | (s, .error e) => (haltSq g q.fetch e (roomRec k (sqRec g q e 2 q.fetch) s), .failed)
    | (s, .ok w) =>
      if p.isNone && wePhase w ≠ q.expPhase then (s, .empty)
      else
        let n := q.fetch + 1
        let s := s.setSq g { s.sq g with
          fetch := n, cache := q.cache ++ [{ count := q.fetch, turn := s.cad.turn, word := w }]
          expPhase := if n.toNat % q.size = 0 then !q.expPhase else q.expPhase
          waitCause := if q.waitCause = 4 then 0 else q.waitCause }
        (s.setCq q.cq.toNat { s.cq q.cq.toNat with reserved := (s.cq q.cq.toNat).reserved + 1 }, .taken)

def scanN (g : Nat) (p : Option Half) : Nat → State → State
  | 0, s => s
  | n + 1, s => match fetchOne g p s with
    | (s, .taken) => scanN g p n s
    | (s, .empty) => s.setSq g { s.sq g with scanning := false }
    | (s, .blocked) => s.setSq g { s.sq g with scanning := true }
    | (s, .failed) => s.setSq g { s.sq g with scanning := false }

/-- The queue engine may scan the SQ: a doorbell is pending or the last scan was not empty (R221, R222). -/
def mayScan (q : Sq) : Bool := q.valid && !q.halted && !q.admClosed && (q.dbPending || q.scanning)

/-- SQ_SCAN: one whole scan (R215, R218). -/
def execSqScan (q : Fin 1024) (s : State) : Host.Outcome State Fault Refusal :=
  let g : Nat := q
  let x := s.sq g
  if !mayScan x then .next s else
  let s := s.setSq g { x with dbPending := false, scanning := true }
  if x.phaseMode then .next (scanN g none 33 s)
  else if ringDown s x.room.toNat x.prodAddr 4 ≠ [] then
    .next (wakeAll (ringDown s x.room.toNat x.prodAddr 4) s)
  else match readProducer g s with
    | (s, none) => .next s
    | (s, some p) => .next (scanN g (some p) 33 s)

/-! ### Doorbells (R220, R227, R245, R252, R253) -/

/-- Discard the cached entries and fetch them again (R227). -/
def invalidate (g : Nat) (s : State) : State :=
  let q := s.sq g
  let c := s.cq q.cq.toNat
  let s := s.setCq q.cq.toNat { c with reserved := c.reserved - q.cache.length }
  noteDeferred q.room.toNat
    (s.setSq g { q with cache := [], fetch := q.cons, dbPending := true,
                        expPhase := q.cons.toNat / q.size % 2 = 0
                        waitCause := if q.waitCause = 5 || q.waitCause = 7 then q.waitCause else 0
                        headStatus := 0 })

/-- Function whose doorbell page it is. -/
def pageFn : Page → Nat
  | .pf _ => 0
  | .vf k _ => k

def pageSq (s : State) : Page → Option Nat
  | .pf g => if (s.sq g).valid then some g else none
  | .vf k n => (s.sqs.find? fun q => q.2.valid && q.2.room.toNat = k.val && q.2.loc.toNat = n.val).map (·.1)

def pageCq (s : State) : Page → Option Nat
  | .pf g => if (s.cq g).valid then some g else none
  | .vf k n => (s.cqs.find? fun q => q.2.valid && q.2.room.toNat = k.val && q.2.loc.toNat = n.val).map (·.1)

/-- A doorbell to a page with no queue (R253). -/
def noQueue (fn : Nat) (kind : Byte) (s : State) : State :=
  roomRec fn { status := St.malformed, severity := 1, unitKind := kind } s

/-- A write of DB_SQ (R220, R253). -/
def ringSq (page : Page) (s : State) : State :=
  match pageSq s page with
  | some g => setDbPending g s
  | none => noQueue (pageFn page) 2 s

/-- DB_SQ (R220). -/
def execDbSq (page : Page) (s : State) : Host.Outcome State Fault Refusal := .next (throughBar (pageFn page) (ringSq page) s)

/-- A write of DB_SQ_INVAL (R227, R253). -/
def invalSq (page : Page) (s : State) : State :=
  match pageSq s page with
  | some g => invalidate g s
  | none => noQueue (pageFn page) 2 s

/-- DB_SQ_INVAL (R227). -/
def execDbSqInval (page : Page) (s : State) : Host.Outcome State Fault Refusal :=
  .next (throughBar (pageFn page) (invalSq page) s)

/-! ### Completion queues (R236 to R246) -/

/-- The head count last read moves: the completions after it are unacknowledged, those before it still stand in the ring
(R242, R244). -/
def moveHead (h : Half) (c : Cq) : Cq :=
  let all := c.past ++ c.times
  let n := (c.tail - h).toNat
  { c with head := h, times := all.drop (all.length - n), past := all.take (all.length - n) }

/-- Read the head count again (R241, R242). A failed read leaves the stored count. A read whose quadrant or stack is not
ON holds and wakes it: the count stays as it is until CQ_HEAD_REREAD (R475, R478). -/
def readHead (i : Nat) (s : State) : State :=
  let c := s.cq i
  let k := c.room.toNat
  let down := ringDown s k c.headAddr 4
  if down ≠ [] then wakeAll down (s.setCq i { c with headDue := true }) else
  let s := s.setCq i { c with headDue := false }
  match devGet k c.headAddr 4 s with
  | (s, .error _) => s
  | (s, .ok bs) =>
    let h : Half := BitVec.ofNat 32 (leNat bs)
    if c.size < (c.tail - h).toNat then
      roomRec k { status := St.malformed, severity := 1, unitKind := 3, unit := BitVec.ofNat 16 i, arg1 := h.setWidth 64 }
        (s.setCq i { s.cq i with badHead := true })
    else s.setCq i (moveHead h (s.cq i))

/-- A condition of R244 holds. -/
def cqIrqDue (s : State) (c : Cq) : Bool :=
  max 1 c.irqCount.toNat ≤ c.times.length || c.irqWanted
    || (c.delayUs ≠ 0 && match c.times with
      | t :: _ => t + c.delayUs.toNat * 1000 ≤ s.now
      | [] => false)

/-- Send the CQ's interrupt where it is armed, enabled and due, and no head read that DB_CQ_ARM asked for is still to come
(R244, R245). -/
def cqIrq (i : Nat) (s : State) : State :=
  let c := s.cq i
  if c.armed && c.irqEn && !c.headDue && cqIrqDue s c then
    sendMsix c.room.toNat c.vector.toNat (s.setCq i { c with armed := false, irqWanted := false })
  else s

/-- A write of DB_CQ_ARM (R245, R253). -/
def armCq (page : Page) (s : State) : State :=
  match pageCq s page with
  | some i => cqIrq i (readHead i (s.setCq i { s.cq i with armed := true }))
  | none => noQueue (pageFn page) 3 s

/-- DB_CQ_ARM (R245). -/
def execDbCqArm (page : Page) (s : State) : Host.Outcome State Fault Refusal :=
  .next (throughBar (pageFn page) (armCq page) s)

/-- CQ_IRQ_DELAY: the oldest unacknowledged completion has waited DELAY_US (R244). -/
def execCqIrqDelay (q : Fin 1024) (s : State) : Host.Outcome State Fault Refusal := .next (cqIrq q s)

/-- A bound SQ waits for slots (R241). -/
def stalled (s : State) (i : Nat) : Bool :=
  s.sqs.any fun q => q.2.valid && q.2.cq.toNat = i && q.2.scanning && !q.2.halted

/-- FULL_STALL as it reads: a bound SQ that was stopped for want of slots still waits for them (R251). -/
def fullStallNow (s : State) (i : Nat) : Bool := (s.cq i).fullStall && stalled s i && cqFree (s.cq i) = 0

/-- CQ_HEAD_REREAD: at most once in each µs while a bound SQ is blocked, and the read that a DB_CQ_ARM still waits for,
with its interrupt (R241, R245). -/
def execCqHeadReread (q : Fin 1024) (s : State) : Host.Outcome State Fault Refusal :=
  let i : Nat := q
  let c := s.cq i
  if c.valid && c.headDue then .next (cqIrq i (readHead i s))
  else if c.valid && c.fullStall && stalled s i && (c.lastHeadRead = 0 || c.lastHeadRead + 999 ≤ s.now) then
    let s := readHead i (s.setCq i { c with lastHeadRead := s.now + 1 })
    .next (s.setCq i { s.cq i with fullStall := cqFree (s.cq i) = 0 })
  else .next s

/-- The 32 bytes of a completion entry (R210, R240). -/
def completionBytes (s : State) (q : Sq) (c : Cq) (r : Report) : List Byte :=
  leB 8 r.tag ++ leBytes 2 q.loc.toNat ++ leBytes 2 (r.count.toNat % q.size) ++ leB 1 r.status
    ++ leBytes 1 (if c.phase then 1 else 0) ++ leBytes 2 0 ++ leB 8 r.result ++ leB 8 s.stamp

/-- A completion write failed: the CQ stops (R246). -/
def cqFails (i : Nat) (status : Byte) (s : State) : State :=
  let c := s.cq i
  roomRec c.room.toNat { status := status, severity := 2, unitKind := 3, unit := BitVec.ofNat 16 i,
                         object := cqSlot c c.tail } (s.setCq i { c with error := true })

/-- An SQ that is being destroyed and has no entry left goes (R285). A CQ in ERROR takes no completion: what waits for one
holds nothing up (R246). -/
def finishDestroy (g : Nat) (s : State) : State :=
  let q := s.sq g
  let c := s.cq q.cq.toNat
  if q.destroying && q.dispatched = [] && (q.reports = [] || c.error) then
    let s := s.setCq q.cq.toNat { c with reserved := c.reserved - q.reports.length }
    let s := if q.dbFlagEn then match flagPhys s q.room.toNat q.dbFlag.toNat with
        | some p => s.setFlag p { s.flag p with dbSq := none }
        | none => s
      else s
    s.setSq g {}
  else s

/-- COMPLETION_WRITE: the oldest completion of an SQ is written, then TAIL, then the interrupt (R236 to R246). A CQ in
ERROR takes no further completion: what waits for it stays unwritten, and so no fence behind it is met (R198, R246). The
write holds while the quadrant or stack of the slot or of the TAIL word is not ON (R247, R475). -/
def execCompletionWrite (q : Fin 1024) (s : State) : Host.Outcome State Fault Refusal :=
  let g : Nat := q
  let x := s.sq g
  let i := x.cq.toNat
  let c := s.cq i
  let k := x.room.toNat
  match x.reports with
  | [] => .next s
  | r :: rs =>
    let a := cqSlot c c.tail
    let down := ringDown s k a 32 ++ (if c.phaseMode then [] else ringDown s k c.tailAddr 4)
    if c.error then .next (finishDestroy g s)
    else if down ≠ [] then .next (wakeAll down s)
    else match devPutAll k a (completionBytes s x c r) s with
      | (s, st) =>
        if st ≠ St.ok then .next (cqFails i st s)
        else
          let t := c.tail + 1
          let s := s.setCq i { s.cq i with
            tail := t, reserved := c.reserved - 1, times := c.times ++ [s.now]
            past := c.past.drop (c.past.length + c.times.length + 1 - c.size)
            phase := if t.toNat % c.size = 0 then !c.phase else c.phase
            irqWanted := c.irqWanted || r.irq }
          let s := s.setSq g { s.sq g with reports := rs }
          let (s, st) := if c.phaseMode then (s, St.ok) else devPutAll k c.tailAddr (leB 4 t) s
          .next (finishDestroy g (if st = St.ok then cqIrq i s else cqFails i st s))

/-! ### Step 1: the entry is well formed (R195, R196, R202 to R206, R229) -/

abbrev b8 (w : BitVec 512) (k : Nat) : Nat := (fld w (8 * k) 8).toNat
abbrev b16 (w : BitVec 512) (k : Nat) : BitVec 16 := fld w (8 * k) 16
abbrev b32 (w : BitVec 512) (k : Nat) : Half := fld w (8 * k) 32
abbrev b64 (w : BitVec 512) (k : Nat) : Word := fld w (8 * k) 64

/-- Channels of a Room. -/
def roomChans (s : State) (k : Nat) : List Nat :=
  (s.chans.filter fun h => h.2.assigned && h.2.room.toNat = k).map (·.1)

/-- CHANNEL of a channel-target entry (R204). -/
def channelOk (s : State) (k ch : Nat) : Bool :=
  ch = 255 || (ch < 128 && (s.chan ch).assigned && (s.chan ch).room.toNat = k)

/-- TRIGGER of a RUN_PROGRAM (R149, R202). -/
def triggerOk (s : State) (k : Nat) (v : Word) : Bool :=
  fld v 2 2 = 0 && fld v 4 4 = 0 && fld v 15 1 = 0
    && (fld v 0 2 ≠ 2 || (let c := (fld v 8 7).toNat; (s.chan c).assigned && (s.chan c).room.toNat = k))

/-- A Sync-space operand whose form R43 permits. -/
def syncForm (a : Word) : Bool :=
  match syncRef a with
  | .ok _ => true
  | .error e => e = St.syncRange

/-- A Pantry address with an alignment. -/
def pantryAligned (a : Word) (n : Nat) : Bool := spaceOf a = some .pantry && offOf a % n = 0

/-- The address of one end of a data move: a space that holds data, no reserved bit set (R11, R12, R41, R43). -/
def dataAddr (a : Word) : Bool :=
  match spaceOf a with
  | some .sync => false
  | some _ => true
  | none => false

/-- A table's address: Pantry or Cellar space, aligned (R101, R112). -/
def tableAddr (a : Word) (align : Nat) : Bool :=
  (spaceOf a = some .pantry || spaceOf a = some .cellar) && offOf a % align = 0

/-- Parameters of each opcode (R202 to R206, R568, R605, R613). -/
def paramsOk (s : State) (k : Nat) (w : BitVec 512) : Bool :=
  match (weOpcode w).toNat with
  | 0x01 =>
    b16 w 16 = 0 && zeroBytes w 19 24 && channelOk s k (b8 w 18)
      && tableAddr (b64 w 24) 32
      && triggerOk s k (b64 w 32) && b8 w 40 < 16 && b8 w 41 < vectorLimit k && zeroBytes w 42 64
  | 0x02 => b16 w 16 &&& ~~~0x0C38#16 = 0 && flWire (b16 w 16) ≠ 3 && channelOk s k (b8 w 18) && zeroBytes w 19 20
      && dataAddr (b64 w 24) && dataAddr (b64 w 32) && zeroBytes w 40 64
  | 0x03 => b16 w 16 &&& ~~~0x0C08#16 = 0 && flWire (b16 w 16) ≠ 3 && channelOk s k (b8 w 18) && zeroBytes w 19 24
      && tableAddr (b64 w 24) 64 && zeroBytes w 32 64
  | 0x04 => b16 w 16 &&& ~~~0x0008#16 = 0 && channelOk s k (b8 w 18) && zeroBytes w 19 20 && dataAddr (b64 w 24)
      && [1, 2, 4, 8].contains (b8 w 40) && zeroBytes w 41 64
  | 0x08 =>
    let extra := (if w.getLsbD 136 then 1 else 0) + (if w.getLsbD 137 then 1 else 0)
    b8 w 16 < 8 && b8 w 17 < 8 && 1 ≤ (b16 w 18).toNat && 1 ≤ (b32 w 20).toNat && (b32 w 20).toNat ≤ 65536
      && extra < (b32 w 20).toNat && pantryAligned (b64 w 24) 1 && pantryAligned (b64 w 32) 4
      && pantryAligned (b64 w 40) 4 && pantryAligned (b64 w 48) 4 && zeroBytes w 60 64
  | 0x09 =>
    b8 w 16 < 8 && b8 w 17 < 4 && 1 ≤ (b16 w 18).toNat && 1 ≤ (b32 w 20).toNat && (b32 w 20).toNat ≤ 65536
      && pantryAligned (b64 w 24) 4 && pantryAligned (b64 w 32) 4 && pantryAligned (b64 w 40) 1
      && pantryAligned (b64 w 48) 4 && zeroBytes w 60 64
  | 0x10 =>
    (match groupOf s (b8 w 16) with | some x => x.room = k | none => false)
      && fmtReducible (fld w 136 4) && fld w 140 2 ≠ 3 && fld w 142 2 = 0 && 2 ≤ b8 w 18 && zeroBytes w 19 20
      && zeroBytes w 22 24 && 1 ≤ (b32 w 24).toNat && (b32 w 24).toNat ≤ 65536
      && (b32 w 28 = 0 || 64 ≤ (b32 w 28).toNat) && zeroBytes w 40 64
  | 0x18 =>
    syncForm (b64 w 16) && zeroBytes w 28 64
      && (if (b64 w 16).getLsbD 12 then b32 w 24 ≠ 0 else (b32 w 24).toNat ≤ 1)
  | 0x19 =>
    syncForm (b64 w 16) && zeroBytes w 25 32 && zeroBytes w 44 64
      && (if (b64 w 16).getLsbD 12 then b8 w 24 = 0 else b8 w 24 ≤ 3 && b64 w 32 = 0)
  | 0x7E => zeroBytes w 16 64
  | _ => false

def weKnown (o : Byte) : Bool := [0x01, 0x02, 0x03, 0x04, 0x08, 0x09, 0x10, 0x18, 0x19, 0x7E].contains o.toNat

/-- Status of an entry at step 1 (R229). -/
def entryStatus (s : State) (k : Nat) (w : BitVec 512) : Byte :=
  if !weKnown (weOpcode w) then St.badOpcode
  else if entryHeaderOk w && paramsOk s k w then St.ok else St.malformed

/-! ### Steps 2 to 5 -/

/-- The head entry is past its deadline (R199). -/
def entryLate (s : State) (e : Cached) : Bool :=
  weDeadline e.word && reached s.cad.turn s.cad.phase (e.turn + (fld e.word 24 8).setWidth 32) (fld e.word 32 32)

/-- Step 3 passes: every earlier entry's completion has been written (R198). -/
def fenceOk (q : Sq) (e : Cached) : Bool := !weFence e.word || (q.dispatched = [] && q.reports = [])

/-- What a head entry runs on. -/
inductive Target where
  | chan (c : Nat)
  | study (j : Nat)
  | group (g : Nat)
  | engine
  /-- The Room has no channel (R205). -/
  | quota
  deriving DecidableEq, Repr

/-- Step 4: the free target of an entry; none where it must wait (R204, R205, R569). -/
def targetOf (s : State) (k : Nat) (w : BitVec 512) : Option Target :=
  match (weOpcode w).toNat with
  | 0x08 => ((List.range 16).find? fun j => !(s.study.jobs.any (·.1 = j))).map .study
  | 0x09 => ((List.range 16).find? fun j => !(s.study.jobs.any (·.1 = j))).map .study
  | 0x10 => if (instOf s (b8 w 16)).isSome then none else some (.group (b8 w 16))
  | 0x18 => some .engine
  | 0x19 => some .engine
  | 0x7E => some .engine
  | _ =>
    if roomChans s k = [] then some .quota
    else if b8 w 18 = 255 then ((roomChans s k).find? fun c => (s.chan c).state = .idle).map .chan
    else if (s.chan (b8 w 18)).state = .idle then some (.chan (b8 w 18)) else none

/-- Two entries want the same free target (R234). -/
def sameTarget : Target → Target → Bool
  | .chan a, .chan b => a = b
  | .study _, .study _ => true
  | .group a, .group b => a = b
  | _, _ => false

/-- The SQ may dispatch its head now: it runs, and no dispatched WAIT holds it (R208, R231). -/
def mayDispatch (q : Sq) : Bool := q.valid && !q.halted && !q.admClosed && !(q.dispatched.any (·.opcode = 0x19))

/-- Domains that an entry touches where it is dispatched to a target: the Mover of its channel, what its spans and the
fetch of its program reach, the Study (R469). -/
def entryDomains (s : State) (k : Nat) (w : BitVec 512) (t : Target) : List Nat :=
  match t with
  | .chan c => pdMover c :: match (weOpcode w).toNat with
    | 0x01 => spanDomains s k (b64 w 24) 32
    | 0x02 => spanDomains s k (b64 w 24) (b32 w 20).toNat ++ spanDomains s k (b64 w 32) (b32 w 20).toNat
    | 0x03 => spanDomains s k (b64 w 24) 128
    | _ => spanDomains s k (b64 w 24) (b32 w 20).toNat
  | .study _ => [pdStudy]
  | _ => []

/-- Domains that hold the dispatch of an entry: those that are not ON (R470 step 1). -/
def dispatchHeld (s : State) (k : Nat) (w : BitVec 512) (t : Target) : List Nat :=
  (entryDomains s k w t).filter fun d => !pdOn s d

/-- The target of an SQ's head where it has passed steps 1 to 3 and nothing holds its dispatch. -/
def headTarget (s : State) (g : Nat) : Option Target :=
  let q := s.sq g
  match q.cache with
  | [] => none
  | e :: _ =>
    if mayDispatch q && entryStatus s q.room.toNat e.word = St.ok && !(weDropLate e.word && entryLate s e) && fenceOk q e then
      (targetOf s q.room.toNat e.word).filter fun t => dispatchHeld s q.room.toNat e.word t = []
    else none

/-- SQ a ranks before SQ b: PRIO, then the turn of service, then the number (R234). -/
def ranksBefore (s : State) (a b : Nat) : Bool :=
  let x := s.sq a
  let y := s.sq b
  y.prio < x.prio || (x.prio = y.prio && (x.turnNo < y.turnNo || (x.turnNo = y.turnNo && a < b)))

/-- Other SQs of the same Room. -/
def siblings (s : State) (g : Nat) : List Nat :=
  (s.sqs.filter fun q => q.1 ≠ g && q.2.valid && q.2.room = (s.sq g).room).map (·.1)

/-- Another SQ of the Room is to be served first at the same target (R234). -/
def outranked (s : State) (g : Nat) (t : Target) : Bool :=
  (siblings s g).any fun x => ranksBefore s x g && (match headTarget s x with
    | some u => sameTarget t u
    | none => false)

/-- Step 5: the balance after admission of a class estimate; none where it is not admitted (R455). -/
def energyAdmits (r : Room) (tokens : Nat) : Option Int :=
  let e := tokens * 65536
  match r.balance with
  | none => none
  | some b =>
    if b < 0 then none
    else if e ≤ r.carry then (if (e : Int) ≤ b then some (b - e) else none)
    else if b = r.carry then some (b - e) else none

/-- Admission of an entry of a Room under its class (R455). -/
def admitEntry (s : State) (k : Nat) (w : BitVec 512) : Option Int :=
  energyAdmits (s.room k) (s.nrg.classes.getD (weClass w).toNat 0).toNat

/-- The head of an SQ has come to step 5 and is not admitted. -/
def wantsEnergy (s : State) (g : Nat) : Bool :=
  let q := s.sq g
  match headTarget s g, q.cache with
  | some t, e :: _ => !outranked s g t && (admitEntry s q.room.toNat e.word).isNone
  | _, _ => false

/-- Another SQ of the Room ranks first and its head waits for energy, whether or not it has been looked at (R456). -/
def energyBehind (s : State) (g : Nat) : Bool := (siblings s g).any fun x => ranksBefore s x g && wantsEnergy s x

/-! ### Step 6: dispatch (R207 to R209, R228) -/

/-- The head leaves the cache: CONS advances (R225, R248). -/
def takeHead (g : Nat) (s : State) : State :=
  let q := s.sq g
  s.setSq g { q with cons := q.cons + 1, cache := q.cache.drop 1, waitCause := 0, headStatus := 0 }

/-- The head completes without running. -/
def completeHead (g : Nat) (e : Cached) (status : Byte) (s : State) : State :=
  let s := takeHead g s
  noteDeferred (s.sq g).room.toNat
    (s.setSq g (addReport { count := e.count, tag := weTag e.word, status := status, result := 0, irq := weIrq e.word,
                            opcode := weOpcode e.word } (s.sq g)))

/-- The head waits. -/
def headWaits (g : Nat) (cause : BitVec 4) (status : Byte) (s : State) : State :=
  noteDeferred (s.sq g).room.toNat (s.setSq g { s.sq g with waitCause := cause, headStatus := status })

/-- The implicit instruction of a COPY, TILE or FILL (R202, R203). -/
def implicitWord (w : BitVec 512) : BitVec 256 :=
  let fl : BitVec 16 := b16 w 16 ||| (if weBarrier w then 1 else 0)
  match (weOpcode w).toNat with
  | 0x02 => (0#64 : BitVec 64) ++ b64 w 32 ++ b64 w 24 ++ b32 w 20 ++ fl ++ (0#8 : Byte) ++ Op.move
  | 0x03 => (0#128 : BitVec 128) ++ b64 w 24 ++ (0#32 : Half) ++ fl ++ (0#8 : Byte) ++ Op.moveTile
  | _ => (0#56 : BitVec 56) ++ (fld w 320 8 : Byte) ++ b64 w 32 ++ b64 w 24 ++ b32 w 20 ++ fl ++ (0#8 : Byte) ++ Op.fill

/-- A channel takes the entry (R101, R102, R202, R203). -/
def startEntry (g c : Nat) (e : Cached) (s : State) : State :=
  let w := e.word
  let r : EntryRef := { sq := g, count := e.count.toNat, barrier := weBarrier w }
  if weOpcode w = 0x01 then
    let s := startProgram c (b64 w 24) none (some r) s
    let h := loadTrigger (b64 w 32) s.now (s.chan c)
    s.setChan c { h with irqEn := fld w 320 4, irqVector := fld w 328 8 }
  else startProgram c (s.chan c).pc (some (implicitWord w)) (some r) s

/-- A SIGNAL entry is applied (R207, R211). RESULT of one to a flag is the value it signals, whatever a CONSUME waiter that
it ends does to the flag in the same operation: R211 names only the doorbell's consumption (DESIGN CHOICE, log entry
74). -/
def signalEntry (g : Nat) (e : Cached) (s : State) : State :=
  let q := s.sq g
  let a := b64 e.word 16
  let v : Word := (b32 e.word 24).setWidth 64
  match syncTarget s q.room.toNat a (a.getLsbD 12) with
  | .error st => completeEntry g e.count st 0 s
  | .ok (.localFlag p) =>
    let s := signalFlag p (v ≠ 0) (lastSignal s 2 g (ownNode s)) s
    completeEntry g e.count St.ok
      (if (s.flag p).dbSq.isSome && v ≠ 0 then 0 else v) s
  | .ok (.localCounter p) =>
    let r := (s.counter p).value + v
    completeEntry g e.count St.ok r (signalCounter p v (lastSignal s 2 g (ownNode s)) s)
  | .ok (.remote n) =>
    if (egress s n).isNone then completeEntry g e.count St.linkDown 0 s else
    let (s, id) := nextReq s
    let m : Msg := {
      mtype := 0x08, mflags := 1, dst := BitVec.ofNat 16 n, room := BitVec.ofNat 8 q.room.toNat,
      req := BitVec.ofNat 32 id, addr := (fld a 0 16).setWidth 64, arg0 := v }
    sendMsg m { s with sqSignals := s.sqSignals ++ [{ req := id, sq := g, count := e.count }] }

/-- A WAIT entry is performed (R208). -/
def waitEntry (g : Nat) (e : Cached) (s : State) : State :=
  let q := s.sq g
  let a := b64 e.word 16
  let us := b32 e.word 40
  let isC := a.getLsbD 12
  let mode := b8 e.word 24
  let mk (o : WaitObj) : Waiter :=
    { unit := .sq (Fin.ofNat 1024 g), obj := o, addr := a, mode := fld e.word 192 8, value := b64 e.word 32,
      target := b64 e.word 32, expect := mode % 2 = 1, consume := !isC && 2 ≤ mode, timeoutUs := us,
      deadline := some (waitDeadline s us) }
  let hold (s : State) : State := s.setSq g { s.sq g with waitCause := 5 }
  match syncTarget s q.room.toNat a isC with
  | .error st => completeEntry g e.count st 0 s
  | .ok (.localFlag p) => settle (addWaiter (mk (.flag p)) (hold s))
  | .ok (.localCounter p) => settle (addWaiter (mk (.counter p)) (hold s))
  | .ok (.remote n) =>
    if tooShort us then completeEntry g e.count St.syncRange 0 s
    else if (egress s n).isNone then completeEntry g e.count St.linkDown 0 s
    else sendMsg (waitMsg 0x0A q.room.toNat n (mk (.remote n a))) (addWaiter (mk (.remote n a)) (hold s))

/-- A COLLECTIVE opens its instance (R568, R569). -/
def openInstance (g grp : Nat) (e : Cached) (s : State) : State :=
  let w := e.word
  checkDone grp (setInst grp (some {
    sq := g, count := e.count, format := fld w 136 4, op := fld w 140 2, contrib := b8 w 18, first := (b16 w 20).toNat,
    range := (b32 w 24).toNat, timeoutUs := b32 w 28, sends := b32 w 32, stores := b32 w 36 }) s)

/-- A Study job starts with the set as it stands (R588, R597). -/
def startJob (g j : Nat) (e : Cached) (s : State) : State :=
  let k := (s.sq g).room.toNat
  let job : Job := { room := k, sq := g, count := e.count, word := e.word,
                     set := tget s.study.sets {} (k * 8 + b8 e.word 16) }
  { s with study := { s.study with jobs := tput s.study.jobs j job } }

/-- The next turn of service in a Room (R234). -/
def nextTurn (s : State) (k : Nat) : Nat :=
  1 + (s.sqs.filter fun q => q.2.room.toNat = k).foldl (fun m q => max m q.2.turnNo) 0

/-- Dispatch an admitted head to its target. -/
def dispatchTo (g : Nat) (e : Cached) (t : Target) (s : State) : State :=
  let k := (s.sq g).room.toNat
  let s := takeHead g s
  let q := s.sq g
  let d : Dispatched := { count := e.count, tag := weTag e.word, opcode := weOpcode e.word, late := entryLate s e,
                          irq := weIrq e.word }
  let s := s.setSq g { q with dispatched := q.dispatched ++ [d], age := 0, agePart := true, overNow := false, turnNo := nextTurn s k }
  match t with
  | .chan c => startEntry g c e s
  | .study j => startJob g j e s
  | .group n => openInstance g n e s
  | .quota => completeEntry g e.count St.quota 0 s
  | .engine =>
    match (weOpcode e.word).toNat with
    | 0x18 => signalEntry g e s
    | 0x19 => waitEntry g e s
    | _ => completeEntry g e.count St.ok 0 s

/-- The malformed-entry policy (R230, R231). -/
def malformedHead (g : Nat) (e : Cached) (status : Byte) (s : State) : State :=
  let s := completeHead g e status s
  if (s.sq g).haltPolicy then haltSq g e.count status s else s

/-- Steps 4 to 6 of R228 for a head that has passed steps 1 to 3. A head whose domains are not ON holds at step 4 and
wakes those that the idle policy lowered (R470, R478). -/
def dispatchReady (g : Nat) (e : Cached) (s : State) : State :=
  let k := (s.sq g).room.toNat
  match targetOf s k e.word with
  | none => headWaits g 2 0 s
  | some t =>
    if dispatchHeld s k e.word t ≠ [] then headWaits g 2 0 (wakeAll (dispatchHeld s k e.word t) s)
    else if outranked s g t then headWaits g 2 0 s
    else if energyBehind s g then headWaits g 3 0x70 s
    else match admitEntry s k e.word with
      | none => headWaits g 3 0x70 s
      | some b => noteDeferred k (dispatchTo g e t (s.setRoom k { s.room k with balance := some b }))

/-- The checks of the head entry in their order (R228). `ok` selects the entries that a command may treat. A staging
parity error in the cached copy discards it, and it is fetched again (R641). -/
def dispatchHead (g : Nat) (ok : BitVec 512 → Bool) (s : State) : State :=
  let q := s.sq g
  match q.cache with
  | [] => s
  | e :: _ =>
    if !mayDispatch q || !ok e.word then s
    else if Config.parityFault s.free then
      invalidate g { s with free := s.free + 1, err := { s.err with parity := satInc s.err.parity } }
    else
      let s := { s with free := s.free + 1 }
      let st := entryStatus s q.room.toNat e.word
      if st ≠ St.ok then malformedHead g e st s
      else if weDropLate e.word && entryLate s e then completeHead g e St.late s
      else if !fenceOk q e then headWaits g 1 0 s
      else dispatchReady g e s

/-- SQ_DISPATCH: the head entry, whatever it is (R228). -/
def execSqDispatch (q : Fin 1024) (s : State) : Host.Outcome State Fault Refusal :=
  .next (dispatchHead q (fun _ => true) s)

/-- The head has this opcode. -/
abbrev isOpcode (o : Byte) (w : BitVec 512) : Bool := weOpcode w = o

/-- RUN_PROGRAM (R101, R102). -/
def execRunProgram (q : Fin 1024) (s : State) : Host.Outcome State Fault Refusal :=
  .next (dispatchHead q (isOpcode 0x01) s)

/-- COPY (R203). -/
def execCopy (q : Fin 1024) (s : State) : Host.Outcome State Fault Refusal := .next (dispatchHead q (isOpcode 0x02) s)

/-- TILE (R203). -/
def execTile (q : Fin 1024) (s : State) : Host.Outcome State Fault Refusal := .next (dispatchHead q (isOpcode 0x03) s)

/-- FILL as a work entry (R203). -/
def execFillEntry (q : Fin 1024) (s : State) : Host.Outcome State Fault Refusal :=
  .next (dispatchHead q (isOpcode 0x04) s)

/-- COLLECTIVE (R568, R569). -/
def execCollective (q : Fin 1024) (s : State) : Host.Outcome State Fault Refusal :=
  .next (dispatchHead q (isOpcode 0x10) s)

/-- SIGNAL as a work entry (R207). -/
def execSignalEntry (q : Fin 1024) (s : State) : Host.Outcome State Fault Refusal :=
  .next (dispatchHead q (isOpcode 0x18) s)

/-- WAIT as a work entry (R208). -/
def execWaitEntry (q : Fin 1024) (s : State) : Host.Outcome State Fault Refusal :=
  .next (dispatchHead q (isOpcode 0x19) s)

/-- NOP (R209). -/
def execNop (q : Fin 1024) (s : State) : Host.Outcome State Fault Refusal := .next (dispatchHead q (isOpcode 0x7E) s)

/-- DEADLINE_DROP: a well-formed head with DROP_IF_LATE is past its deadline, whatever it waits for, and whether or not
its SQ is halted (R200). -/
def execDeadlineDrop (q : Fin 1024) (s : State) : Host.Outcome State Fault Refusal :=
  let g : Nat := q
  let x := s.sq g
  match x.cache with
  | [] => .next s
  | e :: _ =>
    if x.valid && !x.admClosed && entryStatus s x.room.toNat e.word = St.ok && weDropLate e.word && entryLate s e then
      let s := completeHead g e St.late s
      .next (if x.waitCause = 5 || x.waitCause = 7 then s.setSq g { s.sq g with waitCause := x.waitCause } else s)
    else .next s

/-- Count of the entry at the head of an SQ: the oldest one not dispatched. -/
def headCount (x : Sq) : Half := match x.cache with | e :: _ => e.count | [] => x.fetch

/-- SQ_OVERLOAD: AGE has passed OVERLOAD_TURNS × 256 slots (R249). -/
def execSqOverload (q : Fin 1024) (s : State) : Host.Outcome State Fault Refusal :=
  let g : Nat := q
  let x := s.sq g
  if x.valid && x.overloadTurns ≠ 0 && !x.overNow && x.overloadTurns.toNat * 256 < x.age.toNat then
    .next (roomRec x.room.toNat
      { sqRec g x St.ok 2 (headCount x) with detail := 0x0220, arg0 := x.age.setWidth 64 }
      (s.setSq g { x with overloaded := true, overNow := true }))
  else .next s

end Sys2Proof.Machine
end

