-- ==== Sys2Proof/Machine/Energy.lean ====
section
/-! DEFINITION. The energy governor: slot budgets, balances and carry caps, the throttle factor, and what falls due at a
slot entry (10 R442, R444, R451 to R460, 05 R248). -/
namespace Sys2Proof.Machine

/-! ### Budgets (R451, R453) -/

/-- Rooms that exist, by number. -/
def liveRooms (s : State) : List Nat := (s.rooms.filter fun r => r.2.state ≠ .none).map (·.1)

/-- Sum of the shares of all existing Rooms. -/
def shareSum (s : State) : Nat := (liveRooms s).foldl (fun n k => n + (s.room k).share.toNat) 0

/-- Weight of slot n and the sum it is taken from: all weights 0 count as 1 each (R451). -/
def slotWeight (c : Cad) (n : Nat) : Nat × Nat :=
  let sum := ((List.range 256).map fun i => (tget c.latched 0x80 i).toNat).foldl (· + ·) 0
  if sum = 0 then (1, 256) else ((tget c.latched 0x80 n).toNat, sum)

/-- The turn budget × 10^9: mW × ps (R451). -/
def turnBudget (s : State) : Nat := (s.nrg.capMw.toNat - s.nrg.baseMw.toNat) * (s.cad.period / 65536)

/-- Average slot budget after scaling, in whole tokens (R465). -/
def slotTokens (s : State) : Nat := turnBudget s * s.nrg.factorQ8.toNat / (256 * 256 * 1000000000)

/-- Refill of a Room at slot n, in 1/65,536 token (R453, R460). -/
def refillOf (s : State) (n k : Nat) : Nat :=
  let (w, sum) := slotWeight s.cad n
  turnBudget s * w * s.nrg.factorQ8.toNat * (s.room k).share.toNat * 65536
    / (1000000000 * sum * 256 * shareSum s)

/-- Carry cap of a Room, in 1/65,536 token (R453, R460). -/
def carryOf (s : State) (k : Nat) : Nat :=
  4 * turnBudget s * (s.room k).share.toNat * s.nrg.factorQ8.toNat * 65536
    / (1000000000 * shareSum s * 256 * 256)

/-- The refill of every existing Room: no balance rises above its cap, and one above it is cut (R453, R454). -/
def refillAll (n : Nat) (s : State) : State :=
  (liveRooms s).foldl (fun t k =>
    let r := t.room k
    let cap := carryOf s k
    t.setRoom k { r with carry := cap, balance := some (min (cap : Int) (r.balance.getD 0 + refillOf s n k)) }) s

/-! ### Throttling (R459, R460) -/

/-- FACTOR_Q8 of a temperature in m°C (R459). -/
def factorOf (t : Int) : Nat :=
  if t ≤ 90000 then 256 else if 100000 ≤ t then 128 else 256 - ((t - 90000) * 128 / 10000).toNat

/-- Take FACTOR_Q8 from the temperature; the interrupt goes when throttling starts (R459, R460). -/
def setFactor (s : State) : State :=
  let f := factorOf s.nrg.tempMc.toInt
  let was := s.nrg.throttling
  let s := { s with nrg := { s.nrg with factorQ8 := BitVec.ofNat 9 f, throttling := f < 256 } }
  if f < 256 && !was && s.nrg.thrIrqEn then pfCause 2 s.nrg.vector s else s

/-! ### Slot entry (R442, R453, R248) -/

/-- AGE of every SQ that counts this slot; the slot in which it last dispatched has not passed whole (R248). -/
def ageQueues (s : State) : State :=
  { s with sqs := tmap s.sqs {} fun _ q =>
      if q.agePart then { q with agePart := false }
      else if q.valid && (q.dbPending || q.cache ≠ []) && !q.dispatched.any (·.opcode = 0x19) then
        { q with age := satInc q.age, maxAge := if q.maxAge < satInc q.age then satInc q.age else q.maxAge }
      else q }

/-- The slot after the last one entered, and its turn; the first one follows slot 0 of turn 0. -/
def nextSlot (c : Cad) : Nat × Half :=
  match c.lastSlot with
  | none => (1, c.lastSlotTurn)
  | some 255 => (0, c.lastSlotTurn + 1)
  | some n => (n + 1, c.lastSlotTurn)

/-- CAD_STATE of a register or a beacon (R431). -/
def CadState.code : CadState → Nat
  | .internal => 0 | .acquiring => 1 | .locked => 2 | .coasting => 3 | .cadLost => 4

/-- Turns from one beacon to the next: ⌈1 ms / period⌉ at periods below 1 ms (R444). -/
def beaconTurns (c : Cad) : Nat :=
  if 0 < c.period && c.period < 1000000 * nsUnits then (1000000 * nsUnits + c.period - 1) / c.period else 1

/-- House time in ns at which a turn began, by the running phase. -/
def boundaryTime (s : State) (turn : Half) : Nat :=
  s.now - ((phasePos s.cad - turn.toNat * 2 ^ 32) * s.cad.rate / s.cad.dist + nsUnits - 1) / nsUnits

/-- The Hall floods a beacon at the start of a turn (R444, R447). -/
def sendBeacon (turn : Half) (s : State) : State :=
  if s.house.isHall && turn.toNat % beaconTurns s.cad = 0 then
    flood (mgMsg 0x8B 0 (mgSrc s) neighbour
      [(8, turn.toNat), (12, boundaryTime s turn), (20, s.cad.period / 65536), (25, s.cad.state.code)]) s
  else s

/-- What entering slot n does: factor, refill, triggers, ages. Refills begin when Room 0 exists (R454). -/
def enterSlot (n : Nat) (turn : Half) (s : State) : State :=
  let s := setFactor { s with cad := { s.cad with lastSlot := some n, lastSlotTurn := turn } }
  let s := if (s.room 0).state = .none then s else
    let s := refillAll n s
    if s.nrg.factorQ8.toNat < 256 then { s with nrg := { s.nrg with throttledSlots := satInc s.nrg.throttledSlots } }
    else s
  let s := if n = 0 then sendBeacon turn s else s
  ageQueues (cadTriggers n s)

/-- SLOT_ENTRY: the phase has reached the next slot (R453). -/
def execSlotEntry (s : State) : Host.Outcome State Fault Refusal :=
  let (n, t) := nextSlot s.cad
  if reached s.cad.turn s.cad.phase t (BitVec.ofNat 32 (n * 2 ^ 24)) then .next (enterSlot n t s) else .next s

/-! ### BASE_MW (R452) -/

/-- A write of BASE_MW: ignored with a record where it is not below CAP_MW (R452). -/
def writeBase (mw : Half) (s : State) : State :=
  if mw < s.nrg.capMw then { s with nrg := { s.nrg with baseMw := mw } }
  else auditRec { status := St.malformed, severity := 1, unitKind := 10, arg1 := mw.setWidth 64 } s

/-- BASE_MW_WRITE: at or above CAP_MW the write is ignored and recorded (R452). -/
def execBaseMwWrite (mw : BitVec 32) (s : State) : Host.Outcome State Fault Refusal :=
  .next (throughBar 0 (writeBase mw) s)

end Sys2Proof.Machine
end

