-- ==== Sys2Proof/WellFormed.lean ====
section
/-! DEFINITION. Which commands are well formed: operands that a sender can form at all. Every check names what it holds
the operand to; the meanings are total, and most leave the state as it is on an ill-formed command. -/
namespace Sys2Proof

/-- OPCODE of a command packet (R265). -/
abbrev pktOpcode (p : BitVec 512) : BitVec 16 := p.extractLsb' 0 16

/-- SUBCODE of a DIAG packet (R297). -/
abbrev pktSub (p : BitVec 512) : BitVec 8 := p.extractLsb' 128 8

/-- FTYPE of a frame: header bits (R493). -/
abbrev frameType (f : FrameIn) : Nat := (f.raw.extractLsb' 0 4).toNat

/-- The packet's opcode, where the row is a command packet (R278). -/
def Instr.opcodeOf : Instr → Option (BitVec 16 × BitVec 512)
  | .identify _ p => some (0x0001, p)
  | .roomCreate _ p => some (0x0010, p)
  | .roomDestroy _ p => some (0x0011, p)
  | .roomReset _ p => some (0x0012, p)
  | .roomWindowSet _ p => some (0x0013, p)
  | .roomShareSet _ p => some (0x0014, p)
  | .sqCreate _ p => some (0x0020, p)
  | .sqDestroy _ p => some (0x0021, p)
  | .cqCreate _ p => some (0x0022, p)
  | .cqDestroy _ p => some (0x0023, p)
  | .sqResume _ p => some (0x0024, p)
  | .channelAssign _ p => some (0x0030, p)
  | .channelRelease _ p => some (0x0031, p)
  | .bufAlloc _ p => some (0x0040, p)
  | .bufFree _ p => some (0x0041, p)
  | .bufQuery _ p => some (0x0042, p)
  | .bufReclaim _ p => some (0x0043, p)
  | .syncMap _ p => some (0x0050, p)
  | .syncUnmap _ p => some (0x0051, p)
  | .feRegionSet _ p => some (0x0052, p)
  | .powerDomain _ p => some (0x0060, p)
  | .powerCapSet _ p => some (0x0061, p)
  | .cadenceConfig _ p => some (0x0062, p)
  | .linkConfig _ p => some (0x0070, p)
  | .linkKeyLoad _ p => some (0x0071, p)
  | .housePolicy _ p => some (0x0072, p)
  | .groupDefine _ p => some (0x0073, p)
  | .groupRelease _ p => some (0x0074, p)
  | .studyLoadTables _ p => some (0x0080, p)
  | .studyCacheFlush _ p => some (0x0081, p)
  | .fwUpdate _ p => some (0x00F0, p)
  | .diagEcho _ p => some (0x00F1, p)
  | .diagTemperature _ p => some (0x00F1, p)
  | .diagBuffers _ p => some (0x00F1, p)
  | .diagMisuse _ p => some (0x00F1, p)
  | _ => none

/-- Opcodes of the command packets (R278). -/
abbrev cmdOpcodes : List Nat :=
  [0x01, 0x10, 0x11, 0x12, 0x13, 0x14, 0x20, 0x21, 0x22, 0x23, 0x24, 0x30, 0x31, 0x40, 0x41, 0x42, 0x43, 0x50, 0x51, 0x52,
   0x60, 0x61, 0x62, 0x70, 0x71, 0x72, 0x73, 0x74, 0x80, 0x81, 0xF0, 0xF1]

/-- SUBCODE of a DIAG row (R297). -/
def Instr.subOf : Instr → Option (Nat × BitVec 512)
  | .diagEcho _ p => some (0, p)
  | .diagTemperature _ p => some (1, p)
  | .diagBuffers _ p => some (2, p)
  | .diagMisuse _ p => some (3, p)
  | _ => none

/-- A packet row's packet carries the row's opcode, or one that no row has: any packet row may carry that one. -/
def Instr.packetOk (i : Instr) : Bool :=
  match i.opcodeOf with
  | some (o, p) => pktOpcode p = o || !cmdOpcodes.contains (pktOpcode p).toNat
  | none => true

/-- A DIAG row's packet carries the row's SUBCODE, or one that no row has. -/
def Instr.subOk (i : Instr) : Bool :=
  match i.subOf with
  | some (n, p) => (pktSub p).toNat = n || 3 < (pktSub p).toNat
  | none => true

/-- A list operand has the length its partner operand gives, and stays within what a PCIe request or a JTAG scan can
carry. -/
def Instr.listsOk : Instr → Bool
  | .bar2Write o d e => d.length = e.length && 0 < d.length && o.toNat + d.length ≤ 2 ^ 29
  | .bar2Read o n => 0 < n && o.toNat + n ≤ 2 ^ 29
  | .pcieCompletion _ a d _ => d.length ≤ 4096 && a.toNat + d.length ≤ 2 ^ 60
  | .atsInvalidation r => 0 < r.len && r.addr.toNat + r.len ≤ 2 ^ 60
  | .scrubBurst _ u => u.length ≤ 256
  | _ => true

/-- Every check. -/
def Instr.wf (i : Instr) : Bool := i.packetOk && i.subOk && i.listsOk

end Sys2Proof
end

