-- ==== Sys2Proof/Machine/Foyer.lean ====
section
/-! DEFINITION. The Foyer: command rings, the checks of a packet, replies, audit records, misuse counts; IDENTIFY, DIAG and
the registers of rings and logs that act (06 R254 to R278, R297, R309, R312 to R316, 14 R629 to R633). -/
namespace Sys2Proof.Machine

/-! ### Rings -/

def State.ring (s : State) (k : Nat) : Ring := tget s.rings {} k
def State.setRing (s : State) (k : Nat) (r : Ring) : State := { s with rings := tset s.rings {} k r }

def Ring.size (r : Ring) : Nat := 2 ^ r.log2.toNat

/-- A record of a command ring: to the Room's fault log, or the audit log for Room 0 (R259, R263). -/
def ringRec (k : Nat) (r : ErrRec) (s : State) : State :=
  let r := { r with unitKind := 4, unit := BitVec.ofNat 16 k, room := BitVec.ofNat 6 k }
  if k = 0 then auditRec r s else roomRec k r s

/-- The ring stops (R263). -/
def ringFails (k : Nat) (a : Word) (s : State) : State :=
  let r := s.ring k
  ringRec k { status := St.busError, severity := 2, object := a, index := r.cons }
    (s.setRing k { r with ringError := true })

/-! ### Packets (R265 to R267, R278) -/

abbrev pkFlags (p : BitVec 512) : BitVec 16 := fld p 16 16
abbrev pkForce (p : BitVec 512) : Bool := p.getLsbD 16
abbrev pkIrq (p : BitVec 512) : Bool := p.getLsbD 17
abbrev pkRoom (p : BitVec 512) : Nat := (fld p 32 8).toNat
abbrev pkTag (p : BitVec 512) : Word := fld p 64 64
abbrev p8 (p : BitVec 512) (k : Nat) : Nat := (fld p (8 * k) 8).toNat
abbrev p16 (p : BitVec 512) (k : Nat) : Nat := (fld p (8 * k) 16).toNat
abbrev p32 (p : BitVec 512) (k : Nat) : Nat := (fld p (8 * k) 32).toNat
abbrev p64 (p : BitVec 512) (k : Nat) : Word := fld p (8 * k) 64

/-- Who may issue an opcode and what ROOM holds (R278). -/
inductive PkRoom where
  | issuer | target | zero | either
  deriving DecidableEq, Repr

/-- Room 0 alone issues the opcode. -/
def pkRoom0 (o : Nat) : Bool :=
  [0x10, 0x11, 0x12, 0x13, 0x14, 0x30, 0x31, 0x43, 0x52, 0x60, 0x61, 0x62, 0x70, 0x71, 0x72, 0x73, 0x74, 0x80, 0x81, 0xF0,
   0xF1].contains o

def pkRoomRule (o : Nat) : PkRoom :=
  if [0x01, 0x41, 0x42].contains o then .issuer
  else if [0x10, 0x11, 0x12, 0x13, 0x14, 0x30, 0x31, 0x52, 0x73, 0x80, 0x81].contains o then .target
  else if [0x20, 0x21, 0x22, 0x23, 0x24, 0x40, 0x50, 0x51].contains o then .either
  else .zero

/-- Byte ranges that an opcode's parameter table names (R279). -/
def pkParams (o : Nat) : List (Nat × Nat) :=
  match o with
  | 0x10 => [(16, 34)]
  | 0x13 => [(16, 19), (20, 40)]
  | 0x14 => [(16, 18)]
  | 0x20 => [(16, 40)]
  | 0x22 => [(16, 48)]
  | 0x21 => [(16, 17)] | 0x23 => [(16, 17)] | 0x24 => [(16, 17)] | 0x30 => [(16, 17)] | 0x31 => [(16, 17)]
  | 0x40 => [(16, 23)]
  | 0x41 => [(16, 24)] | 0x42 => [(16, 24)] | 0x43 => [(16, 24)]
  | 0x50 => [(16, 22)]
  | 0x51 => [(16, 17), (18, 22)]
  | 0x52 => [(16, 18), (20, 32)]
  | 0x60 => [(16, 18)]
  | 0x61 => [(16, 20)]
  | 0x62 => [(16, 18), (24, 32)]
  | 0x70 => [(16, 19), (20, 22)]
  | 0x71 => [(16, 18), (20, 32)]
  | 0x72 => [(16, 17), (18, 24)]
  | 0x73 => [(16, 17), (18, 32)]
  | 0x74 => [(16, 17)]
  | 0x80 => [(16, 17), (20, 28), (32, 56)]
  | 0x81 => [(16, 17)]
  | 0xF0 => [(16, 20), (24, 32)]
  | 0xF1 => [(16, 17), (24, 32)]
  | _ => []

/-- The flag byte of an opcode and its number of defined flags; the bits above them are reserved (R11, R279). -/
def pkFlagByte (o : Nat) : Option (Nat × Nat) :=
  match o with
  | 0x13 => some (18, 2) | 0x20 => some (18, 3) | 0x22 => some (18, 2) | 0x40 => some (22, 1) | 0x50 => some (17, 1)
  | 0x62 => some (17, 2) | 0x70 => some (17, 2) | 0x72 => some (16, 2)
  | _ => none

/-- Reserved bits of the flag byte are 0 (R11, R269). -/
def pkFlagsOk (p : BitVec 512) : Bool :=
  match pkFlagByte (pktOpcode p).toNat with
  | some (i, n) => p8 p i < 2 ^ n
  | none => true

/-- Every reserved bit and byte of a packet is 0 (R11, R265, R270). -/
def pkReservedOk (p : BitVec 512) : Bool :=
  fld p 18 14 = 0 && fld p 40 24 = 0 && pkFlagsOk p &&
    (List.range 48).all fun i => p8 p (16 + i) = 0
      || (pkParams (pktOpcode p).toNat).any fun r => r.1 ≤ 16 + i && 16 + i < r.2

/-! ### Reason codes (R269) -/
namespace Dt
abbrev none : BitVec 16 := 0
abbrev notPermitted : BitVec 16 := 1
abbrev exists_ : BitVec 16 := 2
abbrev notFound : BitVec 16 := 3
abbrev busy : BitVec 16 := 4
abbrev range : BitVec 16 := 5
abbrev reserved : BitVec 16 := 6
abbrev state : BitVec 16 := 7
abbrev signature : BitVec 16 := 8
abbrev rollback : BitVec 16 := 9
abbrev vfDisabled : BitVec 16 := 10
abbrev reclaimed : BitVec 16 := 11
end Dt

/-- Steps 1 to 3 of R270: OK, or status and DETAIL. -/
def pkCheck (k : Nat) (p : BitVec 512) : Byte × BitVec 16 :=
  let o := (pktOpcode p).toNat
  if !cmdOpcodes.contains o then (St.badOpcode, Dt.none)
  else if k ≠ 0 && pkRoom0 o then (St.badOpcode, Dt.notPermitted)
  else if !pkReservedOk p || (pkForce p && !([0x21, 0x31, 0x60].contains o)) then (St.malformed, Dt.reserved)
  else if k ≠ 0 then (if pkRoom p = k then (St.ok, 0) else (St.malformed, Dt.notPermitted))
  else if 63 < pkRoom p || ((pkRoomRule o = .issuer || pkRoomRule o = .zero) && pkRoom p ≠ 0) then
    (St.malformed, Dt.range)
  else (St.ok, 0)

/-! ### Misuse (R271, R309) -/

/-- A new second restarts every count. -/
def rollMisuse (s : State) : State :=
  let sec := s.now / 1000000000
  if s.fy.misuseSec = sec then s
  else { s with rooms := tmap s.rooms {} fun _ r => { r with misuse := 0 }, fy := { s.fy with misuseSec := sec } }

/-- One rejection counts; the first beyond the limit in a second is recorded (R309). -/
def noteMisuse (k : Nat) (s : State) : State :=
  let s := rollMisuse s
  let r := s.room k
  let r' := { r with misuse := r.misuse + 1 }
  if r'.misuse = r.misuseLimit.toNat + 1 then
    auditRec { eventRec 0x0221 2 with room := BitVec.ofNat 6 k, arg0 := r.misuseLimit.setWidth 64 }
      (s.setRoom k { r' with misuseOver := r.misuseOver + 1 })
  else s.setRoom k r'

/-- MISUSE_WINDOW: a new second of house time (R309). -/
def execMisuseWindow (s : State) : Host.Outcome State Fault Refusal := .next (rollMisuse s)

/-! ### Replies (R260, R262, R264, R268, R313) -/

/-- The 32 bytes of a reply. -/
def replyBytes (phase : Bool) (p : BitVec 512) (status : Byte) (detail : BitVec 16) (r0 r1 : Word) : List Byte :=
  leB 8 (pkTag p) ++ leB 2 (pktOpcode p) ++ leB 1 status ++ leBytes 1 (if phase then 1 else 0) ++ leB 2 detail
    ++ leBytes 2 0 ++ leB 8 r0 ++ leB 8 r1

/-- Host address of the reply slot of the packet at CONS. -/
def replySlot (r : Ring) : Nat := offOf r.replyBase + r.cons.toNat % r.size * 32

/-- Write the reply where the ring still wants it: CONS advances after it (R260). -/
def writeReply (k : Nat) (p : BitVec 512) (status : Byte) (detail : BitVec 16) (r0 r1 : Word) (s : State) : State :=
  let r := s.ring k
  if !r.enable || r.ringError then s else
  match hostPut s k (replySlot r) (replyBytes r.replyPhase p status detail r0 r1) with
  | (s, true) =>
    let n := r.cons + 1
    let s := s.setRing k { r with cons := n
                                  replyPhase := if n.toNat % r.size = 0 then !r.replyPhase else r.replyPhase }
    if pkIrq p && r.irqEn then sendMsix k r.vector.toNat s else s
  | (s, false) => ringFails k (BitVec.ofNat 64 (2 * 2 ^ 60 + replySlot r)) s

/-- The audit record of a packet from Room 0 (R313). -/
def auditPacket (k : Nat) (p : BitVec 512) (status : Byte) (detail : BitVec 16) (r0 r1 : Word) (s : State) : State :=
  let o := (pktOpcode p).toNat
  if k = 0 && 0x10 ≤ o && o ≠ 0x42 && o ≠ 0xF1 then
    auditRec { status := status, severity := if status = St.ok then 0 else 1, detail := detail
               room := BitVec.ofNat 6 (pkRoom p), unitKind := 4, opcode := pktOpcode p, index := (s.ring 0).cons
               mode := if o = 0x60 then fld p 136 8 else if o = 0x71 then fld p 136 8 else 0
               arg0 := if o = 0x71 then (fld p 128 8).setWidth 64 else r0
               arg1 := if o = 0x71 then (fld p 160 32).setWidth 64 else r1 } s
  else s

/-- A command ends: its reply, and its audit record. -/
def cmdReply (k : Nat) (p : BitVec 512) (status : Byte) (detail : BitVec 16) (r0 r1 : Word) (s : State) : State :=
  writeReply k p status detail r0 r1 (auditPacket k p status detail r0 r1 s)

def cmdOk (k : Nat) (p : BitVec 512) (r0 r1 : Word) (s : State) : State := cmdReply k p St.ok 0 r0 r1 s
def cmdBad (k : Nat) (p : BitVec 512) (detail : BitVec 16) (s : State) : State := cmdReply k p St.malformed detail 0 0 s
def cmdFail (k : Nat) (p : BitVec 512) (status : Byte) (s : State) : State := cmdReply k p status 0 0 0 s

/-! ### Taking a packet (R260, R272 to R277) -/

/-- Opcodes of the long commands (R278). -/
def longOpcodes : List Nat := [0x11, 0x12, 0x21, 0x31, 0x60, 0x73, 0x74, 0x80, 0xF0]

/-- Host address of the packet slot at CONS. -/
def packetSlot (r : Ring) : Nat := offOf r.base + r.cons.toNat % r.size * 64

/-- The 64 bytes that the Foyer reads at CONS of ring k (R260); none where the function cannot reach Host memory. -/
def ringPacket (s : State) (k : Nat) : Option (BitVec 512) :=
  (hostGet s k (packetSlot (s.ring k)) 64).map fun bs => BitVec.ofNat 512 (leNat bs)

/-- The packet at CONS may start now: a long one while fewer than eight run, FW_UPDATE while none runs (R273, R274). -/
def placeFor (s : State) (k : Nat) : Bool :=
  match ringPacket s k with
  | none => true
  | some p =>
    let o := (pktOpcode p).toNat
    if o = 0xF0 then s.fy.longs = [] else !longOpcodes.contains o || s.fy.longs.length < 8

/-- Ring k has a packet that the Foyer could take now (R272, R273, R276, R277, R664). -/
def ringReady (s : State) (k : Nat) : Bool :=
  let r := s.ring k
  r.enable && !r.ringError && s.fy.state = .ready && !s.fy.restart && r.prod ≠ r.cons
    && !s.fy.longs.any (fun l => l.ring = k && !l.orphan) && (s.room k).state = .active && placeFor s k

/-- Every ring with a packet to take has been served in this round, so that a new round begins (R272). -/
def roundOver (s : State) : Bool := (List.range 64).all fun j => !ringReady s j || s.fy.served.contains j

/-- The Foyer takes a packet from ring k now: at most one from each ring in a round, with no priority (R272). DESIGN
CHOICE: within a round any order is allowed (log entry 75). -/
def canTake (s : State) (k : Nat) : Bool := ringReady s k && (!s.fy.served.contains k || roundOver s)

/-- A packet of opcode o is taken from ring k: LAST_OPCODE, and the ring's place in the round (R272, R316). -/
def noteTaken (k : Nat) (o : BitVec 16) (s : State) : State :=
  { s with fy := { s.fy with lastOpcode := o, served := if s.fy.served.contains k then [k] else k :: s.fy.served }
           rings := tset s.rings {} k { s.ring k with lastOpcode := o } }

/-- The fetch of the packet at CONS draws an error: the packet is not executed (R263). -/
def fetchFails (k : Nat) (s : State) : State :=
  ringFails k (BitVec.ofNat 64 (2 * 2 ^ 60 + packetSlot (s.ring k))) s

/-- Take the packet and make steps 1 to 3 of R270; the body makes the rest and replies. A row whose packet is not the one
that the Foyer reads at CONS, or carries another row's opcode, does not find its packet, and nothing happens (R260, log
entry 11). -/
def takePacket (o : BitVec 16) (k : Nat) (p : BitVec 512) (body : State → State) (s : State) : State :=
  if !canTake s k || (pktOpcode p ≠ o && cmdOpcodes.contains (pktOpcode p).toNat) then s
  else if !hostReach s k then fetchFails k s
  else if ringPacket s k ≠ some p then s
  else
    let s := noteTaken k (pktOpcode p) s
    match pkCheck k p with
    | (st, dt) =>
      if st = St.ok then body s
      else
        let s := if dt = Dt.notPermitted && st = St.badOpcode then
            noteMisuse k (ringRec k { status := st, severity := 1, detail := dt, opcode := pktOpcode p
                                      index := (s.ring k).cons } s) else s
        cmdReply k p st dt 0 0 s

/-- Start a long command: it waits while eight run (R272, R273). -/
def startLong (k : Nat) (p : BitVec 512) (s : State) : State :=
  { s with fy := { s.fy with longs := s.fy.longs ++ [{ ring := k, packet := p, start := s.now }] } }

/-- Places for long commands are left (R273). -/
def longFree (s : State) : Bool := s.fy.longs.length < 8

/-- Take a packet of a long command where a place is free. -/
def takeLong (o : BitVec 16) (k : Nat) (p : BitVec 512) (body : State → State) (s : State) : State :=
  if longFree s then takePacket o k p body s else s

/-- A long command ends with its reply. -/
def endLong (l : LongCmd) (status : Byte) (detail : BitVec 16) (r0 r1 : Word) (s : State) : State :=
  let s := { s with fy := { s.fy with longs := s.fy.longs.erase l } }
  if l.orphan then auditPacket l.ring l.packet status detail r0 r1 s
  else cmdReply l.ring l.packet status detail r0 r1 s

/-- End every long command that a predicate selects, giving each its results. -/
def endLongs (sel : LongCmd → Bool) (status : Byte) (detail : BitVec 16) (res : LongCmd → Word × Word) (s : State) : State :=
  (s.fy.longs.filter sel).foldl (fun t l => endLong l status detail (res l).1 (res l).2 t) s

/-! ### FY_STATE and ring registers (R256, R258, R259, R264, R316) -/

def FyState.code : FyState → Nat
  | .reset => 0 | .boot => 1 | .ready => 2 | .update => 3 | .fault => 4 | .bootFail => 5

abbrev b1 (b : Bool) : Nat := if b then 1 else 0

/-- AUDIT_FULL: the log has reached its size, or has lost a record since HEAD last advanced (R314). -/
def LogRegs.showsFull (l : LogRegs) : Bool := l.full || (l.enable && l.isFull)

/-- FY_STATE of ring 0. ROOM_CMD_STATE of a Room shows STATE, its ring's own bits and the opcode last taken from that
ring; bits [15:6] are reserved (R316). DEDUCED: LAST_OPCODE recurs for the Room's own ring (log entry 75). -/
def fyStateReg (s : State) (k : Nat) : Word :=
  let r := s.ring k
  let low := s.fy.state.code + b1 r.badProd * 2 ^ 4 + b1 r.ringError * 2 ^ 5
  if k = 0 then
    BitVec.ofNat 64 (low + b1 s.audit.showsFull * 2 ^ 6 + b1 s.audit.badHead * 2 ^ 7 + s.fy.longs.length * 2 ^ 8
      + b1 s.audit.error * 2 ^ 12 + s.fy.lastOpcode.toNat * 2 ^ 16)
  else BitVec.ofNat 64 (low + r.lastOpcode.toNat * 2 ^ 16)

/-- A ring's ENABLE bit changes (R256, R263, R264). -/
def ringEnable (k : Nat) (on : Bool) (s : State) : State :=
  let r := s.ring k
  if on && !r.enable then
    s.setRing k { r with enable := true, prod := 0, cons := 0, replyPhase := true, ringError := false }
  else if !on && r.enable then
    let s := s.setRing k { r with enable := false }
    { s with fy := { s.fy with longs := s.fy.longs.map fun l => if l.ring = k then { l with orphan := true } else l } }
  else s

/-- A ring's SIZE register is written whole: LOG2 only while disabled and in range, VECTOR only in its table
(R256, R714, R713). -/
def ringSize (k : Nat) (v : Word) (s : State) : State :=
  let r := s.ring k
  let lg := (fld v 0 4).toNat
  let r := { r with
    log2 := if !r.enable && 4 ≤ lg && lg ≤ 12 then fld v 0 4 else r.log2
    vector := if (fld v 16 8).toNat < vectorLimit k then fld v 16 8 else r.vector
    irqEn := v.getLsbD 24 }
  ringEnable k (v.getLsbD 8) (s.setRing k r)

/-- FY_CMD_ENABLE, ROOM_CMD_SIZE: the SIZE register of a ring is written (R256). -/
def execFyCmdEnable (k : Fin 64) (size : BitVec 64) (s : State) : Host.Outcome State Fault Refusal :=
  .next (throughBar k (ringSize k size) s)

/-- The Foyer's memory holds a parity error: the firmware stops (R641). -/
def foyerFault (s : State) : State :=
  let s := { s with fy := { s.fy with state := .fault, longs := [] }, g := { s.g with devState := .foyerDown } }
  let s := { s with err := { s.err with parity := satInc s.err.parity, internal := true } }
  let s := if s.err.fatalIrqEn then pfCause 0 s.err.vector s else s
  auditRec { status := St.internal, severity := 4, unitKind := 15 } s

/-- A producer count is written (R258, R259). -/
def ringDoorbell (k : Nat) (prod : Half) (s : State) : State :=
  let r := s.ring k
  if r.size < (prod - r.cons).toNat then
    let e : ErrRec := { status := St.malformed, severity := 1, index := r.cons, arg1 := prod.setWidth 64, unitKind := 4
                        unit := BitVec.ofNat 16 k }
    let s := s.setRing k { r with badProd := true }
    if k = 0 then auditRec e s else actRec k e s
  else
    let s1 := s.setRing k { r with prod := prod }
    if s1.fy.state = .ready then
      if Config.parityFault s1.free then foyerFault { s1 with free := s1.free + 1 }
      else { s1 with free := s1.free + 1 }
    else s1

/-- FY_CMD_DOORBELL, ROOM_CMD_DOORBELL: a producer count (R258, R259). -/
def execFyCmdDoorbell (k : Fin 64) (prod : BitVec 32) (s : State) : Host.Outcome State Fault Refusal :=
  .next (throughBar k (ringDoorbell k prod) s)

/-! ### Registers of the logs (R314, R629, R631, R633) -/

/-- ENABLE and LOG2 of the audit log's SIZE register (R314, R714). -/
def auditSize (v : Word) (s : State) : State :=
  let l := s.audit
  let lg := (fld v 0 5).toNat
  let l := { l with log2 := if 4 ≤ lg && lg ≤ 16 then fld v 0 5 else l.log2 }
  if v.getLsbD 8 && !l.enable then
    { s with audit := { l with enable := true, tail := 0, head := 0, error := false, full := false } }
  else { s with audit := { l with enable := v.getLsbD 8 } }

/-- FY_AUDIT_ENABLE (R314). -/
def execFyAuditEnable (size : BitVec 64) (s : State) : Host.Outcome State Fault Refusal :=
  .next (throughBar 0 (auditSize size) s)

/-- A consumer count of a log: an invalid one is refused; an advance clears FULL (R314, R631). -/
def LogRegs.writeHead (l : LogRegs) (head : Half) : LogRegs :=
  if l.size < (l.tail - head).toNat then { l with badHead := true }
  else { l with head := head, full := if head = l.head then l.full else false }

/-- FY_AUDIT_HEAD_WRITE (R314). -/
def execFyAuditHeadWrite (head : BitVec 32) (s : State) : Host.Outcome State Fault Refusal :=
  .next (throughBar 0 (fun s => { s with audit := s.audit.writeHead head }) s)

/-- FLT_SIZE of a Room's log (R629, R713, R714). -/
def fltSize (k : Nat) (v : Word) (s : State) : State :=
  let l := s.log k
  let lg := (fld v 0 5).toNat
  let sev : BitVec 3 := fld v 10 3
  let l := { l with
    log2 := if !l.enable && 4 ≤ lg && lg ≤ 16 then fld v 0 5 else l.log2
    irqEn := v.getLsbD 9, irqSev := sev, badHead := l.badHead && !v.getLsbD 15
    vector := if (fld v 16 8).toNat < vectorLimit k then fld v 16 8 else l.vector }
  if v.getLsbD 8 && !l.enable then
    s.setLog k { l with enable := true, tail := 0, head := 0, error := false, full := false }
  else s.setLog k { l with enable := v.getLsbD 8 }

/-- The function through which a fault log's registers are written: the PF where it answers, else the Room's own (R629). -/
def fltBar (s : State) (k : Nat) : Nat := if fnOpen s 0 then 0 else k

/-- FLT_ENABLE (R629). -/
def execFltEnable (k : Fin 64) (size : BitVec 64) (s : State) : Host.Outcome State Fault Refusal :=
  .next (throughBar (fltBar s k) (fltSize k size) s)

/-- FLT_HEAD_WRITE (R631). -/
def execFltHeadWrite (k : Fin 64) (head : BitVec 32) (s : State) : Host.Outcome State Fault Refusal :=
  .next (throughBar (fltBar s k) (fun s => s.setLog k ((s.log k).writeHead head)) s)

/-- FLT_IRQ_COALESCE: the µs of the last message has ended and a later record fell due in it (R633). -/
def execFltIrqCoalesce (k : Fin 64) (s : State) : Host.Outcome State Fault Refusal :=
  let l := s.log k
  if l.irqDue && l.sentUs ≠ s.now / 1000 + 1 then
    .next (sendMsix k l.vector.toNat (s.setLog k { l with irqDue := false, sentUs := s.now / 1000 + 1 }))
  else .next s

/-- WORK_RECORD_WINDOW: a new ms restarts the count of WORK records (R631). -/
def execWorkRecordWindow (s : State) : Host.Outcome State Fault Refusal :=
  let ms := s.now / 1000000
  .next { s with logs := tmap s.logs {} fun _ l => if l.workMs = ms then l else { l with workThisMs := 0, workMs := ms } }

/-! ### IDENTIFY and DIAG (R278, R297) -/

/-- IDENTIFY (R278). -/
def execIdentify (k : Fin 64) (pkt : BitVec 512) (s : State) : Host.Outcome State Fault Refusal :=
  .next (takePacket 0x0001 k pkt (fun s =>
    cmdOk k pkt s.fy.fwVersion (BitVec.ofNat 64 (k.val + ownNode s * 2 ^ 16 + b1 s.house.isHall * 2 ^ 32)) s) s)

/-- A DIAG row: a packet of another row's SUBCODE is not this row's; one of no row is out of range (R297). -/
def takeDiag (sub k : Nat) (p : BitVec 512) (body : State → State) (s : State) : State :=
  if pktOpcode p = 0x00F1 && p8 p 16 ≠ sub && p8 p 16 ≤ 3 then s
  else takePacket 0x00F1 k p (fun s => if p8 p 16 ≤ 3 then body s else cmdBad k p Dt.range s) s

/-- DIAG_ECHO (R297). -/
def execDiagEcho (k : Fin 64) (pkt : BitVec 512) (s : State) : Host.Outcome State Fault Refusal :=
  .next (takeDiag 0 k pkt (fun s => cmdOk k pkt (p64 pkt 24) (fyStateReg s 0) s) s)

/-- DIAG_TEMPERATURE (R297). -/
def execDiagTemperature (k : Fin 64) (pkt : BitVec 512) (s : State) : Host.Outcome State Fault Refusal :=
  .next (takeDiag 1 k pkt (fun s =>
    cmdOk k pkt (s.nrg.tempMc.signExtend 64) (s.nrg.peakMc.signExtend 64) s) s)

/-- Live buffers. -/
def liveBuffers (s : State) : List Buffer := s.fy.slots.filterMap fun b => b.2.live

/-- Free 4 KiB granules in all POOL windows. -/
def freePool (s : State) : Nat :=
  let all := s.rooms.foldl (fun n r => n + (r.2.windows.foldl (fun m w =>
    m + (if w.2.valid && w.2.pool then w.2.granules * 512 else 0)) 0)) 0
  all - (liveBuffers s).foldl (fun n b => n + b.granules) 0

/-- DIAG_BUFFERS (R297). -/
def execDiagBuffers (k : Fin 64) (pkt : BitVec 512) (s : State) : Host.Outcome State Fault Refusal :=
  .next (takeDiag 2 k pkt (fun s =>
    cmdOk k pkt (BitVec.ofNat 64 (liveBuffers s).length) (BitVec.ofNat 64 (freePool s)) s) s)

/-- DIAG_MISUSE (R297). -/
def execDiagMisuse (k : Fin 64) (pkt : BitVec 512) (s : State) : Host.Outcome State Fault Refusal :=
  .next (takeDiag 3 k pkt (fun s =>
    let s := rollMisuse s
    let r := s.room ((p64 pkt 24).toNat % 64)
    cmdOk k pkt (BitVec.ofNat 64 r.misuse) (BitVec.ofNat 64 r.misuseOver) s) s)

end Sys2Proof.Machine
end

