-- ==== Sys2Proof/Machine/Fec.lean ====
section
/-! DEFINITION. The RS(544,514) code over GF(2^10), the codewords of a port's frame stream, and the lanes that carry them
(11 R490 to R492). The generator's roots α^0 to α^29 and the order of symbols in the polynomial, first symbol highest, are
those of the clause 91 that R490 names (PRESUMED, log entry 77). -/
namespace Sys2Proof.Machine

/-! ### GF(2^10) (R490) -/

/-- Times α, modulo x^10 + x^3 + 1. -/
def gfShift (a : Nat) : Nat := if 512 ≤ a then (2 * a) ^^^ 0x409 else 2 * a

/-- Product of two elements, from the bits of the second. -/
def gfMulN : Nat → Nat → Nat → Nat
  | 0, _, _ => 0
  | n + 1, a, b => (if b % 2 = 1 then a else 0) ^^^ gfMulN n (gfShift a) (b / 2)

def gfMul (a b : Nat) : Nat := gfMulN 10 a b

/-- a to the power n. -/
def gfPow (a : Nat) : Nat → Nat
  | 0 => 1
  | n + 1 => gfMul a (gfPow a n)

/-- Inverse of an element that is not 0: a^1022, by squaring. -/
def gfInvN : Nat → Nat → Nat
  | 0, _ => 1
  | n + 1, a => gfMul (gfMul a a) (gfInvN n (gfMul a a))

def gfInv (a : Nat) : Nat := gfInvN 9 a

/-! ### Encoding -/

/-- Multiply a polynomial, lowest coefficient first, by x + r. -/
def polyTimesRoot (p : List Nat) (r : Nat) : List Nat :=
  (0 :: p).zipWith (· ^^^ ·) (p.map (gfMul r) ++ [0])

/-- The generator polynomial, lowest coefficient first: roots α^0 to α^29. -/
def rsGenerator : List Nat := (List.range 30).foldl (fun p i => polyTimesRoot p (gfPow 2 i)) [1]

/-- The generator without its leading term, times α^0 to α^9, each packed with 10 bits a coefficient, lowest first
(Sys2Proof.Laws.rsRows_generator). -/
def rsRows : List Nat :=
  [0x8fe282ece68a0011b235468f99448417ad07bd81eb9f7dcd69c5262305881fcb927880d0a0b,
   0x1dc595d9cc16402360638d1f22ad082f1a9f7b02d57eebbed2884cd60b103f9724f100a341f,
   0x3b8b2bb3982c8046c0c6187e455a105e352ed60da8fd575dad12d9ac12297f2e49e20044c3e,
   0x771647473959008d818c30bc1ab029bc2add8c1353fa3ebb5a25b348045bfe1c13e4098987c,
   0xee2c8e8a7bb2010b27186138b544527a553b3c26a7b4fd56bd4b26102cb6fe7827c812114f8,
   0xde599d34ff6642066e39c231fa88a4f4aa665c4c4d697a8d73960cb0596cfef0df9024229f0,
   0xbef32a4dfecc840cd87b8663753548eb545cb8989a92753ee62e5960b2d8ffe13f0448453e0,
   0x7fe6d4bffc9b480994f60ec67a6a90d4e8a955303764ea79c55cb2c161b9fdc2fe2c908a3c9,
   0xff8d397bf134d0030dec1d8ce4f529abd1d28e606e8954d78ab92512c372f9c5ec7d201679b,
   0xfd5a62d7eb69a0061bd83b19c9ea5255e3a518c9dd12a9ab1d704ab582edf1cbc8de402cb3f]

/-- The generator times a symbol, without the leading term. -/
def rsFeedback : List Nat → Nat → Nat
  | [], _ => 0
  | r :: rs, f => (if f % 2 = 1 then r else 0) ^^^ rsFeedback rs (f / 2)

/-- The remainder of message symbols, the first of them lowest in `m`, after the remainder so far. -/
def rsDivide : Nat → Nat → Nat → Nat
  | 0, _, reg => reg
  | n + 1, m, reg => rsDivide n (m / 1024) ((reg % 2 ^ 290) * 1024 ^^^ rsFeedback rsRows ((m % 1024) ^^^ (reg / 2 ^ 290)))

/-- The order of n symbols reversed. -/
def rsReverse : Nat → Nat → Nat
  | 0, _ => 0
  | n + 1, r => r % 1024 * 2 ^ (10 * n) + rsReverse n (r / 1024)

/-- The 30 parity symbols of a message in the order in which they are sent (R490). -/
def rsParity (m : BitVec 5140) : BitVec 300 := BitVec.ofNat 300 (rsReverse 30 (rsDivide 514 m.toNat 0))

/-- A codeword: symbol i in bits [10i + 9 : 10i], the 514 message symbols first (R490, R491). -/
def rsEncode (m : BitVec 5140) : BitVec 5440 := (rsParity m ++ m : BitVec 5440)

/-! ### Decoding: up to 15 symbols of a codeword are corrected (R490) -/

/-- Value of a polynomial, lowest coefficient first. -/
def polyAt (x : Nat) : List Nat → Nat
  | [] => 0
  | c :: cs => c ^^^ gfMul x (polyAt x cs)

/-- p + c x^n q. -/
def polyAdd (p : List Nat) (c n : Nat) (q : List Nat) : List Nat :=
  let q := List.replicate n 0 ++ q.map (gfMul c)
  (List.range (max p.length q.length)).map fun i => p.getD i 0 ^^^ q.getD i 0

/-- What the search for the error locator holds. -/
structure Locator where
  poly : List Nat := [1]
  prev : List Nat := [1]
  len : Nat := 0
  shift : Nat := 1
  base : Nat := 1
  deriving DecidableEq, Repr

/-- One step of the search, for syndrome n (Berlekamp and Massey). -/
def locatorStep (syn : List Nat) (l : Locator) (n : Nat) : Locator :=
  let d := (List.range (l.len + 1)).foldl (fun a i => a ^^^ gfMul (l.poly.getD i 0) (if i ≤ n then syn.getD (n - i) 0 else 0)) 0
  if d = 0 then { l with shift := l.shift + 1 }
  else
    let p := polyAdd l.poly (gfMul d (gfInv l.base)) l.shift l.prev
    if 2 * l.len ≤ n then { poly := p, prev := l.poly, len := n + 1 - l.len, shift := 1, base := d }
    else { l with poly := p, shift := l.shift + 1 }

/-- Exponents e from n − 1 down to 0 at which the locator has the root α^(−e); x is α^(−e) of the next one, counting up. -/
def errorPlaces (p : List Nat) (inv : Nat) : Nat → Nat → Nat → List Nat
  | 0, _, _ => []
  | n + 1, e, x => if polyAt x p = 0 then e :: errorPlaces p inv n (e + 1) (gfMul x inv) else errorPlaces p inv n (e + 1) (gfMul x inv)

/-- The odd part of a polynomial, its formal derivative. -/
def polyOdd (p : List Nat) : List Nat := (List.range (p.length - 1)).map fun i => if i % 2 = 0 then p.getD (i + 1) 0 else 0

/-- The first 30 coefficients of a product. -/
def polyMul30 (p q : List Nat) : List Nat :=
  (List.range 30).map fun n => (List.range (n + 1)).foldl (fun a i => a ^^^ gfMul (p.getD i 0) (q.getD (n - i) 0)) 0

/-- The error of the symbol at exponent e. -/
def errorValue (p omega : List Nat) (e : Nat) : Nat :=
  let x := gfPow 2 e
  let y := gfInv x
  gfMul x (gfMul (polyAt y omega) (gfInv (polyAt y (polyOdd p))))

/-- A received codeword is one of the code. -/
def rsValid (w : BitVec 5440) : Bool := rsParity (w.setWidth 5140) = w.extractLsb' 5140 300

/-- The word with its errors put right, and how many there were: none where no more than 15 symbols explain it. -/
def rsCorrect (w : BitVec 5440) : Option (BitVec 5140 × Nat) :=
  let rem := rsDivide 514 (w.setWidth 5140).toNat 0 ^^^ rsReverse 30 (w.extractLsb' 5140 300).toNat
  let coeffs := (List.range 30).map fun i => rem / 2 ^ (10 * i) % 1024
  let syn := (List.range 30).map fun j => polyAt (gfPow 2 j) coeffs
  let l := (List.range 30).foldl (locatorStep syn) {}
  let es := errorPlaces l.poly (gfInv 2) 544 0 1
  let omega := polyMul30 syn l.poly
  let v := es.foldl (fun (v : BitVec 5440) e =>
    v ^^^ BitVec.ofNat 5440 (errorValue l.poly omega e * 2 ^ (10 * (543 - e)))) w
  if l.len ≤ 15 && es.length = l.len && rsValid v then some (v.setWidth 5140, es.length) else none

/-- Decode a codeword: its message and the symbols corrected (R490); none where it cannot be corrected (R492). -/
def rsDecode (w : BitVec 5440) : Option (BitVec 5140 × Nat) :=
  if rsValid w then some (w.setWidth 5140, 0) else rsCorrect w

/-! ### Codewords and frames of a port (R491, R492) -/

/-- What the decoder gives for a frame: the frame stream's bits not yet taken, how many, whether one of the frame's
codewords failed, and, for a codeword that came with it, its failure and the symbols corrected. -/
structure FecSeen where
  bits : Nat
  have_ : Nat
  bad : Bool
  newWord : Bool
  newBad : Bool
  corrected : Nat
  deriving DecidableEq, Repr

/-- The bits of the frame that comes next on a port: with fewer than 4,352 left of the codewords so far, the frame needs
the next codeword; with as many, it needs none. None where the operand is no frame of the stream: a codeword too many or
missing, or bytes that the decoder does not give (R491). -/
def fecSee (x : Port) (f : FrameIn) : Option FecSeen :=
  let old : Bool := x.rxBad && 0 < x.rxHave
  let r : Option FecSeen := match f.word with
    | none => if 4352 ≤ x.rxHave then
        some { bits := x.rxBits, have_ := x.rxHave, bad := old, newWord := false, newBad := x.rxBad, corrected := 0 } else none
    | some w => if 4352 ≤ x.rxHave then none else match rsDecode w with
      | some (m, n) => some { bits := x.rxBits + m.toNat * 2 ^ x.rxHave, have_ := x.rxHave + 5140, bad := old
                              newWord := true, newBad := false, corrected := n }
      | none => some { bits := x.rxBits, have_ := x.rxHave + 5140, bad := true, newWord := true, newBad := true, corrected := 0 }
  match r with
  | some r => if r.bad || r.bits % 2 ^ 4352 = f.raw.toNat then some r else none
  | none => none

/-- The frame's bits have passed: ZL_FEC counts symbols corrected and codewords failed (R491, R492, R539). -/
def takeFrame (p : Nat) (f : FrameIn) (s : State) : State :=
  let x := s.port p
  match fecSee x f with
  | none => s
  | some r => s.setPort p { x with
      rxBits := r.bits / 2 ^ 4352, rxHave := r.have_ - 4352, rxBad := r.newBad
      fecCorrected := satAdd x.fecCorrected r.corrected
      fecUncorrected := if r.newWord && r.newBad then satInc x.fecUncorrected else x.fecUncorrected }

/-- Symbols of a codeword by lane: symbol i travels on active lane i mod W; lanes 4 to 7 are the active ones of group 1
(R487, R491). -/
def laneSymbols (w4 group : Bool) (w : BitVec 5440) : List (Nat × List (BitVec 10)) :=
  let n := if w4 then 4 else 8
  (List.range n).map fun l =>
    (l + (if w4 && group then 4 else 0), (List.range (544 / n)).map fun i => fld w (10 * (i * n + l)) 10)

/-- A frame goes into the frame stream; a codeword that it fills goes out on the lanes (R491, R497). -/
def State.sendRaw (s : State) (p : Nat) (raw : BitVec 4352) : State :=
  let x := s.port p
  let bits := x.txBits + raw.toNat * 2 ^ x.txHave
  let n := x.txHave + 4352
  let s := s.emit (.frame p raw)
  if n < 5140 then s.setPort p { x with txBits := bits, txHave := n }
  else (s.setPort p { x with txBits := bits / 2 ^ 5140, txHave := n - 5140 }).emit
    (.codeword p (laneSymbols x.width4 x.laneGroup (rsEncode (BitVec.ofNat 5140 bits))))

end Sys2Proof.Machine
end

