-- ==== Sys2Proof/Machine/Crypto.lean ====
section
/-! DEFINITION. The standards that the spec names: AES-256 (FIPS 197) in GCM (NIST SP 800-38D) with a 96-bit tag, SHA-384
(FIPS 180-4), HMAC and HKDF (RFC 5869), P-384 with SEC1 octets, ECDH and ECDSA (11 R507, 12 R551 to R554, 16 R682, R683): log
entry 13. Octet strings are byte lists, first byte first. -/
namespace Sys2Proof.Machine

/-- Octets of a number, most significant first. -/
def beBytes (n v : Nat) : List Byte := (leBytes n v).reverse

/-- The number that octets spell, most significant first. -/
def beNat (bs : List Byte) : Nat := leNat bs.reverse

/-- Octets with others added to them: as many as there are of the first. -/
def xorBytes : List Byte → List Byte → List Byte
  | a :: as, b :: bs => (a ^^^ b) :: xorBytes as bs
  | as, _ => as

/-! ### AES-256 (FIPS 197) -/

/-- The substitution box: the value for b in bits [8b + 7 : 8b]. -/
def sboxBits : BitVec 2048 :=
  0x16bb54b00f2d99416842e6bf0d89a18cdf2855cee9871e9b948ed9691198f8e19e1dc186b95735610ef6034866b53e708a8bbd4b1f74dde8c6b4a61c2e2578ba08ae7a65eaf4566ca94ed58d6d37c8e779e4959162acd3c25c2406490a3a32e0db0b5ede14b8ee4688902a22dc4f816073195d643d7ea7c41744975fec130ccdd2f3ff1021dab6bcf5389d928f40a351a89f3c507f02f94585334d43fbaaefd0cf584c4a39becb6a5bb1fc20ed00d153842fe329b3d63b52a05a6e1b1a2c830975b227ebe28012079a059618c323c7041531d871f1e5a534ccf73f362693fdb7c072a49cafa2d4adf04759fa7dc982ca76abd7fe2b670130c56f6bf27b777c63

def sbox (b : Byte) : Byte := fld sboxBits (8 * b.toNat) 8

/-- Multiplication by x in the field of the cipher. -/
def xtime (b : Byte) : Byte := if b.msb then (b <<< 1) ^^^ 0x1B#8 else b <<< 1

def shiftRows (s : List Byte) : List Byte := (List.range 16).map fun i => s.getD (5 * i % 16) 0

def mixColumns : List Byte → List Byte
  | a :: b :: c :: d :: r =>
    let t := a ^^^ b ^^^ c ^^^ d
    (a ^^^ t ^^^ xtime (a ^^^ b)) :: (b ^^^ t ^^^ xtime (b ^^^ c)) :: (c ^^^ t ^^^ xtime (c ^^^ d))
      :: (d ^^^ t ^^^ xtime (d ^^^ a)) :: mixColumns r
  | _ => []

/-- Each word of a list has the word before it, changed alike, added to it. -/
def keyChain (t : List Byte) : List (List Byte) → List (List Byte)
  | [] => []
  | w :: r => xorBytes w t :: keyChain (xorBytes w t) r

/-- The next eight words of the key schedule. -/
def keyStep (rc : Byte) (k : List (List Byte)) : List (List Byte) :=
  let t := match (k.getD 7 []).map sbox with
    | a :: r => xorBytes (r ++ [a]) [rc, 0, 0, 0]
    | [] => []
  let lo := keyChain t (k.take 4)
  lo ++ keyChain ((lo.getD 3 []).map sbox) (k.drop 4)

def keySteps : List Byte → List (List Byte) → List (List Byte)
  | [], k => k
  | rc :: r, k => k ++ keySteps r (keyStep rc k)

/-- The fifteen round keys of a 32-byte key. -/
def roundKeys (key : List Byte) : List (List Byte) :=
  (chunks 16 15 (keySteps [0x01, 0x02, 0x04, 0x08, 0x10, 0x20, 0x40] (chunks 4 8 key)).flatten)

def aesRounds : List Byte → List (List Byte) → List Byte
  | s, [] => s
  | s, [k] => xorBytes (shiftRows (s.map sbox)) k
  | s, k :: k' :: r => aesRounds (xorBytes (mixColumns (shiftRows (s.map sbox))) k) (k' :: r)

/-- One block under the round keys. -/
def aesBlock (ks : List (List Byte)) (block : List Byte) : List Byte :=
  match ks with
  | k :: r => aesRounds (xorBytes block k) r
  | [] => []

/-! ### GCM (NIST SP 800-38D) -/

/-- Multiplication in the field of GHASH, over the bits of x from bit i - 1 down; bit 127 is the first. -/
def ghashMul (x : BitVec 128) : Nat → BitVec 128 → BitVec 128 → BitVec 128
  | 0, _, z => z
  | i + 1, v, z => ghashMul x i (if v.getLsbD 0 then (v >>> 1) ^^^ (0xE1#128 <<< 120) else v >>> 1)
      (if x.getLsbD i then z ^^^ v else z)

/-- GHASH of blocks under the hash key h. -/
def ghash (h : BitVec 128) (blocks : List (List Byte)) : BitVec 128 :=
  blocks.foldl (fun y b => ghashMul (y ^^^ BitVec.ofNat 128 (beNat b)) 128 h 0) 0

/-- Bytes with zeros up to whole blocks of 16. -/
def padBlock (bs : List Byte) : List Byte := bs ++ List.replicate ((16 - bs.length % 16) % 16) 0

/-- The key stream of n bytes: counters 2 and up behind a 96-bit IV. -/
def gcmStream (ks : List (List Byte)) (iv : List Byte) (n : Nat) : List Byte :=
  (List.range ((n + 15) / 16)).flatMap fun i => aesBlock ks (iv ++ beBytes 4 (2 + i))

/-- The tag over AAD and ciphertext, its leftmost 96 bits. -/
def gcmTag (ks : List (List Byte)) (iv aad c : List Byte) : List Byte :=
  let bs := padBlock aad ++ padBlock c ++ beBytes 8 (8 * aad.length) ++ beBytes 8 (8 * c.length)
  let h := BitVec.ofNat 128 (beNat (aesBlock ks (List.replicate 16 0)))
  let t := xorBytes (aesBlock ks (iv ++ beBytes 4 1)) (beBytes 16 (ghash h (chunks 16 bs.length bs)).toNat)
  (List.range 12).map fun i => t.getD i 0

/-- AES-256-GCM (R507, R554): key, 96-bit IV, AAD and plaintext give the ciphertext and the 12-byte tag after it. -/
def gcmSeal (key : BitVec 256) (iv : BitVec 96) (aad plain : List Byte) : List Byte :=
  let ks := roundKeys (leB 32 key)
  let c := xorBytes plain (gcmStream ks (leB 12 iv) plain.length)
  c ++ gcmTag ks (leB 12 iv) aad c

/-- AES-256-GCM: ciphertext and tag give the plaintext where the tag verifies. -/
def gcmOpen (key : BitVec 256) (iv : BitVec 96) (aad sealed_ : List Byte) : Option (List Byte) :=
  let ks := roundKeys (leB 32 key)
  let c := sealed_.take (sealed_.length - 12)
  if sealed_.drop (sealed_.length - 12) = gcmTag ks (leB 12 iv) aad c then
    some (xorBytes c (gcmStream ks (leB 12 iv) c.length)) else none

/-! ### SHA-384 (FIPS 180-4) -/

def shaStart : List Word :=
  [0xcbbb9d5dc1059ed8#64, 0x629a292a367cd507#64, 0x9159015a3070dd17#64, 0x152fecd8f70e5939#64,
   0x67332667ffc00b31#64, 0x8eb44a8768581511#64, 0xdb0c2e0d64f98fa7#64, 0x47b5481dbefa4fa4#64]

def shaConstants : List Word :=
   [0x428a2f98d728ae22#64, 0x7137449123ef65cd#64, 0xb5c0fbcfec4d3b2f#64, 0xe9b5dba58189dbbc#64,
    0x3956c25bf348b538#64, 0x59f111f1b605d019#64, 0x923f82a4af194f9b#64, 0xab1c5ed5da6d8118#64,
    0xd807aa98a3030242#64, 0x12835b0145706fbe#64, 0x243185be4ee4b28c#64, 0x550c7dc3d5ffb4e2#64,
    0x72be5d74f27b896f#64, 0x80deb1fe3b1696b1#64, 0x9bdc06a725c71235#64, 0xc19bf174cf692694#64] ++
   [0xe49b69c19ef14ad2#64, 0xefbe4786384f25e3#64, 0x0fc19dc68b8cd5b5#64, 0x240ca1cc77ac9c65#64,
    0x2de92c6f592b0275#64, 0x4a7484aa6ea6e483#64, 0x5cb0a9dcbd41fbd4#64, 0x76f988da831153b5#64,
    0x983e5152ee66dfab#64, 0xa831c66d2db43210#64, 0xb00327c898fb213f#64, 0xbf597fc7beef0ee4#64,
    0xc6e00bf33da88fc2#64, 0xd5a79147930aa725#64, 0x06ca6351e003826f#64, 0x142929670a0e6e70#64] ++
   [0x27b70a8546d22ffc#64, 0x2e1b21385c26c926#64, 0x4d2c6dfc5ac42aed#64, 0x53380d139d95b3df#64,
    0x650a73548baf63de#64, 0x766a0abb3c77b2a8#64, 0x81c2c92e47edaee6#64, 0x92722c851482353b#64,
    0xa2bfe8a14cf10364#64, 0xa81a664bbc423001#64, 0xc24b8b70d0f89791#64, 0xc76c51a30654be30#64,
    0xd192e819d6ef5218#64, 0xd69906245565a910#64, 0xf40e35855771202a#64, 0x106aa07032bbd1b8#64] ++
   [0x19a4c116b8d2d0c8#64, 0x1e376c085141ab53#64, 0x2748774cdf8eeb99#64, 0x34b0bcb5e19b48a8#64,
    0x391c0cb3c5c95a63#64, 0x4ed8aa4ae3418acb#64, 0x5b9cca4f7763e373#64, 0x682e6ff3d6b2b8a3#64,
    0x748f82ee5defb2fc#64, 0x78a5636f43172f60#64, 0x84c87814a1f0ab72#64, 0x8cc702081a6439ec#64,
    0x90befffa23631e28#64, 0xa4506cebde82bde9#64, 0xbef9a3f7b2c67915#64, 0xc67178f2e372532b#64] ++
   [0xca273eceea26619c#64, 0xd186b8c721c0c207#64, 0xeada7dd6cde0eb1e#64, 0xf57d4f7fee6ed178#64,
    0x06f067aa72176fba#64, 0x0a637dc5a2c898a6#64, 0x113f9804bef90dae#64, 0x1b710b35131c471b#64,
    0x28db77f523047d84#64, 0x32caab7b40c72493#64, 0x3c9ebe0a15c9bebc#64, 0x431d67c49c100d4c#64,
    0x4cc5d4becb3e42b6#64, 0x597f299cfc657e2a#64, 0x5fcb6fab3ad6faec#64, 0x6c44198c4a475817#64]

def shaPad (bs : List Byte) : List Byte :=
  bs ++ 0x80#8 :: List.replicate ((239 - bs.length % 128) % 128) 0 ++ beBytes 16 (8 * bs.length)

/-- The next n words of the message schedule behind sixteen; they come out last first. -/
def shaSchedule : Nat → List Word → List Word
  | 0, w => w
  | n + 1, w =>
    let a := w.getD 14 0
    let b := w.getD 1 0
    shaSchedule n ((w.getD 15 0 + (a.rotateRight 1 ^^^ a.rotateRight 8 ^^^ (a >>> 7)) + w.getD 6 0
      + (b.rotateRight 19 ^^^ b.rotateRight 61 ^^^ (b >>> 6))) :: w)

def shaRound (h : List Word) (kw : Word × Word) : List Word :=
  match h with
  | [a, b, c, d, e, f, g, h] =>
    let t := h + (e.rotateRight 14 ^^^ e.rotateRight 18 ^^^ e.rotateRight 41) + ((e &&& f) ^^^ (~~~e &&& g)) + kw.1 + kw.2
    let u := (a.rotateRight 28 ^^^ a.rotateRight 34 ^^^ a.rotateRight 39) + ((a &&& b) ^^^ (a &&& c) ^^^ (b &&& c))
    [t + u, a, b, c, d + t, e, f, g]
  | _ => h

def shaBlock (h : List Word) (block : List Byte) : List Word :=
  let w := (chunks 8 16 block).map fun b => BitVec.ofNat 64 (beNat b)
  List.zipWith (· + ·) h ((shaConstants.zip (shaSchedule 64 w.reverse).reverse).foldl shaRound h)

/-- SHA-384 (R552, R553, R683). -/
def sha384 (bs : List Byte) : List Byte :=
  let p := shaPad bs
  (((chunks 128 p.length p).foldl shaBlock shaStart).flatMap fun w => beBytes 8 w.toNat).take 48

/-! ### HMAC and HKDF (RFC 5869) -/

/-- HMAC with SHA-384 under a key of at most 128 bytes. -/
def hmac (key bs : List Byte) : List Byte :=
  let k := key ++ List.replicate (128 - key.length) 0
  sha384 (k.map (· ^^^ 0x5C#8) ++ sha384 (k.map (· ^^^ 0x36#8) ++ bs))

/-- The first 48 bytes of HKDF with SHA-384: one block of its expansion. -/
def hkdf (salt ikm info : List Byte) : List Byte := hmac (hmac salt ikm) (info ++ [1])

/-! ### P-384 (SEC1, FIPS 186) -/

abbrev ecP : Nat := 2 ^ 384 - 2 ^ 128 - 2 ^ 96 + 2 ^ 32 - 1
abbrev ecB : Nat := 0xb3312fa7e23ee7e4988e056be3f82d19181d9c6efe8141120314088f5013875ac656398d8a2ed19d2a85c8edd3ec2aef
abbrev ecN : Nat := 0xffffffffffffffffffffffffffffffffffffffffffffffffc7634d81f4372ddf581a0db248b0a77aecec196accc52973
abbrev ecGx : Nat := 0xaa87ca22be8b05378eb1c71ef320ad746e1d3b628ba79b9859f741e082542a385502f25dbf55296c3a545e3872760ab7
abbrev ecGy : Nat := 0x3617de4a96262c6f5d9e98bf9292dc29f8f41dbd289a147ce9da3113b5f0b8c00a60b1ce1d7e819d7a431d7c90ea0e5f

/-- b to the power that the n low bits of e spell, modulo m. -/
def powMod (m : Nat) : Nat → Nat → Nat → Nat
  | 0, _, _ => 1
  | n + 1, b, e =>
    let h := powMod m n (b * b % m) (e / 2)
    if e % 2 = 1 then h * b % m else h

/-- Euclid's algorithm from remainders a and b, which are x and y times the number in hand modulo m. -/
def euclid (m : Nat) : Nat → Nat → Nat → Nat → Nat → Nat
  | 0, _, _, x, _ => x
  | n + 1, a, b, x, y => bif b.beq 0 then x else euclid m n b (a % b) y ((x + (m - a / b % m) * y) % m)

/-- The inverse modulo a prime of 384 bits, for which 560 divisions suffice; 0 for 0. -/
def invMod (m a : Nat) : Nat := euclid m 560 m (a % m) 0 1

/-- A point of the curve; none is the point at infinity. -/
abbrev EcPoint := Option (Nat × Nat)

/-- The point with slope l from x and y through one whose x is x'. -/
def ecThird (l x y x' : Nat) : EcPoint :=
  let r := (l * l + 2 * ecP - x - x') % ecP
  some (r, (l * (x + ecP - r) + ecP - y) % ecP)

def ecAdd : EcPoint → EcPoint → EcPoint
  | none, q => q
  | p, none => p
  | some (x, y), some (x', y') =>
    if x = x' then
      if (y + y') % ecP = 0 then none
      else ecThird ((3 * x * x + ecP - 3) * invMod ecP (2 * y % ecP) % ecP) x y x'
    else ecThird ((y' + ecP - y) * invMod ecP ((x' + ecP - x) % ecP) % ecP) x y x'

/-- The multiple of a point by the n low bits of k. -/
def ecMul : Nat → Nat → EcPoint → EcPoint
  | 0, _, _ => none
  | n + 1, k, p =>
    let h := ecMul n (k / 2) (ecAdd p p)
    if k % 2 = 1 then ecAdd h p else h

abbrev ecG : EcPoint := some (ecGx, ecGy)

/-- x³ − 3x + b. -/
def ecRhs (x : Nat) : Nat := (x * x * x + (ecP - 3) * x + ecB) % ecP

/-- The SEC1 compressed octets of a point: 2 or 3, then x. -/
def ecCompress : EcPoint → BitVec 392
  | some (x, y) => BitVec.ofNat 392 (leNat (BitVec.ofNat 8 (2 + y % 2) :: beBytes 48 x))
  | none => 0

/-- The point that SEC1 compressed octets name, where they name one. -/
def ecDecompress (pub : BitVec 392) : EcPoint :=
  match leB 49 pub with
  | f :: bs =>
    let x := beNat bs
    let y := powMod ecP 384 (ecRhs x) ((ecP + 1) / 4)
    if (f = 2 || f = 3) && x < ecP && y * y % ecP = ecRhs x then
      some (x, if y % 2 = f.toNat % 2 then y else (ecP - y) % ecP) else none
  | [] => none

/-- The point of SEC1 uncompressed octets: 4, x, y. -/
def ecUncompress (bs : List Byte) : EcPoint :=
  let x := beNat ((bs.drop 1).take 48)
  let y := beNat ((bs.drop 49).take 48)
  if bs.head? = some 4 && x < ecP && y < ecP && y * y % ecP = ecRhs x then some (x, y) else none

/-- The private key of the n-th pair drawn, from 1 to the order of the curve less 1 (R551). -/
def privateKey (n : Nat) : Nat := 1 + (Config.privateKey n).toNat % (ecN - 1)

/-- The SEC1 compressed public key of the n-th key pair drawn (R551). -/
def publicKey (n : Nat) : BitVec 392 := ecCompress (ecMul 384 (privateKey n) ecG)

/-- The x-coordinate of the ECDH secret of pair n with a peer's public key. For octets that name no point the spec states
no result: a free value. -/
def ecdhSecret (n : Nat) (pub : BitVec 392) : List Byte :=
  match ecDecompress pub with
  | some q => match ecMul 384 (privateKey n) (some q) with
    | some (x, _) => beBytes 48 x
    | none => leBytes 48 (Config.noPointSecret n pub).toNat
  | none => leBytes 48 (Config.noPointSecret n pub).toNat

/-- The House key of pair n with a peer's public key, salt and info: the first 32 bytes of HKDF (R553). -/
def houseKey (n : Nat) (pub : BitVec 392) (salt info : List Byte) : BitVec 256 :=
  BitVec.ofNat 256 (leNat ((hkdf salt (ecdhSecret n pub) info).take 32))

/-- An ECDSA P-384 signature over a SHA-384 hash verifies under a public key. -/
def ecdsaOk (key : EcPoint) (hash : List Byte) (r s : Nat) : Bool :=
  match key with
  | none => false
  | some q =>
    let w := invMod ecN s
    0 < r && r < ecN && 0 < s && s < ecN
      && match ecAdd (ecMul 384 (beNat hash * w % ecN) ecG) (ecMul 384 (r * w % ecN) (some q)) with
        | some (x, _) => x % ecN = r
        | none => false

end Sys2Proof.Machine
end

