-- ==== Sys2Proof/Machine/House.lean ====
section
/-! DEFINITION. The House on a node: link keys, routes and membership, the Hall's link records and key deliveries, groups
that end, leaving a House (11 R508 to R513, 12 R541 to R566). -/
namespace Sys2Proof.Machine

/-! ### Link keys (R508 to R513) -/

/-- A port with current keys both ways is SECURE (R485). -/
def secureNow (x : Port) : Port :=
  if x.state = .clear && x.txKey.isSome && x.rxKey.isSome then { x with state := .secure } else x

/-- Load a key into the transmit direction; none is DT_RANGE (R510, R512). A stalled transmitter goes on at IVC 0. -/
def loadTx (k : KeySlot) (x : Port) : Option Port :=
  match x.txKey with
  | none => some (secureNow { x with txKey := some k, txEpoch := k.epoch, txIvc := 0 })
  | some c =>
    if k.epoch ≠ c.epoch + 1 then none
    else if 2 ^ 32 ≤ x.txIvc then
      some { x with txKey := some k, txEpoch := k.epoch, txIvc := 0, txNextKey := none, keyLow := false, keyStall := false }
    else some { x with txNextKey := some k, keyLow := false, keyStall := false }

def loadRx (k : KeySlot) (x : Port) : Option Port :=
  match x.rxKey with
  | none => some (secureNow { x with rxKey := some k, rxEpoch := k.epoch, rxSecured := false })
  | some c => if k.epoch ≠ c.epoch + 1 then none else some { x with rxNextKey := some k }

/-- Load a key record into a direction of a port; none is DT_RANGE (R510). -/
def loadKey (p dir : Nat) (k : KeySlot) (partner : Word) (s : State) : Option State :=
  let x := s.port p
  if partner ≠ 0 && partner ≠ x.partner then none
  else (if dir = 0 then loadTx k x else loadRx k x).map fun y => s.setPort p y

/-! ### House states and interrupts (R541, R587) -/

/-- A new House state raises the state-change interrupt. -/
def setHState (h : HState) (s : State) : State :=
  if s.house.hstate = h then s else houseIrq 0 { s with house := { s.house with hstate := h } }

/-- The device may claim (R546). -/
def eligible (s : State) : Bool := s.g.hallEligible && s.house.hallAllow

/-- This device is a member. -/
def inHouse (s : State) : Bool := s.house.hstate = .wing || s.house.hstate = .hall

/-- The own claim (R546). -/
def ownClaim (s : State) : Claim :=
  { epoch := s.house.epoch, prio := s.g.claimPrio, serial := s.g.serial, nonce := s.house.nonce }

/-- Claim a is better than b (R547). -/
def Claim.better (a b : Claim) : Bool := b.prio < a.prio || (a.prio = b.prio && b.serial < a.serial)

def Claim.fields (c : Claim) : List (Nat × Nat) :=
  [(8, c.epoch.toNat), (12, c.prio.toNat), (16, c.serial.toNat), (24, c.nonce.toNat)]

def Claim.ofMsg (w : BitVec 512) : Claim :=
  { epoch := mgF w 8 4, prio := fld w 96 4, serial := mgF w 16 8, nonce := mgF w 24 4 }

/-- HALL_ANNOUNCE of the Hall this member has; REPEAT on link-up (R544). -/
def announce (flags : Nat) (s : State) : BitVec 512 :=
  mgMsg 0x81 flags (mgSrc s) neighbour
    (((s.house.hall.getD (ownClaim s)).fields) ++ [(28, s.house.mgen.toNat)])

/-! ### Routes (R556) -/

/-- Links of a node, by its port number. -/
def linksOf (s : State) (n : Nat) : List LinkEnd := s.house.links.filter (·.node = n)

/-- Insert by first port, then in order of arrival. -/
def byPort (x : Nat × Nat) : List (Nat × Nat) → List (Nat × Nat)
  | [] => [x]
  | y :: r => if x.2 < y.2 then x :: y :: r else y :: byPort x r

/-- Nodes reached from a frontier in one more hop, each with its lowest first port. -/
def widen1 (s : State) (seen : List Nat) (front : List (Nat × Nat)) : List (Nat × Nat) :=
  (front.foldl (fun (acc : List (Nat × Nat)) f =>
    (linksOf s f.1).foldl (fun acc l =>
      if seen.contains l.partner || acc.any (·.1 = l.partner) then acc else acc ++ [(l.partner, f.2)]) acc) [])
    |>.foldl (fun l x => byPort x l) []

/-- Breadth-first search: node, first port and hops (R556). -/
def bfs (s : State) : Nat → Nat → List Nat → List (Nat × Nat) → List (Nat × Nat × Nat)
  | 0, _, _, _ => []
  | f + 1, h, seen, front =>
    if front = [] then [] else
    let next := widen1 s (seen ++ front.map (·.1)) front
    front.map (fun x => (x.1, x.2, h)) ++ bfs s f (h + 1) (seen ++ front.map (·.1)) next

/-- First hops of this node. -/
def firstHops (s : State) : List (Nat × Nat) :=
  ((linksOf s (ownNode s)).map fun l => (l.partner, l.port)).foldl (fun l x => byPort x l) []
    |>.foldl (fun acc x => if acc.any (·.1 = x.1) then acc else acc ++ [x]) []

/-- Routes from the topology known now, with the times since which a member has none (R556, R558, R559). -/
def reroute (s : State) : State :=
  let own := ownNode s
  let found := bfs s (s.house.members.length + 1) 1 [own] (firstHops s)
  let routes := found.foldl (fun (t : Table Nat) x => if x.1 = own then t else tput t x.1 x.2.1) []
  let lost := s.house.members.filter fun n => n ≠ own && !routes.any (·.1 = n)
  let since := lost.foldl (fun (t : Table Nat) n => tput t n (match s.house.noRoute.find? (·.1 = n) with
    | some x => x.2
    | none => s.now)) []
  let hops := match found.find? (·.1 = 0) with
    | some x => x.2.2
    | none => 0
  { s with house := { s.house with routes := routes, noRoute := since, hops := hops } }

/-- A member or link change takes effect on the topology (R544, R556). -/
def applyChange (change node port partner partnerPort : Nat) (s : State) : State :=
  let h := s.house
  let a : LinkEnd := { node := node, port := port, partner := partner, partnerPort := partnerPort }
  let b : LinkEnd := { node := partner, port := partnerPort, partner := node, partnerPort := port }
  let h := match change with
    | 0 => { h with members := ninsert h.members node }
    | 1 => { h with members := nremove h.members node
                    links := h.links.filter fun l => l.node ≠ node && l.partner ≠ node }
    | 2 => { h with members := ninsert (ninsert h.members node) partner
                    links := (h.links.filter fun l => l ≠ a && l ≠ b) ++ [a, b] }
    | _ => { h with links := h.links.filter fun l => l ≠ a && l ≠ b }
  reroute { s with house := h }

/-- The Hall makes a change: MGEN rises and MEMBER_UPDATE is flooded (R551, R556, R558). -/
def hallChange (change node port partner partnerPort : Nat) (s : State) : State :=
  let g := s.house.mgen + 1
  let s := applyChange change node port partner partnerPort { s with house := { s.house with mgen := g } }
  flood (mgMsg 0x88 0 (mgSrc s) 0 [(8, g.toNat), (12, node), (14, change), (15, port), (16, partner), (18, partnerPort)]) s

/-! ### Link keys from the Hall (R554, R555) -/

/-- IV of a KEY_DELIVER (R554). -/
def deliverIv (port dir : Nat) (epoch : Half) (node : Nat) : BitVec 96 :=
  BitVec.ofNat 96 (port + dir * 2 ^ 8 + epoch.toNat * 2 ^ 32 + node * 2 ^ 64)

/-- The sealed body of a KEY_DELIVER: ciphertext of KEY and FIXED, then the tag. -/
def sealKey (house : BitVec 256) (head : BitVec 512) (port dir : Nat) (k : KeySlot) (node : Nat) : List Byte :=
  gcmSeal house (deliverIv port dir k.epoch node) (leB 16 (fld head 0 128 : BitVec 128))
    (leB 32 k.key ++ leB 4 k.fixed)

/-- KEY_DELIVER to a Wing. -/
def deliverMsg (s : State) (w : Wing) (port dir : Nat) (k : KeySlot) : BitVec 512 :=
  let head := mgMsg 0x85 0 (mgSrc s) w.node [(8, port), (9, dir), (12, k.epoch.toNat)]
  let body := leNat ((sealKey w.key head port dir k w.node).take 48)
  head ||| (BitVec.ofNat 512 body <<< 128)

/-- Deliver a key to a node's port: loaded at once at the Hall, else sent. The answer names the delivery to wait for. -/
def deliverKey (node port dir : Nat) (k : KeySlot) (s : State) : State × Option (Nat × List Byte) :=
  if node = 0 then ((loadKey port dir k 0 s).getD s, none)
  else match s.house.wings.find? (·.node = node), mgmtPort s node with
    | some w, some p =>
      let m := deliverMsg s w port dir k
      (sendMgmt p m s, some (p, leB 64 m))
    | _, _ => (s, none)

/-- Draw a key for the direction from node a to node b; the receive key goes first, and the transmit key when it has been
accepted (R554). -/
def keyLink (a pa b pb : Nat) (epoch : Half) (s : State) : State :=
  let k : KeySlot := { key := Config.linkKey s.free, fixed := Config.linkFixed s.free, epoch := epoch }
  match deliverKey b pb 1 k { s with free := s.free + 1 } with
  | (s, none) => (deliverKey a pa 0 k s).1
  | (s, some d) => { s with house := { s.house with heldKeys := s.house.heldKeys ++
      [{ node := a, port := pa, epoch := epoch, key := k.key, fixed := k.fixed, after := some d }] } }

/-- A delivery has been accepted: the transmit keys held for it go out. -/
def keyAccepted (p : Nat) (content : List Byte) (s : State) : State :=
  let mine (h : HeldKey) : Bool := h.after = some (p, content)
  let due := s.house.heldKeys.filter mine
  let s := { s with house := { s.house with heldKeys := s.house.heldKeys.filter fun h => !mine h } }
  due.foldl (fun t h => (deliverKey h.node h.port 0 { key := h.key, fixed := h.fixed, epoch := h.epoch } t).1) s

/-! ### The Hall's record of links (R551, R558) -/

/-- The node of a serial among the members. -/
def nodeOfSerial (s : State) (x : Word) : Option Nat :=
  if x = s.g.serial then some 0 else (s.house.wings.find? (·.serial = x)).map (·.node)

/-- Ports of node a that are reported towards node b and are in no link yet, lowest first. -/
def openEnds (s : State) (a b : Nat) : List Nat :=
  ((s.house.reports.filter fun r => r.node = a && nodeOfSerial s r.serial = some b
    && !(linksOf s a).any (·.port = r.port)).map (·.port)).foldl ninsert []

/-- A new link of the House: MEMBER_UPDATE, then keys both ways. -/
def hallLink (a pa b pb : Nat) (s : State) : State :=
  keyLink b pb a pa 1 (keyLink a pa b pb 1 (hallChange 2 a pa b pb s))

/-- Links whose two ends have been reported come up. -/
def matchLinks (s : State) : State :=
  s.house.members.foldl (fun t a => t.house.members.foldl (fun t b =>
    if a < b then ((openEnds t a b).zip (openEnds t b a)).foldl (fun t x => hallLink a x.1 b x.2 t) t else t) t) s

/-- The Hall learns of a port of a member (R558). -/
def hallReport (node port : Nat) (up : Bool) (serial : Word) (s : State) : State :=
  let rest := s.house.reports.filter fun r => !(r.node = node && r.port = port)
  if up then
    matchLinks { s with house := { s.house with reports := rest ++ [{ node := node, port := port, serial := serial }] } }
  else
    let s := { s with house := { s.house with reports := rest } }
    match (linksOf s node).find? (·.port = port) with
    | some l => hallChange 3 node port l.partner l.partnerPort s
    | none => s

/-- LINK_REPORT of an own port (R558). -/
def reportPort (p : Nat) (up : Bool) (s : State) : State :=
  let x := s.port p
  if s.house.isHall then hallReport 0 p up x.partner s
  else if s.house.hstate = .wing then
    let m := mgMsg 0x89 0 (mgSrc s) 0 [(8, p), (9, if up then 0 else 1), (16, x.partner.toNat), (24, x.partnerNode.toNat)]
    match mgmtPort s 0 with
    | some e => sendMgmt e m s
    | none => sendMgmt s.house.viaPort m s
  else s

/-- TIME_PING on a port (R561). -/
def pingPort (p : Nat) (s : State) : State :=
  sendMgmt p (mgMsg 0x8C 0 (mgSrc s) neighbour [(8, s.now)])
    (s.setPort p { s.port p with pingT1 := some s.now })

/-- A port has come up: link-up of the device, and what a member sends (R546, R549, R558, R561). -/
def housePortUp (p : Nat) (s : State) : State :=
  let s := if s.house.linkUpAt.isNone then { s with house := { s.house with linkUpAt := some s.now } } else s
  if inHouse s then pingPort p (reportPort p true (sendMgmt p (announce 8 s) s))
  else if s.house.hstate = .unattached && !eligible s then setHState .candidate s
  else s

/-- A port has gone down. -/
def housePortDown (p : Nat) (s : State) : State :=
  let s := reportPort p false s
  if upPorts s = [] then
    let s := { s with house := { s.house with linkUpAt := none, announced := false } }
    if inHouse s || s.house.hstate = .stopped then s
    else setHState .unattached { s with house := { s.house with best := none, refusedAt := none } }
  else s

/-! ### Groups and the end of membership (R559, R560, R566) -/

/-- A group leaves this node: its instance and its House barrier waits end, and its quota is free. -/
def endGroup (g : Nat) (status : Byte) (s : State) : State :=
  let s := endInstance g status false s
  let s := releaseWaits (fun w => w.obj == .house g || w.obj == .houseArrive g) status s
  { s with groups := s.groups.filter (·.1 ≠ g) }

/-- A wait on something of another node. -/
def waitsAway (w : Waiter) : Bool :=
  match w.obj with
  | .remote _ _ => true
  | .house _ => true
  | .houseArrive _ => true
  | .grant _ _ => true
  | _ => false

/-- A device that is a member no longer: instances and waits end with LINK_DOWN, the ID and the routes go, the epoch stays
(R559, R560). -/
def leaveHouse (next : HState) (s : State) : State :=
  let s := (s.groups.map (·.1)).foldl (fun t g => endGroup g St.linkDown t) s
  let s := releaseWaits waitsAway St.linkDown s
  let s : State := { s with house := { s.house with
    node := 0, nodeValid := false, isHall := false, hall := none, members := [], links := [], routes := [], noRoute := [],
    hops := 0, wings := [], joins := [], reports := [], groupDefs := [], heldKeys := [], barriers := [], fwd := [],
    relays := [], relayTo := none, nextId := 1, wrapped := false, houseKey := none, best := none, lastBeacon := none, parked := [] } }
  cadHall (setHState next s)

/-- Begin claiming: the own claim is the best one seen (R546, R559). -/
def startClaim (s : State) : State :=
  let c := ownClaim s
  let ahead : Bool := match s.house.best with | some b => b.better c | none => false
  let s := { s with house := { s.house with
    best := if ahead then s.house.best else some c, bestSince := s.now, lastClaim := s.now } }
  let s := setHState .claiming s
  flood (mgMsg 0x80 0 (mgSrc s) neighbour c.fields) s

/-- What a device that has lost its Hall becomes (R559). -/
def reclaim (s : State) : State :=
  let s := { s with house := { s.house with heard := none } }
  if eligible s then startClaim (leaveHouse .claiming s) else leaveHouse .candidate s

end Sys2Proof.Machine
end

