-- ==== Sys2Proof/Machine/FrameFmt.lean ====
section
/-! DEFINITION. The frame's bytes: header fields, CRC-32C, HELLO and NAK records (11 R488, R493 to R496, R533). -/
namespace Sys2Proof.Machine

/-! ### CRC-32C (R496) -/

def crcBits : Nat → BitVec 32 → BitVec 32
  | 0, c => c
  | n + 1, c => crcBits n (if c.getLsbD 0 then (c >>> 1) ^^^ 0x82F63B78#32 else c >>> 1)

/-- The bytes of a list taken into a CRC. The match on the value changes nothing: it has each byte's result worked out
before the next byte, so that an evaluation does not go deep. -/
def crcBytes : List Byte → BitVec 32 → BitVec 32
  | [], c => c
  | b :: r, c => match (crcBits 8 (c ^^^ b.setWidth 32)).toNat with
    | 0 => crcBytes r 0
    | n + 1 => crcBytes r (BitVec.ofNat 32 (n + 1))

/-- CRC-32C of a byte list: reflected, initial value and final XOR 0xFFFF_FFFF. -/
def crc32c (bs : List Byte) : BitVec 32 := crcBytes bs 0xFFFF_FFFF#32 ^^^ 0xFFFF_FFFF#32

/-! ### Header fields (R494) -/

abbrev fType (r : BitVec 4352) : Nat := (fld r 0 4).toNat
abbrev fLast (r : BitVec 4352) : Bool := r.getLsbD 4
abbrev fEpoch (r : BitVec 4352) : Bool := r.getLsbD 5
abbrev fClear (r : BitVec 4352) : Bool := r.getLsbD 6
abbrev fValid (r : BitVec 4352) : Nat := (fld r 16 10).toNat
abbrev fIvc (r : BitVec 4352) : Half := fld r 32 32
abbrev fSeq (r : BitVec 4352) : BitVec 16 := fld r 64 16
abbrev fAck (r : BitVec 4352) : BitVec 16 := fld r 80 16
abbrev fCredit (r : BitVec 4352) : BitVec 16 := fld r 96 16
abbrev fStream (r : BitVec 4352) : Nat := (fld r 112 12).toNat
abbrev fPayload (r : BitVec 4352) : BitVec 4096 := fld r 128 4096
abbrev fTag (r : BitVec 4352) : BitVec 96 := fld r 4224 96

/-- The CRC field fits the frame (R496). -/
def crcOk (r : BitVec 4352) : Bool := crc32c (leB 540 (fld r 0 4320 : BitVec 4320)) = fld r 4320 32

/-- Frames of these types carry a SEQ and are replayed (R495). -/
def isSequenced (t : Nat) : Bool := 2 ≤ t && t ≤ 4

/-- The 16 header bytes (R494). -/
def frameHeader (t : Nat) (last epoch clear : Bool) (valid : Nat) (ivc : Nat) (seq ack credit : BitVec 16)
    (stream : Nat) : List Byte :=
  leBytes 1 (t + (if last then 16 else 0) + (if epoch then 32 else 0) + (if clear then 64 else 0)) ++ leBytes 1 0
    ++ leBytes 2 valid ++ leBytes 4 ivc ++ leB 2 seq ++ leB 2 ack ++ leB 2 credit ++ leBytes 2 stream

/-- A frame from its header and its 524 bytes of payload and tag: the CRC is added (R493). -/
def frameBytes (head body : List Byte) : BitVec 4352 :=
  let b := head ++ (padTo 524 body).take 524
  BitVec.ofNat 4352 (leNat (b ++ leB 4 (crc32c b)))

/-- IV of a frame (R507). -/
def frameIv (k : KeySlot) (ivc : Nat) : BitVec 96 := (BitVec.ofNat 32 ivc) ++ k.epoch ++ k.fixed

/-- A frame in clear. -/
def clearFrame (t valid : Nat) (seq ack credit : BitVec 16) (content : List Byte) : BitVec 4352 :=
  frameBytes (frameHeader t false false true valid 0 seq ack credit 0) content

/-- An encrypted frame (R507). -/
def sealedFrame (k : KeySlot) (ivc t : Nat) (last : Bool) (valid : Nat) (seq ack credit : BitVec 16) (stream : Nat)
    (content : List Byte) : BitVec 4352 :=
  let head := frameHeader t last (k.epoch.getLsbD 0) false valid ivc seq ack credit stream
  frameBytes head (gcmSeal k.key (frameIv k ivc) head (padTo 512 content))

/-! ### Records (R488, R533) -/

/-- The HELLO record of a port. -/
def helloRec (s : State) (p : Nat) : BitVec 512 :=
  let x := s.port p
  BitVec.ofNat 512 (2 + 1 * 2 ^ 8 + (if x.width4 then 4 else 8) * 2 ^ 16 + (if x.laneGroup then 1 else 0) * 2 ^ 24
    + 224 * 2 ^ 32 + (s.house.node.toNat + if s.house.nodeValid then 2 ^ 15 else 0) * 2 ^ 48 + s.g.serial.toNat * 2 ^ 64
    + (if x.helloSeen then 1 else 0) * 2 ^ 128)

/-- The 16 bytes of a NAK record. -/
def nakBytes (reason : Nat) (seq : BitVec 16) : List Byte := leBytes 1 1 ++ leBytes 1 reason ++ leB 2 seq ++ leBytes 12 0

/-! NAK reasons (R533). -/
namespace Nak
abbrev fecFail : Nat := 0x01
abbrev crcFail : Nat := 0x02
abbrev seqGap : Nat := 0x03
abbrev ingressCut : Nat := 0x04
abbrev malformedFrame : Nat := 0x10
abbrev authFail : Nat := 0x11
abbrev creditOverrun : Nat := 0x12
abbrev badSeq : Nat := 0x13
abbrev badAck : Nat := 0x14
abbrev unexpected : Nat := 0x15
abbrev malformedMsg : Nat := 0x16
abbrev quarantined : Nat := 0x20
end Nak

/-- Signed difference of two SEQ values (R499). -/
def seqDiff (a b : BitVec 16) : Int := (a - b).toInt

end Sys2Proof.Machine
end

