-- ==== Sys2Proof/Machine/Ports.lean ====
section
/-! DEFINITION. Link ports: what a lost port fails, training and link-up, quarantine, LINK_CONFIG, LINK_KEY_LOAD and replay
attempts (11 R485 to R489, R504, R505, R510, R513, R535 to R537, 12 R557, R583, R584). -/
namespace Sys2Proof.Machine

/-! ### Owners of frames (R489, R505, R535) -/

/-- Fail what a stream of this node carries. -/
def failTx (p : Nat) (status : Byte) (s : State) (t : TxStream) : State :=
  match t.chan with
  | none => s
  | some c => match t.rdx with
    | some x => reduceFails t.room.toNat x.group status (failFlight c (.contribution x.group x.chunk) status s)
    | none => failFlight c (.stream p t.id) status s

/-- Take a stream of this node off a port. -/
def dropTx (p id : Nat) (s : State) : State :=
  s.setPort p { s.port p with tx := (s.port p).tx.filter (·.id ≠ id) }

def failStream (p id : Nat) (status : Byte) (s : State) : State :=
  match (s.port p).tx.find? (·.id = id) with
  | some t => dropTx p id (failTx p status s t)
  | none => s

/-- End a wait with a link's status: a reduction's wait fails its instance (R574). -/
def failWait (status : Byte) (s : State) (w : Waiter) : State :=
  let s := if s.waiters.contains w then endWait w status 0 s else s
  match w.unit, w.obj with
  | .chan c, .grant g _ => reduceFails (s.chan c).room.toNat g status s
  | .chan c, .chunk g _ => reduceFails (s.chan c).room.toNat g status s
  | _, _ => s

/-- Flights of a channel that a request tag names: a READ or a remote signal. -/
def reqFlight (req : Nat) (f : Flight) : Bool :=
  match f.kind with
  | .read _ id => id = req
  | .signal id => id = req
  | _ => false

/-- A unit's wait at another node, or its wait for a grant (R514). -/
def reqWait (req : Nat) (w : Waiter) : Bool :=
  unitReq w.unit = req && (match w.unit, w.obj with
    | .peer _ _, _ => false
    | _, .remote _ _ => true
    | _, .grant _ _ => true
    | _, _ => false)

/-- Fail what a request tag of this node stands for: a READ, a remote signal, a remote wait or a reservation. -/
def failReq (req : Nat) (status : Byte) (s : State) : State :=
  match s.chans.find? (fun h => h.2.flights.any (reqFlight req)) with
  | some (c, h) => match h.flights.find? (reqFlight req) with
    | some f => failFlight c f.kind status { s with peerReads := s.peerReads.filter (·.req ≠ req) }
    | none => s
  | none => match s.sqSignals.find? (·.req = req) with
    | some x => completeEntry x.sq x.count status 0 { s with sqSignals := s.sqSignals.filter (·.req ≠ req) }
    | none => match s.waiters.find? (reqWait req) with
      | some w => failWait status s w
      | none => s

/-- Mark bad the instruction that owns a piece of a frame (R535). Traffic of other nodes has its owner there. -/
def failItem (p : Nat) (status : Byte) (s : State) (i : TxItem) : State :=
  match i with
  | .data id _ _ => failStream p id status s
  | .msg w =>
    let m := Msg.unpack w
    if m.src.toNat ≠ ownNode s then s
    else match m.mtype.toNat with
      | 0x01 => failStream p m.stream.toNat status s
      | 0x42 => failStream p m.stream.toNat status s
      | 0x04 => failReq m.req.toNat status s
      | 0x08 => failReq m.req.toNat status s
      | 0x0A => failReq m.req.toNat status s
      | 0x0D => failReq m.req.toNat status s
      | 0x40 => failReq m.req.toNat status s
      | _ => s
  | _ => s

/-! ### Forwarded traffic of a lost port (R557, R586) -/

/-- ROUTE_FAIL through a port to the source of failed traffic. -/
def routeFail (port dst stream req : Nat) (status : Byte) (node room : Nat) (s : State) : State :=
  if (s.port port).state ≠ .secure then s else
  enqueue port (.msg ({ mtype := 0x60, stream := BitVec.ofNat 16 stream, src := BitVec.ofNat 16 (ownNode s),
                        dst := BitVec.ofNat 16 dst, room := BitVec.ofNat 8 room, status := status,
                        req := BitVec.ofNat 32 req, arg0 := BitVec.ofNat 64 node } : Msg).pack) s

/-- A stream whose bytes are accepted and discarded from now on (R518). -/
def discardStream (id : Nat) (src room : Nat) : RxStream :=
  { id := id, src := BitVec.ofNat 10 src, room := BitVec.ofNat 6 room, offset := 0, stored := 0, wire := 0, store := 0,
    esize := 0, refused := true }

/-- A forwarded stream loses its outgoing port. -/
def failFwd (status : Byte) (s : State) (f : Fwd) : State :=
  let s := routeFail f.inPort f.src f.inStream 0 status f.dst f.room s
  if f.live then
    s.setPort f.inPort { s.port f.inPort with rx := (s.port f.inPort).rx ++ [discardStream f.inStream f.src f.room] }
  else s

/-! ### A port goes down -/

/-- Everything that depends on the port fails: its streams, the reads through it, what its frames carried, contributions
arriving through it, the waits that its replay held, and what it forwarded. -/
def portFail (p : Nat) (status : Byte) (s : State) : State :=
  let x := s.port p
  let held := if status = St.linkRetryExhausted then s.waiters.filter fun w => w.held && (pathPorts s w).contains p else []
  let items := (x.replay.flatMap (·.items)) ++ x.queue
  let reads := s.chans.flatMap fun h => h.2.flights.filterMap fun f => match f.kind with
    | .read q id => if q = p then some id else none
    | _ => none
  let s := s.setPort p { x with state := .retrain }
  let s := x.tx.foldl (failTx p status) s
  let s := reads.foldl (fun t id => failReq id status t) s
  let s := items.foldl (failItem p status) s
  let s := x.rx.foldl (fun t r => match r.rdx with
    | some (g, _) => endInstance g status true t
    | none => t) s
  let s := held.foldl (failWait status) s
  let out := s.house.fwd.filter (·.outPort = p)
  let s := { s with house := { s.house with fwd := s.house.fwd.filter fun f => f.outPort ≠ p && f.inPort ≠ p } }
  out.foldl (failFwd status) s

/-- A port with nothing in progress. -/
def quiet (x : Port) (aim : PortState) (now : Nat) : Port :=
  { x with state := aim, since := now, queue := [], replay := [], resend := [], acked := [], tx := [], rx := [],
           episode := none, ackDue := none, nakFor := none, msgAt := 0, pingT1 := none, locked := false,
           helloSeen := false, lanesOk := 0, rxBits := 0, rxHave := 0, rxBad := false, txBits := 0, txHave := 0 }

/-- The port leaves its state for DISABLED or RETRAIN (R485, R489, R505). -/
def portDown (p : Nat) (aim : PortState) (status : Byte) (s : State) : State :=
  let up := portUp (s.port p)
  let s := portFail p status s
  let s := s.setPort p (quiet (s.port p) aim s.now)
  if up then housePortDown p (portIrq p irqDown s) else s

/-- DISABLED discards the key slots (R513). -/
def noKeys (x : Port) : Port :=
  { x with txKey := none, txNextKey := none, rxKey := none, rxNextKey := none, txEpoch := 0, rxEpoch := 0, txIvc := 0,
           rxIvc := 0, rxSecured := false, keyLow := false, keyStall := false }

/-! ### Training (R486 to R488) -/

/-- Training begins at step 1. -/
def beginTraining (p : Nat) (s : State) : State := s.setPort p (quiet (s.port p) .training s.now)

/-- Training restarts (R486 step 6, R487). -/
def restartTraining (p : Nat) (s : State) : State :=
  let s := beginTraining p s
  s.setPort p { s.port p with trainFails := satInc (s.port p).trainFails }

/-- LANE_LOCK: receive lanes lock, and the port chooses its width (R486 steps 2 and 3, R487). -/
def execLaneLock (p : Fin 16) (lanes : BitVec 8) (s : State) : Host.Outcome State Fault Refusal :=
  let x := s.port p
  if x.state ≠ .training || x.locked then .next s else
  let x := { x with lanesOk := lanes }
  if lanes = 0xFF then .next (s.setPort p { x with width4 := false, laneGroup := false, locked := true })
  else if x.allow4 && lanes &&& 0x0F = 0x0F then
    .next (s.setPort p { x with width4 := true, laneGroup := false, locked := true })
  else if x.allow4 && lanes &&& 0xF0 = 0xF0 then
    .next (s.setPort p { x with width4 := true, laneGroup := true, locked := true })
  else .next (s.setPort p x)

/-- The fields of a HELLO are within R488. -/
def helloOk (r : BitVec 512) : Bool :=
  fld r 0 8 = 2 && fld r 8 8 = 1 && (fld r 16 8 = 8 || fld r 16 8 = 4) && (fld r 24 8).toNat ≤ 1
    && 16 ≤ (fld r 32 16).toNat && (fld r 32 16).toNat ≤ 224 && fld r 58 5 = 0 && (fld r 128 8).toNat ≤ 1
    && fld r 136 376 = 0

/-- Link-up: SEQ restarts at 0 both ways, and the limit is the partner's RX_PLACES (R486 step 5, R499). -/
def linkUp (p : Nat) (places : BitVec 16) (s : State) : State :=
  let s := s.sendRaw p (clearFrame 1 64 0 0 224 (leB 64 (helloRec s p)))
  let x := s.port p
  let x := secureNow { x with state := .clear, txNext := 0, txAcked := 0, rxExpected := 0, txLimit := places,
                              rxLimit := 224, seqCredit := places }
  housePortUp p (portIrq p irqUp (s.setPort p x))

/-- HELLO: width and partner are settled; one with ECHO brings the link up (R486 to R488). The port's own last HELLO goes
out at link-up, so that the partner has its ECHO. -/
def execHello (p : Fin 16) (rec : BitVec 512) (s : State) : Host.Outcome State Fault Refusal :=
  let x := s.port p
  if x.state ≠ .training || !x.locked || !helloOk rec then .next s else
  let w4 : Bool := x.width4 || fld rec 16 8 = 4
  let x := { x with width4 := w4 }
  if x.laneGroup != rec.getLsbD 24 then .next (restartTraining p s)
  else
    let x := { x with helloSeen := true, partner := fld rec 64 64, partnerNode := fld rec 48 10,
                      partnerNodeValid := rec.getLsbD 63 }
    let s := s.setPort p x
    .next (if rec.getLsbD 128 then linkUp p (fld rec 32 16) s else s)

/-- TRAINING_TIMEOUT: 100 ms without link-up (R486 step 6). -/
def execTrainingTimeout (p : Fin 16) (s : State) : Host.Outcome State Fault Refusal :=
  let x := s.port p
  .next (if x.state = .training && x.since + 100000000 ≤ s.now then restartTraining p s else s)

/-- RETRAIN_END: 10 µs in RETRAIN (R485). -/
def execRetrainEnd (p : Fin 16) (s : State) : Host.Outcome State Fault Refusal :=
  let x := s.port p
  .next (if x.state = .retrain && x.since + 10000 ≤ s.now then beginTraining p s else s)

/-- LANE_LOSS_OF_LOCK (R489). -/
def execLaneLossOfLock (p : Fin 16) (s : State) : Host.Outcome State Fault Refusal :=
  .next (if portUp (s.port p) then portDown p .retrain St.linkDown s else s)

/-- RETRAIN is written 1 (R539). It is absorbed while the port is in RETRAIN already (R4, R667). -/
def retrainPort (p : Nat) (s : State) : State :=
  if (s.port p).state = .disabled || (s.port p).state = .retrain then s else portDown p .retrain St.linkDown s

/-- PORT_RETRAIN: RETRAIN of ZL_CTL; a port that is not enabled stays DISABLED (R539). -/
def execPortRetrain (p : Fin 16) (s : State) : Host.Outcome State Fault Refusal :=
  .next (throughBar 0 (retrainPort p) s)

/-- 1 is written to QUARANTINED (R537). -/
def clearQuarantine (p : Nat) (s : State) : State :=
  let x := s.port p
  if x.state = .quarantined then s.setPort p (secureNow { x with state := .clear, violMs := 0 }) else s

/-- QUARANTINE_CLEAR (R537). -/
def execQuarantineClear (p : Fin 16) (s : State) : Host.Outcome State Fault Refusal :=
  .next (throughBar 0 (clearQuarantine p) s)

/-! ### LINK_CONFIG and LINK_KEY_LOAD (R486, R510) -/

def linkConfig (k : Nat) (pk : BitVec 512) (s : State) : State :=
  let p := p8 pk 16
  let fl := p8 pk 17
  if 15 < p || 15 < p8 pk 18 then cmdBad k pk Dt.range s else
  let on : Bool := fl % 2 = 1
  let x := s.port p
  let was := x.enable
  let s := s.setPort p { x with
    enable := on, allow4 := 2 ≤ fl, attempts := if p8 pk 18 = 0 then 8 else BitVec.ofNat 4 (p8 pk 18)
    violLimit := if p16 pk 20 = 0 then 64 else BitVec.ofNat 16 (p16 pk 20) }
  let s := if on && !was then (if pdOn s (pdLinks p) then beginTraining p s else s)
    else if !on && was then
      let s := portDown p .disabled St.linkDown s
      s.setPort p (noKeys (s.port p))
    else s
  cmdOk k pk 0 0 s

/-- LINK_CONFIG (R486). -/
def execLinkConfig (k : Fin 64) (pkt : BitVec 512) (s : State) : Host.Outcome State Fault Refusal :=
  .next (takePacket 0x0070 k pkt (linkConfig k pkt) s)

def linkKeyLoad (k : Nat) (pk : BitVec 512) (s : State) : State :=
  let a := p64 pk 24
  if 15 < p8 pk 16 || 1 < p8 pk 17 || spaceOf a ≠ some .host || offOf a % 64 ≠ 0 then cmdBad k pk Dt.range s
  else match hostGet s 0 (offOf a) 64 with
    | none => cmdFail k pk St.busError s
    | some bs =>
      let r : BitVec 512 := BitVec.ofNat 512 (leNat bs)
      let ks : KeySlot := { key := fld r 0 256, fixed := fld r 256 32, epoch := fld r 288 32 }
      if fld r 384 128 ≠ 0 then cmdBad k pk Dt.reserved s
      else if ks.epoch ≠ BitVec.ofNat 32 (p32 pk 20) then cmdBad k pk Dt.range s
      else match loadKey (p8 pk 16) (p8 pk 17) ks (fld r 320 64) s with
        | some s => cmdOk k pk 0 0 s
        | none => cmdBad k pk Dt.range s

/-- LINK_KEY_LOAD (R293, R510). -/
def execLinkKeyLoad (k : Fin 64) (pkt : BitVec 512) (s : State) : Host.Outcome State Fault Refusal :=
  .next (takePacket 0x0071 k pkt (linkKeyLoad k pkt) s)

/-! ### Replay (R504, R505, R641) -/

/-- Replay is exhausted (R505). -/
def exhaust (p : Nat) (s : State) : State :=
  let s := s.setPort p { s.port p with exhausted := satInc (s.port p).exhausted }
  portDown p .retrain St.linkRetryExhausted (portIrq p irqExhausted (portRec p St.linkRetryExhausted 0 s))

/-- A replay attempt: every unacknowledged frame is to be sent again (R504); another one than the episode allows exhausts
it (R505). -/
def startAttempt (p : Nat) (s : State) : State :=
  let x := s.port p
  if x.replay = [] then s else
  match x.episode with
  | none => s.setPort p { x with episode := some (s.now, 1), episodes := satInc x.episodes, resend := x.replay
                                 maxAttempts := if x.maxAttempts = 0 then 1 else x.maxAttempts }
  | some (t, n) =>
    if x.attempts.toNat ≤ n || t + 4000 ≤ s.now then exhaust p s
    else s.setPort p { x with
      episode := some (t, n + 1), resend := x.replay
      maxAttempts := if x.maxAttempts.toNat < n + 1 then BitVec.ofNat 16 (n + 1) else x.maxAttempts }

/-- REPLAY_TIMEOUT: the oldest unacknowledged frame was last sent 1 µs ago, and no attempt is running (R504). -/
def execReplayTimeout (p : Fin 16) (s : State) : Host.Outcome State Fault Refusal :=
  let x := s.port p
  match x.replay with
  | f :: _ => .next (if portUp x && x.resend = [] && f.sentAt + 1000 ≤ s.now then startAttempt p s else s)
  | [] => .next s

/-- REPLAY_EXHAUSTED: 4 µs have passed since the episode started (R505). -/
def execReplayExhausted (p : Fin 16) (s : State) : Host.Outcome State Fault Refusal :=
  match (s.port p).episode with
  | some (t, _) => .next (if t + 4000 ≤ s.now then exhaust p s else s)
  | none => .next s

end Sys2Proof.Machine
end

