-- ==== Sys2Proof/Machine/Buffers.lean ====
section
/-! DEFINITION. The buffer allocator: handles, BUF_ALLOC, BUF_FREE, BUF_QUERY and BUF_RECLAIM (06 R298 to R311). -/
namespace Sys2Proof.Machine

/-! ### Slots and handles (R298 to R301) -/

def bufSlot (s : State) (i : Nat) : BufSlot := tget s.fy.slots {} i

def setBufSlot (i : Nat) (b : BufSlot) (s : State) : State :=
  { s with fy := { s.fy with slots := tset s.fy.slots {} i b } }

def makeHandle (room slot : Nat) (gen : BitVec 16) (granules : Nat) : Word :=
  BitVec.ofNat 64 (room + slot * 2 ^ 6 + gen.toNat * 2 ^ 26 + granules * 2 ^ 42)

abbrev hSlot (h : Word) : Nat := (fld h 6 20).toNat

/-- The live buffer that a handle names; none where the handle is stale (R299). -/
def currentBuf (s : State) (h : Word) : Option Buffer :=
  if 65536 ≤ hSlot h then none else
  let b := bufSlot s (hSlot h)
  match b.live with
  | some x => if makeHandle x.room (hSlot h) b.gen x.granules = h then some x else none
  | none => none

/-- A slot's buffer ends: its generation goes up, and the slot is the last one freed (R300, R301). -/
def releaseSlot (i : Nat) (s : State) : State :=
  let b := bufSlot s i
  let g := if b.gen = 0xFFFF then 1 else b.gen + 1
  let s := setBufSlot i { gen := g, live := none } s
  { s with fy := { s.fy with freed := s.fy.freed ++ [i] } }

/-- Slots whose live buffer a predicate selects. -/
def slotsOf (s : State) (sel : Buffer → Bool) : List Nat :=
  (s.fy.slots.filter fun b => match b.2.live with
    | some x => sel x
    | none => false).map (·.1)

/-- Live buffers of a Room. -/
def roomBufs (s : State) (k : Nat) : List Buffer := (liveBuffers s).filter (·.room = k)

/-- Free every buffer of a Room (R311, R346 step 5). -/
def freeRoomBufs (k : Nat) (s : State) : State := (slotsOf s (·.room = k)).foldl (fun t i => releaseSlot i t) s

/-! ### Placement (R301) -/

def quadrantSize : Nat := 2 ^ 26

/-- The parts of a Room's pool windows by quadrant: physical start, end, and Room-relative start. -/
def poolParts (s : State) (k : Nat) (q : Option Nat) : List (Nat × Nat × Nat) :=
  (s.room k).windows.flatMap fun w =>
    let w := w.2
    if !(w.valid && w.pool && !w.cellar) then [] else
    let lo := w.physGran * granule
    let hi := lo + w.granules * granule
    (List.range 4).filterMap fun i =>
      let a := max lo (i * quadrantSize)
      let b := min hi ((i + 1) * quadrantSize)
      if a < b && (q.isNone || q = some i) then some (a, b, w.roomGran * granule + (a - lo)) else none

/-- The first places in a part at which a buffer could start: its start, and behind each live buffer in it. -/
def partStarts (bufs : List Buffer) (align a b : Nat) : List Nat :=
  let up (x : Nat) : Nat := (x + align - 1) / align * align
  up a :: (bufs.filter fun x => a ≤ x.phys && x.phys < b).map fun x => up (x.phys + x.granules * 4096)

/-- Every place where n bytes fit: Room-relative and physical. -/
def places (s : State) (k : Nat) (q : Option Nat) (align n : Nat) : List (Nat × Nat) :=
  let bufs := roomBufs s k
  (poolParts s k q).flatMap fun p =>
    ((partStarts bufs align p.1 p.2.1).filter fun x =>
      x + n ≤ p.2.1 && bufs.all fun y => y.phys + y.granules * 4096 ≤ x || x + n ≤ y.phys).map
      fun x => (p.2.2 + (x - p.1), x)

/-- The lowest Room-relative place (R301). -/
def lowestPlace (l : List (Nat × Nat)) : Option (Nat × Nat) :=
  l.foldl (fun best x => match best with
    | some b => if x.1 < b.1 then some x else best
    | none => some x) none

/-- The free slot that was freed longest ago (R301). -/
def nextSlotFree (s : State) : Option (Nat × State) :=
  if s.fy.fresh < 65536 then some (s.fy.fresh, { s with fy := { s.fy with fresh := s.fy.fresh + 1 } })
  else match s.fy.freed with
    | i :: r => some (i, { s with fy := { s.fy with freed := r } })
    | [] => none

/-! ### The commands -/

/-- A Room exists (R318). -/
def roomExists (s : State) (k : Nat) : Bool := (s.room k).state ≠ .none

/-- BUF_ALLOC (R301 to R303). -/
def bufAlloc (k : Nat) (p : BitVec 512) (s : State) : State :=
  let r := pkRoom p
  let n := p32 p 16
  let q := p8 p 20
  let al := p8 p 21
  let align := 2 ^ (if al = 0 then 12 else al)
  let mine := roomBufs s r
  if n = 0 || 65536 < n || !(q ≤ 3 || q = 255) || !(al = 0 || (12 ≤ al && al ≤ 21)) then
    cmdBad k p Dt.range s
  else if !roomExists s r then cmdBad k p Dt.notFound s
  else if r ≠ 0 && ((s.room r).maxHandles ≤ mine.length
      || (s.room r).maxGranules < mine.foldl (fun m b => m + b.granules) 0 + n) then cmdFail k p St.quota s
  else match lowestPlace (places s r (if q = 255 then none else some q) align (n * 4096)), nextSlotFree s with
    | some (off, phys), some (i, s) =>
      let g := (bufSlot s i).gen
      let s := setBufSlot i { gen := g, live := some { room := r, phys := phys, off := off, granules := n } } s
      let s := if p8 p 22 = 1 then scrubZero phys (n * 4096) s else s
      cmdOk k p (makeHandle r i g n) (BitVec.ofNat 64 off) s
    | _, _ => cmdFail k p St.bufExhausted s

def execBufAlloc (k : Fin 64) (pkt : BitVec 512) (s : State) : Host.Outcome State Fault Refusal :=
  .next (takePacket 0x0040 k pkt (bufAlloc k pkt) s)

/-- The record of an allocator event. -/
def bufRec (status : Byte) (sev : BitVec 3) (room : Nat) (h : Word) (op : BitVec 16) : ErrRec :=
  { status := status, severity := sev, room := BitVec.ofNat 6 room, unitKind := 12, unit := BitVec.ofNat 16 (hSlot h),
    opcode := op, object := h }

/-- BUF_FREE (R304 to R306). -/
def bufFree (k : Nat) (p : BitVec 512) (s : State) : State :=
  let h := p64 p 16
  match currentBuf s h with
  | none => cmdFail k p St.bufStale (noteMisuse k (roomRec k (bufRec St.bufStale 1 k h 0x41) s))
  | some b =>
    if b.room = k then cmdOk k p 0 0 (releaseSlot (hSlot h) s)
    else
      let r := { bufRec St.bufNotOwner 1 k h 0x41 with other := BitVec.ofNat 6 b.room, otherValid := true }
      cmdFail k p St.bufNotOwner (noteMisuse k (auditRec r (roomRec k r s)))

def execBufFree (k : Fin 64) (pkt : BitVec 512) (s : State) : Host.Outcome State Fault Refusal :=
  .next (takePacket 0x0041 k pkt (bufFree k pkt) s)

/-- BUF_QUERY (R307). -/
def bufQuery (k : Nat) (p : BitVec 512) (s : State) : State :=
  match currentBuf s (p64 p 16) with
  | none => cmdFail k p St.bufStale s
  | some b =>
    if k ≠ 0 && b.room ≠ k then cmdFail k p St.bufNotOwner s
    else cmdOk k p (BitVec.ofNat 64 b.off)
      (BitVec.ofNat 64 (b.granules + quadrant b.phys * 2 ^ 24 + b.room * 2 ^ 32)) s

def execBufQuery (k : Fin 64) (pkt : BitVec 512) (s : State) : Host.Outcome State Fault Refusal :=
  .next (takePacket 0x0042 k pkt (bufQuery k pkt) s)

/-- BUF_RECLAIM (R310). -/
def bufReclaim (k : Nat) (p : BitVec 512) (s : State) : State :=
  let h := p64 p 16
  match currentBuf s h with
  | none => cmdFail k p St.bufStale s
  | some b =>
    let r := { bufRec St.bufStale 2 b.room h 0x43 with detail := Dt.reclaimed }
    cmdOk k p 0 (BitVec.ofNat 64 b.room) (auditRec r (roomRec b.room r (releaseSlot (hSlot h) s)))

def execBufReclaim (k : Fin 64) (pkt : BitVec 512) (s : State) : Host.Outcome State Fault Refusal :=
  .next (takePacket 0x0043 k pkt (bufReclaim k pkt) s)

/-- A quadrant goes OFF: its buffers are lost, one notice each (R481, R352). -/
def loseBufs (q : Nat) (s : State) : State :=
  (slotsOf s fun b => quadrant b.phys = q).foldl (fun t i => match (bufSlot t i).live with
    | some b =>
      let h := makeHandle b.room i (bufSlot t i).gen b.granules
      faultLogRec b.room (bufRec St.domainOff 2 b.room h 0) (releaseSlot i t)
    | none => t) s

end Sys2Proof.Machine
end

