-- ==== Sys2Proof/Machine/Resources.lean ====
section
/-! DEFINITION. Commands over queues, channels, sync identifiers and tagged regions (06 R283 to R291, 05 R191 to R194,
R224, R232, 08 R368 to R373). -/
namespace Sys2Proof.Machine

/-! ### Queues (R191, R192, R224, R283) -/

/-- Numbers a to b − 1 of a listing. -/
def lowestFree (used : List Nat) : Nat → Nat → Nat → List Nat
  | _, 0, _ => []
  | _, _ + 1, 0 => []
  | cur, f + 1, n + 1 =>
    if used.contains cur then lowestFree used (cur + 1) f (n + 1) else cur :: lowestFree used (cur + 1) f n

/-- The lowest number that a list does not hold. -/
def lowest (used : List Nat) : Nat := ((lowestFree used 0 (used.length + 1) 1).head?).getD 0

/-- A ring's base: Host or Pantry space, aligned to 4 KiB or the ring's size (R192). -/
def ringBaseOk (a : Word) (bytes : Nat) : Bool :=
  (spaceOf a = some .host || spaceOf a = some .pantry) && offOf a % (min 4096 bytes) = 0
    && offOf a + bytes ≤ 2 ^ 60

/-- A count's address: Host or Pantry space, aligned to 4 (R213, R241). -/
def countAddrOk (a : Word) : Bool :=
  (spaceOf a = some .host || spaceOf a = some .pantry) && offOf a % 4 = 0

/-- A Pantry ring or count lies in the Room's windows (R283). -/
def inWindows (s : State) (k : Nat) (a : Word) (n : Nat) : Bool :=
  spaceOf a = some .host || spanOk s k false (offOf a) n

def roomSqs (s : State) (k : Nat) : List (Nat × Sq) := s.sqs.filter fun q => q.2.valid && q.2.room.toNat = k
def roomCqs (s : State) (k : Nat) : List (Nat × Cq) := s.cqs.filter fun q => q.2.valid && q.2.room.toNat = k

def sqByLocal (s : State) (k l : Nat) : Option Nat := ((roomSqs s k).find? (·.2.loc.toNat = l)).map (·.1)
def cqByLocal (s : State) (k l : Nat) : Option Nat := ((roomCqs s k).find? (·.2.loc.toNat = l)).map (·.1)

/-- SQ_CREATE (R224, R283). Admission of a new SQ is closed while its Room resets (R222, R346). -/
def sqCreate (k : Nat) (p : BitVec 512) (s : State) : State :=
  let r := pkRoom p
  let lg := p8 p 17
  let mode := p8 p 18
  let phase : Bool := mode % 2 = 1
  let dbEn : Bool := mode / 4 % 2 = 1
  let base := p64 p 24
  let prod := p64 p 32
  let bytes := 2 ^ lg * 64
  if 63 < p8 p 16 || lg < 4 || 16 < lg || 63 < p8 p 19 || 4095 < p16 p 20 || (!dbEn && p16 p 20 ≠ 0)
      || 15 < p8 p 22 || !ringBaseOk base bytes
      || (if phase then prod ≠ 0 else !countAddrOk prod) then cmdBad k p Dt.range s
  else if !roomExists s r then cmdBad k p Dt.notFound s
  else if (sqByLocal s r (p8 p 16)).isSome then cmdBad k p Dt.exists_ s
  else match cqByLocal s r (p8 p 19) with
    | none => cmdBad k p Dt.notFound s
    | some cq =>
      let fl := if dbEn then flagPhys s r (p16 p 20) else none
      if dbEn && fl.isNone then cmdBad k p Dt.notFound s
      else
        let used := (s.sqs.filter (·.2.valid)).map (·.1)
        if (r ≠ 0 && (s.room r).maxSq ≤ (roomSqs s r).length) || 1024 ≤ used.length then cmdFail k p St.quota s
        else if (match fl with | some f => (s.flag f).dbSq.isSome | none => false) then cmdBad k p Dt.busy s
        else if !(inWindows s r base bytes && (phase || inWindows s r prod 4)) then cmdFail k p St.badWindow s
        else
          let g := lowest used
          let s := s.setSq g {
            valid := true, base := base, log2 := BitVec.ofNat 5 lg, phaseMode := phase
            haltPolicy := mode / 2 % 2 = 1, dbFlagEn := dbEn, dbFlag := BitVec.ofNat 12 (p16 p 20)
            cq := BitVec.ofNat 10 cq, room := BitVec.ofNat 6 r, loc := BitVec.ofNat 6 (p8 p 16)
            overloadTurns := if p8 p 23 = 0 then 8 else BitVec.ofNat 8 (p8 p 23)
            prodAddr := prod, prio := BitVec.ofNat 4 (p8 p 22), admClosed := (s.room r).admClosed }
          let s := match fl with
            | some f => s.setFlag f { s.flag f with dbSq := some g }
            | none => s
          cmdOk k p (BitVec.ofNat 64 g) 0 s

def execSqCreate (k : Fin 64) (pkt : BitVec 512) (s : State) : Host.Outcome State Fault Refusal :=
  .next (takePacket 0x0020 k pkt (sqCreate k pkt) s)

/-- CQ_CREATE (R283). -/
def cqCreate (k : Nat) (p : BitVec 512) (s : State) : State :=
  let r := pkRoom p
  let lg := p8 p 17
  let mode := p8 p 18
  let phase : Bool := mode % 2 = 1
  let base := p64 p 24
  let bytes := 2 ^ lg * 32
  if 63 < p8 p 16 || lg < 4 || 16 < lg || vectorLimit r ≤ p8 p 19 || !ringBaseOk base bytes
      || !countAddrOk (p64 p 32) || (if phase then p64 p 40 ≠ 0 else !countAddrOk (p64 p 40)) then
    cmdBad k p Dt.range s
  else if !roomExists s r then cmdBad k p Dt.notFound s
  else if (cqByLocal s r (p8 p 16)).isSome then cmdBad k p Dt.exists_ s
  else
    let used := (s.cqs.filter (·.2.valid)).map (·.1)
    if (r ≠ 0 && (s.room r).maxCq ≤ (roomCqs s r).length) || 1024 ≤ used.length then cmdFail k p St.quota s
    else if !(inWindows s r base bytes && inWindows s r (p64 p 32) 4 && (phase || inWindows s r (p64 p 40) 4)) then
      cmdFail k p St.badWindow s
    else
      let i := lowest used
      cmdOk k p (BitVec.ofNat 64 i) 0 (s.setCq i {
        valid := true, base := base, log2 := BitVec.ofNat 5 lg, phaseMode := phase, room := BitVec.ofNat 6 r
        loc := BitVec.ofNat 6 (p8 p 16), headAddr := p64 p 32, tailAddr := p64 p 40, vector := BitVec.ofNat 8 (p8 p 19)
        irqEn := mode / 2 % 2 = 1, irqCount := if p16 p 20 = 0 then 1 else BitVec.ofNat 16 (p16 p 20)
        delayUs := BitVec.ofNat 16 (p16 p 22) })

def execCqCreate (k : Fin 64) (pkt : BitVec 512) (s : State) : Host.Outcome State Fault Refusal :=
  .next (takePacket 0x0022 k pkt (cqCreate k pkt) s)

/-- CQ_DESTROY (R286). -/
def cqDestroy (k : Nat) (p : BitVec 512) (s : State) : State :=
  let r := pkRoom p
  if 63 < p8 p 16 then cmdBad k p Dt.range s
  else if !roomExists s r then cmdBad k p Dt.notFound s
  else match cqByLocal s r (p8 p 16) with
    | none => cmdBad k p Dt.notFound s
    | some i =>
      if s.sqs.any (fun q => q.2.valid && q.2.cq.toNat = i) then cmdBad k p Dt.busy s
      else cmdOk k p 0 0 (s.setCq i {})

def execCqDestroy (k : Fin 64) (pkt : BitVec 512) (s : State) : Host.Outcome State Fault Refusal :=
  .next (takePacket 0x0023 k pkt (cqDestroy k pkt) s)

/-- SQ_RESUME (R232). -/
def sqResume (k : Nat) (p : BitVec 512) (s : State) : State :=
  let r := pkRoom p
  if 63 < p8 p 16 then cmdBad k p Dt.range s
  else if !roomExists s r then cmdBad k p Dt.notFound s
  else match sqByLocal s r (p8 p 16) with
    | none => cmdBad k p Dt.notFound s
    | some g =>
      let s := if (s.sq g).halted then
          invalidate g (s.setSq g { s.sq g with halted := false, latchedValid := false, waitCause := 0 })
        else s
      cmdOk k p ((s.sq g).cons.setWidth 64) 0 s

def execSqResume (k : Fin 64) (pkt : BitVec 512) (s : State) : Host.Outcome State Fault Refusal :=
  .next (takePacket 0x0024 k pkt (sqResume k pkt) s)

/-! ### SQ_DESTROY (R285) -/

/-- The cached entries go without completions, and their CQ slots are returned. -/
def discardCache (g : Nat) (s : State) : State :=
  let q := s.sq g
  let c := s.cq q.cq.toNat
  let s := s.setCq q.cq.toNat { c with reserved := c.reserved - q.cache.length }
  s.setSq g { q with cache := [], scanning := false, dbPending := false }

/-- An SQ's waits, signals and Study jobs end, and its dispatched entries go without completions. The completions of
entries that have ended already are kept to be written, or go as well where the queue itself is reinitialised (R285,
R347). -/
def dropSqItems (g : Nat) (keep : Bool) (s : State) : State :=
  let me := WaitUnit.sq (Fin.ofNat 1024 g)
  let s := (s.waiters.filter (·.unit == me)).foldl (fun t w => cancelRemote w t) s
  let s : State := { s with
    waiters := s.waiters.filter (·.unit != me)
    sqSignals := s.sqSignals.filter (·.sq ≠ g)
    study := { s.study with jobs := s.study.jobs.filter (·.2.sq ≠ g) } }
  let q := s.sq g
  let ended := q.reports ++ q.behind
  let n := q.dispatched.length + if keep then 0 else ended.length
  let c := s.cq q.cq.toNat
  (s.setCq q.cq.toNat { c with reserved := c.reserved - n }).setSq g
    { q with dispatched := [], reports := if keep then ended else [], behind := [] }

/-- End all the work of an SQ without completions: channels are reset, WAIT entries ended, jobs and instances stopped
(log entry 23). -/
def dropSqWork (g : Nat) (status : Byte) (keep : Bool) (s : State) : State :=
  let chans := (s.chans.filter fun h => match h.2.entry with | some e => e.sq = g | none => false).map (·.1)
  let s := chans.foldl (fun t c => resetChannel c false t) s
  let s := dropSqItems g keep s
  (s.groups.filter fun x => match x.2.inst with | some i => i.sq = g | none => false).foldl
    (fun t x => endInstance x.1 status true t) s

/-- SQ_DESTROY: admission closes at once; the SQ goes when its work has (R285). -/
def sqDestroy (k : Nat) (p : BitVec 512) (s : State) : State :=
  let r := pkRoom p
  if 63 < p8 p 16 then cmdBad k p Dt.range s
  else if !roomExists s r then cmdBad k p Dt.notFound s
  else match sqByLocal s r (p8 p 16) with
    | none => cmdBad k p Dt.notFound s
    | some g =>
      if (s.sq g).destroying then cmdBad k p Dt.busy s else
      let n := (s.sq g).cache.length
      let s := discardCache g s
      let s := s.setSq g { s.sq g with admClosed := true, destroying := true }
      let s := if pkForce p then dropSqWork g St.partialDone true s else s
      let s := finishDestroy g s
      if !(s.sq g).valid then cmdOk k p (BitVec.ofNat 64 n) 0 s
      else { s with fy := { s.fy with longs := s.fy.longs ++
        [{ ring := k, packet := p, start := s.now, awaits := [g], result0 := BitVec.ofNat 64 n }] } }

def execSqDestroy (k : Fin 64) (pkt : BitVec 512) (s : State) : Host.Outcome State Fault Refusal :=
  .next (takeLong 0x0021 k pkt (sqDestroy k pkt) s)

/-! ### Channels (R287, R288) -/

/-- CHANNEL_ASSIGN (R287). -/
def channelAssign (k : Nat) (p : BitVec 512) (s : State) : State :=
  let r := pkRoom p
  let c := p8 p 16
  if 127 < c then cmdBad k p Dt.range s
  else if !roomExists s r then cmdBad k p Dt.notFound s
  else if r ≠ 0 && (s.room r).maxCh ≤ (roomChans s r).length then cmdFail k p St.quota s
  else if (s.chan c).assigned then cmdBad k p Dt.busy s
  else cmdOk k p 0 0 (evalWires (s.setChan c { room := BitVec.ofNat 6 r, assigned := true, state := .idle }))

def execChannelAssign (k : Fin 64) (pkt : BitVec 512) (s : State) : Host.Outcome State Fault Refusal :=
  .next (takePacket 0x0030 k pkt (channelAssign k pkt) s)

/-- CHANNEL_RELEASE: with FORCE the channel is reset first (R288). -/
def channelRelease (k : Nat) (p : BitVec 512) (s : State) : State :=
  let c := p8 p 16
  let h := s.chan c
  if 127 < c then cmdBad k p Dt.range s
  else if !h.assigned || h.room.toNat ≠ pkRoom p then cmdBad k p Dt.notPermitted s
  else if !pkForce p && h.state ≠ .idle then cmdBad k p Dt.busy s
  else
    let s := if h.state = .idle then withdrawArrivals c s else resetChannel c true s
    cmdOk k p 0 0 (evalWires (s.setChan c {}))

def execChannelRelease (k : Fin 64) (pkt : BitVec 512) (s : State) : Host.Outcome State Fault Refusal :=
  .next (takeLong 0x0031 k pkt (channelRelease k pkt) s)

/-! ### Sync identifiers (R289, R290) -/

/-- Physical objects taken. -/
def usedFlags (s : State) : List Nat := (s.flags.filter (·.2.mapped)).map (·.1)
def usedCounters (s : State) : List Nat := (s.counters.filter (·.2.mapped)).map (·.1)

/-- Map identifiers onto physical objects one by one. -/
def mapFlags (r : Nat) (exp : Bool) : List (Nat × Nat) → State → State
  | [], s => s
  | (v, f) :: rest, s =>
    let s := s.setFlag f { room := BitVec.ofNat 6 r, virt := BitVec.ofNat 12 v, mapped := true, exported := exp }
    mapFlags r exp rest (s.setRoom r { s.room r with flagMap := tput (s.room r).flagMap v f })

def mapCounters (r : Nat) (exp : Bool) : List (Nat × Nat) → State → State
  | [], s => s
  | (v, t) :: rest, s =>
    let s := s.setCounter t { room := BitVec.ofNat 6 r, virt := BitVec.ofNat 12 v, mapped := true, exported := exp }
    mapCounters r exp rest (s.setRoom r { s.room r with counterMap := tput (s.room r).counterMap v t })

/-- Parameters that SYNC_MAP and SYNC_UNMAP share: DT_RANGE, then SYNC_RANGE (R279, R289). -/
def syncParams (p : BitVec 512) : Option (Bool × Nat × Nat × Bool) :=
  let isC : Bool := p8 p 16 = 1
  let n := p16 p 20
  if 1 < p8 p 16 || n = 0 || (if isC then 512 else 4096) < n then none
  else some (isC, p16 p 18, n, p16 p 18 + n ≤ if isC then 512 else 4096)

/-- SYNC_MAP (R289). -/
def syncMap (k : Nat) (p : BitVec 512) (s : State) : State :=
  let r := pkRoom p
  match syncParams p with
  | none => cmdBad k p Dt.range s
  | some (isC, v, n, fits) =>
    if !fits then cmdFail k p St.syncRange s
    else if !roomExists s r then cmdBad k p Dt.notFound s
    else
      let map := if isC then (s.room r).counterMap else (s.room r).flagMap
      let used := if isC then usedCounters s else usedFlags s
      let quota := if isC then (s.room r).maxCounters else (s.room r).maxFlags
      let pool := if isC then 8192 else 65536
      let free := lowestFree used 0 (used.length + n) n
      let pairs := ((List.range n).map (v + ·)).zip free
      if map.any (fun m => v ≤ m.1 && m.1 < v + n) then cmdBad k p Dt.exists_ s
      else if (r ≠ 0 && quota < map.length + n) || pool < used.length + n then cmdFail k p St.quota s
      else cmdOk k p (BitVec.ofNat 64 n) 0
        (if isC then mapCounters r (p8 p 17 = 1) pairs s else mapFlags r (p8 p 17 = 1) pairs s)

def execSyncMap (k : Fin 64) (pkt : BitVec 512) (s : State) : Host.Outcome State Fault Refusal :=
  .next (takePacket 0x0050 k pkt (syncMap k pkt) s)

/-- Remove one mapping: its waiters end, and the object returns to the pool at 0 (R290). -/
def unmapOne (r : Nat) (isC : Bool) (s : State) (m : Nat × Nat) : State :=
  if isC then
    let s := s.setRoom r { s.room r with counterMap := tdel (s.room r).counterMap m.1 }
    (releaseWaits (fun w => w.obj == .counter m.2) St.syncUnmapped s).setCounter m.2 {}
  else
    let s := s.setRoom r { s.room r with flagMap := tdel (s.room r).flagMap m.1 }
    (releaseWaits (fun w => w.obj == .flag m.2) St.syncUnmapped s).setFlag m.2 {}

/-- Waiters on an object. -/
def waitersOn (s : State) (isC : Bool) (m : Nat × Nat) : Nat :=
  (s.waiters.filter fun w => w.obj == (if isC then .counter m.2 else .flag m.2)).length

/-- SYNC_UNMAP (R224, R290). -/
def syncUnmap (k : Nat) (p : BitVec 512) (s : State) : State :=
  let r := pkRoom p
  match syncParams p with
  | none => cmdBad k p Dt.range s
  | some (isC, v, n, fits) =>
    if !fits then cmdFail k p St.syncRange s
    else if !roomExists s r then cmdBad k p Dt.notFound s
    else
      let map := (if isC then (s.room r).counterMap else (s.room r).flagMap).filter fun m => v ≤ m.1 && m.1 < v + n
      if !isC && map.any (fun m => (s.flag m.2).dbSq.isSome) then cmdBad k p Dt.busy s
      else
        let waits := map.foldl (fun a m => a + waitersOn s isC m) 0
        cmdOk k p (BitVec.ofNat 64 map.length) (BitVec.ofNat 64 waits) (map.foldl (unmapOne r isC) s)

def execSyncUnmap (k : Fin 64) (pkt : BitVec 512) (s : State) : Host.Outcome State Fault Refusal :=
  .next (takePacket 0x0051 k pkt (syncUnmap k pkt) s)

/-! ### Tagged regions (R291, R368, R369) -/

/-- Physical Pantry words (byte offset / 8) of a region. -/
def regionWords (s : State) (k : Nat) (g : FeRegion) : List Nat :=
  (List.range (g.len / 8)).filterMap fun i => (translate s k false (g.off + i * 8)).map (· / 8)

/-- Set or clear the tags of a region. -/
def setTags (ws : List Nat) (full : Bool) (s : State) : State :=
  { s with tags := if full then ws.foldl ninsert s.tags else s.tags.filter fun t => !ws.contains t }

/-- WAIT_FULLs on words that no region covers any more end with SYNC_UNMAPPED (R291, R369). -/
def endUncovered (s : State) : State :=
  releaseWaits (fun w => match w.obj with | .word a => (regionAt s a).isNone | _ => false) St.syncUnmapped s

/-- Two regions overlap. -/
def regionsMeet (a b : FeRegion) : Bool := a.off < b.off + b.len && b.off < a.off + a.len

/-- FE_REGION_SET (R291, R369). -/
def feRegionSet (k : Nat) (p : BitVec 512) (s : State) : State :=
  let r := pkRoom p
  let i := p8 p 16
  let len := p32 p 20
  let base := p64 p 24
  let new : FeRegion := { off := offOf base, len := len }
  if 15 < i || 1 < p8 p 17 || len % 8 ≠ 0 || 2 ^ 20 < len
      || spaceOf base ≠ some .pantry || offOf base % 8 ≠ 0 then cmdBad k p Dt.range s
  else if !roomExists s r then cmdBad k p Dt.notFound s
  else
    let rest := tdel (s.room r).regions i
    let clearOld (s : State) : State := match (s.room r).regions.find? (·.1 = i) with
      | some o => setTags (regionWords s r o.2) false s
      | none => s
    if len = 0 then
      cmdOk k p 0 0 (endUncovered ((clearOld s).setRoom r { s.room r with regions := rest }))
    else if rest.any (fun o => regionsMeet o.2 new) then cmdBad k p Dt.exists_ s
    else if (r ≠ 0 && (s.room r).maxFe ≤ rest.length)
        || 1024 ≤ s.rooms.foldl (fun n x => n + x.2.regions.length) 0 - ((s.room r).regions.length - rest.length) then
      cmdFail k p St.quota s
    else if !spanOk s r false new.off len then cmdFail k p St.badWindow s
    else
      let s := clearOld s
      let s := s.setRoom r { s.room r with regions := tput rest i new }
      cmdOk k p 0 0 (settle (endUncovered (setTags (regionWords s r new) (p8 p 17 = 1) s)))

def execFeRegionSet (k : Fin 64) (pkt : BitVec 512) (s : State) : Host.Outcome State Fault Refusal :=
  .next (takePacket 0x0052 k pkt (feRegionSet k pkt) s)

end Sys2Proof.Machine
end

