-- ==== Sys2Proof/Machine/Rooms.lean ====
section
/-! DEFINITION. Rooms: creation, windows, shares, the Room reset sequence, destruction, and the PCIe function events that act
on Rooms (06 R280 to R282, 07 R317 to R355, 10 R454). -/
namespace Sys2Proof.Machine

/-! ### ROOM_CREATE and ROOM_SHARE_SET (R280, R318, R454) -/

/-- ROOM_CREATE (R280). -/
def roomCreate (k : Nat) (p : BitVec 512) (s : State) : State :=
  let r := pkRoom p
  if 64 < p8 p 16 || 64 < p8 p 17 || 128 < p8 p 18 || 16 < p8 p 19 || 4096 < p16 p 20 || 512 < p16 p 22
      || 65536 < p32 p 28 then cmdBad k p Dt.range s
  else if roomExists s r then cmdBad k p Dt.exists_ s
  else if !fnExists s r then cmdBad k p Dt.vfDisabled s
  else cmdOk k p 0 0 (s.setRoom r {
    state := .active, share := 1, misuseLimit := if p16 p 32 = 0 then 256 else BitVec.ofNat 16 (p16 p 32)
    maxSq := p8 p 16, maxCq := p8 p 17, maxCh := p8 p 18, maxFe := p8 p 19, maxFlags := p16 p 20
    maxCounters := p16 p 22, maxGranules := p32 p 24, maxHandles := p32 p 28 })

def execRoomCreate (k : Fin 64) (pkt : BitVec 512) (s : State) : Host.Outcome State Fault Refusal :=
  .next (takePacket 0x0010 k pkt (roomCreate k pkt) s)

/-- ROOM_SHARE_SET (R278, R454). -/
def roomShareSet (k : Nat) (p : BitVec 512) (s : State) : State :=
  let r := pkRoom p
  if p16 p 16 = 0 then cmdBad k p Dt.range s
  else if !roomExists s r then cmdBad k p Dt.notFound s
  else cmdOk k p ((s.room r).share.setWidth 64) 0 (s.setRoom r { s.room r with share := BitVec.ofNat 16 (p16 p 16) })

def execRoomShareSet (k : Fin 64) (pkt : BitVec 512) (s : State) : Host.Outcome State Fault Refusal :=
  .next (takePacket 0x0014 k pkt (roomShareSet k pkt) s)

/-! ### Windows (R324 to R329) -/

/-- Two ranges of granules overlap. -/
def granulesMeet (a n b m : Nat) : Bool := a < b + m && b < a + n && 0 < n && 0 < m

/-- Room-relative granules of an old window that the new one does not map to the same place, as (Room-relative,
physical) numbers (R325). -/
def removedGranules (old new : Window) : List (Nat × Nat) :=
  (List.range old.granules).filterMap fun i =>
    let r := old.roomGran + i
    let p := old.physGran + i
    if new.valid && new.cellar == old.cellar && new.roomGran ≤ r && r < new.roomGran + new.granules
        && new.physGran + (r - new.roomGran) = p then none else some (r, p)

/-- A physical Pantry span lies in one of the granules. -/
def touchesGranules (gs : List (Nat × Nat)) (lo n : Nat) : Bool :=
  gs.any fun g => g.2 * granule < lo + n && lo < (g.2 + 1) * granule

/-- A Room-relative Pantry span lies in one of the granules. -/
def touchesRel (gs : List (Nat × Nat)) (lo n : Nat) : Bool :=
  gs.any fun g => g.1 * granule < lo + n && lo < (g.1 + 1) * granule

/-- Pantry rings of a Room: Room-relative start and length. -/
def pantryRings (s : State) (k : Nat) : List (Nat × Nat) :=
  let rings := ((roomSqs s k).map fun q => (q.2.base, q.2.size * 64)) ++ (roomCqs s k).map fun c => (c.2.base, c.2.size * 32)
  (rings.filter fun r => spaceOf r.1 = some .pantry).map fun r => (offOf r.1, r.2)

/-- The granules removed are in use (R282, R324). `poolGone` says that POOL is cleared. -/
def removalBusy (s : State) (k : Nat) (old new : Window) : Bool :=
  let gs := removedGranules old new
  if old.cellar then false else
  (roomBufs s k).any (fun b => touchesGranules gs b.phys (b.granules * 4096)
      || (old.pool && !new.pool && new.valid && touchesGranules
        ((List.range old.granules).map fun i => (old.roomGran + i, old.physGran + i)) b.phys (b.granules * 4096)))
    || (s.room k).regions.any (fun g => touchesRel gs g.2.off g.2.len)
    || (pantryRings s k).any fun r => touchesRel gs r.1 r.2

/-- Number of a physical granule in the table of last holders (R329). -/
def holderKey (cellar : Bool) (g : Nat) : Nat := if cellar then 128 + g else g

/-- Zero a granule that another Room, or no window, held last; it is held by Room k from now on (R329). -/
def takeGranule (k : Nat) (cellar : Bool) (s : State) (g : Nat) : State :=
  let key := holderKey cellar g
  if tget s.granules 0 key = k + 1 then s else
  let s := { s with granules := tput s.granules key (k + 1) }
  if cellar then
    let s : State := { s with cellar := mzero s.cellar (g * granule) granule
                              cellarUe := s.cellarUe.filter fun l => l * 64 < g * granule || (g + 1) * granule ≤ l * 64 }
    let s := (List.range 4).foldl (fun t p => emergency (64 + p) t) s
    (List.range 4).foldl (fun t p => t.setCel p { t.cel p with bytes := satAdd (t.cel p).bytes (granule / 4) }) s
  else scrubZero (g * granule) granule s

/-- ROOM_WINDOW_SET (R324 to R329). -/
def roomWindowSet (k : Nat) (p : BitVec 512) (s : State) : State :=
  let r := pkRoom p
  let i := p8 p 16
  let cellar : Bool := p8 p 17 = 1
  let fl := p8 p 18
  let n := p32 p 20
  let off := (p64 p 24).toNat
  let phys := (p64 p 32).toNat
  let limit := if cellar then cellarSize else pantrySize
  let old := tget (s.room r).windows {} i
  let new : Window := if n = 0 then {} else
    { valid := true, cellar := cellar, exported := fl % 2 = 1, pool := fl / 2 % 2 = 1, granules := n,
      physGran := phys / granule, roomGran := off / granule }
  if 15 < i || 1 < p8 p 17 || off % granule ≠ 0 || phys % granule ≠ 0 || 2 ^ 50 < off + n * granule
      || limit < phys + n * granule || (cellar && fl ≠ 0) then cmdBad k p Dt.range s
  else if !roomExists s r then cmdBad k p Dt.notFound s
  else if (s.room r).windows.any (fun w => w.1 ≠ i && w.2.valid && w.2.cellar == cellar
      && granulesMeet w.2.roomGran w.2.granules (off / granule) n) then cmdBad k p Dt.exists_ s
  else if s.rooms.any (fun x => x.2.windows.any fun w => !(x.1 = r && w.1 = i) && w.2.valid && w.2.cellar == cellar
      && granulesMeet w.2.physGran w.2.granules (phys / granule) n) then cmdBad k p Dt.busy s
  else if old.valid && removalBusy s r old new then cmdBad k p Dt.busy s
  else
    let s := (removedGranules new old).foldl (fun t g => takeGranule r cellar t g.2) s
    cmdOk k p 0 0 (s.setRoom r { s.room r with windows := tset (s.room r).windows {} i new })

/-- A burst of the Room that has begun to move its lines reaches a granule that the packet removes (R328). -/
def windowHeld (p : BitVec 512) (s : State) : Bool :=
  let r := pkRoom p
  let old := tget (s.room r).windows {} (p8 p 16)
  let n := p32 p 20
  let new : Window := if n = 0 then {} else
    { valid := true, cellar := p8 p 17 = 1, granules := n, physGran := (p64 p 32).toNat / granule,
      roomGran := (p64 p 24).toNat / granule }
  let gs := removedGranules old new
  old.valid && (roomChans s r).any fun c =>
    burstHeld (s.chan c) && match nextBurst s c with
      | some (a, m, _) => spaceOf a = some (if old.cellar then .cellar else .pantry) && touchesRel gs (offOf a) m
      | none => false

/-- ROOM_WINDOW_SET waits for the bursts already issued to the granules that it removes (R328): until they have completed
the packet stays at CONS (log entry 76). -/
def execRoomWindowSet (k : Fin 64) (pkt : BitVec 512) (s : State) : Host.Outcome State Fault Refusal :=
  .next (if pkCheck k pkt = (St.ok, 0) && windowHeld pkt s then s else takePacket 0x0013 k pkt (roomWindowSet k pkt) s)

/-! ### The Room reset sequence (R346 to R353) -/

/-- Step 6 for a channel: every register but CH_ROOM returns to reset, without reports (R346, R352). -/
def silentReset (c : Nat) (s : State) : State :=
  let s := withdrawArrivals c (dropChannelWork c (s.setChan c { s.chan c with entry := none }))
  s.setChan c (s.chan c).clear

/-- A channel of the Room is reset at step 6: at once, or, in a Mover domain that is OFF, when that domain returns; until
then it is PAUSED and cannot run (R352). Its arrivals are withdrawn either way (R398). -/
def stopChannel (s : State) (c : Nat) : State :=
  if pdOf s (pdMover c) = .off then
    let s := withdrawArrivals c (dropChannelWork c s)
    s.setChan c { s.chan c with pauseReset := true, cur := none, entry := none, flights := [], state := .paused }
  else silentReset c s

/-- Step 2 at t0: a channel pauses where it stands; one whose burst has begun goes on to the burst's end (R346). -/
def haltChannel (s : State) (c : Nat) : State :=
  let h := s.chan c
  if h.state = .idle then s.setChan c { h with entry := none }
  else pauseWaits c (s.setChan c { h with entry := none, pauseReset := true
                                          state := if burstHeld h then .pausing else .paused })

/-- An SQ reinitialised: its definition stays (R347). -/
def Sq.reinit (q : Sq) : Sq :=
  { valid := q.valid, base := q.base, log2 := q.log2, phaseMode := q.phaseMode, haltPolicy := q.haltPolicy,
    dbFlagEn := q.dbFlagEn, dbFlag := q.dbFlag, cq := q.cq, room := q.room, loc := q.loc,
    overloadTurns := q.overloadTurns, prodAddr := q.prodAddr, prio := q.prio, admClosed := true }

/-- A CQ reinitialised (R347). -/
def Cq.reinit (c : Cq) : Cq :=
  { c with error := false, phase := true, fullStall := false, reserved := 0, tail := 0, head := 0, times := [],
           irqWanted := false }

/-- Groups of a Room that are active on this node. -/
def roomGroups (s : State) (k : Nat) : List Nat := (s.groups.filter fun g => g.2.room = k).map (·.1)

/-- Step 3: every instance and reservation of a group of the Room ends (R346). -/
def abortGroup (s : State) (g : Nat) : State :=
  let s := match groupOf s g with
    | some x => (x.resv.filter (·.chan.isNone)).foldl (fun t r => answerGrant g r St.roomReset t) s
    | none => s
  let s := endInstance g St.roomReset false s
  match groupOf s g with
  | some x => setGroup g { x with resv := [] } s
  | none => s

/-- Steps 1 and 2 at t0: streams of the Room are refused, admission closes, channels pause, Study jobs stop, and dispatched
entries end without completions (R346). -/
def resetStart (k : Nat) (s : State) : State :=
  let sqs := (roomSqs s k).map (·.1)
  let s : State := { s with ports := tmap s.ports {} fun _ p =>
    { p with rx := p.rx.map fun x => if x.room.toNat = k then { x with status := St.roomReset } else x } }
  let s := sqs.foldl (fun t g => dropSqItems g false (t.setSq g { t.sq g with admClosed := true })) s
  let s := (roomChans s k).foldl haltChannel s
  { s with study := { s.study with jobs := s.study.jobs.filter (·.2.room ≠ k) } }

/-- A queue of the Room at step 6: reinitialised, or gone where Room 0 is destroying it (R285, R347). -/
def resetSq (k : Nat) (s : State) (g : Nat) : State :=
  let q := s.sq g
  if q.destroying && s.fy.longs.any (fun l => l.awaits.contains g && l.ring ≠ k) then
    finishDestroy g (s.setSq g { q with dispatched := [], reports := [], behind := [] })
  else s.setSq g q.reinit

/-- Waits on the Room's flags, counters and wires (R346, R398). -/
def roomWait (k : Nat) (s : State) (w : Waiter) : Bool :=
  match w.obj with
  | .flag f => (s.room k).flagMap.any (·.2 = f)
  | .counter c => (s.room k).counterMap.any (·.2 = c)
  | .wire i => (s.wire i).enable && (s.wire i).room.toNat = k
  | .wireArrive i => (s.wire i).enable && (s.wire i).room.toNat = k
  | _ => false

/-- Steps 3 to 7, once no burst of the Room is under way: ROOM_ABORT goes to the peers of its groups (R346). -/
def resetSteps (k : Nat) (s : State) : State :=
  let chans := roomChans s k
  let sqs := (roomSqs s k).map (·.1)
  let cqs := (roomCqs s k).map (·.1)
  let s := match (s.room k).reset with
    | some x => s.setRoom k { s.room k with reset := some { x with stopping := false } }
    | none => s
  let s := chans.foldl stopChannel s
  let s : State := { s with proofs := s.proofs.filter (·.1 ≠ k), hostReads := s.hostReads.filter (·.room ≠ k) }
  -- 3: instances and reservations abort
  let gs := roomGroups s k
  let s := gs.foldl abortGroup s
  let s := gs.foldl (fun t g => (groupPeers t g).foldl (fun t n => sendMsg {
    mtype := 0x50, dst := BitVec.ofNat 16 n, room := BitVec.ofNat 8 k, req := BitVec.ofNat 32 (2048 + g),
    arg0 := BitVec.ofNat 64 g } t) t) s
  -- 4: flags, counters, tags, wires, waiters
  let s := ((s.room k).flagMap.map (·.2)).foldl (fun t f => t.setFlag f { t.flag f with value := false, last := {} }) s
  let s := ((s.room k).counterMap.map (·.2)).foldl (fun t c => t.setCounter c { t.counter c with value := 0, last := {} }) s
  let s := (s.room k).regions.foldl (fun t g => setTags (regionWords t k g.2) false t) s
  let s := releaseWaits (roomWait k s) St.roomReset s
  let s := (List.range 32).foldl (fun t i => if (t.wire i).enable && (t.wire i).room.toNat = k then clearArrivals i t else t) s
  -- 5: buffers
  let s := freeRoomBufs k s
  -- 6: queues, long commands, pending packets
  let s := sqs.foldl (resetSq k) s
  let s := cqs.foldl (fun t i => t.setCq i ((t.cq i).reinit)) s
  let s := endLongs (fun l => l.ring = k) St.roomReset 0 (fun _ => (0, 0)) s
  let r := s.ring k
  let s := s.setRing k { r with cons := r.prod, replyPhase := r.prod.toNat / r.size % 2 = 0 }
  -- 7: energy, overflow area (R526)
  let s := s.setOvf k { s.ovfOf k with next := 0 }
  evalWires (s.setRoom k { s.room k with balance := (s.room k).balance.map fun _ => 0, deferred := false })

/-- A burst of the Room has begun and has not ended. -/
def roomBurst (s : State) (k : Nat) : Bool := (roomChans s k).any fun c => burstHeld (s.chan c)

/-- The sequence goes on once the last burst of the Room has completed (R346). -/
def goOnReset (k : Nat) (s : State) : State :=
  match (s.room k).reset with
  | some x => if x.stopping && !roomBurst s k then resetSteps k s else s
  | none => s

/-- Start the sequence, or join the one in progress (R346, R351). -/
def startReset (k : Nat) (destroy : Bool) (s : State) : State :=
  let r := s.room k
  match r.reset with
  | some x =>
    if destroy then s.setRoom k { r with state := .destroying, reset := some { x with destroy := true } } else s
  | none =>
    let aw := (roomGroups s k).flatMap fun g => (groupPeers s g).map fun n => n * 256 + g
    goOnReset k (resetStart k (s.setRoom k { r with
      state := if destroy then .destroying else .resetting, admClosed := true
      reset := some { start := s.now, awaited := aw, destroy := destroy, stopping := true } }))

/-! ### MOVER_BURST -/

/-- The burst of a resetting Room's channel that has begun ends: a write has arrived with all its bytes, the data of a read
are discarded, and nothing follows it (R346). -/
def endHeld (c : Nat) (s : State) : State :=
  let h := s.chan c
  let k := h.room.toNat
  let s := match h.cur with
    | some q => match q.stage, q.toWrite with
      | .writing, w :: _ => (writeOne c k q w s).1
      | _, _ => s
    | none => s
  goOnReset k (s.setChan c { s.chan c with cur := none, state := .paused })

/-- The turn of a channel whose Room resets: the burst that has begun takes its grants and ends (R346). -/
def resetTurn (m c : Nat) (s : State) : State :=
  let s := serveGrants c (pdTouch (pdMover c) s)
  if wants s c = [] then endHeld c { s with rotor := s.rotor.set m ((c + 1) % 64) } else s

/-- MOVER_BURST: one burst of the next ready channel; none is ready: nothing (R26, R38). -/
def execMoverBurst (m : Fin 2) (s : State) : Host.Outcome State Fault Refusal :=
  match nextReady s m (s.rotor.getD m 0) with
  | none => .next s
  | some c =>
    .next (if (s.room (s.chan c).room.toNat).reset.isSome then resetTurn m c s else moverTurn m c s)

/-- What ROOM_DESTROY does after the sequence: everything of the Room goes (R281, R632). -/
def deleteRoom (k : Nat) (s : State) : State :=
  let s := (roomChans s k).foldl (fun t c => (withdrawArrivals c (dropChannelWork c t)).setChan c {}) s
  let s := ((roomSqs s k).map (·.1)).foldl (fun t g => t.setSq g {}) s
  let s := ((roomCqs s k).map (·.1)).foldl (fun t i => t.setCq i {}) s
  let s := ((s.room k).flagMap.map (·.2)).foldl (fun t f => t.setFlag f {}) s
  let s := ((s.room k).counterMap.map (·.2)).foldl (fun t c => t.setCounter c {}) s
  let s : State := { s with study := { s.study with
    sets := s.study.sets.filter fun x => x.1 / 8 ≠ k
    cache := s.study.cache.filter (·.room ≠ k) } }
  let s := ringEnable k false s
  evalWires ((s.setLog k {}).setRoom k {})

/-- ROOM_RESET and ROOM_DESTROY share their checks (R281). -/
def resetCommand (destroy : Bool) (k : Nat) (p : BitVec 512) (s : State) : State :=
  let r := pkRoom p
  if r = 0 then cmdBad k p Dt.range s
  else if !roomExists s r then cmdBad k p Dt.notFound s
  else startReset r destroy (startLong k p s)

def execRoomReset (k : Fin 64) (pkt : BitVec 512) (s : State) : Host.Outcome State Fault Refusal :=
  .next (takeLong 0x0012 k pkt (resetCommand false k pkt) s)

def execRoomDestroy (k : Fin 64) (pkt : BitVec 512) (s : State) : Host.Outcome State Fault Refusal :=
  .next (takeLong 0x0011 k pkt (resetCommand true k pkt) s)

/-- Peers that have not acknowledged, each once. -/
def unackedPeers (x : RoomReset) : List Nat := (x.awaited.map (· / 256)).eraseDups

/-- Step 8; the doorbells recorded during the reset are discarded (R346, R347). -/
def endReset (k : Nat) (x : RoomReset) (s : State) : State :=
  let un := unackedPeers x
  let ns := s.now - x.start
  let s := un.foldl (fun t n => auditRec { eventRec 0x0224 0 with room := BitVec.ofNat 6 k, arg0 := BitVec.ofNat 64 n } t) s
  let r := s.room k
  let s := s.setRoom k { r with
    state := .active, admClosed := false, reset := none, resetCount := r.resetCount + 1, resetNs := BitVec.ofNat 32 ns
    resetUnacked := BitVec.ofNat 10 un.length, resetThermal := x.thermal }
  let s := ((roomSqs s k).map (·.1)).foldl (fun t g => t.setSq g { t.sq g with admClosed := false, dbPending := false }) s
  let s := faultLogRec k { status := St.roomReset, severity := 0, room := BitVec.ofNat 6 k, arg0 := BitVec.ofNat 64 ns } s
  let sel (o : BitVec 16) (l : LongCmd) : Bool := pktOpcode l.packet = o && pkRoom l.packet = k
  let s := endLongs (sel 0x0012) St.ok 0 (fun _ => (BitVec.ofNat 64 un.length, BitVec.ofNat 64 ns)) s
  if x.destroy && s.fy.longs.any (sel 0x0011) then
    endLongs (sel 0x0011) St.ok 0 (fun _ => (BitVec.ofNat 64 un.length, 0)) (deleteRoom k s) else s

/-- ROOM_RESET_END: every peer has acknowledged, or 200 µs have passed, but not before step 7, which is reached by then
(R346, R348). -/
def execRoomResetEnd (k : Fin 64) (s : State) : Host.Outcome State Fault Refusal :=
  let s := match (s.room k).reset with
    | some x => if x.stopping && x.start + 200000 ≤ s.now then resetSteps k s else goOnReset k s
    | none => s
  match (s.room k).reset with
  | some x => .next (if !x.stopping && (x.awaited = [] || x.start + 200000 ≤ s.now) then endReset k x s else s)
  | none => .next s

/-! ### Function events (R322, R323, R351) -/

/-- VF_FLR: function-level reset of a VF, which clears its Bus Master Enable as PCIe requires (R323, R351, R632; log
entry 16). -/
def execVfFlr (k : Fin 64) (s : State) : Host.Outcome State Fault Refusal :=
  if k = 0 || !fnExists s k then .next s else
  let s := dropTranslations (fun p => p / 2 ^ 48 = k) s
  let s : State := { s.setLog k {} with rings := tset s.rings {} k {}, pcie := { s.pcie with bme := nremove s.pcie.bme k }, msix := s.msix.filter fun e => e.1 / 256 ≠ k
                                        fy := { s.fy with longs := s.fy.longs.map fun l =>
                                          if l.ring = k.val then { l with orphan := true } else l } }
  if roomExists s k then
    .next (startReset k false (auditRec { eventRec 0x0222 0 with room := BitVec.ofNat 6 k } s))
  else .next s

/-- VF_BME_CLEAR (R323). -/
def execVfBmeClear (k : Fin 64) (s : State) : Host.Outcome State Fault Refusal :=
  .next (if k = 0 then s else { s with pcie := { s.pcie with bme := nremove s.pcie.bme k } })

/-- VF_MSE_CLEAR (R323). -/
def execVfMseClear (k : Fin 64) (s : State) : Host.Outcome State Fault Refusal :=
  .next (if k = 0 then s else { s with pcie := { s.pcie with mse := nremove s.pcie.mse k } })

/-- The Rooms of VFs above n are destroyed (R323). -/
def shrinkVfs (n : Nat) (s : State) : State :=
  if !s.pcie.vfEnable || s.pcie.numVfs ≤ n then s else
  let s : State := { s with pcie := { s.pcie with
    numVfs := n, vfEnable := n ≠ 0, bme := s.pcie.bme.filter (· ≤ n), mse := s.pcie.mse.filter (· ≤ n)
    ats := s.pcie.ats.filter (· / 2 ^ 48 ≤ n) } }
  let gone := (s.rooms.filter fun r => n < r.1 && r.2.state ≠ .none).map (·.1)
  gone.foldl (fun t k =>
    startReset k true (auditRec { eventRec 0x0223 0 with room := BitVec.ofNat 6 k } t)) s

/-- VF_DISABLE: NumVFs is reduced, or VF Enable cleared for 0; the Rooms above it are destroyed (R323). -/
def execVfDisable (numVfs : Fin 64) (s : State) : Host.Outcome State Fault Refusal := .next (shrinkVfs numVfs s)

/-- ATS_INVALIDATION: the function's translations of the range are gone, and the request is completed: every request that
used one has been sent, since the model's requests are sent when they are made (R322). -/
def execAtsInvalidation (r : AtsRange) (s : State) : Host.Outcome State Fault Refusal :=
  let sel (p : Nat) : Bool := hostPage r.fn r.addr.toNat ≤ p && p * 4096 < hostKey r.fn r.addr.toNat + r.len
  .next ((dropTranslations sel s).emit (.atsComplete r.fn))

end Sys2Proof.Machine
end

