-- ==== Sys2Proof/Machine/Study.lean ====
section
/-! DEFINITION. The Study: table sets and their loading, the Study cache, tokenizing and detokenizing jobs
(13 R588 to R621, 06 R295). -/
namespace Sys2Proof.Machine

/-! ### Reads and writes of whole spans -/

/-- Read a span of a Room burst by burst, each checked (R45, R308, R327, R589). -/
def spanGet (k : Nat) : Nat → Word → Nat → State → State × Except Byte (List Byte)
  | 0, _, _, s => (s, .ok [])
  | f + 1, a, n, s =>
    if n = 0 then (s, .ok []) else
    let m := min n (4096 - offOf a % 4096)
    let st := spanStatus s k a m
    if st ≠ St.ok then (s, .error st) else
    match devGet k a m s with
    | (s, .error e) => (s, .error e)
    | (s, .ok b) => match spanGet k f (a + BitVec.ofNat 64 m) (n - m) s with
      | (s, .error e) => (s, .error e)
      | (s, .ok r) => (s, .ok (b ++ r))

/-- Write a span of a Room burst by burst, each checked. -/
def spanPut (k : Nat) : Nat → Word → List Byte → State → State × Byte
  | 0, _, _, s => (s, St.ok)
  | f + 1, a, bs, s =>
    if bs = [] then (s, St.ok) else
    let m := min bs.length (4096 - offOf a % 4096)
    let st := spanStatus s k a m
    if st ≠ St.ok then (s, st) else
    match devPutAll k a (bs.take m) s with
    | (s, st) => if st ≠ St.ok then (s, st) else spanPut k f (a + BitVec.ofNat 64 m) (bs.drop m) s

def readSpan (k : Nat) (a : Word) (n : Nat) (s : State) : State × Except Byte (List Byte) :=
  spanGet k (n / 4096 + 2) a n s

def writeSpan (k : Nat) (a : Word) (bs : List Byte) (s : State) : State × Byte :=
  spanPut k (bs.length / 4096 + 2) a bs s

/-! ### The tables (R591 to R595) -/

/-- A little-endian number of n bytes read through a byte reader. -/
def rdN (rd : Nat → Byte) (a n : Nat) : Nat := leNat ((List.range n).map fun i => rd (a + i))

/-- No token (R591). -/
abbrev noToken : Nat := 0xFFFFFFFF

/-- MAX_PIECE, 0 selecting 256. -/
def maxPiece (rd : Nat → Byte) (r : Nat) : Nat := if rdN rd (r + 4) 4 = 0 then 256 else rdN rd (r + 4) 4
abbrev bosId (rd : Nat → Byte) (r : Nat) : Nat := rdN rd (r + 8) 4
abbrev eosId (rd : Nat → Byte) (r : Nat) : Nat := rdN rd (r + 12) 4
abbrev byteToken (rd : Nat → Byte) (r b : Nat) : Nat := rdN rd (r + 1024 + 4 * b) 4

/-- One range: FIRST, LAST, CLASS (R591). -/
def rangeAt (rd : Nat → Byte) (r i : Nat) : Nat × Nat × Nat :=
  let v := rdN rd (r + 256 + 8 * i) 8
  (v % 2 ^ 21, v / 2 ^ 21 % 2 ^ 21, v / 2 ^ 42 % 16)

/-- Class of a code point (R602). -/
def classOf (rd : Nat → Byte) (r cp : Nat) : Nat :=
  if cp < 0x80 then (rd (r + 64 + cp)).toNat % 16
  else match ((List.range (rd (r + 2)).toNat).map (rangeAt rd r)).find? fun g => g.1 ≤ cp && cp ≤ g.2.1 with
    | some g => g.2.2
    | none => (rd (r + 1)).toNat % 16

/-- BREAK[a][b] (R591). -/
def breakAt (rd : Nat → Byte) (r a b : Nat) : Bool := (rdN rd (r + 192 + 2 * a) 2).testBit b

/-- The record meets R591 and R592. -/
def recordOk (rd : Nat → Byte) (r : Nat) : Bool :=
  let n := (rd (r + 2)).toNat
  let mp := rdN rd (r + 4) 4
  let zero (lo hi : Nat) : Bool := (List.range (hi - lo)).all fun i => rd (r + lo + i) = 0
  let gs := (List.range n).map (rangeAt rd r)
  rd r = 1 && (rd (r + 1)).toNat < 16 && n ≤ 64 && (mp = 0 || (4 ≤ mp && mp ≤ 4096))
    && zero 3 4 && zero 20 64 && zero 224 256 && zero 768 1024 && zero 2048 4096
    && (List.range 128).all (fun c => (rd (r + 64 + c)).toNat < 16)
    && zero (256 + 8 * n) 768
    && (List.range n).all (fun i => rdN rd (r + 256 + 8 * i) 8 / 2 ^ 46 = 0)
    && gs.all (fun g => 0x80 ≤ g.1 && g.1 ≤ g.2.1 && g.2.1 ≤ 0x10FFFF)
    && (gs.zip (gs.drop 1)).all fun x => x.1.2.1 < x.2.1

/-- A vocabulary entry: OFFSET, LEN, SPECIAL, SKIP, reserved bits (R593). -/
structure VocabEntry where
  offset : Nat
  len : Nat
  special : Bool
  skip : Bool
  reserved : Nat
  deriving DecidableEq, Repr

def vocabAt (rd : Nat → Byte) (v i : Nat) : VocabEntry :=
  let x := rdN rd (v + 8 * i) 8
  { offset := x % 2 ^ 32, len := x / 2 ^ 32 % 256, special := x.testBit 40, skip := x.testBit 41, reserved := x / 2 ^ 42 }

/-- An entry's own checks (R593, R595). -/
def vocabOk (pool : Nat) (e : VocabEntry) : Bool := e.reserved = 0 && e.offset + e.len ≤ pool

/-- A merge entry: LEFT, RIGHT, RESULT, RANK (R594). -/
structure MergeEntry where
  left : Nat
  right : Nat
  result : Nat
  rank : Nat
  deriving DecidableEq, Repr

def mergeAt (rd : Nat → Byte) (m i : Nat) : MergeEntry :=
  { left := rdN rd (m + 16 * i) 4, right := rdN rd (m + 16 * i + 4) 4, result := rdN rd (m + 16 * i + 8) 4
    rank := rdN rd (m + 16 * i + 12) 4 }

def mergeOk (vocab merges : Nat) (e : MergeEntry) : Bool :=
  e.left < vocab && e.right < vocab && e.result < vocab && e.rank < merges

def pairBefore (a b : MergeEntry) : Bool := a.left < b.left || (a.left = b.left && a.right < b.right)

/-- Ranks are distinct: each is met once on the way through the table. -/
def ranksDistinct (l : List Nat) : Bool := l.eraseDups.length = l.length

/-- Every check of R595 on tables at r (record), v (vocabulary) and m (merges). -/
def tablesOk (rd : Nat → Byte) (r v m vocab merges : Nat) : Bool :=
  let pool := rdN rd (r + 16) 4
  let named (t : Nat) : Bool := t = noToken || (t < vocab && (vocabAt rd v t).special)
  let es := (List.range merges).map (mergeAt rd m)
  recordOk rd r
    && (List.range vocab).all (fun i => vocabOk pool (vocabAt rd v i))
    && named (bosId rd r) && named (eosId rd r)
    && (List.range 256).all (fun b =>
      let t := byteToken rd r b
      let e := vocabAt rd v t
      t < vocab && e.len = 1 && !e.special && (rd (v + 8 * vocab + e.offset)).toNat = b)
    && es.all (fun e => mergeOk vocab merges e && !(vocabAt rd v e.left).special && !(vocabAt rd v e.right).special
      && !(vocabAt rd v e.result).special
      && (vocabAt rd v e.result).len = (vocabAt rd v e.left).len + (vocabAt rd v e.right).len)
    && (es.zip (es.drop 1)).all (fun x => pairBefore x.1 x.2)
    && ranksDistinct (es.map (·.rank))

/-! ### STUDY_LOAD_TABLES (R295, R595, R596) -/

/-- A reader of bytes held as (address, bytes) spans; 0 elsewhere. -/
def readerOf (spans : List (Nat × List Byte)) (a : Nat) : Byte :=
  match spans.find? fun x => x.1 ≤ a && a < x.1 + x.2.length with
  | some x => x.2.getD (a - x.1) 0
  | none => 0

/-- Read a set's spans one after another. -/
def readSpans (k : Nat) : List (Word × Nat) → State → State × Except Byte (List (Nat × List Byte))
  | [], s => (s, .ok [])
  | (a, n) :: r, s => match readSpan k a n s with
    | (s, .error e) => (s, .error e)
    | (s, .ok b) => match readSpans k r s with
      | (s, .error e) => (s, .error e)
      | (s, .ok t) => (s, .ok ((offOf a, b) :: t))

/-- Cellar domains of a table set (R590). -/
def setDomains (s : State) (k : Nat) (t : TableSet) : List Nat :=
  (pdCellarSpan s k (offOf t.pretokAddr) 4096 ++
    pdCellarSpan s k (offOf t.vocabAddr) (8 * t.vocabCount.toNat + t.poolBytes) ++
    pdCellarSpan s k (offOf t.mergeAddr) (16 * t.mergeCount.toNat)).eraseDups

/-- The set that a packet names, with POOL_BYTES as the Cellar holds it. -/
def packetSet (s : State) (p : BitVec 512) : TableSet :=
  let pool : Nat := match translate s (pkRoom p) true (offOf (p64 p 48) + 16) with
    | some a => leNat (mread s.cellar a 4)
    | none => 0
  { valid := true, vocabCount := BitVec.ofNat 21 (p32 p 20), mergeCount := BitVec.ofNat 21 (p32 p 24),
    pretokAddr := p64 p 48, vocabAddr := p64 p 32, mergeAddr := p64 p 40, poolBytes := pool }

/-- STUDY_LOAD_TABLES is taken (R279, R595). -/
def loadTables (k : Nat) (p : BitVec 512) (s : State) : State :=
  let cellar (a : Word) : Bool := spaceOf a = some .cellar
  if 7 < p8 p 16 || p32 p 20 < 1 || 2 ^ 20 < p32 p 20 || 2 ^ 20 < p32 p 24
      || !cellar (p64 p 32) || !cellar (p64 p 40) || !cellar (p64 p 48) then cmdBad k p Dt.range s
  else if !roomExists s (pkRoom p) then cmdBad k p Dt.notFound s
  else startLong k p s

/-- STUDY_LOAD_TABLES (R595). -/
def execStudyLoadTables (k : Fin 64) (pkt : BitVec 512) (s : State) : Host.Outcome State Fault Refusal :=
  .next (takeLong 0x0080 k pkt (loadTables k pkt) s)

/-- The load's reads have been made: the set is checked and takes effect, or the command fails (R595, R596). -/
def finishLoad (l : LongCmd) (s : State) : State :=
  let p := l.packet
  let k := pkRoom p
  let t := packetSet s p
  let aligned : Bool := offOf t.pretokAddr % 4096 = 0 && offOf t.vocabAddr % 8 = 0 && offOf t.mergeAddr % 8 = 0
  if !aligned then endLong l St.malformed Dt.range 0 0 s else
  match readSpan k t.pretokAddr 4096 s with
  | (s, .error e) => endLong l e 0 0 0 s
  | (s, .ok rec) =>
    let pool := leNat ((rec.drop 16).take 4)
    match readSpans k [(t.vocabAddr, 8 * t.vocabCount.toNat + pool), (t.mergeAddr, 16 * t.mergeCount.toNat)] s with
    | (s, .error e) => endLong l e 0 0 0 s
    | (s, .ok sp) =>
      let rd := readerOf ((offOf t.pretokAddr, rec) :: sp)
      if tablesOk rd (offOf t.pretokAddr) (offOf t.vocabAddr) (offOf t.mergeAddr) t.vocabCount.toNat
          t.mergeCount.toNat then
        let n := k * 8 + p8 p 16
        let old := tget s.study.sets {} n
        endLong l St.ok 0 (t.vocabCount.setWidth 64) (t.mergeCount.setWidth 64)
          { s with study := { s.study with
            sets := tset s.study.sets {} n { t with poolBytes := pool, loadGen := old.loadGen + 1 } } }
      else endLong l St.malformed Dt.range 0 0 s

/-- STUDY_CACHE_FLUSH (R599). -/
def cacheFlush (k : Nat) (p : BitVec 512) (s : State) : State :=
  let n := p8 p 16
  if 7 < n && n ≠ 255 then cmdBad k p Dt.range s
  else if !roomExists s (pkRoom p) then cmdBad k p Dt.notFound s
  else cmdOk k p 0 0 { s with study := { s.study with
    cache := s.study.cache.filter fun l => !(l.room = pkRoom p && (n = 255 || l.set = n)) } }

/-- STUDY_CACHE_FLUSH (R599). -/
def execStudyCacheFlush (k : Fin 64) (pkt : BitVec 512) (s : State) : Host.Outcome State Fault Refusal :=
  .next (takePacket 0x0081 k pkt (cacheFlush k pkt) s)

/-! ### The Study cache (R598) -/

abbrev jobSet (j : Job) : Nat := b8 j.word 16

/-- The line serves the job. -/
def lineServes (j : Job) (n : Nat) (l : StudyLine) : Bool :=
  l.room = j.room && l.set = jobSet j && l.gen = j.set.loadGen && l.addr = n

/-- A table byte as the job would read it now: from its line, else from the Cellar. -/
def tableByte (s : State) (j : Job) (a : Nat) : Byte :=
  match s.study.cache.find? (lineServes j (a / 64)) with
  | some l => fld l.data (8 * (a % 64)) 8
  | none => match translate s j.room true a with
    | some p => mget s.cellar p
    | none => 0

/-- Fill a line from the Cellar: the least recently used of the 16 in its place goes (R598). -/
def fillLine (j : Job) (n : Nat) (s : State) : State × Byte :=
  let a : Word := BitVec.ofNat 64 (2 ^ 60 + n * 64)
  match translate s j.room true (n * 64) with
  | none => (s, St.badWindow)
  | some p => match cellarGet (some j.room) a p 64 s with
    | (s, none) => (s, St.eccUncorrected)
    | (s, some b) =>
      let l : StudyLine := { room := j.room, set := jobSet j, gen := j.set.loadGen, addr := n
                             data := BitVec.ofNat 512 (leNat b) }
      let others := (s.study.cache.filter fun x => x.addr % 4096 = n % 4096).take 15
      let rest := s.study.cache.filter fun x => x.addr % 4096 ≠ n % 4096 || others.contains x
      ({ s with study := { s.study with cache := l :: rest } }, St.ok)

/-- How a run of lookups ends. -/
inductive Lookups where
  | done
  /-- A line has been filled, and the lane waits for it: lookups made so far. -/
  | filled (n : Nat)
  | failed (status : Byte)
  deriving DecidableEq, Repr

/-- Look lines up in order. A lookup counts once as a hit or a miss; `one` stops after the first fill. A cached line with
a parity error is discarded and filled again (R598, R641). -/
def lookUp (j : Job) (one : Bool) : Nat → List Nat → State → State × Lookups
  | _, [], s => (s, .done)
  | i, n :: r, s =>
    let count : Bool := j.seen ≤ i
    match s.study.cache.find? (lineServes j n) with
    | some l =>
      let bad := Config.parityFault s.free
      let s := { s with free := s.free + 1 }
      if bad then
        let s := { s with err := { s.err with parity := satInc s.err.parity }
                          study := { s.study with cache := s.study.cache.erase l } }
        match fillLine j n s with
        | (s, st) => if st ≠ St.ok then (s, .failed st) else lookUp j one (i + 1) r s
      else
        lookUp j one (i + 1) r { s with study := { s.study with
          cache := l :: s.study.cache.erase l, hits := if count then satInc s.study.hits else s.study.hits } }
    | none =>
      let s := { s with study := { s.study with misses := if count then satInc s.study.misses else s.study.misses } }
      match fillLine j n s with
      | (s, st) => if st ≠ St.ok then (s, .failed st)
        else if one then (s, .filled (i + 1)) else lookUp j one (i + 1) r s

/-- A result with the cache lines looked up for it. -/
abbrev Probed (α : Type) := Except Byte α × List Nat

def Probed.bind {α β : Type} (x : Probed α) (f : α → Probed β) : Probed β :=
  match x with
  | (.error e, l) => (.error e, l)
  | (.ok a, l) => match f a with
    | (r, m) => (r, l ++ m)

/-- Cache lines of n bytes. -/
def linesOf (a n : Nat) : List Nat := (List.range ((a + n - 1) / 64 - a / 64 + 1)).map (a / 64 + ·)

/-! ### UTF-8 and pieces (R601 to R603) -/

def isCont (b : Nat) : Bool := b / 64 = 2

/-- The code point at the head of a sequence and its length; none for an invalid byte (R601). -/
def utf8Head : List Byte → Option (Nat × Nat)
  | [] => none
  | a :: r =>
    let a := a.toNat
    let at_ (i : Nat) : Nat := (r.getD i 0).toNat
    if a < 0x80 then some (a, 1)
    else if 0xC2 ≤ a && a ≤ 0xDF && isCont (at_ 0) then some ((a % 32) * 64 + at_ 0 % 64, 2)
    else if 0xE0 ≤ a && a ≤ 0xEF && isCont (at_ 0) && isCont (at_ 1) then
      let c := (a % 16) * 4096 + at_ 0 % 64 * 64 + at_ 1 % 64
      if 0x800 ≤ c && !(0xD800 ≤ c && c ≤ 0xDFFF) then some (c, 3) else none
    else if 0xF0 ≤ a && a ≤ 0xF4 && isCont (at_ 0) && isCont (at_ 1) && isCont (at_ 2) then
      let c := (a % 8) * 262144 + at_ 0 % 64 * 4096 + at_ 1 % 64 * 64 + at_ 2 % 64
      if 0x10000 ≤ c && c ≤ 0x10FFFF then some (c, 4) else none
    else none

/-- A sequence cut into code points and invalid bytes. -/
def utf8Split : Nat → List Byte → List (List Byte × Option Nat)
  | 0, _ => []
  | _, [] => []
  | f + 1, b :: r => match utf8Head (b :: r) with
    | some (c, n) => ((b :: r).take n, some c) :: utf8Split f ((b :: r).drop n)
    | none => ([b], none) :: utf8Split f r

/-- A piece: its bytes, and whether it is an invalid byte. -/
abbrev Piece := List Byte × Bool

/-- Cut a sequence into pieces: `cur` is the piece so far, `cls` the class of its last code point (R603). -/
def cutPieces (rd : Nat → Byte) (r : Nat) : List (List Byte × Option Nat) → List Byte → Nat → List Piece
  | [], cur, _ => if cur = [] then [] else [(cur, false)]
  | (bs, none) :: us, cur, _ => (if cur = [] then [] else [(cur, false)]) ++ (bs, true) :: cutPieces rd r us [] 0
  | (bs, some c) :: us, cur, cls =>
    let y := classOf rd r c
    if cur ≠ [] && (breakAt rd r cls y || maxPiece rd r < cur.length + bs.length) then
      (cur, false) :: cutPieces rd r us bs y
    else cutPieces rd r us (cur ++ bs) y

/-! ### Merging (R594, R604) -/

/-- One probe of the merge table; a bad entry ends the job (R597). -/
def probe (rd : Nat → Byte) (t : TableSet) (i : Nat) : Probed MergeEntry :=
  let a := offOf t.mergeAddr + 16 * i
  let e := mergeAt rd (offOf t.mergeAddr) i
  (if mergeOk t.vocabCount.toNat t.mergeCount.toNat e then .ok e else .error St.malformed, linesOf a 16)

/-- Binary search for a pair in places lo to hi − 1. -/
def findPair (rd : Nat → Byte) (t : TableSet) (l r : Nat) : Nat → Nat → Nat → Probed (Option MergeEntry)
  | 0, _, _ => (.ok none, [])
  | f + 1, lo, hi =>
    if hi ≤ lo then (.ok none, []) else
    let mid := (lo + hi) / 2
    (probe rd t mid).bind fun e =>
      if e.left = l && e.right = r then (.ok (some e), [])
      else if e.left < l || (e.left = l && e.right < r) then findPair rd t l r f (mid + 1) hi
      else findPair rd t l r f lo mid

/-- The lowest-ranked pair of a symbol sequence: place, entry; the leftmost where one occurs twice. -/
def bestPair (rd : Nat → Byte) (t : TableSet) : List Nat → Nat → Option (Nat × MergeEntry) →
    Probed (Option (Nat × MergeEntry))
  | a :: b :: r, i, best =>
    (findPair rd t a b 22 0 t.mergeCount.toNat).bind fun e =>
      let best' := match e, best with
        | some e, some (k, x) => if e.rank < x.rank then some (i, e) else some (k, x)
        | some e, none => some (i, e)
        | none, x => x
      bestPair rd t (b :: r) (i + 1) best'
  | _, _, best => (.ok best, [])

/-- Merge until no pair is left (R604). -/
def mergeSyms (rd : Nat → Byte) (t : TableSet) : Nat → List Nat → Probed (List Nat)
  | 0, l => (.ok l, [])
  | f + 1, l =>
    (bestPair rd t l 0 none).bind fun b => match b with
      | none => (.ok l, [])
      | some (i, e) => mergeSyms rd t f (l.take i ++ e.result :: l.drop (i + 2))

/-- Tokens of a piece (R604, R611). -/
def pieceTokens (rd : Nat → Byte) (t : TableSet) (p : Piece) : Probed (List Nat) :=
  let syms := p.1.map fun b => byteToken rd (offOf t.pretokAddr) b.toNat
  if p.2 then (.ok syms, []) else mergeSyms rd t p.1.length syms

def allTokens (rd : Nat → Byte) (t : TableSet) : List Piece → Probed (List Nat)
  | [] => (.ok [], [])
  | p :: r => (pieceTokens rd t p).bind fun a => (allTokens rd t r).bind fun b => (.ok (a ++ b), [])

/-! ### A row of a TOKENIZE (R606 to R611) -/

/-- The positions of a row before padding, and whether it is truncated (R608, R609). -/
def rowTokens (max : Nat) (bos eos : Option Nat) (toks : List Nat) : List Nat × Bool :=
  let head := bos.toList ++ toks
  let all := head ++ eos.toList
  if all.length ≤ max then (all, false) else (head.take (max - eos.toList.length) ++ eos.toList, true)

/-- Offset of the first invalid byte of the pieces. -/
def firstInvalid : List Piece → Nat → Option Nat
  | [], _ => none
  | (_, true) :: _, n => some n
  | (bs, false) :: r, n => firstInvalid r (n + bs.length)

/-- What carrying one row gives. -/
inductive RowEnd where
  | done
  | waits
  | failed (status : Byte)
  deriving DecidableEq, Repr

def setJob (n : Nat) (j : Job) (s : State) : State :=
  { s with study := { s.study with jobs := tput s.study.jobs n j } }

/-- Look up a row's lines; then go on, or leave the job waiting or failed. `hold` leaves a row with every line present
uncommitted. -/
def withLines (n : Nat) (j : Job) (one hold : Bool) (lines : List Nat) (k : State → State × RowEnd) (s : State) :
    State × RowEnd :=
  match lookUp j one 0 lines s with
  | (s, .failed e) => (s, .failed e)
  | (s, .filled i) => (setJob n { j with seen := max i j.seen } s, .waits)
  | (s, .done) => if hold then (setJob n { j with seen := max lines.length j.seen } s, .waits) else k s

/-- 32-bit little-endian bytes of a list. -/
def words32 (l : List Nat) : List Byte := l.flatMap (leBytes 4)

/-- Row `j.row` of a TOKENIZE. -/
def tokRow (n : Nat) (j : Job) (one hold : Bool) (offs : List Nat) (s : State) : State × RowEnd :=
  let w := j.word
  let t := j.set
  let r := offOf t.pretokAddr
  let i := j.row
  let lo := offs.getD i 0
  match readSpan j.room (b64 w 24 + BitVec.ofNat 64 lo) (offs.getD (i + 1) 0 - lo) s with
  | (s, .error e) => (s, .failed e)
  | (s, .ok text) =>
    let rd := tableByte s j
    let ps := cutPieces rd r (utf8Split text.length text) [] 0
    let bad := firstInvalid ps 0
    let strict := w.getLsbD 138
    let max := (b32 w 20).toNat
    let toks := allTokens rd t (if strict && bad.isSome then ps.takeWhile (!·.2) else ps)
    withLines n j one hold (linesOf r 4096 ++ toks.2) (fun s =>
      match toks.1 with
      | .error e => (s, .failed e)
      | .ok tk =>
        match (if strict then bad else none) with
        | some o =>
          (roomRec j.room { status := St.textInvalid, severity := 1, unitKind := 5, unit := BitVec.ofNat 16 n,
                            opcode := 0x08, index := BitVec.ofNat 32 i, pcWhere := (0#32 : Half) ++ j.count,
                            arg1 := BitVec.ofNat 64 o } s, .failed St.textInvalid)
        | none =>
          let x := rowTokens max (if w.getLsbD 136 then some (bosId rd r) else none)
            (if w.getLsbD 137 then some (eosId rd r) else none) tk
          let row := x.1 ++ List.replicate (max - x.1.length) (b32 w 56).toNat
          match writeSpan j.room (b64 w 40 + BitVec.ofNat 64 (4 * max * i)) (words32 row) s with
          | (s, st) =>
            if st ≠ St.ok then (s, .failed st) else
            match writeSpan j.room (b64 w 48 + BitVec.ofNat 64 (4 * i)) (leBytes 4 x.1.length) s with
            | (s, st) =>
              if st ≠ St.ok then (s, .failed st) else
              let s := setJob n { j with
                row := i + 1, seen := 0, bytes := j.bytes + text.length, positions := j.positions + x.1.length
                truncated := j.truncated + (if x.2 then 1 else 0), odd := j.odd + (if bad.isSome then 1 else 0) } s
              ({ s with study := { s.study with bytes := s.study.bytes + BitVec.ofNat 64 text.length } }, .done)) s

/-! ### A row of a DETOKENIZE (R615 to R617) -/

/-- Bytes that one token writes; none for an unknown one (R615, R616). -/
def tokenBytes (rd : Nat → Byte) (t : TableSet) (skipSpecial : Bool) (v : Nat) : Probed (Option (List Byte)) :=
  if t.vocabCount.toNat ≤ v then (.ok none, []) else
  let base := offOf t.vocabAddr
  let e := vocabAt rd base v
  let a := base + 8 * t.vocabCount.toNat + e.offset
  if !vocabOk t.poolBytes e then (.error St.malformed, linesOf (base + 8 * v) 8)
  else if e.skip || (e.special && skipSpecial) || e.len = 0 then (.ok (some []), linesOf (base + 8 * v) 8)
  else (.ok (some ((List.range e.len).map fun i => rd (a + i))), linesOf (base + 8 * v) 8 ++ linesOf a e.len)

/-- Bytes of a row and its unknown tokens; `strict` ends it at the first unknown one. -/
def rowBytes (rd : Nat → Byte) (t : TableSet) (skipSpecial strict : Bool) : List Nat → Probed (List Byte × Nat)
  | [] => (.ok ([], 0), [])
  | v :: r =>
    (tokenBytes rd t skipSpecial v).bind fun b => match b with
      | some b => (rowBytes rd t skipSpecial strict r).bind fun x => (.ok (b ++ x.1, x.2), [])
      | none =>
        if strict then (.error St.textInvalid, [])
        else (rowBytes rd t skipSpecial strict r).bind fun x => (.ok (x.1, x.2 + 1), [])

/-- Row `j.row` of a DETOKENIZE. -/
def detokRow (n : Nat) (j : Job) (one hold : Bool) (lens : List Nat) (s : State) : State × RowEnd :=
  let w := j.word
  let t := j.set
  let i := j.row
  let max := (b32 w 20).toNat
  match readSpan j.room (b64 w 24 + BitVec.ofNat 64 (4 * max * i)) (4 * lens.getD i 0) s with
  | (s, .error e) => (s, .failed e)
  | (s, .ok bs) =>
    let toks := (List.range (lens.getD i 0)).map fun q => leNat ((bs.drop (4 * q)).take 4)
    let x := rowBytes (tableByte s j) t (w.getLsbD 136) (w.getLsbD 137) toks
    withLines n j one hold x.2 (fun s =>
      match writeSpan j.room (b64 w 48 + BitVec.ofNat 64 (4 * i)) (leBytes 4 j.bytes) s with
      | (s, st) =>
        if st ≠ St.ok then (s, .failed st) else
        match x.1 with
        | .error e => (s, .failed e)
        | .ok (out, unk) =>
          if (b32 w 56).toNat < j.bytes + out.length then (s, .failed St.partialDone) else
          match writeSpan j.room (b64 w 40 + BitVec.ofNat 64 j.bytes) out s with
          | (s, st) =>
            if st ≠ St.ok then (s, .failed st) else
            let e := j.bytes + out.length
            let last : Bool := i + 1 = lens.length
            match (if last then writeSpan j.room (b64 w 48 + BitVec.ofNat 64 (4 * (i + 1))) (leBytes 4 e) s
                else (s, St.ok)) with
            | (s, st) =>
              if st ≠ St.ok then (s, .failed st)
              else (setJob n { j with row := i + 1, seen := 0, bytes := e, odd := j.odd + unk } s, .done)) s

/-! ### Jobs (R588 to R590, R607, R614, R619, R620) -/

/-- Rows of a job. -/
abbrev jobRows (j : Job) : Nat := (b16 j.word 18).toNat
abbrev isTok (j : Job) : Bool := weOpcode j.word = 0x08

/-- The spans that a job's entry names, in the order of their checks (R607, R614). -/
def jobSpans (j : Job) : List (Word × Nat) :=
  let w := j.word
  let n := jobRows j
  let m := (b32 w 20).toNat
  if isTok j then [(b64 w 32, 4 * (n + 1)), (b64 w 40, 4 * n * m), (b64 w 48, 4 * n)]
  else [(b64 w 24, 4 * n * m), (b64 w 32, 4 * n), (b64 w 40, (b32 w 56).toNat), (b64 w 48, 4 * (n + 1))]

/-- The text span of a TOKENIZE whose OFFS have been read. -/
def textSpan (j : Job) : Option (Word × Nat) :=
  match isTok j, j.table with
  | true, some o => some (b64 j.word 24 + BitVec.ofNat 64 (o.headD 0), o.getLastD 0 - o.headD 0)
  | _, _ => none

/-- Domains that a job touches (R590). -/
def jobDomains (s : State) (j : Job) : List Nat :=
  (pdStudy :: ((jobSpans j ++ (textSpan j).toList).flatMap fun x => spanDomains s j.room x.1 x.2)
    ++ setDomains s j.room j.set).eraseDups

/-- First bad span. -/
def firstBad (s : State) (k : Nat) : List (Word × Nat) → Byte
  | [] => St.ok
  | (a, n) :: r => let st := spanStatus s k a n; if st ≠ St.ok then st else firstBad s k r

/-- BOS_ID and EOS_ID, which lie in the first line of the record, are named where the entry asks for them; a table read that
fails ends the job (R589, R607). -/
def checkNames (j : Job) (s : State) : State × Byte :=
  let w := j.word
  let r := offOf j.set.pretokAddr
  if !isTok j || !(w.getLsbD 136 || w.getLsbD 137) then (s, St.ok)
  else match lookUp j false 0 [r / 64] s with
    | (s, .failed e) => (s, e)
    | (s, _) =>
      let rd := tableByte s j
      (s, if (w.getLsbD 136 && bosId rd r = noToken) || (w.getLsbD 137 && eosId rd r = noToken) then St.malformed else St.ok)

/-- The checks made before any output: OK leaves OFFS or LENS in the job (R607, R614). -/
def checkJob (n : Nat) (j : Job) (s : State) : State × Byte :=
  let w := j.word
  if !j.set.valid then (s, St.malformed)
  else match checkNames j s with
  | (s, named) =>
    if named ≠ St.ok then (s, named) else
    let st := firstBad s j.room (jobSpans j)
    if st ≠ St.ok then (s, st) else
    let rows := jobRows j
    match readSpan j.room (b64 w 32) (if isTok j then 4 * (rows + 1) else 4 * rows) s with
    | (s, .error e) => (s, e)
    | (s, .ok bs) =>
      let l := (List.range (bs.length / 4)).map fun i => leNat ((bs.drop (4 * i)).take 4)
      let j' := { j with table := some l }
      if isTok j then
        if !(l.zip (l.drop 1)).all (fun x => x.1 ≤ x.2) then (s, St.malformed)
        else
          let st := firstBad s j.room (textSpan j').toList
          if st ≠ St.ok then (s, st) else (setJob n j' s, St.ok)
      else if !l.all (· ≤ (b32 w 20).toNat) then (s, St.malformed)
      else (setJob n j' s, St.ok)

/-- A saturating 16-bit number. -/
def sat16 (n : Nat) : Nat := min n 65535

/-- RESULT of a job (R612, R618). -/
def jobResult (j : Job) (status : Byte) : Word :=
  if status ≠ St.ok then BitVec.ofNat 64 j.row
  else if isTok j then BitVec.ofNat 64 (j.positions % 2 ^ 32 + sat16 j.truncated * 2 ^ 32 + sat16 j.odd * 2 ^ 48)
  else BitVec.ofNat 64 (j.bytes + sat16 j.odd * 2 ^ 32)

/-- The job ends and its place is free. -/
def endJob (n : Nat) (status : Byte) (s : State) : State :=
  match s.study.jobs.find? (·.1 = n) with
  | none => s
  | some (_, j) =>
    completeEntry j.sq j.count status (jobResult j status) { s with study := { s.study with jobs := tdel s.study.jobs n } }

/-- One row; none where no row is left or the job is gone. -/
def jobRow (n : Nat) (one : Bool) (s : State) : Option (State × RowEnd) :=
  match s.study.jobs.find? (·.1 = n) with
  | none => none
  | some (_, j) => match j.table with
    | none => none
    | some t =>
      if jobRows j ≤ j.row then none
      else
        let hold : Bool := one && j.row + 1 = jobRows j
        some (if isTok j then tokRow n j one hold t s else detokRow n j one hold t s)

/-- Rows one after another. `one` is the run to the first line that has to be filled. -/
def runJob (n : Nat) (one : Bool) : Nat → State → State
  | 0, s => s
  | f + 1, s => match jobRow n one s with
    | none => if one then s else endJob n St.ok s
    | some (s, .done) => runJob n one f s
    | some (s, .waits) => s
    | some (s, .failed e) => endJob n e s

/-- A job holds at its next piece while a domain it touches is not ON; what the idle policy lowered wakes (R470, R478,
R620). -/
def jobHeld (s : State) (j : Job) : List Nat := (jobDomains s j).filter fun d => !pdOn s d

/-- Carry a job on. -/
def carryJob (n : Nat) (one : Bool) (s : State) : State :=
  match s.study.jobs.find? (·.1 = n) with
  | none => s
  | some (_, j) =>
    let held := jobHeld s j
    if held ≠ [] then held.foldl (fun t d => wakeOnDemand d t) s
    else
      let s := pdTouch pdStudy s
      let run (s : State) : State := runJob n one (jobRows j + 1) s
      if j.table.isSome then run s else
      match checkJob n j s with
      | (s, st) => if st ≠ St.ok then endJob n st s else run s

/-- STUDY_CACHE_FILL: the job runs to the first line that its lanes miss, which is filled (R598, R600). -/
def execStudyCacheFill (j : Fin 16) (s : State) : Host.Outcome State Fault Refusal := .next (carryJob j true s)

/-- STUDY_JOB_COMPLETE: the job runs to its end and completes (R610, R619). -/
def execStudyJobComplete (j : Fin 16) (s : State) : Host.Outcome State Fault Refusal := .next (carryJob j false s)

/-- TOKENIZE: the head of the SQ takes a job place (R588, R605). -/
def execTokenize (q : Fin 1024) (s : State) : Host.Outcome State Fault Refusal :=
  .next (dispatchHead q (isOpcode 0x08) s)

/-- DETOKENIZE (R588, R613). -/
def execDetokenize (q : Fin 1024) (s : State) : Host.Outcome State Fault Refusal :=
  .next (dispatchHead q (isOpcode 0x09) s)

end Sys2Proof.Machine
end

