-- ==== Sys2Proof/Machine/Domains.lean ====
section
/-! DEFINITION. Power domains and the thermal governor: soft and hard requests, the idle policy, what a domain loses, its
return, temperature samples and the trip; POWER_CAP_SET and CADENCE_CONFIG (10 R435, R452, R458 to R462, R466 to R483,
R717). -/
namespace Sys2Proof.Machine

/-! ### Names -/

/-- Code of a state (R468). -/
def PdState.code : PdState → Nat
  | .on => 0 | .closing => 1 | .draining => 2 | .off => 3 | .retain => 4

/-- The quadrant of a Pantry domain. -/
def pdQuadrant (d : Nat) : Option Nat := if 3 ≤ d && d ≤ 6 then some (d - 3) else none

/-- The first port of a PD_LINKS domain (R466). -/
def pdPorts (d : Nat) : List Nat := if 7 ≤ d && d ≤ 10 then (List.range 4).map (4 * (d - 7) + ·) else []

/-- Channels by number. -/
def allChans (s : State) : List Nat := s.chans.map (·.1)

/-- A channel's instruction in progress touches the domain. -/
def curTouches (h : Chan) (d : Nat) : Bool :=
  match h.cur with
  | some q => q.domains.contains d
  | none => false

/-- POWER_DOMAIN commands that run on a domain. -/
def pdLong (d : Nat) (l : LongCmd) : Bool := pktOpcode l.packet = 0x60 && p8 l.packet 16 = d

/-- Every command on the domain replies: the state reached and the time since its request (R292, R479). -/
def pdReply (d : Nat) (s : State) : State :=
  endLongs (pdLong d) St.ok 0 (fun l => (BitVec.ofNat 64 (pdOf s d).code, BitVec.ofNat 64 (s.now - l.start))) s

/-! ### What ends with a hard request or a cut (R421, R471, R473) -/

/-- The instruction word at a channel's pc, as its memory holds it. -/
def wordAt (s : State) (h : Chan) : BitVec 256 :=
  match h.implicit with
  | some w => w
  | none => match spaceOf h.pc with
    | some .pantry => match translate s h.room.toNat false (offOf h.pc) with
      | some p => BitVec.ofNat 256 (leNat (mread s.pantry p 32))
      | none => 0
    | some .cellar => match translate s h.room.toNat true (offOf h.pc) with
      | some p => BitVec.ofNat 256 (leNat (mread s.cellar p 32))
      | none => 0
    | _ => 0

/-- The pause that a domain asked of an instruction ends with the instruction: the channel goes on (R143, R473). -/
def goesOn (c : Nat) (s : State) : State := resumeChan c (s.setChan c { s.chan c with pauseDomain := [] })

/-- The instruction in progress on a channel ends with a status and the channel goes on; a reduction's fails its instance
(R143, R473, R574). -/
def cutChannel (status : Byte) (c : Nat) (s : State) : State :=
  let h := s.chan c
  match h.cur with
  | none => s
  | some q =>
    let mine (w : Waiter) : Bool := w.unit == .chan (Fin.ofNat 128 c)
    let s := { s with groups := s.groups.map fun g => (g.1, { g.2 with resv := g.2.resv.filter (·.chan ≠ some c) }) }
    let s := match s.waiters.find? mine with
      | some w => endWait w status 0 s
      | none => failCur c status s
    let s := goesOn c s
    match planGroup q.plan with
    | some g => reduceFails h.room.toNat g status s
    | none => s

/-- An instruction that a channel holds at issue ends with a status. -/
def cutHeld (status : Byte) (c : Nat) (s : State) : State :=
  let w := wordAt s (s.chan c)
  markBad c (fld w 0 8) (wFlags w) 0 status s

/-- Every instruction in progress, held or paused that touches the domain completes bad, and so do the waits that touch
its Mover; what a Room reset has paused stays, and loses a burst to the domain (R473, R474). -/
def cutDomain (d : Nat) (s : State) : State :=
  (allChans s).foldl (fun t c =>
    let h := t.chan c
    if h.pauseReset then
      if curTouches h d && burstHeld h then goOnReset h.room.toNat (t.setChan c { h with cur := none, state := .paused })
      else t
    else if curTouches h d then cutChannel St.domainOff c t
    else if h.heldBy ≠ [] && h.cur.isNone && h.touches.contains d then cutHeld St.domainOff c t
    else match t.waiters.find? fun w => w.unit == .chan (Fin.ofNat 128 c) with
      | some w => match w.obj with
        | .phase _ _ _ => if pdMover c = d then endWait w St.domainOff 0 t else t
        | _ => t
      | none => t) s

/-- Study jobs that touch the domain complete (R473, R619). -/
def cutJobs (d : Nat) (s : State) : State :=
  ((s.study.jobs.filter fun j => (jobDomains s j.2).contains d).map (·.1)).foldl (fun t n => endJob n St.domainOff t) s

/-! ### What a domain loses (R247, R373, R466, R480 to R482) -/

/-- Rings that the quadrant held (R247). -/
def loseRings (d : Nat) (s : State) : State :=
  let held (k : Nat) (a : Word) (n : Nat) : Bool := (spanDomains s k a n).contains d
  let qs := (s.sqs.filter fun q => q.2.valid && held q.2.room.toNat q.2.base (q.2.size * 64)).map (·.1)
  let cs := (s.cqs.filter fun c => c.2.valid && held c.2.room.toNat c.2.base (c.2.size * 32)).map (·.1)
  let s := qs.foldl (fun t g => haltSq g (t.sq g).fetch St.domainOff t) s
  cs.foldl (fun t i => t.setCq i { t.cq i with error := true }) s

/-- A Pantry quadrant loses its contents: buffers, waits, tags, rings and bytes. -/
def loseQuadrant (q : Nat) (s : State) : State :=
  let s := loseBufs q s
  let s := releaseWaits (fun w => match w.obj with
    | .word a => quadrant a = q
    | _ => false) St.domainOff s
  let s := loseRings (q + 3) { s with tags := s.tags.filter fun t => quadrant (t * 8) ≠ q }
  let s := scrubZero (q * quadrantSize) quadrantSize s
  { s with err := { s.err with scrubPos := s.err.scrubPos.set q 0 } }

/-- Every chunk in the Larder aborts (R480). -/
def abortChunks (s : State) : State :=
  ((s.groups.filter fun g => match g.2.inst with
    | some i => i.chunks ≠ []
    | none => false)).foldl (fun t g => endInstance g.1 St.domainOff true t) s

/-- What goes with a domain's power. -/
def loseContents (d : Nat) (s : State) : State :=
  match pdQuadrant d with
  | some q => loseQuadrant q s
  | none =>
    if d = pdLarder then
      let s := abortChunks s
      { s with larder := [], larderUe := [] }
    else if d = pdStudy then { s with study := { s.study with cache := [] } }
    else (pdPorts d).foldl (fun t p =>
      let t := if (t.port p).state = .disabled then t else portDown p .disabled St.linkDown t
      t.setPort p (noKeys (t.port p))) s

/-- The domain goes down to a state now; what it loses is lost with OFF (R470 step 4, R473). -/
def powerDown (d : Nat) (aim : PdState) (s : State) : State :=
  let x := s.domain d
  let ns := if x.state = .draining then BitVec.ofNat 32 (min (s.now - x.drainStart) (2 ^ 32 - 1)) else x.drainNs
  let s := s.setDomain d { x with state := aim, waking := false, drainNs := ns
                                  move := some { target := aim, started := s.now } }
  if aim = .off then loseContents d s else s

/-! ### The return (R470 step 5, R352, R476) -/

/-- A channel held by domains that are all ON again issues; a paused one goes on (R470). -/
def releaseChannel (d c : Nat) (s : State) : State :=
  let h := s.chan c
  if h.pauseReset then (if pdMover c = d then silentReset c s else s)
  else
    let down := h.heldBy.filter fun e => !pdOn s e
    let h := { h with heldBy := down, pauseDomain := h.pauseDomain.filter (· ≠ d) }
    match h.state with
    | .held => if down = [] then s.setChan c { h with state := .running, touches := [] } else s.setChan c h
    | _ => resumeChan c (s.setChan c h)

/-- The domain serves again: what it held and paused goes on. Links that never went down stay as they are (R479). -/
def comesOn (d : Nat) (s : State) : State :=
  let s := s.setDomain d { s.domain d with state := .on, waking := false, move := none, lastAccess := s.now }
  evalWires ((allChans s).foldl (fun t c =>
    let h := t.chan c
    if h.heldBy.contains d || h.pauseDomain.contains d || (h.pauseReset && pdMover c = d) then releaseChannel d c t else t) s)

/-- A domain has returned to ON from below: its enabled ports train anew (R470, R483, R486). -/
def returnsOn (d : Nat) (s : State) : State :=
  (pdPorts d).foldl (fun t p => if (t.port p).enable then beginTraining p t else t) (comesOn d s)

/-! ### Requests (R461, R470, R473, R477 to R480, R717) -/

/-- Note who changed the state (R484). -/
def noteCause (d : Nat) (cause : BitVec 2) (hard : Bool) (s : State) : State :=
  s.setDomain d { s.domain d with cause := cause, hard := hard }

/-- Streams of this node in flight through a domain: through the ports of a PD_LINKS domain, and every one through the link
switch in PD_LARDER (R466, R469). -/
def domainStreams (s : State) (d : Nat) : List (Nat × Nat) :=
  (if d = pdLarder then List.range 17 else pdPorts d).flatMap fun p => (s.port p).tx.map fun t => (p, t.id)

/-- Bursts in flight to a domain are cut, and what touches it ends with DOMAIN_OFF (R473). -/
def cutAll (d : Nat) (s : State) : State :=
  let s := cutJobs d (cutDomain d s)
  (domainStreams s d).foldl (fun t x => failStream x.1 x.2 St.domainOff t) s

/-- A hard power-down is noted for each Room whose reset runs (R352). -/
def noteThermal (s : State) : State :=
  { s with rooms := tmap s.rooms {} fun _ r => { r with reset := r.reset.map fun x => { x with thermal := true } } }

/-- A hard request (R352, R473). -/
def hardRequest (d : Nat) (aim : PdState) (cause : BitVec 2) (s : State) : State :=
  powerDown d aim (cutAll d (noteThermal (noteCause d cause true s)))

/-- PD_LARDER is in use (R480). -/
def larderBusy (s : State) : Bool :=
  (List.range 4).any (fun i => pdOf s (7 + i) ≠ .off)
    || s.groups.any fun g => match g.2.inst with
      | some i => i.chunks ≠ []
      | none => false

/-- A soft request for a domain that is ON: it enters CLOSING (R470 step 1). -/
def softRequest (d : Nat) (aim : PdState) (cause : BitVec 2) (s : State) : State :=
  let s := noteCause d cause false s
  s.setDomain d { s.domain d with state := .closing, target := aim, requested := s.now }

/-- A request for ON (R479). -/
def wakeDomain (d : Nat) (hard : Bool) (s : State) : State :=
  let s := noteCause d 1 hard s
  s.setDomain d { s.domain d with waking := true, move := some { target := .on, started := s.now } }

/-- TARGET of POWER_DOMAIN. -/
def pdTarget (p : BitVec 512) : PdState := match p8 p 17 with | 0 => .on | 1 => .off | _ => .retain

/-- POWER_DOMAIN (R292, R462, R479, R480, R717). -/
def powerDomain (k : Nat) (p : BitVec 512) (s : State) : State :=
  let d := p8 p 16
  let aim := pdTarget p
  let x := s.domain d
  if d = 0 || 16 < d || 2 < p8 p 17 || (aim = .retain && (pdQuadrant d).isNone) then cmdBad k p Dt.range s
  else if aim = .on && s.nrg.tripped then cmdBad k p Dt.state s
  else match x.move with
    | some m =>
      if m.target = aim then startLong k p s
      else if pkForce p && aim = .off && (m.target = .on || m.target = .retain) then
        hardRequest d .off 1 (startLong k p s)
      else cmdBad k p Dt.busy s
    | none =>
      match x.state with
      | .on =>
        if aim = .on then cmdOk k p 0 0 s
        else if pkForce p then hardRequest d aim 1 (startLong k p s)
        else if d = pdLarder && larderBusy s then cmdBad k p Dt.busy s
        else softRequest d aim 1 (startLong k p s)
      | .off =>
        if aim = .off then cmdOk k p 3 0 s
        else if aim = .on then wakeDomain d (pkForce p) (startLong k p s)
        else
          let s := noteCause d 1 (pkForce p) (startLong k p s)
          s.setDomain d { s.domain d with move := some { target := .retain, started := s.now } }
      | .retain =>
        if aim = .retain then cmdOk k p 4 0 s
        else if aim = .on then wakeDomain d (pkForce p) (startLong k p s)
        else if pkForce p then hardRequest d .off 1 (startLong k p s)
        else powerDown d .off (noteCause d 1 false (startLong k p s))
      | _ =>
        if aim = .on then
          pdReply d (comesOn d (noteCause d 1 (pkForce p) (startLong k p s)))
        else if pkForce p then hardRequest d aim 1 (startLong k p s)
        else cmdBad k p Dt.busy s

/-- POWER_DOMAIN (R292). -/
def execPowerDomain (k : Fin 64) (pkt : BitVec 512) (s : State) : Host.Outcome State Fault Refusal :=
  .next (takeLong 0x0060 k pkt (powerDomain k pkt) s)

/-- DOMAIN_IDLE_REQUEST: the idle policy's soft request (R477, R479). -/
def execDomainIdleRequest (d : Fin 17) (s : State) : Host.Outcome State Fault Refusal :=
  let n : Nat := d
  let x := s.domain n
  let aim : PdState := if (pdQuadrant n).isSome then .retain else .off
  .next (if n ≠ 0 && pdPorts n = [] && x.autoEn && x.state = .on && x.move.isNone && !s.fy.longs.any (pdLong n)
      && x.lastAccess + x.idleUs.toNat * 1000 ≤ s.now && !(n = pdLarder && larderBusy s) then softRequest n aim 2 s
    else s)

/-- An instruction in progress with HOLD_DOMAIN touches the domain (R472). -/
def heldOpen (s : State) (d : Nat) : Bool :=
  s.chans.any fun h => curTouches h.2 d && (match h.2.cur with
    | some q => flHold q.flags
    | none => false)

/-- DOMAIN_DRAIN_START (R470 steps 2 and 3). -/
def execDomainDrainStart (d : Fin 17) (s : State) : Host.Outcome State Fault Refusal :=
  let n : Nat := d
  let x := s.domain n
  if x.state = .closing && (!heldOpen s n || x.requested + 2000000 ≤ s.now) then
    let s := s.setDomain n { x with state := .draining, drainStart := s.now }
    .next ((allChans s).foldl (fun t c =>
      let h := t.chan c
      if curTouches h n && (match h.cur with | some q => q.plan ≠ .nothing | none => false) then
        applyPause c (t.setChan c { h with pauseDomain := ninsert h.pauseDomain n })
      else t) s)
  else .next s

/-- Channels whose issued bursts to the domain have not completed. -/
def stillBusy (s : State) (d : Nat) : List Nat :=
  (allChans s).filter fun c => (s.chan c).state = .pausing && curTouches (s.chan c) d

/-- DOMAIN_POWER_DOWN: every issued burst has completed (R470 step 4). -/
def execDomainPowerDown (d : Fin 17) (s : State) : Host.Outcome State Fault Refusal :=
  let n : Nat := d
  let x := s.domain n
  .next (if x.state = .draining && stillBusy s n = [] && domainStreams s n = [] then powerDown n x.target s else s)

/-- DRAIN_LIMIT_CUT: what has not drained in 50 µs is cut, and a channel whose paused instruction ends so goes on
(R143, R421, R470 step 4, R471). -/
def execDrainLimitCut (d : Fin 17) (s : State) : Host.Outcome State Fault Refusal :=
  let n : Nat := d
  let x := s.domain n
  if x.state = .draining && x.drainStart + 50000 ≤ s.now then
    let cs := stillBusy s n
    let ss := domainStreams s n
    let s := cs.foldl (fun t c => cutChannel St.domainOff c (t.setChan c { t.chan c with state := .paused })) s
    let s := ss.foldl (fun t x => failStream x.1 x.2 St.domainOff t) s
    let s := (allChans s).foldl (fun t c =>
      if (t.chan c).cur.isNone && (t.chan c).pauseDomain.contains n then goesOn c t else t) s
    let s := if cs = [] && ss = [] then s else
      auditRec { status := St.domainOff, severity := 3, unitKind := 10, unit := BitVec.ofNat 16 n } s
    .next (powerDown n x.target s)
  else .next s

/-- DOMAIN_TRANSITION_DONE: the target state is reached; a domain that the idle policy lowered wakes at once for what it
holds (R478, R483, R717). -/
def execDomainTransitionDone (d : Fin 17) (s : State) : Host.Outcome State Fault Refusal :=
  let n : Nat := d
  match (s.domain n).move with
  | none => .next s
  | some m =>
    if m.target = .on then .next (pdReply n (returnsOn n s))
    else
      let s := pdReply n (s.setDomain n { s.domain n with state := m.target, waking := false, move := none })
      .next (if (allChans s).any (fun c => (s.chan c).heldBy.contains n || (s.chan c).pauseDomain.contains n) then
        wakeOnDemand n s else s)

/-! ### Temperature (R458, R461, R462) -/

/-- The trip's hard request for one domain, whatever state it is in: a quadrant that is OFF goes to RETAIN as R717 gives, and
a domain that is down already keeps its state (R461, R473). -/
def tripDomain (d : Nat) (s : State) : State :=
  let aim : PdState := if (pdQuadrant d).isSome then .retain else .off
  let s := cutAll d (noteThermal (noteCause d 3 true s))
  let x := s.domain d
  if x.state = aim && x.move.isNone then s
  else if x.state = .off && aim = .retain && !x.waking then
    s.setDomain d { x with move := some { target := .retain, started := s.now } }
  else powerDown d aim s

/-- The thermal trip (R461, R352). -/
def thermalTrip (s : State) : State :=
  let s := (List.range 16).foldl (fun t i => tripDomain (i + 1) t) { s with nrg := { s.nrg with tripped := true } }
  auditRec { eventRec 0x0210 3 with unitKind := 10, arg0 := s.nrg.tempMc.signExtend 64 } s

/-- NRG_TEMP_SAMPLE: the hottest sensor, every 100 µs from the end of INIT (R458, R461). -/
def execNrgTempSample (mc : BitVec 32) (s : State) : Host.Outcome State Fault Refusal :=
  if s.g.devState = .init || !(s.nrg.lastSample = 0 || s.nrg.lastSample + 100000 ≤ s.now) then .next s else
  let peak : Bool := s.nrg.lastSample = 0 || s.nrg.peakMc.toInt < mc.toInt
  let s := { s with nrg := { s.nrg with
    tempMc := mc, peakMc := if peak then mc else s.nrg.peakMc, lastSample := max 1 s.now } }
  .next (if 110000 ≤ mc.toInt && !s.nrg.tripped then thermalTrip s else s)

/-- 1 is written to TRIPPED (R462). -/
def clearTrip (s : State) : State :=
  if s.nrg.tempMc.toInt < 100000 then { s with nrg := { s.nrg with tripped := false } } else s

/-- TRIPPED_CLEAR: writing 1 to TRIPPED (R462). -/
def execTrippedClear (s : State) : Host.Outcome State Fault Refusal :=
  .next (throughBar 0 clearTrip s)

/-! ### POWER_CAP_SET and CADENCE_CONFIG (R279, R435, R452) -/

def powerCapSet (k : Nat) (p : BitVec 512) (s : State) : State :=
  let c := p32 p 16
  if c < 40000 || 260000 < c || c ≤ s.nrg.baseMw.toNat then cmdBad k p Dt.range s
  else cmdOk k p (s.nrg.capMw.setWidth 64) 0 { s with nrg := { s.nrg with capMw := BitVec.ofNat 32 c } }

/-- POWER_CAP_SET (R452). -/
def execPowerCapSet (k : Fin 64) (pkt : BitVec 512) (s : State) : Host.Outcome State Fault Refusal :=
  .next (takePacket 0x0061 k pkt (powerCapSet k pkt) s)

def cadenceConfig (k : Nat) (p : BitVec 512) (s : State) : State :=
  let n := (p64 p 24).toNat
  if 2 < p8 p 16 || n < 5000000 || 25000000000 < n then cmdBad k p Dt.range s
  else cmdOk k p 0 0 (cadConfig (fld p 128 2) (p.getLsbD 136) (p.getLsbD 137) (fld p 192 40) s)

/-- CADENCE_CONFIG (R435). -/
def execCadenceConfig (k : Fin 64) (pkt : BitVec 512) (s : State) : Host.Outcome State Fault Refusal :=
  .next (takePacket 0x0062 k pkt (cadenceConfig k pkt) s)

end Sys2Proof.Machine
end

