-- ==== Sys2Proof/Machine/Frames.lean ====
section
/-! DEFINITION. Sending and receiving frames: priority and sharing, encryption, acknowledgement, the checks of a received
frame, link errors, violations and quarantine, CTRL frames, NAKs and DATA frames (11 R492 to R519, R533 to R536, 12 R567). -/
namespace Sys2Proof.Machine

/-! ### Sending (R498, R499, R507, R511, R512, R567) -/

/-- IVC 0x8000_0000 without a NEXT key: KEY_LOW, its record, its interrupt, and the request to the Hall (R512, R555). -/
def keyLow (p : Nat) (s : State) : State :=
  let x := s.port p
  let s := auditRec { eventRec 0x0250 3 with unitKind := 7, unit := BitVec.ofNat 16 p } (s.setPort p { x with keyLow := true })
  let s := portIrq p irqKeyLow s
  let next := x.txEpoch + 1
  if s.house.isHall then match (linksOf s 0).find? (·.port = p) with
    | some l => keyLink 0 p l.partner l.partnerPort next s
    | none => s
  else if s.house.hstate = .wing then
    mgmtTo 0 (mgMsg 0x87 0 (mgSrc s) 0 [(8, p), (9, 0), (12, next.toNat)]) s
  else s

/-- What the count of encrypted frames brings (R511, R512). -/
def afterIvc (p : Nat) (s : State) : State :=
  let x := s.port p
  if x.txIvc = 2 ^ 31 && x.txNextKey.isNone then keyLow p s
  else if 2 ^ 32 ≤ x.txIvc then
    match x.txNextKey with
    | some k => s.setPort p { x with txKey := some k, txNextKey := none, txEpoch := k.epoch, txIvc := 0 }
    | none => portIrq p irqKeyStall (s.setPort p { x with keyStall := true })
  else s

/-- Send a frame for the first time (R497, R501, R504, R507). -/
def transmit (p t : Nat) (last : Bool) (stream : Nat) (content : List Byte) (items : List TxItem) (s : State) : State :=
  let x := s.port p
  let sq : Bool := isSequenced t
  let seq := if sq then x.txNext else 0
  let n := content.length
  let raw := match x.txKey with
    | some k => sealedFrame k x.txIvc t last n seq x.rxExpected x.rxLimit stream content
    | none => clearFrame t n seq x.rxExpected x.rxLimit content
  let x := { x with
    ackDue := none
    txIvc := if x.txKey.isSome then x.txIvc + 1 else x.txIvc
    txNext := if sq then x.txNext + 1 else x.txNext
    replay := if sq then x.replay ++ [{ seq := seq, raw := raw, items := items, sentAt := s.now }] else x.replay }
  let s := (s.setPort p x).sendRaw p raw
  if x.txKey.isSome then afterIvc p s else s

/-- Class of a stream's DATA frames: a group's RDX streams, or all other streams together (R567). -/
def streamClass (x : Port) (id : Nat) : Nat :=
  match (x.tx.find? (·.id = id)).bind (·.rdx) with
  | some r => r.group + 1
  | none => 0

/-- The class served next: the one after the last class served that has data (R567). -/
def nextClass (x : Port) : Option Nat :=
  let cs := (x.queue.filterMap fun q => match q with
    | .data id _ _ => some (streamClass x id)
    | _ => none).foldl ninsert []
  match cs.find? (x.lastClass < ·) with
  | some c => some c
  | none => cs.head?

def isCtrl (i : TxItem) : Bool := match i with | .ctrl _ => true | _ => false
def isMgmt (i : TxItem) : Bool := match i with | .mgmt _ => true | _ => false
def isMsg (i : TxItem) : Bool := match i with | .msg _ => true | _ => false
def isData (x : Port) (c : Nat) (i : TxItem) : Bool := match i with | .data id _ _ => streamClass x id = c | _ => false

/-- The messages of the next MSG frame: up to 8 that wait (R514). -/
def takeMsgs : Nat → List TxItem → List TxItem × List TxItem
  | 0, l => ([], l)
  | _, [] => ([], [])
  | n + 1, i :: r => if isMsg i then let t := takeMsgs n r; (i :: t.1, t.2) else let t := takeMsgs (n + 1) r; (t.1, i :: t.2)

def msgBytes (i : TxItem) : List Byte := match i with | .msg m => leB 64 m | _ => []

/-- A sequenced frame may go now: credit and a place in the replay buffer (R499, R506). -/
def mayNumber (x : Port) : Bool := seqDiff x.txNext x.txLimit < 0 && x.replay.length < 224

/-- Send the next queued frame in priority order; IDLE when nothing is ready (R498). -/
def sendQueued (p : Nat) (s : State) : State :=
  let x := s.port p
  let low : Bool := x.txKey.isSome && x.txNextKey.isNone && 0xFFFF_0000 ≤ x.txIvc
  let num : Bool := !low && mayNumber x
  let drop (i : TxItem) : State := s.setPort p { x with queue := x.queue.erase i }
  let idle : State := s.sendRaw p (clearFrame 0 0 0 0 0 [])
  match x.queue.find? isCtrl with
  | some (.ctrl b) => transmit p 1 false 0 b [] (drop (.ctrl b))
  | _ =>
    if !num then idle else
    match x.queue.find? isMgmt with
    | some (.mgmt b) => transmit p 4 false 0 b [.mgmt b] (drop (.mgmt b))
    | _ =>
      if x.state ≠ .secure || s.house.hstate = .stopped then idle
      else if x.queue.any isMsg then
        let (ms, rest) := takeMsgs 8 x.queue
        transmit p 3 false 0 (ms.flatMap msgBytes) ms (s.setPort p { x with queue := rest })
      else match nextClass x with
        | none => idle
        | some c => match x.queue.find? (isData x c) with
          | some (.data id b l) =>
            transmit p 2 l id b [.data id b l] (s.setPort p { x with queue := x.queue.erase (.data id b l), lastClass := c })
          | _ => idle

/-- Resend the next frame of the running attempt (R504, R641). -/
def resendOne (p : Nat) (f : SentFrame) (rest : List SentFrame) (s : State) : State :=
  let x := s.port p
  let fault := Config.parityFault s.free
  let s := { s with free := s.free + 1 }
  if fault then exhaust p { s with err := { s.err with parity := satInc s.err.parity } }
  else (s.setPort p { x with
    resend := rest, retx := satInc x.retx
    replay := x.replay.map fun g => if g.seq = f.seq then { g with sentAt := s.now } else g }).sendRaw p f.raw

/-- PORT_SEND_FRAME (R486, R498, R512). -/
def execPortSendFrame (p : Fin 16) (s : State) : Host.Outcome State Fault Refusal :=
  let x := s.port p
  if x.state = .training && x.locked then
    .next (s.sendRaw p (clearFrame 1 64 0 0 0 (leB 64 (helloRec s p))))
  else if !portUp x then .next s
  else if x.txKey.isSome && 2 ^ 32 ≤ x.txIvc then .next (s.sendRaw p (clearFrame 0 0 0 0 0 []))
  else match x.resend with
    | f :: rest =>
      if x.txKey.isSome && x.txNextKey.isNone && 0xFFFF_0000 ≤ x.txIvc then .next (sendQueued p s)
      else .next (resendOne p f rest s)
    | [] => .next (sendQueued p s)

/-- ACK_TIMER: a frame was accepted 64 ns ago and neither value has been sent (R501). -/
def execAckTimer (p : Fin 16) (s : State) : Host.Outcome State Fault Refusal :=
  let x := s.port p
  match x.ackDue with
  | some t =>
    .next (if portUp x && t + 64 ≤ s.now && !(x.txKey.isSome && 2 ^ 32 ≤ x.txIvc) then transmit p 1 false 0 [] [] s else s)
  | none => .next s

/-! ### Link errors, violations, quarantine (R502, R533 to R536) -/

def sendNak (p reason : Nat) (seq : BitVec 16) (s : State) : State := enqueue p (.ctrl (nakBytes reason seq)) s

/-- A link error: the NAK goes at most once for an expected SEQ in a µs (R502). -/
def linkError (p reason : Nat) (s : State) : State :=
  let x := s.port p
  let x := if reason = Nak.crcFail then { x with crcFail := satInc x.crcFail } else x
  let s := s.setPort p x
  if !portUp x || x.nakFor = some (x.rxExpected, s.now / 1000) then s
  else sendNak p reason x.rxExpected (s.setPort p { x with nakFor := some (x.rxExpected, s.now / 1000) })

/-- The violation count of a new ms starts at 0 (R534). -/
def rollViol (ms : Nat) (x : Port) : Port :=
  if x.violMsNo = ms then x else { x with violMsNo := ms, violMs := 0, violReasons := [] }

/-- VIOLATION_WINDOW: a new ms of house time (R534). -/
def execViolationWindow (s : State) : Host.Outcome State Fault Refusal :=
  .next { s with ports := tmap s.ports {} fun _ x => rollViol (s.now / 1000000) x }

/-- The port enters QUARANTINED: streams fail with PEER_VIOLATION, and other traffic as on a port that is down (R536). -/
def quarantine (p : Nat) (s : State) : State :=
  let x := s.port p
  let moved (i : TxItem) : Bool := !(isCtrl i || isMgmt i)
  let reads := s.chans.flatMap fun h => h.2.flights.filterMap fun f => match f.kind with
    | .read q id => if q = p then some id else none
    | _ => none
  let s := s.setPort p { x with state := .quarantined, queue := x.queue.filter fun i => !moved i, tx := [] }
  let s := x.tx.foldl (failTx p St.peerViolation) s
  let s := reads.foldl (fun t id => failReq id St.peerViolation t) s
  let s := (x.queue.filter moved).foldl (failItem p St.linkDown) s
  let out := s.house.fwd.filter (·.outPort = p)
  let s := { s with house := { s.house with fwd := s.house.fwd.filter fun f => f.outPort ≠ p && f.inPort ≠ p } }
  let s := out.foldl (failFwd St.linkDown) s
  portIrq p irqQuarantine (portRec p St.peerViolation 0 s)

/-- A violation: counted, recorded once for each reason in a ms, and answered with a NAK (R534, R536). -/
def violation (p reason : Nat) (seq : BitVec 16) (s : State) : State :=
  let x := rollViol (s.now / 1000000) (s.port p)
  let first : Bool := !x.violReasons.contains reason
  let n := satInc x.violMs
  let x := { x with
    violTotal := satInc x.violTotal, violReason := BitVec.ofNat 8 reason, violSeq := seq, violMs := n
    violPeak := if x.violPeak < n then n else x.violPeak
    violReasons := if first then x.violReasons ++ [reason] else x.violReasons }
  let s := s.setPort p x
  let s := if first then portRec p St.peerViolation (BitVec.ofNat 16 reason) s else s
  let s := if portUp x then sendNak p reason seq s else s
  if x.violLimit < n && (x.state = .clear || x.state = .secure) then quarantine p s else s

/-! ### The checks of a received frame (R497, R500, R508, R533) -/

/-- Reserved bits, and the fields that a frame's type does not use (R494, R495). -/
def headerOk (r : BitVec 4352) : Bool :=
  let t := fType r
  let v := fValid r
  t ≤ 4 && !r.getLsbD 7 && fld r 8 8 = 0 && fld r 26 6 = 0 && fld r 124 4 = 0
    && (t = 2 || (!fLast r && fStream r = 0)) && (isSequenced t || fSeq r = 0)
    && (!fClear r || (!fEpoch r && fIvc r = 0 && fTag r = 0))
    && match t with
      | 0 => v = 0 && fClear r && fAck r = 0 && fCredit r = 0
      | 1 => v ≤ 512 && v % 16 = 0
      | 3 => 64 ≤ v && v ≤ 512 && v % 64 = 0
      | _ => 1 ≤ v && v ≤ 512

/-- The receive key that a frame names, and whether it is the NEXT one (R508, R509). -/
def keyOf (x : Port) (lsb : Bool) : Option (KeySlot × Bool) :=
  match x.rxKey, x.rxNextKey with
  | some k, n =>
    if k.epoch.getLsbD 0 = lsb then some (k, false)
    else match n with
      | some k' => if k'.epoch.getLsbD 0 = lsb then some (k', true) else none
      | none => none
  | none, _ => none

/-- The payload of a frame: in clear, or opened under the key it names, with the frame's bytes 0 to 15 as AAD (R507, R508). -/
def framePayload (x : Port) (r : BitVec 4352) : Option (BitVec 4096) :=
  if fClear r then some (fPayload r)
  else match keyOf x (fEpoch r) with
    | none => none
    | some (k, _) => (gcmOpen k.key (frameIv k (fIvc r).toNat) (leB 16 (fld r 0 128 : BitVec 128))
        (leB 524 (fld r 128 4192 : BitVec 4192))).map fun bs => BitVec.ofNat 4096 (leNat bs)

/-- What a received frame comes to. -/
inductive Verdict where
  /-- The port takes no frames now, or discards this one silently. -/
  | drop
  | linkError (reason : Nat)
  | duplicate
  | violation (reason : Nat)
  /-- DATA or MSG during quarantine. -/
  | quarantined
  | ok (content : List Byte)
  deriving DecidableEq, Repr

/-- Content bytes that precede VALID, where the rest of the payload is 0 (R493). -/
def contentOf (valid : Nat) (payload : BitVec 4096) : Option (List Byte) :=
  if payload.toNat < 2 ^ (8 * valid) then some (leBytes valid payload.toNat) else none

/-- ACK and CREDIT are within R533: CREDIT never moves backward among the sequenced frames, nor in an unsequenced one. -/
def ackOk (x : Port) (r : BitVec 4352) : Bool :=
  let base := if isSequenced (fType r) then x.seqCredit else x.txLimit
  fType r = 0 || (seqDiff (fAck r) x.txNext ≤ 0 && 0 ≤ seqDiff (fCredit r) base && seqDiff (fCredit r) (fAck r) ≤ 224)

/-- Tag, payload, ACK and content of a frame whose place in the sequence is right. -/
def judgeBody (x : Port) (f : FrameIn) (extra : List Byte → Option Nat) : Verdict :=
  let t := fType f.raw
  if x.state = .quarantined && (t = 2 || t = 3) then .quarantined
  else if x.state ≠ .secure && (t = 2 || t = 3) then .violation Nak.unexpected
  else if fClear f.raw && (t = 2 || t = 3 || (x.rxSecured && t ≠ 0)) then .violation Nak.unexpected
  else
    match framePayload x f.raw with
    | none => .violation Nak.authFail
    | some b => match contentOf (fValid f.raw) b with
      | none => .violation Nak.malformedFrame
      | some c =>
        if !ackOk x f.raw then .violation Nak.badAck
        else match extra c with
          | some reason => .violation reason
          | none => .ok c

/-- The checks of a frame after FEC, in their order: CRC, header, SEQ, then the rest (R497, R499, R502, R503). -/
def judgeDecoded (x : Port) (f : FrameIn) (extra : List Byte → Option Nat) : Verdict :=
  let t := fType f.raw
  if x.state = .training then
    if !crcOk f.raw then .linkError Nak.crcFail
    else if headerOk f.raw && t ≤ 1 && fClear f.raw then .ok [] else .violation Nak.unexpected
  else if !crcOk f.raw then .linkError Nak.crcFail
  else if !headerOk f.raw then .violation Nak.malformedFrame
  else if !isSequenced t then judgeBody x f extra
  else
    let d := seqDiff (fSeq f.raw) x.rxExpected
    if d < -224 then .violation Nak.badSeq
    else if d < 0 then .duplicate
    else if 0 ≤ seqDiff (fSeq f.raw) x.rxLimit then .violation Nak.creditOverrun
    else if 0 < d then (if x.nakFor.isNone then .linkError Nak.seqGap else .drop)
    else judgeBody x f extra

/-- The port takes frames: it is up, or in training with its lanes deskewed (R485, R486). -/
def takesFrames (x : Port) : Bool := if x.state = .training then x.locked else portUp x

/-- The verdict on a received frame: one with a byte in a failed codeword is a link error, and an operand that is no frame
of the stream is nothing (R491, R492, R497). -/
def judge (s : State) (p : Nat) (f : FrameIn) (extra : List Byte → Option Nat) : Verdict :=
  let x := s.port p
  if !takesFrames x then .drop
  else match fecSee x f with
    | none => .drop
    | some r => if r.bad then .linkError Nak.fecFail else judgeDecoded x f extra

/-! ### Acknowledgements and acceptance (R499 to R501, R505, R511) -/

/-- A wait whose timeout a replay held goes on once no port on its path replays (R584). -/
def releaseHeld (s : State) : State :=
  { s with waiters := s.waiters.map fun w => if w.held && !pathReplays s w then { w with held := false } else w }

/-- ACK covers frames: they leave the replay buffer, an episode for one of them ends, and key deliveries are accepted. -/
def applyAck (p : Nat) (ack : BitVec 16) (s : State) : State :=
  let x := s.port p
  let old (f : SentFrame) : Bool := seqDiff f.seq ack < 0
  let done := x.replay.filter old
  if done = [] then s else
  let s := releaseHeld (s.setPort p { x with
    txAcked := ack, episode := none, replay := x.replay.filter fun f => !old f, resend := x.resend.filter fun f => !old f
    acked := (done.reverse ++ x.acked).take 224 })
  (done.flatMap (·.items)).foldl (fun t i => match i with
    | .mgmt b => keyAccepted p b t
    | _ => t) s

/-- What every frame that passes its checks brings: ACK, CREDIT, and the receive key in use. -/
def noteFrame (p : Nat) (f : FrameIn) (s : State) : State :=
  let x := s.port p
  if x.state = .training || fType f.raw = 0 then s else
  let c := fCredit f.raw
  let x := { x with
    txLimit := if 0 ≤ seqDiff c x.txLimit then c else x.txLimit
    seqCredit := if isSequenced (fType f.raw) then c else x.seqCredit
    rxSecured := x.rxSecured || !fClear f.raw
    rxIvc := if fClear f.raw then x.rxIvc else fIvc f.raw }
  applyAck p (fAck f.raw) (s.setPort p x)

/-- An unsequenced frame passes: its bits leave the stream (R491, R501). -/
def passFrame (p : Nat) (f : FrameIn) (s : State) : State := takeFrame p f (noteFrame p f s)

/-- The expected SEQ and CREDIT advance (R500); the first frame accepted under NEXT makes it the current key (R511). No
frame is given for one that is discarded. -/
def acceptSeq (p : Nat) (f : Option FrameIn) (s : State) : State :=
  let s := match f with
    | some f => takeFrame p f s
    | none => s
  let x := s.port p
  let x := { x with rxExpected := x.rxExpected + 1, rxLimit := x.rxLimit + 1, nakFor := none, msgAt := 0
                    ackDue := if x.ackDue.isNone then some s.now else x.ackDue }
  let key := match f with
    | some f => if fClear f.raw then none else keyOf x (fEpoch f.raw)
    | none => none
  s.setPort p (match key with
    | some (k, true) => { x with rxKey := some k, rxNextKey := none, rxEpoch := k.epoch }
    | _ => x)

/-- What the other verdicts do; a violating frame counts as received (R534, R536). -/
def reject (p : Nat) (f : FrameIn) (v : Verdict) (s : State) : State :=
  let seq := if isSequenced (fType f.raw) then fSeq f.raw else 0
  let next (s : State) : State :=
    if isSequenced (fType f.raw) && (s.port p).state ≠ .training && fSeq f.raw = (s.port p).rxExpected
    then acceptSeq p none s else s
  let s := if takesFrames (s.port p) then takeFrame p f s else s
  match v with
  | .linkError r => linkError p r s
  | .duplicate => enqueue p (.ctrl []) s
  | .violation r => violation p r seq (next s)
  | .quarantined => sendNak p Nak.quarantined seq (next s)
  | _ => s

/-- A row takes frames of its type, and those whose TYPE no row has. -/
def forRow (f : FrameIn) (t : Nat) : Bool := fType f.raw = t || fType f.raw = 0 || 4 < fType f.raw

/-- CTRL_FRAME: ACK and CREDIT are applied; its records are commands of their own (R501). -/
def execCtrlFrame (p : Fin 16) (f : FrameIn) (s : State) : Host.Outcome State Fault Refusal :=
  if !forRow f 1 then .next s else
  match judge s p f (fun _ => none) with
  | .ok _ => .next (passFrame p f s)
  | v => .next (reject p f v s)

/-! ### NAK records (R504, R535) -/

/-- NAK: a replay attempt for a link error, PEER_VIOLATION for the owner of a violating frame (R504, R535). -/
def execNak (p : Fin 16) (rec : BitVec 128) (s : State) : Host.Outcome State Fault Refusal :=
  let x := s.port p
  let reason := (fld rec 8 8).toNat
  let seq : BitVec 16 := fld rec 16 16
  if !portUp x then .next s
  else if fld rec 0 8 ≠ 1 || fld rec 32 96 ≠ 0 || !([1, 2, 3, 4, 0x10, 0x11, 0x12, 0x13, 0x14, 0x15, 0x16, 0x20].contains reason)
  then .next (violation p Nak.malformedMsg 0 s)
  else if reason ≤ 4 then
    .next (if x.replay.any (·.seq = seq) then startAttempt p s else s)
  else if reason = Nak.quarantined then .next s
  else
    let s := s.setPort p { x with naksRx := satInc x.naksRx }
    .next (match (x.replay ++ x.acked).find? (·.seq = seq) with
      | some f => f.items.foldl (failItem p St.peerViolation) s
      | none => s)

/-! ### DATA frames (R517 to R519) -/

/-- Send a message back on the port a stream came through. -/
def backMsg (p : Nat) (m : Msg) (s : State) : State :=
  enqueue p (.msg ({ m with src := BitVec.ofNat 16 (ownNode s) }).pack) s

/-- Store bytes of a stream from its byte n on; a quadrant of its range may have gone since the OPEN (R475). -/
def putStream (p n : Nat) (x : RxStream) (bytes : List Byte) (s : State) : State × Byte :=
  let k := x.room.toNat
  let gone (o : Nat) : Bool := match translate s k false o with
    | some a => pdOf s (pdPantry a) = .off || pdOf s (pdPantry a) = .retain
    | none => false
  if gone (x.offset + n) || gone (x.offset + x.stored - 1) then (s, St.domainOff)
  else
    let s := pdTouch pdLarder s
    if x.wire = 0 then putRun k 0 (streamRun x.ext x.offset x.stored n (bytes.take (x.stored - n))) s
    else storeCounted (some p) k x.offset x.stored x.wire x.store x.esize x.ext bytes s

/-- The read that a stream returns has all its data: its bytes go to the instruction, which runs on (R520). A read that
nothing waits for any more leaves its data to be discarded (R159). -/
def endRead (req : Nat) (bytes : List Byte) (s : State) : State :=
  match s.peerReads.find? (·.req = req) with
  | none => s
  | some r =>
    let s := { s with peerReads := s.peerReads.filter (·.req ≠ req) }
    let s := match (s.chan r.chan).flights.find? (reqFlight req) with
      | some f => arrive1 r.chan f.kind s
      | none => s
    readArrived r.chan r.off bytes s

/-- The last byte of a stream has come: DONE, and a READ of this node ends (R519, R520). -/
def streamEnd (p : Nat) (x : RxStream) (s : State) : State :=
  let ok : Bool := x.status = St.ok
  let done : Msg := { mtype := 0x02, stream := BitVec.ofNat 16 x.id, dst := x.src.setWidth 16, status := x.status,
                      room := x.room.setWidth 8, arg0 := BitVec.ofNat 64 (if ok then x.stored else 0) }
  let s := backMsg p done s
  if x.req = 0 then s else if ok then endRead x.req x.got s else failReq x.req x.status s

/-- The last byte of a contribution has come: it is committed, asked for again, or ends the instance (R575, R579). One that
this node refuses is answered with the status (R346, R475). -/
def contributionEnd (p : Nat) (x : RxStream) (g chunk : Nat) (s : State) : State :=
  let back (t status : Byte) (s : State) : State :=
    backMsg p { mtype := t, stream := BitVec.ofNat 16 x.id, dst := x.src.setWidth 16, room := x.room.setWidth 8
                status := status } s
  if x.status ≠ St.ok then back 0x43 x.status s else
  match instOf s g with
  | none => s
  | some i => match commit g chunk (widen i.format x.got) (pdTouch pdLarder s) with
    | (s, some true) => back 0x43 St.ok s
    | (s, some false) => back 0x44 St.ok s
    | (s, none) => s

def setRx (p : Nat) (x : RxStream) (s : State) : State :=
  s.setPort p { s.port p with rx := (s.port p).rx.map fun y => if y.id = x.id then x else y }

/-- Bytes of a stream that ends here: plain bytes are stored as they come, units when the stream is whole (R516, R525). The
bytes that answer a READ are kept for the instruction, and stored by no stream (R159, R520). -/
def streamBytes (p : Nat) (x : RxStream) (bytes : List Byte) (last : Bool) (s : State) : State :=
  let y := { x with got := x.got ++ bytes }
  let step : State × Byte :=
    if x.refused || x.rdx.isSome || x.req ≠ 0 || x.status ≠ St.ok then (s, St.ok)
    else if x.wire = 0 then putStream p x.got.length x bytes s
    else if last then putStream p 0 x y.got s
    else (s, St.ok)
  let y := if step.2 = St.ok then y else { y with status := step.2 }
  if !last then setRx p y step.1
  else
    let s := step.1.setPort p { step.1.port p with rx := (step.1.port p).rx.filter (·.id ≠ x.id) }
    if x.refused then s
    else match x.rdx with
      | some (g, c) => contributionEnd p y g c s
      | none => streamEnd p y s

/-- A forwarded stream's bytes go out of the next port as they came (R557). -/
def fwdBytes (f : Fwd) (bytes : List Byte) (last : Bool) (s : State) : State :=
  let s := enqueue f.outPort (.data f.outStream bytes last) s
  if !last then s else
  let g := { f with live := false }
  let s := { s with house := { s.house with fwd := if f.answered then s.house.fwd.erase f
                                                   else s.house.fwd.map fun x => if x = f then g else x } }
  if f.answered then dropTx f.outPort f.outStream s else s

def fwdOf (s : State) (p id : Nat) : Option Fwd := s.house.fwd.find? fun f => f.inPort = p && f.inStream = id && f.live

/-- A stream of this number is open on the port. -/
def streamOpen (s : State) (p id : Nat) : Bool := (s.port p).rx.any (·.id = id) || (fwdOf s p id).isSome

/-- The bytes of a DATA frame go to their stream. -/
def dataHere (p : Nat) (f : FrameIn) (b : List Byte) (s : State) : State :=
  let id := fStream f.raw
  match fwdOf s p id, (s.port p).rx.find? (·.id = id) with
  | some w, _ => fwdBytes w b (fLast f.raw) s
  | none, some x => streamBytes p x b (fLast f.raw) s
  | none, none => s

/-- DATA_FRAME (R517 to R519). -/
def execDataFrame (p : Fin 16) (f : FrameIn) (s : State) : Host.Outcome State Fault Refusal :=
  if !forRow f 2 then .next s else
  match judge s p f (fun _ => if fType f.raw = 0 || streamOpen s p (fStream f.raw) then none else some Nak.unexpected) with
  | .ok b =>
    if fType f.raw ≠ 2 then .next (passFrame p f s)
    else .next (acceptSeq p (some f) (dataHere p f b (noteFrame p f s)))
  | v => .next (reject p f v s)

end Sys2Proof.Machine
end

