-- ==== Sys2Proof/Machine/Arbitration.lean ====
section
/-! DEFINITION. The arbiters of the Pantry bank groups and the Cellar ports: the input map, decisions, the emergency input,
the hold watchdog and starvation (09 R409 to R426, R430). Arbiters 0 to 63 are the bank groups, 64 to 67 the ports. -/
namespace Sys2Proof.Machine

/-! ### Instances, codes and ranking (R409 to R412) -/

/-- Arbiters of an instance. -/
def instArbs (i : Nat) : List Nat := if i = 0 then List.range 64 else [i + 63]

/-- Bank group that events name: 0 for a Cellar instance (R430). -/
def arbGroup (a : Nat) : Nat := if a < 64 then a else 0

/-- Requester code on input n of a map. -/
def mapCode (m : Word) (n : Nat) : Nat := (fld m (4 * n) 4).toNat

/-- A map is stored only as a permutation with code 15 on input 15 (R416). -/
def mapOk (m : Word) : Bool :=
  mapCode m 15 = 15 && (List.range 16).all fun c => (List.range 16).any fun n => mapCode m n = c

/-- Codes that can request: a Cellar port has no requester of codes 0 to 9 (R411). -/
def canRequest (a : Nat) : BitVec 16 := if a < 64 then 0xFFFF else 0xFC00

/-- The requester on the highest requesting input (R412). -/
def bestRequest (m : Word) (req : BitVec 16) : Option Nat :=
  ((List.range 16).reverse.map (mapCode m)).find? fun c => req.getLsbD c

/-! ### Waits (R423, R424) -/

/-- Requester c has waited since the last decision: it requests, and neither holds the grant nor lost it to input 15. -/
def hasWaited (x : Arbiter) (c : Nat) : Bool := x.requests.getLsbD c && x.owner ≠ some c && x.preempted ≠ some c

/-- Add the cycles since the last decision to every requester that waited. -/
def addWaits (x : Arbiter) (cycles : Nat) : Arbiter :=
  { x with waits := (List.range 16).foldl (fun t c =>
      if hasWaited x c then tset t 0 c (tget t 0 c + cycles) else t) x.waits }

/-- Add the counted cycles since the last decision to the owner's hold; input 15 is not watched (R420). -/
def addHold (x : Arbiter) (counted : Nat) : Arbiter :=
  match x.owner with
  | some c => if c = 15 then x else { x with hold := x.hold + counted }
  | none => x

/-- A grant: the wait count of its requester is 0 again. -/
def grantTo (x : Arbiter) (o : Option Nat) : Arbiter :=
  match o with
  | some c => { x with owner := some c, waits := tdel x.waits c, flagged := x.flagged.filter (· ≠ c), hold := 0 }
  | none => { x with owner := none, hold := 0 }

/-- The longest wait count that an interval has reached: those of the requesters that waited. -/
def longestWait (x : Arbiter) : Nat := (x.waits.filter fun w => hasWaited x w.1).foldl (fun n w => max n w.2) 0

/-- MAX_WAIT keeps the longest wait count reached, saturating (R424). -/
def noteWait (i : Nat) (x : Arbiter) (s : State) : State :=
  let r := s.arb i
  let n := min (longestWait x) (2 ^ 32 - 1)
  if r.maxWait.toNat < n then s.setArb i { r with maxWait := BitVec.ofNat 32 n } else s

/-! ### Starvation (R423 to R425) -/

/-- A requester starves: STARVED, the latest event, the record, and the interrupt where the bit was 0. -/
def starve (a c : Nat) (s : State) : State :=
  let i := arbInst a
  let r := s.arb i
  let x := s.arbiter a
  let was := r.starved.getLsbD c
  let s := (s.setArbiter a { x with flagged := ninsert x.flagged c }).setArb i { r with
    starved := r.starved ||| (1#16 <<< c), starvedGroup := BitVec.ofNat 6 (arbGroup a), starvedCode := BitVec.ofNat 4 c }
  let s := auditRec { eventRec 0x0240 3 with
    unitKind := 11, unit := BitVec.ofNat 16 i, arg0 := BitVec.ofNat 64 c, arg1 := BitVec.ofNat 64 (arbGroup a) } s
  if !was && r.starveIrqEn then pfCause (4 + i) r.vector s else s

/-- A requester's wait count is beyond LIMIT, and this wait has not been reported (R423). -/
def isStarving (s : State) (a c : Nat) : Bool :=
  let lim := (s.arb (arbInst a)).starveLimit.toNat
  lim ≠ 0 && lim < tget (s.arbiter a).waits 0 c && !(s.arbiter a).flagged.contains c

/-- Every requester that starves is reported, before a grant ends its wait (R423). -/
def reportStarved (a : Nat) (s : State) : State :=
  (List.range 16).foldl (fun t c => if isStarving t a c then starve a c t else t) s

/-- ARB_STARVATION: the wait count of a requester is beyond LIMIT (R423). -/
def execArbStarvation (a : Fin 68) (code : Fin 16) (s : State) : Host.Outcome State Fault Refusal :=
  .next (if isStarving s a code then starve a code s else s)

/-- Clear STARVED bits that are 1: the waits of those requesters that still wait start again at every arbiter of the
instance (R424). -/
def clearStarved (i : Nat) (bits : BitVec 16) (s : State) : State :=
  let bits := bits &&& (s.arb i).starved
  let s := s.setArb i { s.arb i with starved := (s.arb i).starved &&& ~~~bits }
  (instArbs i).foldl (fun t a =>
    let x := t.arbiter a
    let again (c : Nat) : Bool := bits.getLsbD c && x.requests.getLsbD c && x.owner ≠ some c
    t.setArbiter a { x with waits := x.waits.filter (fun w => !again w.1), flagged := x.flagged.filter fun c => !again c }) s

/-- ARB_STARVED_CLEAR (R424). -/
def execArbStarvedClear (i : Fin 5) (bits : BitVec 16) (s : State) : Host.Outcome State Fault Refusal :=
  .next (throughBar 0 (clearStarved i bits) s)

/-! ### Decisions (R412 to R415, R418, R419) -/

/-- Requests that the Movers' next bursts make at an arbiter (R413). -/
def moverRequests (s : State) (a : Nat) : BitVec 16 :=
  (List.range 2).foldl (fun r m => match nextReady s m (s.rotor.getD m 0) with
    | some c => (wants s c).foldl (fun r x => if x.1 = a then r ||| (1#16 <<< x.2) else r) r
    | none => r) 0

/-- One decision: input 15 preempts for one burst, an owner that still requests keeps its grant, and otherwise the highest
requesting input is granted (R412, R413, R419). -/
def decideArb (a : Nat) (requests : BitVec 16) (s : State) : State :=
  let i := arbInst a
  let x := { s.arbiter a with requests := requests, preempted := none }
  let keeps : Bool := match x.owner with
    | some c => c ≠ 15 && requests.getLsbD c
    | none => false
  if requests.getLsbD 15 && x.owner ≠ some 15 then
    let s := s.setArbiter a (grantTo x (some 15))
    if keeps then countPreempt i s else s
  else if keeps then s.setArbiter a x
  else s.setArbiter a (grantTo x (bestRequest (s.arb i).map (requests &&& 0x7FFF)))

/-- Cycles of an interval that count towards a hold: at a Cellar port, without refresh and turnaround (R420). -/
def countedCycles (a cycles : Nat) (s : State) : State × Nat :=
  if a < 64 then (s, cycles) else ({ s with free := s.free + 1 }, cycles - Config.uncountedCycles s.free)

/-- ARB_DECISION: the requests present, and the cycles since the last decision (R412). What the Movers' bursts request is
always present (log entry 79). -/
def execArbDecision (a : Fin 68) (requests : BitVec 16) (cycles : BitVec 32) (s : State) :
    Host.Outcome State Fault Refusal :=
  let req := (requests ||| moverRequests s a) &&& canRequest a
  let (s, n) := countedCycles a cycles.toNat s
  let x := addWaits (s.arbiter a) cycles.toNat
  .next (decideArb a req (reportStarved a (noteWait (arbInst a) x (s.setArbiter a (addHold x n)))))

/-! ### The input map (R416 to R418) -/

/-- One half of a register, or all of it, is replaced (R5, R7). -/
def mergeHalf (old v : Word) : RegHalf → Word
  | .full => v
  | .low => (fld old 32 32 : Half) ++ (fld v 0 32 : Half)
  | .high => (fld v 0 32 : Half) ++ (fld old 0 32 : Half)

/-- A write of ARB_MAP: what it would make is stored where it is a permutation with code 15 in place (R416). -/
def writeMap (i : Nat) (half : RegHalf) (v : Word) (s : State) : State :=
  let r := s.arb i
  let m := mergeHalf r.map v half
  if mapOk m then s.setArb i { r with map := m }
  else auditRec { status := St.malformed, severity := 1, unitKind := 11, unit := BitVec.ofNat 16 i, arg1 := m } s

/-- ARB_MAP_WRITE (R416). -/
def execArbMapWrite (i : Fin 5) (half : RegHalf) (v : BitVec 64) (s : State) : Host.Outcome State Fault Refusal :=
  .next (throughBar 0 (writeMap i half v) s)

/-! ### The hold watchdog (R420 to R422) -/

/-- What a requester code stands for (R410, R411). -/
inductive Requester where
  | scrub | store | mover (m : Nat) | ingress (g : Nat) | egress (g : Nat) | host | study | none
  deriving DecidableEq, Repr

def requesterOf (a code : Nat) : Requester :=
  if code = 15 then .scrub
  else if a < 64 then
    if code = 14 then .store
    else if 10 ≤ code then .mover (code % 2)
    else if 6 ≤ code then .ingress (9 - code)
    else if 2 ≤ code then .egress (5 - code)
    else if code = 1 then .host else .study
  else if 11 ≤ code then .mover ((code + 1) % 2)
  else if code = 10 then .study else .none

/-- The Room whose burst an owner's access is: a unit is a channel, a port, a Study job, or for the Host requester the ring
accesses of Room `unit - 1` (R422). -/
def isResetting (s : State) (k : Nat) : Bool := (s.room k).reset.isSome

def ownerResets (s : State) (a code unit : Nat) : Bool :=
  match requesterOf a code with
  | .mover _ => isResetting s (s.chan unit).room.toNat
  | .store => isResetting s (s.chan unit).room.toNat
  | .ingress _ => (s.port unit).rx.any fun x => isResetting s x.room.toNat
  | .egress _ => (s.port unit).tx.any fun x => isResetting s x.room.toNat
  | .host => 0 < unit && isResetting s (unit - 1)
  | .study => match s.study.jobs.find? (·.1 = unit) with
    | some j => isResetting s j.2.room
    | none => false
  | _ => false

/-- Runs of at most one 64-byte line each. -/
def lineRuns (run : BitRun) : List BitRun :=
  if run.2 = [] then [] else
  (List.range ((run.1 + run.2.length - 1) / 64 - run.1 / 64 + 1)).map fun i =>
    let lo := max run.1 ((run.1 / 64 + i) * 64)
    (lo, (run.2.drop (lo - run.1)).take ((run.1 / 64 + i + 1) * 64 - lo))

/-- The lines of a write burst that had moved: those of arbiters that had served it, and the first n at arbiter a (R421). -/
def movedLines (s : State) (k : Nat) (base : Word) (served : List Nat) (a : Nat) : Nat → List BitRun → List BitRun
  | _, [] => []
  | n, r :: rs => match (pathArbs s k (atOff base r.1) 1).head? with
    | some b =>
      if served.contains b then r :: movedLines s k base served a n rs
      else if b = a && 0 < n then r :: movedLines s k base served a (n - 1) rs
      else movedLines s k base served a n rs
    | none => movedLines s k base served a n rs

/-- Beats that had moved before a cut stand; how many there were at the arbiter of the cut is open (R143, R421). Of a
compressed block none has (log entry 79). -/
def keepBeats (a c : Nat) (s : State) : State :=
  let k := (s.chan c).room.toNat
  let n := Config.beatsBeforeCut s.free
  match (s.chan c).cur with
  | some q => match q.stage, q.toWrite with
    | .writing, w :: _ =>
      if q.unit.1 ≠ [] then s
      else (movedLines s k (writeEnd q) q.served a n (lineRuns w)).foldl
        (fun t r => (runPut c k (writeEnd q) r 0 0 t).1) { s with free := s.free + 1 }
    | _, _ => s
  | none => s

/-- A channel's burst is cut: its instruction is marked bad with PARTIAL and the channel goes on; that of a resetting Room
has ended (R421, R422). -/
def cutBurst (a c : Nat) (s : State) : State :=
  let s := keepBeats a c s
  let h := s.chan c
  if isResetting s h.room.toNat then goOnReset h.room.toNat (s.setChan c { h with cur := none, state := .paused })
  else cutChannel St.partialDone c s

/-- A burst that an egress or ingress group carries starts again at its next grant (R421). -/
def restartBursts (a code : Nat) (s : State) : State :=
  (List.range 128).foldl (fun t c =>
    if (wants t c).contains (a, code) then setCur c (fun q => { q with served := [] }) t else t) s

/-- The outcome of a cut for the owner's access (R421). For the Host requester, unit 0 is the BAR2 write under way, and any
other a ring access, which is made again. The loopback port has no frames: what it carries starts again (log entry 79). -/
def cutOutcome (a code unit : Nat) (s : State) : State :=
  match requesterOf a code with
  | .mover m =>
    if unit / 64 = m && (s.chan unit).cur.isSome then
      cutBurst a unit (s.setChan unit { s.chan unit with holdCut := true })
    else s
  | .store => match (s.chan unit).cur with
    | some q => match q.plan with
      | .reduceStore .. => cutBurst a unit s
      | _ => s
    | none => s
  | .ingress g =>
    if unit < 16 && unit / 4 = g then linkError unit Nak.ingressCut (restartBursts a code s)
    else if unit = 16 && g = 0 then restartBursts a code s else s
  | .egress _ => restartBursts a code s
  | .host =>
    if unit = 0 then
      auditRec { status := St.partialDone, severity := 1, unitKind := 13, unit := 2 }
        { s with bar2Cut := some (64 * Config.beatsBeforeCut s.free), free := s.free + 1 }
    else s
  | .study => endJob unit St.partialDone s
  | _ => s

/-- The grant ends at once; HELD, the latest event and CUTS; the arbiter decides again among the others (R420, R425). -/
def cutGrant (a c : Nat) (s : State) : State :=
  let i := arbInst a
  let r := s.arb i
  let x := s.arbiter a
  let was := r.held.getLsbD c
  let req := x.requests &&& ~~~(1#16 <<< c)
  let s := (s.setArbiter a (grantTo { x with requests := req, owner := none } (bestRequest r.map req))).setArb i { r with
    held := r.held ||| (1#16 <<< c), heldGroup := BitVec.ofNat 6 (arbGroup a), heldCode := BitVec.ofNat 4 c
    cuts := satInc r.cuts }
  if !was && r.heldIrqEn then pfCause (4 + i) r.vector s else s

/-- The watchdog ends the owner's grant: the count is beyond LIMIT with EN set, or beyond 40,000 cycles for a resetting Room
(R420, R422). -/
def holdWatched (a code unit : Nat) (s : State) : Bool :=
  let r := s.arb (arbInst a)
  let n := (s.arbiter a).hold
  (r.holdEn && r.holdLimit.toNat < n) || (ownerResets s a code unit && 40000 < n)

/-- HOLD_WATCHDOG_CUT: the owner of an arbiter's grant has held it without a beat beyond the limit (R420). -/
def execHoldWatchdogCut (a : Fin 68) (unit : Fin 128) (s : State) : Host.Outcome State Fault Refusal :=
  match (s.arbiter a).owner with
  | some c => .next (if c ≠ 15 && holdWatched a c unit s then cutOutcome a c unit (cutGrant a c s) else s)
  | none => .next s

end Sys2Proof.Machine
end

