-- ==== Sys2Proof/Machine/Messages.lean ====
section
/-! DEFINITION. The messages of MSG frames: checks, forwarding, streams, remote signals and waits, reductions, House barriers
and aborts (11 R514 to R521, 12 R545, R557, R563, R572 to R581, 08 R376, R386 to R388). -/
namespace Sys2Proof.Machine

/-! ### Checks (R514 to R516) -/

/-- Types whose STREAM field is used. -/
def usesStream (t : Nat) : Bool := [0x01, 0x02, 0x03, 0x42, 0x43, 0x44, 0x60].contains t

/-- Responses, which carry STATUS; RDX_FAIL carries one too. -/
def usesStatus (t : Nat) : Bool := [0x02, 0x03, 0x09, 0x0B, 0x41, 0x43, 0x45, 0x60].contains t

def msgTypes : List Nat :=
  [0x01, 0x02, 0x03, 0x04, 0x08, 0x09, 0x0A, 0x0B, 0x0C, 0x0D, 0x40, 0x41, 0x42, 0x43, 0x44, 0x45, 0x48, 0x49, 0x50, 0x51,
   0x60]

/-- ADDR and ARG0 of an OPEN, and of a READ that asks for coded units (R515, R516, log entry 73). -/
def openArgsOk (m : Msg) : Bool :=
  let len := (fld m.arg0 0 13).toNat
  let wire := (fld m.arg0 16 2).toNat
  let store := (fld m.arg0 18 2).toNat
  1 ≤ len && len ≤ 4096 && wire ≤ 2 && store ≤ 2 && (fld m.arg0 20 2).toNat ≤ 2 && fld m.arg0 13 3 = 0
    && fld m.arg0 22 42 = 0 && fld m.addr 50 14 = 0
    && (store = 0 || (store = wire && m.addr.toNat % unitSize store = 0 && len % unitSize store = 0))

/-- A message's reserved fields are 0 and its fields may go together (R514 to R516). -/
def msgOk (w : BitVec 512) : Bool :=
  let m := Msg.unpack w
  let t := m.mtype.toNat
  msgTypes.contains t && m.mflags.toNat < 8 && fld w 80 16 = 0 && m.src.toNat < 1024 && m.dst.toNat < 1024
    && m.room.toNat < 64 && (if usesStream t then m.stream.toNat < 4096 else m.stream = 0)
    && (usesStatus t || m.status = 0) && (0x40 ≤ t || m.rest = 0)
    && match t with
      | 0x01 => openArgsOk m && fld m.arg1 34 30 = 0
      | 0x04 => openArgsOk m && fld m.arg1 50 14 = 0
      | 0x08 => fld m.addr 16 48 = 0
      | 0x0A => fld m.addr 16 48 = 0
      | 0x0D => fld m.addr 16 48 = 0
      | _ => true

/-- Message i of a MSG frame's content. -/
def msgAt (content : List Byte) (i : Nat) : BitVec 512 := BitVec.ofNat 512 (leNat ((content.drop (64 * i)).take 64))

/-- Streams that a frame's messages open. -/
def opens (content : List Byte) : List Nat :=
  (List.range (content.length / 64)).filterMap fun i =>
    let m := Msg.unpack (msgAt content i)
    if m.mtype = 0x01 || m.mtype = 0x42 then some m.stream.toNat else none

/-- The violation that a MSG frame's messages carry, if any (R533). -/
def msgVerdict (s : State) (p : Nat) (content : List Byte) : Option Nat :=
  if !((List.range (content.length / 64)).all fun i => msgOk (msgAt content i)) then some Nak.malformedMsg
  else if (opens content).any (streamOpen s p) || (opens content).eraseDups ≠ opens content then some Nak.unexpected
  else none

/-! ### Forwarding (R557) -/

/-- Forward an OPEN or RDX_OPEN: a stream opens on the outgoing port. -/
def forwardOpen (p : Nat) (m : Msg) (s : State) : State :=
  let id := m.stream.toNat
  match egress s m.dst.toNat with
  | none =>
    let s := routeFail p m.src.toNat id 0 St.linkDown m.dst.toNat m.room.toNat s
    s.setPort p { s.port p with rx := (s.port p).rx ++ [discardStream id m.src.toNat m.room.toNat] }
  | some q =>
    let out := freeStream (s.port q)
    let rdx : Option RdxSend := if m.mtype = 0x42 then
        some { group := (fld m.arg0 0 8).toNat, chunk := 0, src := 0, elements := 0, format := 0, op := 0 } else none
    let s := s.setPort q { s.port q with tx := (s.port q).tx ++
      [{ id := out, chan := none, room := m.room.setWidth 6, node := m.dst.setWidth 10, rdx := rdx }] }
    let f : Fwd := { inPort := p, inStream := id, outPort := q, outStream := out, src := m.src.toNat, dst := m.dst.toNat,
                     room := m.room.toNat }
    enqueue q (.msg ({ m with stream := BitVec.ofNat 16 out }).pack)
      { s with house := { s.house with fwd := s.house.fwd ++ [f] } }

/-- Forward an answer back along the path of its stream. -/
def forwardBack (p : Nat) (m : Msg) (s : State) : State :=
  match s.house.fwd.find? (fun f => f.outPort = p && f.outStream = m.stream.toNat) with
  | none => s
  | some f =>
    let s := enqueue f.inPort (.msg ({ m with stream := BitVec.ofNat 16 f.inStream }).pack) s
    if f.live then
      { s with house := { s.house with fwd := s.house.fwd.map fun x => if x = f then { x with answered := true } else x } }
    else dropTx f.outPort f.outStream { s with house := { s.house with fwd := s.house.fwd.erase f } }

/-- Types that a failed hop answers with ROUTE_FAIL. -/
def isRequest (t : Nat) : Bool := [0x04, 0x08, 0x0A, 0x0D, 0x40].contains t

/-- A message for another node. -/
def forwardMsg (p : Nat) (m : Msg) (s : State) : State :=
  let t := m.mtype.toNat
  if t = 0x01 || t = 0x42 then forwardOpen p m s
  else if usesStream t && m.stream ≠ 0 then forwardBack p m s
  else match egress s m.dst.toNat with
    | some q => enqueue q (.msg m.pack) s
    | none =>
      if isRequest t then routeFail p m.src.toNat 0 m.req.toNat St.linkDown m.dst.toNat m.room.toNat s else s

/-! ### A row takes its message (R500) -/

/-- Take message i of a MSG frame: the frame's checks come with the first message, its acceptance with the last. -/
def msgRow (t p : Nat) (f : FrameIn) (i : Nat) (body : Msg → State → State) (s : State) : State :=
  if !forRow f 3 then s else
  let here := (s.port p).msgAt
  match judge s p f (fun c => if here = 0 && fType f.raw = 3 then msgVerdict s p c else none) with
  | .ok content =>
    let m := Msg.unpack (msgAt content i)
    let n := content.length / 64
    if fType f.raw ≠ 3 then passFrame p f s
    else if i ≠ here || n ≤ i || m.mtype.toNat ≠ t then s
    else
      let s := if i = 0 then noteFrame p f s else s
      let s := if m.dst.toNat ≠ ownNode s then forwardMsg p m s else body m s
      if i + 1 = n then acceptSeq p (some f) s else s.setPort p { s.port p with msgAt := i + 1 }
  | v => reject p f v s

/-! ### Streams (R518 to R520) -/

/-- An OPEN that ends here. The answer to a READ whose destination ARG1 named is checked as any OPEN is (R520); that to a
read which nothing waits for any more is accepted, so that its data can be discarded (R159). -/
def openHere (p : Nat) (m : Msg) (s : State) : State :=
  let len := (fld m.arg0 0 13).toNat
  let store := (fld m.arg0 18 2).toNat
  let free : Bool := m.req ≠ 0 && !(s.peerReads.any fun r => r.req = m.req.toNat && !r.staged)
  let st := if free then St.ok else rangeCheck m.room.toNat (peerOff m.addr) len (store ≠ 0) s
  let x : RxStream := {
    id := m.stream.toNat, src := m.src.setWidth 10, room := m.room.setWidth 6, offset := peerOff m.addr, stored := len
    wire := (fld m.arg0 16 2).toNat, store := store, esize := (fld m.arg0 20 2).toNat, refused := st ≠ St.ok
    req := m.req.toNat, status := st, ext := m.arg1 }
  let s := s.setPort p { s.port p with rx := (s.port p).rx ++ [x] }
  if st = St.ok then s
  else
    let s := backMsg p { mtype := 0x03, stream := m.stream, dst := m.src, room := m.room, status := st } s
    if m.req = 0 then s else failReq m.req.toNat st s

/-- OPEN (R518). -/
def execOpenMsg (p : Fin 16) (f : FrameIn) (i : Fin 8) (s : State) : Host.Outcome State Fault Refusal :=
  .next (msgRow 0x01 p f i (openHere p) s)

/-- A DONE for a stream of this node. -/
def doneHere (p : Nat) (m : Msg) (s : State) : State :=
  let id := m.stream.toNat
  match (s.port p).tx.find? (·.id = id) with
  | none => s
  | some t =>
    if m.status = St.ok then
      dropTx p id (match t.chan with
        | some c => arrive1 c (.stream p id) s
        | none => s)
    else failStream p id m.status s

/-- DONE (R519). -/
def execDoneMsg (p : Fin 16) (f : FrameIn) (i : Fin 8) (s : State) : Host.Outcome State Fault Refusal :=
  .next (msgRow 0x02 p f i (doneHere p) s)

/-- A REFUSE names a stream, or a READ by its REQ. -/
def refuseHere (p : Nat) (m : Msg) (s : State) : State :=
  if m.stream ≠ 0 then failStream p m.stream.toNat m.status s else failReq m.req.toNat m.status s

/-- REFUSE (R518, R520). -/
def execRefuseMsg (p : Fin 16) (f : FrameIn) (i : Fin 8) (s : State) : Host.Outcome State Fault Refusal :=
  .next (msgRow 0x03 p f i (refuseHere p) s)

/-- Answer a READ with a REFUSE (R520). -/
def refuseRead (m : Msg) (status : Byte) (s : State) : State :=
  sendMsg { mtype := 0x03, dst := m.src, room := m.room, req := m.req, status := status } s

/-- The wire bytes of a READ's source: plain bytes, a slot's unit, or plain bytes coded here; with what a coded unit counts
in ZL_COMP of the port that sends it (R88, R524, R529, log entry 73). -/
def readBytesHere (k off len wire store el : Nat) (s : State) : State × Except Byte (List Byte × Option Bool) :=
  if store ≠ 0 then match slotUnit k el (unitSize store) (BitVec.ofNat 64 off) s with
    | (s, .ok u) => (s, .ok (u.1, some u.2))
    | (s, .error e) => (s, .error e)
  else match devGet k (BitVec.ofNat 64 off) len s with
    | (s, .error e) => (s, .error e)
    | (s, .ok bs) =>
      if wire = 0 then (s, .ok (bs, none))
      else
        let u := encodeUnit el (unitSize wire) bs
        (s, .ok (u.1, some u.2))

/-- A READ of a source range of this node: the data goes back as a stream. -/
def readHere (m : Msg) (s : State) : State :=
  let k := m.room.toNat
  let len := (fld m.arg0 0 13).toNat
  let wire := (fld m.arg0 16 2).toNat
  let store := (fld m.arg0 18 2).toNat
  let el := (fld m.arg0 20 2).toNat
  let st := rangeCheck k (peerOff m.addr) len (store ≠ 0) s
  if st ≠ St.ok then refuseRead m st s
  else match readBytesHere k (peerOff m.addr) len wire store el (pdTouch pdLarder s) with
    | (s, .error e) => refuseRead m e s
    | (s, .ok (bs, coded)) => match sendStream none k m.src.toNat (peerOff m.arg1) len wire store el 0 m.req bs s with
      | (s, some (p, _)) => match coded with
        | some fits => countComp (some p) fits s
        | none => s
      | (s, none) => s

/-- READ (R520). -/
def execReadMsg (p : Fin 16) (f : FrameIn) (i : Fin 8) (s : State) : Host.Outcome State Fault Refusal :=
  .next (msgRow 0x04 p f i readHere s)

/-! ### Remote signals and waits (R376, R386, R387, R521) -/

/-- The object that a remote operation of a Room reaches: exported flags and counters only (R376). -/
def exportedObj (s : State) (k : Nat) (a : Word) : Except Byte (Bool × Nat) :=
  let r := s.room k
  if r.state ≠ .active && r.state ≠ .none then .error St.roomReset
  else match syncRef ((4#4 : BitVec 4) ++ (0#44 : BitVec 44) ++ (fld a 0 16 : BitVec 16)) with
    | .error _ => .error St.syncUnmapped
    | .ok x =>
      if x.isCounter then match counterPhys s k x.id with
        | some q => if (s.counter q).exported then .ok (true, q) else .error St.syncUnmapped
        | none => .error St.syncUnmapped
      else match flagPhys s k x.id with
        | some q => if (s.flag q).exported then .ok (false, q) else .error St.syncUnmapped
        | none => .error St.syncUnmapped

/-- SIGNAL_ACK goes when asked for, and for every refusal. ARG0 carries the object's value after the signal, which RESULT of
an entry needs (R211; DESIGN CHOICE, log entry 73). -/
def ackSignal (m : Msg) (status : Byte) (value : Word) (s : State) : State :=
  if m.mflags.getLsbD 0 || status ≠ St.ok then
    sendMsg { mtype := 0x09, dst := m.src, room := m.room, req := m.req, status := status, arg0 := value } s
  else s

def signalHere (m : Msg) (s : State) : State :=
  let l := lastSignal s 4 0 m.src.toNat
  match exportedObj s m.room.toNat m.addr with
  | .error e => ackSignal m e 0 s
  | .ok (false, q) =>
    let v : Word := if (s.flag q).dbSq.isNone && m.arg0 ≠ 0 then 1 else 0
    ackSignal m St.ok v (signalFlag q (m.arg0 ≠ 0) l s)
  | .ok (true, q) => ackSignal m St.ok ((s.counter q).value + m.arg0) (signalCounter q m.arg0 l s)

/-- SIGNAL (R376, R521). -/
def execSignalMsg (p : Fin 16) (f : FrameIn) (i : Fin 8) (s : State) : Host.Outcome State Fault Refusal :=
  .next (msgRow 0x08 p f i signalHere s)

/-- A remote signal of this node has been applied, or refused. RESULT of an entry is the value that the answer carries (R211,
log entry 73). -/
def signalAckHere (m : Msg) (s : State) : State :=
  let req := m.req.toNat
  if m.status ≠ St.ok then failReq req m.status s
  else match s.chans.find? (fun h => h.2.flights.any (·.kind = .signal req)) with
    | some (c, _) => arrive1 c (.signal req) s
    | none => match s.sqSignals.find? (·.req = req) with
      | some x => completeEntry x.sq x.count St.ok m.arg0 { s with sqSignals := s.sqSignals.filter (·.req ≠ req) }
      | none => s

/-- SIGNAL_ACK (R521). -/
def execSignalAck (p : Fin 16) (f : FrameIn) (i : Fin 8) (s : State) : Host.Outcome State Fault Refusal :=
  .next (msgRow 0x09 p f i signalAckHere s)

/-- The waiter that a WAIT_REG or POLL asks for. -/
def remoteWaiter (m : Msg) (isC : Bool) (q : Nat) : Waiter :=
  { unit := .peer m.src.toNat m.req.toNat, obj := if isC then .counter q else .flag q, expect := m.arg0 ≠ 0,
    consume := !isC && m.mflags.getLsbD 2, target := m.arg0 }

def sendWake (m : Msg) (status flags : Byte) (found : Word) (s : State) : State :=
  sendMsg { mtype := 0x0B, mflags := flags, dst := m.src, room := m.room, req := m.req, status := status, arg0 := found } s

def isPeer (w : Waiter) : Bool := match w.unit with | .peer _ _ => true | _ => false

/-- Register a remote waiter; a full table refuses it with QUOTA (R386, R387). -/
def waitRegHere (m : Msg) (s : State) : State :=
  match exportedObj s m.room.toNat m.addr with
  | .error e => sendWake m e 0 0 s
  | .ok (isC, q) =>
    if 8192 ≤ (s.waiters.filter isPeer).length then sendWake m St.quota 0 0 s
    else settle (addWaiter (remoteWaiter m isC q) s)

/-- WAIT_REG (R386). -/
def execWaitReg (p : Fin 16) (f : FrameIn) (i : Fin 8) (s : State) : Host.Outcome State Fault Refusal :=
  .next (msgRow 0x0A p f i waitRegHere s)

/-- A WAKE: the wait ends, goes on polling, or fails. A paused unit acts on it when it resumes (R154, R155). -/
def wakeHere (m : Msg) (s : State) : State :=
  match s.waiters.find? (fun w => reqWait m.req.toNat w && (match w.obj with | .remote n _ => n = m.src.toNat | _ => false)) with
  | none => s
  | some w =>
    if m.status = St.quota then
      { s with waiters := s.waiters.map fun v => if v = w then { v with polled := some (s.now + 8000) } else v }
    else if m.status = St.ok && m.mflags.getLsbD 1 && !(w.addr.getLsbD 12 && w.mode = 2) then s
    else
      let v := if m.status = St.ok then m.arg0 else 0
      if w.paused then
        { s with waiters := s.waiters.map fun x => if x = w then { x with woken := some (m.status, v) } else x }
      else endWait w m.status v s

/-- WAKE (R386, R387, R521). -/
def execWake (p : Fin 16) (f : FrameIn) (i : Fin 8) (s : State) : Host.Outcome State Fault Refusal :=
  .next (msgRow 0x0B p f i wakeHere s)

def cancelHere (m : Msg) (s : State) : State :=
  { s with waiters := s.waiters.filter fun w => w.unit != .peer m.src.toNat m.req.toNat }

/-- WAIT_CANCEL (R390, R521). -/
def execWaitCancel (p : Fin 16) (f : FrameIn) (i : Fin 8) (s : State) : Host.Outcome State Fault Refusal :=
  .next (msgRow 0x0C p f i cancelHere s)

/-- One test of an object, atomic with CONSUME (R387). -/
def pollHere (m : Msg) (s : State) : State :=
  match exportedObj s m.room.toNat m.addr with
  | .error e => sendWake m e 0 0 s
  | .ok (isC, q) =>
    let w := remoteWaiter m isC q
    let found := foundOf s w.obj
    if condHolds s w then settle (sendWake m St.ok 0 found (consumeObj w s))
    else sendWake m St.ok 2 found s

/-- POLL (R387). -/
def execPoll (p : Fin 16) (f : FrameIn) (i : Fin 8) (s : State) : Host.Outcome State Fault Refusal :=
  .next (msgRow 0x0D p f i pollHere s)

/-! ### Reductions (R572 to R581) -/

/-- RDX fields of ARG0 (R545). -/
abbrev rGroup (m : Msg) : Nat := (fld m.arg0 0 8).toNat
abbrev rChunk (m : Msg) : Nat := (fld m.arg0 16 16).toNat
abbrev rElements (m : Msg) : Nat := (fld m.arg0 32 32).toNat

/-- A remote chunk that this node refuses: the Room is resetting, or PD_LARDER is not ON (R346, R475). -/
def chunkStatus (s : State) (k : Nat) : Byte :=
  if (s.room k).reset.isSome then St.roomReset
  else match pdOf s pdLarder with
    | .on => St.ok
    | .closing => St.domainClosing
    | .draining => St.domainClosing
    | _ => St.domainOff

/-- A request for an accumulator. A group that is not the Room's here answers MALFORMED. -/
def rdxReqHere (m : Msg) (s : State) : State :=
  let r : Reservation := { node := m.src.toNat, room := m.room.toNat, req := m.req, chan := none, chunk := rChunk m,
                           elements := rElements m,
                           format := fld m.arg0 8 4, op := fld m.arg0 12 2 }
  let st := chunkStatus s m.room.toNat
  if st ≠ St.ok then answerGrant (rGroup m) r st s
  else match groupOf s (rGroup m) with
    | some x => if x.room = m.room.toNat then reserve (rGroup m) r s else answerGrant (rGroup m) r St.malformed s
    | none => answerGrant (rGroup m) r St.malformed s

/-- RDX_REQ (R572). -/
def execRdxReq (p : Fin 16) (f : FrameIn) (i : Fin 8) (s : State) : Host.Outcome State Fault Refusal :=
  .next (msgRow 0x40 p f i rdxReqHere s)

/-- A grant: the REDUCE_SEND that waits runs on, or fails with its instance. -/
def rdxGrantHere (m : Msg) (s : State) : State :=
  match s.waiters.find? (fun w => reqWait m.req.toNat w && isGrant w.obj) with
  | none => s
  | some w =>
    if m.status ≠ St.ok then failWait m.status s w
    else match w.unit with
      | .chan c => { s.setChan c { s.chan c with state := runState (s.chan c) } with waiters := (dropWaiter w s).waiters }
      | _ => s

/-- RDX_GRANT (R572). -/
def execRdxGrant (p : Fin 16) (f : FrameIn) (i : Fin 8) (s : State) : Host.Outcome State Fault Refusal :=
  .next (msgRow 0x41 p f i rdxGrantHere s)

/-- A contribution stream to this node's Reducer; one that the node refuses is answered at its end, and one for a chunk that
holds no accumulator is discarded. -/
def rdxOpenHere (p : Nat) (m : Msg) (s : State) : State :=
  let st := chunkStatus s m.room.toNat
  let known : Bool := st ≠ St.ok || ((instOf s (rGroup m)).bind (chunkOf · (rChunk m))).isSome
  let x : RxStream := {
    id := m.stream.toNat, src := m.src.setWidth 10, room := m.room.setWidth 6, offset := 0, stored := 0, wire := 0
    store := 0, esize := 0, refused := !known, status := st
    rdx := if known then some (rGroup m, rChunk m) else none }
  s.setPort p { s.port p with rx := (s.port p).rx ++ [x] }

/-- RDX_OPEN (R572). -/
def execRdxOpen (p : Fin 16) (f : FrameIn) (i : Fin 8) (s : State) : Host.Outcome State Fault Refusal :=
  .next (msgRow 0x42 p f i (rdxOpenHere p) s)

/-- A contribution of this node has been committed elsewhere (R575). -/
def rdxAckHere (p : Nat) (m : Msg) (s : State) : State :=
  let id := m.stream.toNat
  match (s.port p).tx.find? (·.id = id) with
  | some t => match t.chan, t.rdx with
    | some c, some x =>
      if m.status = St.ok then countAck x.group (arrive1 c (.contribution x.group x.chunk) (dropTx p id s))
      else failStream p id m.status s
    | _, _ => dropTx p id s
  | none => s

/-- RDX_ACK (R575). -/
def execRdxAck (p : Fin 16) (f : FrameIn) (i : Fin 8) (s : State) : Host.Outcome State Fault Refusal :=
  .next (msgRow 0x43 p f i (rdxAckHere p) s)

/-- A contribution is sent again: its source is read again (R576, R579). -/
def rdxRetryHere (p : Nat) (m : Msg) (s : State) : State :=
  let id := m.stream.toNat
  match (s.port p).tx.find? (·.id = id) with
  | some t => match t.chan, t.rdx with
    | some c, some x =>
      let k := t.room.toNat
      let s := dropTx p id s
      let bad (e : Byte) (s : State) : State :=
        reduceFails k x.group e (failFlight c (.contribution x.group x.chunk) e s)
      (match devGet k x.src (x.elements * (fmtWidth x.format / 8)) s with
        | (s, .error e) => bad e s
        | (s, .ok bs) => match sendContribution c k t.node.toNat x (rdxArg x.group x.format x.op x.chunk x.elements) bs s with
          | (s, some _) => s
          | (s, none) => bad St.linkDown s)
    | _, _ => s
  | none => s

/-- RDX_RETRY (R579). -/
def execRdxRetry (p : Fin 16) (f : FrameIn) (i : Fin 8) (s : State) : Host.Outcome State Fault Refusal :=
  .next (msgRow 0x44 p f i (rdxRetryHere p) s)

/-- RDX_FAIL (R574): this node's instance ends with the status, and is not told on. -/
def execRdxFail (p : Fin 16) (f : FrameIn) (i : Fin 8) (s : State) : Host.Outcome State Fault Refusal :=
  .next (msgRow 0x45 p f i (fun m s => match groupOf s (rGroup m) with
    | some x => if x.room = m.room.toNat then endInstance (rGroup m) m.status false s else s
    | none => s) s)

/-- HB_ARRIVE (R563). -/
def execHbArrive (p : Fin 16) (f : FrameIn) (i : Fin 8) (s : State) : Host.Outcome State Fault Refusal :=
  .next (msgRow 0x48 p f i (fun m s =>
    nextHouseArrive (rGroup m) (hallArrive (rGroup m) m.src.toNat (fld m.arg1 0 32) s)) s)

/-- HB_RELEASE (R563). -/
def execHbRelease (p : Fin 16) (f : FrameIn) (i : Fin 8) (s : State) : Host.Outcome State Fault Refusal :=
  .next (msgRow 0x49 p f i (fun m s => nextHouseArrive (rGroup m) (houseRelease (rGroup m) (fld m.arg1 0 32) s)) s)

/-- ROOM_ABORT (R581). -/
def roomAbortHere (m : Msg) (s : State) : State :=
  let g := rGroup m
  let s := match groupOf s g with
    | some x =>
      if x.room = m.room.toNat then
        releaseWaits (fun w => w.obj == .house g || w.obj == .houseArrive g) St.roomReset (endInstance g St.roomReset false s)
      else s
    | none => s
  sendMsg { mtype := 0x51, dst := m.src, room := m.room, req := m.req } s

def execRoomAbort (p : Fin 16) (f : FrameIn) (i : Fin 8) (s : State) : Host.Outcome State Fault Refusal :=
  .next (msgRow 0x50 p f i roomAbortHere s)

/-- ROOM_ABORT_ACK (R346): the peer is awaited no longer for the group its REQ names. -/
def execRoomAbortAck (p : Fin 16) (f : FrameIn) (i : Fin 8) (s : State) : Host.Outcome State Fault Refusal :=
  .next (msgRow 0x51 p f i (fun m s =>
    let k := m.room.toNat
    match (s.room k).reset with
    | some x => s.setRoom k { s.room k with reset := some { x with
        awaited := x.awaited.filter (· ≠ m.src.toNat * 256 + (m.req.toNat - 2048)) } }
    | none => s) s)

/-- ROUTE_FAIL (R557, R586): the source's instruction fails with the status. -/
def execRouteFail (p : Fin 16) (f : FrameIn) (i : Fin 8) (s : State) : Host.Outcome State Fault Refusal :=
  .next (msgRow 0x60 p f i (fun m s =>
    if m.stream ≠ 0 then failStream p m.stream.toNat m.status s else failReq m.req.toNat m.status s) s)

end Sys2Proof.Machine
end

