-- ==== Sys2Proof/Machine/Election.lean ====
section
/-! DEFINITION. Management messages and the House's timers: election, joining, keys, membership, time, beacons
(12 R541 to R562, 10 R444 to R447). -/
namespace Sys2Proof.Machine

/-! ### Checks of management messages (R533, R544) -/

/-- Byte ranges from byte 8 that a type names. -/
def mgNamed (t : Nat) : List (Nat × Nat) :=
  match t with
  | 0x80 => [(8, 13), (16, 28)]
  | 0x81 => [(8, 13), (16, 32)]
  | 0x82 => [(12, 13), (16, 32)]
  | 0x83 => [(8, 9), (10, 32)]
  | 0x84 => [(8, 57)]
  | 0x85 => [(8, 10), (12, 64)]
  | 0x86 => [(8, 12)]
  | 0x87 => [(8, 10), (12, 16)]
  | 0x88 => [(8, 19)]
  | 0x89 => [(8, 10), (16, 26)]
  | 0x8A => [(8, 21)]
  | 0x8B => [(8, 26)]
  | 0x8C => [(8, 32)]
  | 0x8D => [(8, 32)]
  | 0x8E => [(8, 14), (16, 22)]
  | _ => [(16, 28)]

/-- Bits of the named fields that R514 and R544 give no meaning: MFLAGS but for its defined bits, bits 14 to 10 of the
nodes, and bits 7 to 4 of a PRIO byte. -/
def mgBitsOk (w : BitVec 512) : Bool :=
  let t := mgN w 0 1
  mgN w 1 1 < (if t = 0x81 then 16 else 8) && fld w 42 5 = 0 && fld w 58 5 = 0
    && (!([0x80, 0x81, 0x82].contains t) || mgN w 12 1 < 16)

/-- A management type, every unnamed byte 0, and no unnamed bit set (R544). -/
def mgOk (w : BitVec 512) : Bool :=
  let t := mgN w 0 1
  0x80 ≤ t && t ≤ 0x8F && mgN w 2 2 = 0 && mgBitsOk w &&
    (List.range 56).all fun i => mgN w (8 + i) 1 = 0 || (mgNamed t).any fun r => r.1 ≤ 8 + i && 8 + i < r.2

/-- The violation that a MGMT frame's messages carry, if any: a TIME_PONG that nothing asked for is out of turn (R533). -/
def mgVerdict (s : State) (p : Nat) (content : List Byte) : Option Nat :=
  let ms := (List.range (content.length / 64)).map (msgAt content)
  if content.length % 64 ≠ 0 || !ms.all mgOk then some Nak.malformedMsg
  else if (s.port p).pingT1.isNone && ms.any (fun w => mgN w 0 1 = 0x8D) then some Nak.unexpected
  else none

/-- Types that every node takes, whatever DST_NODE says: they are flooded. -/
def isFlooded (t : Nat) : Bool := [0x81, 0x86, 0x88, 0x8A, 0x8B].contains t

/-- A message that the Foyer handles waits while the Foyer restarts or has stopped (R666). -/
def orPark (t p : Nat) (body : BitVec 512 → State → State) (w : BitVec 512) (s : State) : State :=
  let up : Bool := s.fy.state = .ready || s.fy.state = .update
  let needs : Bool := ([0x82, 0x84, 0x87].contains t && s.house.isHall) || [0x85, 0x8E].contains t
  if needs && !up then { s with house := { s.house with parked := s.house.parked ++ [(p, w)] } } else body w s

/-- The port leads into this device's own House: the port it joined through, or one of a link of the House. What another
House floods is not for this one (R560; DEDUCED, log entry 80). -/
def houseLink (s : State) (p : Nat) : Bool := p = s.house.viaPort || (linksOf s (ownNode s)).any (·.port = p)

/-- Types that are flooded within one House (R558, R560 to R562). -/
def ofOwnHouse (t : Nat) : Bool := [0x86, 0x88, 0x8A, 0x8B].contains t

/-- A message flooded in the House goes on out of the other ports where it is new. -/
def floodOn (p : Nat) (new : Bool) (h : House) (w : BitVec 512) (s : State) : State :=
  if new then floodBut (some p) w { s with house := h } else s

/-- A device that has STOPPED carries the messages of others on, and takes none (R550): what is flooded once, what is for a
member along the routes it had, and better claims (R546). -/
def relayStopped (t p : Nat) (w : BitVec 512) (s : State) : State :=
  let h := s.house
  match t with
  | 0x80 =>
    let c := Claim.ofMsg w
    let news : Bool := c.serial ≠ s.g.serial && match h.best with | some b => c.better b | none => true
    floodOn p news { h with best := some c } w s
  | 0x86 => floodOn p (h.dissolved ≠ some (mgF w 8 4)) { h with dissolved := some (mgF w 8 4) } w s
  | 0x88 => floodOn p (h.mgen < mgF w 8 4) { h with mgen := mgF w 8 4 } w s
  | 0x8A => floodOn p (h.hallTime < mgF w 8 8) { h with hallTime := mgF w 8 8 }
      (mgMsg 0x8A 0 (mgN w 4 2) neighbour [(8, mgN w 8 8 + (s.port p).delay), (16, mgN w 16 4), (20, mgN w 20 1 + 1)]) s
  | 0x8B => floodOn p (h.lastBeacon ≠ some (mgF w 8 4)) { h with lastBeacon := some (mgF w 8 4) } w s
  | _ => if mgN w 6 2 < 1024 then mgmtTo (mgN w 6 2) w s else s

/-- One management message: it runs where it is for this node, and goes on where it is for another member (R544, R557). -/
def mgmtHere (t p : Nat) (body : BitVec 512 → State → State) (s : State) (w : BitVec 512) : State :=
  let dst := mgN w 6 2
  if s.house.hstate = .stopped then relayStopped t p w s
  else if ofOwnHouse t && !houseLink s p then s
  else if isFlooded t || 0x8000 ≤ dst || dst = ownNode s then orPark t p body w s
  else if dst < 1024 && inHouse s then mgmtTo dst w s
  else s

/-- Take the next messages of a MGMT frame, as many as have the row's type: the frame's checks come with its first message,
its acceptance with the last (R500, R544). -/
def mgmtRow (t p : Nat) (f : FrameIn) (body : BitVec 512 → State → State) (s : State) : State :=
  if !forRow f 4 then s else
  let here := (s.port p).msgAt
  match judge s p f (fun c => if here = 0 && fType f.raw = 4 then mgVerdict s p c else none) with
  | .ok content =>
    let n := content.length / 64
    let run := (((List.range n).drop here).map (msgAt content)).takeWhile fun w => mgN w 0 1 = t
    if fType f.raw ≠ 4 then passFrame p f s
    else if run = [] then s
    else
      let s := run.foldl (mgmtHere t p body) (if here = 0 then noteFrame p f s else s)
      if here + run.length = n then acceptSeq p (some f) s
      else s.setPort p { s.port p with msgAt := here + run.length }
  | v => reject p f v s

/-! ### Duplicate serials (R550) -/

/-- The device stops; the routes it had still carry the messages of others. -/
def stopDevice (s : State) : State :=
  let routes := s.house.routes
  let s := if inHouse s then leaveHouse .stopped s else setHState .stopped s
  let s := { s with house := { s.house with routes := routes } }
  houseIrq 1 (auditRec { status := St.duplicateSerial, severity := 3, arg0 := s.g.serial } s)

/-- A message carries this device's serial with another NONCE. -/
def isTwin (s : State) (serial : Word) (nonce : Half) : Bool := serial = s.g.serial && nonce ≠ s.house.nonce

/-! ### Claims and announcements (R546 to R549, R560) -/

/-- The highest epoch seen (R549). -/
def noteEpoch (e : Half) (s : State) : State :=
  if s.house.topEpoch < e then { s with house := { s.house with topEpoch := e } } else s

/-- Claims of the ports other than p hear a better claim once (R546, R548). -/
def claimHere (p : Nat) (w : BitVec 512) (s : State) : State :=
  let c := Claim.ofMsg w
  if isTwin s c.serial c.nonce then stopDevice s
  else if inHouse s || c.serial = s.g.serial then noteEpoch c.epoch s
  else
    let s := noteEpoch c.epoch s
    let news : Bool := match s.house.best with | some b => c.better b | none => true
    let s := if news then
        floodBut (some p) (mgMsg 0x80 0 (mgSrc s) neighbour c.fields)
          { s with house := { s.house with best := some c, bestSince := s.now } }
      else s
    if s.house.hstate = .claiming && c.better (ownClaim s) then setHState .candidate s else s

/-- CLAIM (R546 to R548). -/
def execClaim (p : Fin 16) (f : FrameIn) (s : State) : Host.Outcome State Fault Refusal :=
  .next (mgmtRow 0x80 p f (claimHere p) s)

/-- JOIN_REQ and KEY_SHARE to the member on the joining port (R551). -/
def sendJoin (s : State) : State :=
  let p := s.house.viaPort
  let s := sendOwn p (mgMsg 0x82 0 noNode neighbour
    [(12, s.g.claimPrio.toNat), (16, s.g.serial.toNat), (24, s.house.nonce.toNat)]) s
  let s := sendOwn p (mgMsg 0x84 0 noNode neighbour [(8, (publicKey s.house.keyPair).toNat)]) s
  { s with house := { s.house with joinAt := s.now } }

/-- Join the House of an announcement (R551 step 1). -/
def joinVia (c : Claim) (mgen : Half) (p : Nat) (s : State) : State :=
  let s := { s with
    free := s.free + 1
    house := { s.house with keyPair := s.free, hall := some c, mgen := mgen, viaPort := p, node := 0, refusedAt := none } }
  sendJoin (setHState .joining s)

/-- A device in CANDIDATE joins the House it has last heard of. -/
def joinHeard (s : State) : State :=
  match s.house.heard with
  | some (c, g, p, _) => if s.house.hstate = .candidate && portUp (s.port p) then joinVia c g p s else s
  | none => s

/-- A Hall that learns of a better Hall dissolves its House (R560). -/
def dissolve (s : State) : State :=
  let s := flood (mgMsg 0x86 0 (mgSrc s) neighbour [(8, s.house.epoch.toNat)]) s
  joinHeard (leaveHouse .candidate s)

/-- An announcement: a device outside a House joins; a member compares Halls (R549, R560). -/
def announceHere (p : Nat) (w : BitVec 512) (s : State) : State :=
  let c := Claim.ofMsg w
  let src := mgN w 4 2
  if isTwin s c.serial c.nonce then stopDevice s
  else if c.serial = s.g.serial then s
  else
    let s := noteEpoch c.epoch s
    let direct : Bool := 0x8000 ≤ mgN w 6 2
    let s := { s with house := { s.house with announced := true } }
    let heard : House := if direct then { s.house with heard := some (c, mgF w 28 4, p, src) } else s.house
    if inHouse s then
      let own := s.house.hall.getD (ownClaim s)
      if own.serial = c.serial then s
      else if c.better own then
        let s := { s with house := heard }
        if s.house.isHall then dissolve s
        else mgmtTo 0 (mgMsg 0x81 (mgN w 1 1) (mgSrc s) 0 (c.fields ++ [(28, mgN w 28 4)])) s
      else s
    else if s.house.hstate = .joining || 1024 ≤ src then s
    else joinHeard (setHState .candidate { s with house := heard })

/-- HALL_ANNOUNCE (R549, R560). -/
def execHallAnnounce (p : Fin 16) (f : FrameIn) (s : State) : Host.Outcome State Fault Refusal :=
  .next (mgmtRow 0x81 p f (announceHere p) s)

/-- CLAIM_START: 2 ms after link-up with no announcement (R546). -/
def execClaimStart (s : State) : Host.Outcome State Fault Refusal :=
  let h := s.house
  let waiting : Bool := h.hstate = .unattached || h.hstate = .candidate
  let behind : Bool := h.hstate = .candidate && match h.best with | some b => b.better (ownClaim s) | none => false
  match h.linkUpAt with
  | some t =>
    .next (if waiting && eligible s && !h.announced && !behind && t + 2000000 ≤ s.now then startClaim s else s)
  | none => .next s

/-- CLAIM_REPEAT: every 1 ms while CLAIMING (R546). -/
def execClaimRepeat (s : State) : Host.Outcome State Fault Refusal :=
  .next (if s.house.hstate = .claiming && s.house.lastClaim + 1000000 ≤ s.now then
    flood (mgMsg 0x80 0 (mgSrc s) neighbour (ownClaim s).fields) { s with house := { s.house with lastClaim := s.now } }
  else s)

/-- The claimant becomes the Hall (R549). -/
def becomeHall (s : State) : State :=
  let e := (if s.house.topEpoch < s.house.epoch then s.house.epoch else s.house.topEpoch) + 1
  let s := { s with house := { s.house with
    epoch := e, topEpoch := e, node := 0, nodeValid := true, isHall := true, mgen := 0, members := [0], links := [],
    wings := [], nextId := 1, wrapped := false, best := none, heard := none, lastTickSent := s.now, lastPing := s.now,
    hall := some { ownClaim s with epoch := e } } }
  let s := cadHall (setHState .hall s)
  let s := flood (announce 0 s) s
  (upPorts s).foldl (fun t p => hallReport 0 p true (t.port p).partner t) s

/-- HALL_ELECTED: the own claim has been the best for CLAIM_SETTLE (R549). -/
def execHallElected (s : State) : Host.Outcome State Fault Refusal :=
  .next (if s.house.hstate = .claiming && s.house.best = some (ownClaim s)
      && s.house.bestSince + s.house.settleUs.toNat * 1000 ≤ s.now then becomeHall s else s)

/-! ### Joining (R543, R551 to R553) -/

/-- Salt and info of the House key (R553). -/
def houseSalt (hall wing : Word) : List Byte := leB 8 hall ++ leB 8 wing
def houseInfo (epoch : Half) : List Byte := [0x5A, 0x4C, 0x48, 0x4B] ++ leB 4 epoch

/-- Send to a candidate through the member that relays it. -/
def toCandidate (via port : Nat) (w : Nat → BitVec 512) (s : State) : State :=
  if via = 0 then sendMgmt port (w neighbour) s else mgmtTo via (w via) s

def joinAck (s : State) (status : Byte) (node : Nat) (serial : Word) (dst : Nat) : BitVec 512 :=
  mgMsg 0x83 0 (mgSrc s) dst [(8, status.toNat), (10, node), (12, s.house.epoch.toNat), (16, serial.toNat), (24, s.now)]

/-- DUP_STOP for a device of a serial that must differ from a NONCE. -/
def dupStop (s : State) (serial : Word) (nonce : Half) (dst : Nat) : BitVec 512 :=
  mgMsg 0x8F 0 (mgSrc s) dst [(16, serial.toNat), (24, nonce.toNat)]

/-- The ID handed out next: ascending, then the lowest free one; none where all are held (R543). -/
def nextNode (s : State) : Option (Nat × House) :=
  let h := s.house
  if h.nextId ≤ 1023 then some (h.nextId, { h with nextId := h.nextId + 1 })
  else ((List.range 1023).find? fun i => !h.members.contains (i + 1)).map fun i => (i + 1, { h with wrapped := true })

/-- MEMBER_UPDATEs of the whole topology, for a new member (log entry 24). -/
def tellTopology (s : State) : State :=
  let ms := s.house.members
  let ls := s.house.links.filter fun l => l.node < l.partner
  let s := ms.foldl (fun t n => hallChange 0 n 0 0 0 t) s
  ls.foldl (fun t l => hallChange 2 l.node l.port l.partner l.partnerPort t) s

/-- A join that the Hall accepts: ID, House key, record, JOIN_ACK and KEY_SHARE, then the updates (R551 steps 3 to 6). -/
def admitJoin (via port : Nat) (serial : Word) (nonce : Half) (pub : BitVec 392) (id : Nat) (h : House) (s : State) : State :=
  let pair := s.free
  let key := houseKey pair pub (houseSalt s.g.serial serial) (houseInfo s.house.epoch)
  let wing : Wing := { node := id, serial := serial, nonce := nonce, pub := some pub, key := key }
  let s := { s with free := s.free + 1, house := { h with wings := (h.wings.filter (·.node ≠ id)) ++ [wing] } }
  let hash : Word := BitVec.ofNat 64 (leNat ((sha384 (leB 49 pub)).take 8))
  let s := auditRec { eventRec 0x0251 0 with arg0 := serial, arg1 := hash } s
  let s := toCandidate via port (joinAck s St.ok id serial) s
  let s := toCandidate via port (fun d => mgMsg 0x84 0 (mgSrc s) d [(8, (publicKey pair).toNat)]) s
  matchLinks (tellTopology (hallChange 0 id 0 0 0 s))

/-- The Hall has a candidate's JOIN_REQ and KEY_SHARE (R551, R552). A member that asks again gets its ID again. -/
def hallJoin (via : Nat) (req : BitVec 512) (pub : BitVec 392) (s : State) : State :=
  let port := mgN req 30 1
  let serial : Word := mgF req 16 8
  let nonce : Half := mgF req 24 4
  let refuse (s : State) : State := toCandidate via port (joinAck s St.quota 0 serial) s
  if !s.house.acceptJoin || 16 < mgN req 31 1 then refuse s
  else match s.house.wings.find? (·.serial = serial) with
    | some w => admitJoin via port serial nonce pub w.node s.house s
    | none =>
      if s.house.maxNodes ≤ s.house.members.length then refuse s
      else match nextNode s with
        | some (id, h) => admitJoin via port serial nonce pub id h s
        | none => refuse s

/-- A JOIN_REQ: a Wing relays it with its own place filled in; the Hall keeps it for its KEY_SHARE, or finds a serial
twice (R550 to R552). -/
def joinReqHere (p : Nat) (w : BitVec 512) (s : State) : State :=
  let serial : Word := mgF w 16 8
  let nonce : Half := mgF w 24 4
  let direct : Bool := 0x8000 ≤ mgN w 6 2
  let own := ownNode s
  let fields := [(12, mgN w 12 1), (16, serial.toNat), (24, nonce.toNat)]
  if !inHouse s then s
  else
    let w := if direct then mgMsg 0x82 0 (noNode + own) 0 (fields ++ [(28, own), (30, p), (31, s.house.hops + 1)]) else w
    let via := mgN w 28 2
    if !s.house.isHall then
      mgmtTo 0 w { s with house := { s.house with relays := (s.house.relays.filter (·.1 ≠ serial)) ++ [(serial, p)] } }
    else if isTwin s serial nonce then
      stopDevice (toCandidate via (mgN w 30 1) (dupStop s serial s.house.nonce) s)
    else match s.house.wings.find? (fun x => x.serial = serial && x.nonce ≠ nonce) with
      | some x =>
        let s := toCandidate via (mgN w 30 1) (dupStop s serial x.nonce) s
        mgmtTo x.node (dupStop s serial nonce x.node) s
      | none => { s with house := { s.house with joins := s.house.joins ++ [(via, w)] } }

/-- JOIN_REQ (R551, R552). -/
def execJoinReq (p : Fin 16) (f : FrameIn) (s : State) : Host.Outcome State Fault Refusal :=
  .next (mgmtRow 0x82 p f (joinReqHere p) s)

/-- House time moves towards a value: a step forward beyond 1 µs, through which the phase runs, else a slew (R433, R561). -/
def correctTime (t : Nat) (s : State) : State :=
  if s.now + 1000 < t then
    advanceTime (t - s.now) { s with house := { s.house with slew := 0, slewCount := 0 } }
  else { s with house := { s.house with slew := (t : Int) - s.now, slewCount := 0 } }

/-- JOIN_ACK for the candidate that waits, or for one that this member relays. -/
def joinAckHere (_p : Nat) (w : BitVec 512) (s : State) : State :=
  let serial : Word := mgF w 16 8
  let ok : Bool := mgN w 8 1 = 0
  if serial = s.g.serial then
    if s.house.hstate ≠ .joining then s
    else if ok then
      correctTime (mgN w 24 8) { s with house := { s.house with node := fld w 80 10, epoch := mgF w 12 4 } }
    else setHState .candidate { s with house := { s.house with refusedAt := some s.now } }
  else match s.house.relays.find? (·.1 = serial) with
    | some (_, q) =>
      sendMgmt q (mgMsg 0x83 0 (mgSrc s) neighbour
          [(8, mgN w 8 1), (10, mgN w 10 2), (12, mgN w 12 4), (16, serial.toNat), (24, mgN w 24 8)])
        { s with house := { s.house with relayTo := if ok then some q else none } }
    | none => s

/-- JOIN_ACK (R551). -/
def execJoinAck (p : Fin 16) (f : FrameIn) (s : State) : Host.Outcome State Fault Refusal :=
  .next (mgmtRow 0x83 p f (joinAckHere p) s)

/-- The candidate has its House key: it is a Wing, announces the House on its other ports, and reports its ports (R546,
R551 step 4, R558). -/
def becomeWing (pub : BitVec 392) (s : State) : State :=
  let hallSerial := (s.house.hall.getD {}).serial
  let key := houseKey s.house.keyPair pub (houseSalt hallSerial s.g.serial) (houseInfo s.house.epoch)
  let via := s.house.viaPort
  let s := { s with house := { s.house with
    nodeValid := true, houseKey := some key, members := ninsert [0] s.house.node.toNat, links := [],
    routes := [(0, via)], noRoute := [], lastTick := s.now, lastPing := s.now, heard := none, best := none } }
  let s := setHState .wing s
  let s := ((upPorts s).filter (· ≠ via)).foldl (fun t p => sendMgmt p (announce 8 t) t) s
  (upPorts s).foldl (fun t p => pingPort p (reportPort p true t)) s

/-- A KEY_SHARE of a candidate goes to the Hall; the Hall's goes to the candidate (R551, R553). -/
def keyShareHere (_p : Nat) (w : BitVec 512) (s : State) : State :=
  let src := mgN w 4 2
  let pub : BitVec 392 := fld w 64 392
  let direct : Bool := 0x8000 ≤ mgN w 6 2
  if s.house.isHall then
    let via := if direct then 0 else src % 0x8000
    match s.house.joins.find? (·.1 = via) with
    | some j => hallJoin via j.2 pub { s with house := { s.house with joins := s.house.joins.erase j } }
    | none => s
  else if s.house.hstate = .wing then
    if 0x8000 ≤ src then mgmtTo 0 (mgMsg 0x84 0 (noNode + ownNode s) 0 [(8, pub.toNat)]) s
    else match s.house.relayTo with
      | some q => sendMgmt q (mgMsg 0x84 0 (mgSrc s) neighbour [(8, pub.toNat)]) { s with house := { s.house with relayTo := none } }
      | none => s
  else if s.house.hstate = .joining && s.house.node ≠ 0 then becomeWing pub s
  else s

/-- KEY_SHARE (R551, R553). -/
def execKeyShare (p : Fin 16) (f : FrameIn) (s : State) : Host.Outcome State Fault Refusal :=
  .next (mgmtRow 0x84 p f (keyShareHere p) s)

/-- JOIN_RETRY: no JOIN_ACK within 10 ms (R551). -/
def execJoinRetry (s : State) : Host.Outcome State Fault Refusal :=
  .next (if s.house.hstate = .joining && s.house.joinAt + 10000000 ≤ s.now then sendJoin s else s)

/-- JOIN_REFUSED_RETRY: 100 ms after a refusal (R552). -/
def execJoinRefusedRetry (s : State) : Host.Outcome State Fault Refusal :=
  match s.house.refusedAt, s.house.hall with
  | some t, some c =>
    .next (if s.house.hstate = .candidate && t + 100000000 ≤ s.now then joinVia c s.house.mgen s.house.viaPort s else s)
  | _, _ => .next s

/-- DUP_STOP: for this device, or for a candidate that it relays (R550). -/
def dupStopHere (_p : Nat) (w : BitVec 512) (s : State) : State :=
  let serial : Word := mgF w 16 8
  if isTwin s serial (mgF w 24 4) then stopDevice s
  else match s.house.relays.find? (·.1 = serial) with
    | some (_, q) => sendMgmt q (dupStop s serial (mgF w 24 4) neighbour) s
    | none => s

/-- DUP_STOP (R550). -/
def execDupStop (p : Fin 16) (f : FrameIn) (s : State) : Host.Outcome State Fault Refusal :=
  .next (mgmtRow 0x8F p f (dupStopHere p) s)

/-! ### Keys (R554, R555) -/

/-- A delivered key: opened under the House key and loaded; a tag failure is recorded (R554). -/
def keyDeliverHere (_p : Nat) (w : BitVec 512) (s : State) : State :=
  match s.house.houseKey with
  | none => s
  | some hk =>
    let port := mgN w 8 1
    let dir := mgN w 9 1
    let epoch : Half := mgF w 12 4
    match gcmOpen hk (deliverIv port dir epoch (ownNode s)) (leB 16 (fld w 0 128 : BitVec 128))
        (leB 48 (fld w 128 384 : BitVec 384)) with
    | none => auditRec { status := St.ok, detail := BitVec.ofNat 16 Nak.authFail, severity := 3, unitKind := 7
                         unit := BitVec.ofNat 16 port, mode := BitVec.ofNat 8 dir } s
    | some bs =>
      let k : KeySlot := { key := BitVec.ofNat 256 (leNat (bs.take 32)), fixed := BitVec.ofNat 32 (leNat ((bs.drop 32).take 4))
                           epoch := epoch }
      if port < 16 && dir ≤ 1 then (loadKey port dir k (s.port port).partner s).getD s else s

/-- KEY_DELIVER (R554). -/
def execKeyDeliver (p : Fin 16) (f : FrameIn) (s : State) : Host.Outcome State Fault Refusal :=
  .next (mgmtRow 0x85 p f (keyDeliverHere p) s)

/-- A request for the next epoch of a direction of a link: both ends get it, the receive side first (R555). -/
def keyReqHere (w : BitVec 512) (s : State) : State :=
  if !s.house.isHall then s else
  let n := mgN w 4 2
  match (linksOf s n).find? (·.port = mgN w 8 1) with
  | some l =>
    if mgN w 9 1 = 0 then keyLink n l.port l.partner l.partnerPort (mgF w 12 4) s
    else keyLink l.partner l.partnerPort n l.port (mgF w 12 4) s
  | none => s

/-- KEY_REQ (R555). -/
def execKeyReq (p : Fin 16) (f : FrameIn) (s : State) : Host.Outcome State Fault Refusal :=
  .next (mgmtRow 0x87 p f keyReqHere s)

/-! ### Membership (R388, R556, R558 to R560) -/

/-- A node has left: what waits on it ends, and its own registrations go (R388). -/
def nodeLeft (n : Nat) (s : State) : State :=
  let s := releaseWaits (fun w => match w.obj with | .remote m _ => m = n | _ => false) St.linkDown s
  { s with waiters := s.waiters.filter fun w => match w.unit with | .peer m _ => m ≠ n | _ => true }

/-- A MEMBER_UPDATE of a higher MGEN is applied and goes on (R556). -/
def memberUpdateHere (p : Nat) (w : BitVec 512) (s : State) : State :=
  let g : Half := mgF w 8 4
  if s.house.hstate ≠ .wing || g ≤ s.house.mgen then s else
  let s := floodBut (some p) w { s with house := { s.house with mgen := g } }
  let s := applyChange (mgN w 14 1) (mgN w 12 2) (mgN w 15 1) (mgN w 16 2) (mgN w 18 1) s
  if mgN w 14 1 = 1 then nodeLeft (mgN w 12 2) s else s

/-- MEMBER_UPDATE (R556). -/
def execMemberUpdate (p : Fin 16) (f : FrameIn) (s : State) : Host.Outcome State Fault Refusal :=
  .next (mgmtRow 0x88 p f (memberUpdateHere p) s)

/-- LINK_REPORT at the Hall (R558). -/
def execLinkReport (p : Fin 16) (f : FrameIn) (s : State) : Host.Outcome State Fault Refusal :=
  .next (mgmtRow 0x89 p f (fun w s =>
    if s.house.isHall then hallReport (mgN w 4 2) (mgN w 8 1) (mgN w 9 1 = 0) (mgF w 16 8) s else s) s)

/-- HOUSE_DISSOLVE of this House: it goes on, and the member leaves and joins the better House (R560). -/
def dissolveHere (p : Nat) (w : BitVec 512) (s : State) : State :=
  if s.house.hstate = .wing && mgF w 8 4 = s.house.epoch then
    joinHeard (leaveHouse .candidate (floodBut (some p) w s))
  else s

def execHouseDissolve (p : Fin 16) (f : FrameIn) (s : State) : Host.Outcome State Fault Refusal :=
  .next (mgmtRow 0x86 p f (dissolveHere p) s)

/-- Since when no route has led to a node. -/
def unreached (s : State) (n : Nat) : Bool :=
  match s.house.noRoute.find? (·.1 = n) with
  | some x => x.2 + 1000000 ≤ s.now
  | none => false

/-- HALL_LOST: no TICK, or no route to node 0, for 1 ms (R559). -/
def execHallLost (s : State) : Host.Outcome State Fault Refusal :=
  .next (if s.house.hstate = .wing && (s.house.lastTick + 1000000 ≤ s.now || unreached s 0) then reclaim s else s)

/-- Remove a group of the Hall's table: its members are told, the removal is recorded (R566). -/
def removeGroup (g left : Nat) (s : State) : State :=
  match s.house.groupDefs.find? (·.1 = g) with
  | none => s
  | some (_, d) =>
    let s := { s with house := { s.house with groupDefs := tdel s.house.groupDefs g, barriers := tdel s.house.barriers g } }
    let s := (d.members.filter fun n => n ≠ 0 && n ≠ left).foldl (fun t n =>
      mgmtTo n (mgMsg 0x8E 0 (mgSrc t) n [(8, g), (9, d.room), (20, 4)]) t) s
    let s := if d.members.contains 0 then endGroup g St.linkDown s else s
    houseIrq 2 (auditRec { eventRec 0x0252 0 with
      unitKind := 6, unit := BitVec.ofNat 16 g, room := BitVec.ofNat 6 d.room, arg0 := BitVec.ofNat 64 left } s)

/-- WING_REMOVAL: no route from the Hall to a Wing has remained for 1 ms (R558). -/
def execWingRemoval (n : BitVec 10) (s : State) : Host.Outcome State Fault Refusal :=
  let n := n.toNat
  if s.house.isHall && n ≠ 0 && s.house.members.contains n && unreached s n then
    let s := { s with house := { s.house with
      wings := s.house.wings.filter (·.node ≠ n), reports := s.house.reports.filter (·.node ≠ n) } }
    let s := nodeLeft n (hallChange 1 n 0 0 0 s)
    let gs := (s.house.groupDefs.filter fun g => g.2.members.contains n).map (·.1)
    .next (gs.foldl (fun t g => removeGroup g n t) s)
  else .next s

/-! ### Time (R561) -/

def tickMsg (s : State) (time : Nat) (hops : Nat) : BitVec 512 :=
  mgMsg 0x8A 0 (mgSrc s) neighbour [(8, time), (16, s.house.mgen.toNat), (20, hops)]

/-- TICK_TIMER: the Hall floods its house time every 100 µs. -/
def execTickTimer (s : State) : Host.Outcome State Fault Refusal :=
  .next (if s.house.isHall && s.house.lastTickSent + 100000 ≤ s.now then
    flood (tickMsg s s.now 0) { s with house := { s.house with lastTickSent := s.now } }
  else s)

/-- A TICK: the link's delay is added, it goes on once, and house time follows. -/
def tickHere (p : Nat) (w : BitVec 512) (s : State) : State :=
  let t : Word := mgF w 8 8
  if s.house.hstate ≠ .wing || t ≤ s.house.hallTime then s else
  let at_ := t.toNat + (s.port p).delay
  let s := floodBut (some p) (tickMsg s at_ (mgN w 20 1 + 1))
    { s with house := { s.house with hallTime := t } }
  let s := correctTime at_ s
  { s with house := { s.house with lastTick := s.now } }

/-- TICK (R561). -/
def execTick (p : Fin 16) (f : FrameIn) (s : State) : Host.Outcome State Fault Refusal :=
  .next (mgmtRow 0x8A p f (tickHere p) s)

/-- TIME_PING_TIMER: every 100 ms a member measures each link (R561). -/
def execTimePingTimer (s : State) : Host.Outcome State Fault Refusal :=
  .next (if inHouse s && s.house.lastPing + 100000000 ≤ s.now then
    (upPorts s).foldl (fun t p => pingPort p t) { s with house := { s.house with lastPing := s.now } }
  else s)

/-- TIME_PING (R561): answered at once. -/
def execTimePing (p : Fin 16) (f : FrameIn) (s : State) : Host.Outcome State Fault Refusal :=
  .next (mgmtRow 0x8C p f (fun w s =>
    sendMgmt p (mgMsg 0x8D 0 (mgSrc s) neighbour [(8, mgN w 8 8), (16, s.now), (24, s.now)]) s) s)

/-- TIME_PONG (R561): half the round trip, without the partner's own time. -/
def execTimePong (p : Fin 16) (f : FrameIn) (s : State) : Host.Outcome State Fault Refusal :=
  .next (mgmtRow 0x8D p f (fun w s =>
    match (s.port p).pingT1 with
    | some t => s.setPort p { s.port p with pingT1 := none, delay := ((s.now - t) - (mgN w 24 8 - mgN w 16 8)) / 2 }
    | none => s) s)

/-! ### Beacons (R444 to R447, R562) -/

/-- BEACON: each TURN goes on once, and the Cadence unit takes it (R444 to R446, R562). -/
def beaconHere (p : Nat) (w : BitVec 512) (s : State) : State :=
  let turn : Half := mgF w 8 4
  if s.house.hstate ≠ .wing || s.house.lastBeacon = some turn then s else
  let s := floodBut (some p) w { s with house := { s.house with lastBeacon := some turn } }
  cadBeacon turn (mgN w 12 8) (mgN w 20 5) (mgN w 25 1 = 4) s

/-- BEACON (R444, R562). -/
def execBeacon (p : Fin 16) (f : FrameIn) (s : State) : Host.Outcome State Fault Refusal :=
  .next (mgmtRow 0x8B p f (beaconHere p) s)

/-! ### HOUSE_POLICY (R546, R552) -/

def housePolicy (k : Nat) (pk : BitVec 512) (s : State) : State :=
  if 1024 < p16 pk 18 then cmdBad k pk Dt.range s
  else cmdOk k pk 0 0 { s with house := { s.house with
    hallAllow := pk.getLsbD 128, acceptJoin := pk.getLsbD 129
    maxNodes := if p16 pk 18 = 0 then 1024 else p16 pk 18
    settleUs := if p32 pk 20 = 0 then 5000 else BitVec.ofNat 32 (p32 pk 20) } }

/-- HOUSE_POLICY (R546, R549, R552). -/
def execHousePolicy (k : Fin 64) (pkt : BitVec 512) (s : State) : Host.Outcome State Fault Refusal :=
  .next (takePacket 0x0072 k pkt (housePolicy k pkt) s)

end Sys2Proof.Machine
end

