-- ==== Sys2Proof/Machine/GroupCmds.lean ====
section
/-! DEFINITION. The group table: GROUP_DEFINE and GROUP_RELEASE at the Hall, GROUP_SET at members (12 R564 to R566,
06 R294). -/
namespace Sys2Proof.Machine

/-! ### Members (R564 to R566) -/

/-- The lowest slot that no group of this node has (R587). -/
def freeGroupSlot (s : State) : Nat :=
  ((List.range 32).find? fun i => !(s.groups.any (·.2.slot = i))).getD 0

/-- A member's checks of a definition: OK, or the status of its refusal (R564). -/
def groupStatus (s : State) (room kib : Nat) : Byte :=
  if (s.room room).state = .none then St.malformed
  else if 32 ≤ s.groups.length || 24576 < s.groups.foldl (fun n g => n + g.2.kib) kib then St.quota
  else St.ok

/-- A node takes a group: a group of the same number ends first. -/
def takeGroup (g room members rank kib : Nat) (s : State) : State × Byte :=
  let s := if (groupOf s g).isSome then endGroup g St.linkDown s else s
  let st := groupStatus s room kib
  if st ≠ St.ok then (s, st)
  else (setGroup g { slot := freeGroupSlot s, room := room, members := members, rank := rank, kib := kib } s, St.ok)

/-! ### The Hall (R564, R566) -/

/-- GROUP_SET from the Hall to a member. -/
def groupMsg (s : State) (g n room members rank kib op status : Nat) : BitVec 512 :=
  mgMsg 0x8E 0 (mgSrc s) n
    [(8, g), (9, room), (10, members), (12, rank), (16, kib), (20, op), (21, status)]

/-- The GROUP command in progress for a group. -/
def groupLong (s : State) (g : Nat) : Option LongCmd :=
  s.fy.longs.find? fun l => (pktOpcode l.packet = 0x73 || pktOpcode l.packet = 0x74) && p8 l.packet 16 = g

/-- Replace a long command. -/
def putLong (l l' : LongCmd) (s : State) : State :=
  { s with fy := { s.fy with longs := s.fy.longs.map fun x => if x = l then l' else x } }

/-- Node IDs of a GROUP_DEFINE's list; none where the Host read fails (R294). -/
def groupList (s : State) (p : BitVec 512) : Option (List Nat) :=
  let n := p16 p 18
  (hostGet s 0 (offOf (p64 p 24)) (2 * n)).map fun bs => (List.range n).map fun i => leNat ((bs.drop (2 * i)).take 2)

/-- A group leaves the members that hold it: GROUP_SET with OP 1 (R564, R566). -/
def releaseAt (g room : Nat) (ns : List Nat) (s : State) : State :=
  ns.foldl (fun t n =>
    if n = ownNode t then endGroup g St.linkDown t else mgmtTo n (groupMsg t g n room 0 0 0 1 0) t) s

/-- A GROUP command whose answers are all in, or whose time is up, ends (R564, R566). -/
def endGroupCmd (l : LongCmd) (s : State) : State :=
  let g := p8 l.packet 16
  let st := if l.status ≠ St.ok then l.status else if l.awaits ≠ [] then St.linkDown else St.ok
  if pktOpcode l.packet = 0x74 then
    endLong l st l.detail (if st = St.ok then BitVec.ofNat 64 l.done.length else 0) 0 s
  else if st = St.ok then
    endLong l St.ok 0 (BitVec.ofNat 64 l.done.length) 0
      { s with house := { s.house with
        groupDefs := tput s.house.groupDefs g { room := pkRoom l.packet, members := l.members, kib := p32 l.packet 20 } } }
  else endLong l st l.detail 0 0 (releaseAt g (pkRoom l.packet) l.done s)

/-- A member has answered a GROUP command: OP 2 accepts, OP 3 refuses with a status; the first refusal's counts
(R564). -/
def groupAnswer (g n : Nat) (accepts : Bool) (status : Byte) (s : State) : State :=
  match groupLong s g with
  | none => s
  | some l =>
    if !l.awaits.contains n then s else
    let bad : Bool := !accepts && l.status = St.ok
    let l' : LongCmd := { l with
      awaits := l.awaits.filter (· ≠ n)
      done := if accepts then l.done ++ [n] else l.done
      status := if bad then (if status = St.ok then St.linkDown else status) else l.status
      detail := if bad && status = St.malformed then Dt.notFound else l.detail }
    let s := putLong l l' s
    if l'.awaits = [] then endGroupCmd l' s else s

/-- Ask every member, this node among them, in the order of their ranks. -/
def askMembers (g room kib : Nat) (ns : List Nat) (s : State) : State :=
  (ns.zip (List.range ns.length)).foldl (fun t x =>
    if x.1 = ownNode t then
      match takeGroup g room ns.length x.2 kib t with
      | (t, st) => groupAnswer g x.1 (st = St.ok) st t
    else mgmtTo x.1 (groupMsg t g x.1 room ns.length x.2 kib 0 0) t) s

/-- Start a GROUP command that awaits answers. -/
def startGroupCmd (k : Nat) (p : BitVec 512) (ns : List Nat) (s : State) : State :=
  { s with fy := { s.fy with
    longs := s.fy.longs ++ [{ ring := k, packet := p, start := s.now, awaits := ns, members := ns }] } }

/-- GROUP_DEFINE (R279, R294, R564). -/
def groupDefine (k : Nat) (p : BitVec 512) (s : State) : State :=
  let n := p16 p 18
  let kib := p32 p 20
  let a := p64 p 24
  if n < 2 || 1024 < n || kib < 1 || 24576 < kib || spaceOf a ≠ some .host then cmdBad k p Dt.range s
  else if !s.house.isHall then cmdBad k p Dt.state s
  else if s.house.groupDefs.any (·.1 = p8 p 16) then cmdBad k p Dt.exists_ s
  else match groupList s p with
    | none => cmdFail k p St.busError s
    | some ns =>
      if ns.eraseDups.length ≠ ns.length then cmdBad k p Dt.range s
      else if !ns.all (isMember s) then cmdFail k p St.linkDown s
      else askMembers (p8 p 16) (pkRoom p) kib ns (startGroupCmd k p ns s)

/-- GROUP_DEFINE (R564). -/
def execGroupDefine (k : Fin 64) (pkt : BitVec 512) (s : State) : Host.Outcome State Fault Refusal :=
  .next (takeLong 0x0073 k pkt (groupDefine k pkt) s)

/-- GROUP_RELEASE (R294, R566). -/
def groupRelease (k : Nat) (p : BitVec 512) (s : State) : State :=
  let g := p8 p 16
  if !s.house.isHall then cmdBad k p Dt.state s
  else match s.house.groupDefs.find? (·.1 = g) with
    | none => cmdBad k p Dt.notFound s
    | some (_, d) =>
      let s : State := { s with house := { s.house with
        groupDefs := tdel s.house.groupDefs g, barriers := tdel s.house.barriers g } }
      let s := releaseAt g d.room d.members (startGroupCmd k p d.members s)
      if d.members.contains (ownNode s) then groupAnswer g (ownNode s) true St.ok s else s

/-- GROUP_RELEASE (R566). -/
def execGroupRelease (k : Fin 64) (pkt : BitVec 512) (s : State) : Host.Outcome State Fault Refusal :=
  .next (takeLong 0x0074 k pkt (groupRelease k pkt) s)

/-- GROUP_DEFINE_TIMEOUT: 10 ms without every answer (R564). -/
def execGroupDefineTimeout (g : BitVec 8) (s : State) : Host.Outcome State Fault Refusal :=
  match groupLong s g.toNat with
  | some l => .next (if l.awaits ≠ [] && l.start + 10000000 ≤ s.now then endGroupCmd l s else s)
  | none => .next s

/-! ### GROUP_SET (R564, R566) -/

/-- A GROUP_SET for this node. -/
def groupSetHere (w : BitVec 512) (s : State) : State :=
  let g := mgN w 8 1
  let src := mgN w 4 2
  let op := mgN w 20 1
  let answer (op : Nat) (st : Byte) (s : State) : State :=
    mgmtTo src (groupMsg s g src (mgN w 9 1) (mgN w 10 2) (mgN w 12 2) (mgN w 16 4) op st.toNat) s
  if !inHouse s then s
  else if op = 0 && src = 0 then
    match takeGroup g (mgN w 9 1) (mgN w 10 2) (mgN w 12 2) (mgN w 16 4) s with
    | (s, st) => answer (if st = St.ok then 2 else 3) st s
  else if op = 1 && src = 0 then
    answer 2 St.ok (if (groupOf s g).isSome then endGroup g St.linkDown s else s)
  else if op = 4 && src = 0 then (if (groupOf s g).isSome then houseIrq 2 (endGroup g St.linkDown s) else s)
  else if s.house.isHall && (op = 2 || op = 3) then groupAnswer g src (op = 2) (mgF w 21 1) s
  else s

/-- GROUP_SET (R564, R566). -/
def execGroupSet (p : Fin 16) (f : FrameIn) (s : State) : Host.Outcome State Fault Refusal :=
  .next (mgmtRow 0x8E p f groupSetHere s)

end Sys2Proof.Machine
end

