-- ==== Sys2Proof/Machine/HostBus.lean ====
section
/-! DEFINITION. PCIe: completions of the block's reads, the BAR2 aperture, configuration requests (03 R141, R143, 07 R320,
R323, R346, 10 R475, 15 R648 to R652, R658, R660). -/
namespace Sys2Proof.Machine

/-! ### Completions (R141, R143, R346) -/

/-- A zero-length read's completion proves that a channel's Host writes have arrived (R141). -/
def proofDone (k : Nat) (ok : Bool) (s : State) : State :=
  match s.proofs.find? (·.1 = k) with
  | none => s
  | some x =>
    let s := { s with proofs := s.proofs.erase x }
    if ok then arrive1 x.2 .host s else failFlight x.2 .host St.busError s

/-- Data of a read has come: Host memory is as the completion shows it, and the instruction goes on when all of the burst is
here (R49, R142). -/
def readDone (k : Nat) (r : HostRead) (data : List Byte) (s : State) : State :=
  let n := min data.length r.len
  let left : HostRead := { r with addr := r.addr + n, len := r.len - n }
  let s : State := { s with host := mwrite s.host (hostKey k r.addr) (data.take n) }
  if left.len = 0 then
    readArrived r.chan r.addr (data.take n) { s with hostReads := s.hostReads.erase r }
  else setCur r.chan (fun q => { q with staged := q.staged ++ [(r.addr, data.take n)] })
    { s with hostReads := s.hostReads.map fun x => if x = r then left else x }

/-- A completion for none of the channels' reads: the error of a packet fetch that the Foyer makes of the ring now (R263), or
the answer to a zero-length read. -/
def otherDone (k : Nat) (addr : BitVec 60) (data : List Byte) (ok : Bool) (s : State) : State :=
  if !ok && canTake s k && addr.toNat = packetSlot (s.ring k) then fetchFails k s
  else if data = [] then proofDone k ok s else s

/-- PCIE_COMPLETION: one that belongs to nothing any more is discarded (R346). -/
def execPcieCompletion (k : Fin 64) (addr : BitVec 60) (data : List Byte) (ok : Bool) (s : State) :
    Host.Outcome State Fault Refusal :=
  let n : Nat := k
  match s.hostReads.find? (fun r => r.room = n && r.addr = addr.toNat) with
  | some r =>
    if !ok then .next (failWork r.chan St.busError { s with hostReads := s.hostReads.filter (·.chan ≠ r.chan) })
    else if data = [] then .next (proofDone n ok s)
    else .next (readDone n r data s)
  | none => .next (otherDone n addr data ok s)

/-! ### BAR2 (R475, R648 to R652, R688) -/

/-- BAR2 answers: from BOOT on, where the PF's Memory Space Enable is set (R687). -/
def bar2Open (s : State) : Bool := fnOpen s 0

/-- The audit record of a BAR2 access (R475, R652). -/
def bar2Rec (status : Byte) (off : Nat) (s : State) : State :=
  auditRec { status := status, severity := 1, unitKind := 13, unit := 2, object := BitVec.ofNat 64 off } s

/-- The parts of [a, a + n) that lie in one quadrant each: start and length. -/
def quadParts (a n : Nat) : List (Nat × Nat) :=
  (List.range 4).filterMap fun q =>
    let lo := max a (q * quadrantSize)
    let hi := min (a + n) ((q + 1) * quadrantSize)
    if lo < hi then some (lo, hi - lo) else none

/-- A quadrant still takes accesses: until it leaves DRAINING (R475). -/
def quadOpen (s : State) (a : Nat) : Bool :=
  let st := pdOf s (pdPantry a)
  st = .on || st = .closing || st = .draining

/-- Write a part of a BAR2 write to the Pantry, or drop it (R475, R649). -/
def bar2Part (a : Nat) (data : List Byte) (en : List Bool) (s : State) (x : Nat × Nat) : State :=
  if quadOpen s x.1 then
    (pantryPut none 0 x.1 ((data.drop (x.1 - a)).take x.2) ((en.drop (x.1 - a)).take x.2) s).1
  else bar2Rec St.domainOff x.1 (wakeOnDemand (pdPantry x.1) s)

/-- BAR2_WRITE (R649, R652); the beats after a cut of its grant are dropped (R421). -/
def execBar2Write (offset : BitVec 29) (data : List Byte) (enables : List Bool) (s : State) :
    Host.Outcome State Fault Refusal :=
  let a := offset.toNat
  if !bar2Open s then .next (s.emit .unsupported)
  else
    let data := data.take (s.bar2Cut.getD data.length)
    let s := { s with bar2Cut := none }
    let s := if pantrySize < a + data.length then bar2Rec St.malformed (max a pantrySize) s else s
    .next ((quadParts a data.length).foldl (bar2Part a data enables) s)

/-- Bytes of a Larder-view read: words one by one, an uncorrectable one poisons (R651, R652, R658). -/
def larderView (a n : Nat) (s : State) : State × List Byte × Bool :=
  if s.g.debugLocked || !pdOn s pdLarder then (s, List.replicate n 0, false)
  else
    let bad := s.larderUe.filter fun w => w * 8 < a + n && a < (w + 1) * 8
    (bad.foldl (fun t w => eccReport 1 none 0 (w * 8) t) s, mread s.larder a n, bad ≠ [])

/-- BAR2_READ (R475, R651, R652). -/
def execBar2Read (offset : BitVec 29) (len : Nat) (s : State) : Host.Outcome State Fault Refusal :=
  let a := offset.toNat
  if !bar2Open s then .next (s.emit .unsupported)
  else if a + len ≤ pantrySize then
    match (quadParts a len).find? (fun x => !quadOpen s x.1) with
    | some x => .next ((bar2Rec St.domainOff x.1 (wakeOnDemand (pdPantry x.1) s)).emit .completerAbort)
    | none =>
      let bad := s.pantryUe.filter fun l => l * 64 < a + len && a < (l + 1) * 64
      let s := bad.foldl (fun t l => eccReport 0 none 0 (l * 64) t) (pdTouch (pdPantry a) s)
      .next (s.emit (.bar2Data (mread s.pantry a len) (bad ≠ [])))
  else if pantrySize ≤ a && a + len ≤ pantrySize + larderSize then
    match larderView (a - pantrySize) len s with
    | (s, bs, p) => .next (s.emit (.bar2Data bs p))
  else
    .next ((bar2Rec St.malformed a s).emit (.bar2Data (List.replicate len 0) false))

/-! ### Configuration requests (R320, R323, R660; log entry 16) -/

/-- Command register of a function, its Memory Space and Bus Master Enable bits. -/
abbrev cfgCommand : Nat := 0x004
/-- Vendor ID and Device ID. -/
abbrev cfgIds : Nat := 0x000
/-- Device Control of the PCI Express capability: Max_Payload_Size in bits [7:5]. -/
abbrev cfgDevCtl : Nat := 0x048
/-- The SR-IOV capability's control, VF counts and NumVFs. -/
abbrev cfgSriovCtl : Nat := 0x168
abbrev cfgTotalVfs : Nat := 0x16C
abbrev cfgNumVfs : Nat := 0x170
/-- The VF Device ID. -/
abbrev cfgVfDevice : Nat := 0x178

/-- The PF's six BAR registers, and the VF BAR registers of the SR-IOV capability. -/
abbrev cfgBar : Nat := 0x010
abbrev cfgVfBar : Nat := 0x184

/-- A 64-bit BAR of a size, as its two registers read: type bits and address (R645). -/
def barHalf (addr : Word) (prefetch high : Bool) : Half :=
  if high then fld addr 32 32 else fld addr 0 32 ||| (if prefetch then 0xC#32 else 0x4#32)

/-- Half of a 64-bit BAR is written: the bits below its size stay 0. -/
def putBar (addr : Word) (size : Nat) (high : Bool) (v : Half) : Word :=
  let w : Word := if high then v ++ (fld addr 0 32 : Half) else (fld addr 32 32 : Half) ++ v
  BitVec.ofNat 64 (w.toNat / size * size)

/-- BAR register i of a function, or of its VFs: BAR0 and BAR2 of the PF and VF BAR0 only (R645). -/
def readBar (s : State) (vf : Bool) (i : Nat) : Half :=
  match vf, i with
  | true, 0 => barHalf s.pcie.vfBar0 false false
  | true, 1 => barHalf s.pcie.vfBar0 false true
  | false, 0 => barHalf s.pcie.bar0 false false
  | false, 1 => barHalf s.pcie.bar0 false true
  | false, 2 => barHalf s.pcie.bar2 true false
  | false, 3 => barHalf s.pcie.bar2 true true
  | _, _ => 0

/-- A BAR register is written. -/
def writeBar (vf : Bool) (i : Nat) (v : Half) (s : State) : State :=
  let x := s.pcie
  let high : Bool := i % 2 = 1
  match vf, i / 2 with
  | true, 0 => { s with pcie := { x with vfBar0 := putBar x.vfBar0 (2 ^ 20) high v } }
  | false, 0 => { s with pcie := { x with bar0 := putBar x.bar0 (2 ^ 26) high v } }
  | false, 1 => { s with pcie := { x with bar2 := putBar x.bar2 (2 ^ 29) high v } }
  | _, _ => s

/-- The BAR register at a configuration offset: of the VFs or not, and its number. -/
def barOf (reg : Nat) : Option (Bool × Nat) :=
  if cfgBar ≤ reg && reg < cfgBar + 24 && reg % 4 = 0 then some (false, (reg - cfgBar) / 4)
  else if cfgVfBar ≤ reg && reg < cfgVfBar + 24 && reg % 4 = 0 then some (true, (reg - cfgVfBar) / 4)
  else none

/-- Device ID of a function (R18). -/
def deviceId (fn : Nat) : Nat := if fn = 0 then 0x0250 else 0x0251

/-- The code of a payload size, and the size of a code that the block accepts (R33). -/
def mpsCode (mps : Nat) : Nat := Nat.log2 (mps / 128)
def mpsOf (code : Nat) : Option Nat := if code ≤ 2 then some (128 * 2 ^ code) else none

/-- A configuration register's value: the bits that the model holds, the rest open. -/
def configRead (s : State) (fn reg : Nat) : Half :=
  let open_ := Config.configSpace fn reg
  match barOf reg with
  | some (vf, i) => if fn = 0 then readBar s vf i else if vf then open_ else 0
  | none =>
  if reg = cfgIds then (Config.configSpace 0 cfgIds &&& 0xFFFF#32) ||| BitVec.ofNat 32 (deviceId fn * 2 ^ 16)
  else if fn = 0 && reg = cfgVfDevice then (open_ &&& 0xFFFF#32) ||| BitVec.ofNat 32 (deviceId 1 * 2 ^ 16)
  else if fn = 0 && reg = cfgDevCtl then (open_ &&& ~~~0xE0#32) ||| BitVec.ofNat 32 (mpsCode s.pcie.mps * 2 ^ 5)
  else if reg = cfgCommand then
    (open_ &&& ~~~6#32) ||| BitVec.ofNat 32 (b1 (s.pcie.mse.contains fn) * 2 + b1 (s.pcie.bme.contains fn) * 4)
  else if fn = 0 && reg = cfgSriovCtl then (open_ &&& ~~~1#32) ||| BitVec.ofNat 32 (b1 s.pcie.vfEnable)
  else if fn = 0 && reg = cfgTotalVfs then 0x003F_003F#32
  else if fn = 0 && reg = cfgNumVfs then (open_ &&& ~~~0xFFFF#32) ||| BitVec.ofNat 32 s.pcie.numVfs
  else open_

/-- A configuration write. -/
def configWrite (fn reg : Nat) (v : Half) (s : State) : State :=
  let put (l : List Nat) (on : Bool) : List Nat := if on then ninsert l fn else nremove l fn
  match barOf reg with
  | some (vf, i) => if fn = 0 then writeBar vf i v s else s
  | none =>
  if reg = cfgCommand then
    { s with pcie := { s.pcie with mse := put s.pcie.mse (v.getLsbD 1), bme := put s.pcie.bme (v.getLsbD 2) } }
  else if fn = 0 && reg = cfgDevCtl then
    { s with pcie := { s.pcie with mps := (mpsOf (fld v 5 3).toNat).getD s.pcie.mps } }
  else if fn = 0 && reg = cfgSriovCtl then
    if v.getLsbD 0 then { s with pcie := { s.pcie with vfEnable := s.pcie.numVfs ≠ 0 } } else shrinkVfs 0 s
  else if fn = 0 && reg = cfgNumVfs then
    let n := (v.setWidth 16).toNat
    if s.pcie.vfEnable then shrinkVfs n s
    else if n ≤ 63 then { s with pcie := { s.pcie with numVfs := n } } else s
  else s

/-- CONFIG_REQUEST (R660). -/
def execConfigRequest (k : Fin 64) (reg : BitVec 12) (isWrite : Bool) (v : BitVec 32) (s : State) :
    Host.Outcome State Fault Refusal :=
  if !s.g.powered || !s.pcie.linkUp then .next s
  else if s.g.devState = .init then .next (s.emit .configRetry)
  else if !fnExists s k then .next (s.emit .unsupported)
  else if isWrite then .next (configWrite k reg.toNat v s)
  else .next (s.emit (.configData (configRead s k reg.toNat)))

end Sys2Proof.Machine
end

