-- ==== Sys2Proof/Machine/Boot.lean ====
section
/-! DEFINITION. Power, resets and boot: power-on and loss, device resets, INIT, the loader's choice of a flash half, the
recovery mailbox, Foyer restarts, FW_UPDATE and the end of long commands; the driven pins (06 R272 to R277, R296, 14 R637,
15 R660 to R667, 16 R673 to R692). -/
namespace Sys2Proof.Machine

/-! ### Driven pins -/

/-- ALERT_N is driven low (R637, R692). -/
def alertLow (s : State) : Bool :=
  s.pins.pwrgd && (s.fy.state = .fault || s.fy.state = .bootFail || s.err.internal || !s.pins.refclkSys)

/-- THERM_TRIP_N is driven low (R461, R462). -/
def thermTripLow (s : State) : Bool := s.g.powered && s.nrg.tripped

/-- CAD_OUT (R448). -/
def cadOut (s : State) : Bool := s.g.powered && s.cad.outEn && !s.cad.phase.getLsbD 31

/-- CORE_VID code: 5 until the end of INIT, then the fused one (R673). -/
def coreVid (s : State) : BitVec 4 := if s.g.devState = .init then 5 else s.g.coreVidFused

/-! ### Images (R681 to R683) -/

/-- A number in an image. -/
def imgN (img : List Byte) (k n : Nat) : Nat := leNat ((img.drop k).take n)
/-- Octets of an image. -/
def imgBytes (img : List Byte) (k n : Nat) : List Byte := (img.drop k).take n
def imgZero (img : List Byte) (k l : Nat) : Bool := (imgBytes img k (l - k)).all (· = 0)

/-- BODY_LEN is permitted and fits the image's length. -/
def imgLenOk (img : List Byte) : Bool :=
  let n := imgN img 16 4
  4096 ≤ n && n ≤ 16773120 && n % 4096 = 0 && img.length = 4096 + n

/-- SEC_VERSION of a VERSION field. -/
abbrev secVersion (v : Word) : BitVec 16 := fld v 48 16

/-- The fused hash and the signature over bytes 0 to 19 and 24 to 175 verify (R682, R683). -/
def imgSigned (s : State) (img : List Byte) : Bool :=
  leNat (sha384 (imgBytes img 72 97)) = s.g.keyHash.toNat
    && ecdsaOk (ecUncompress (imgBytes img 72 97)) (sha384 (img.take 20 ++ imgBytes img 24 152))
      (beNat (imgBytes img 176 48)) (beNat (imgBytes img 224 48))

/-- The image verifies but for its security version (R683). -/
def imgVerifies (s : State) (img : List Byte) : Bool :=
  s.g.keyHashSet && imgLenOk img && imgN img 0 4 = 0x57464C4F && imgN img 4 2 = 1 && imgZero img 6 8
    && imgZero img 169 176 && imgZero img 272 4096 && imgSigned s img && imgBytes img 24 48 = sha384 (img.drop 4096)

abbrev imgVersion (img : List Byte) : Word := BitVec.ofNat 64 (imgN img 8 8)

/-- Where a half lies in the flash (R681). -/
def halfAt (i : Nat) : Nat := i * 2 ^ 24

/-- The image in a half: its header, and as much behind it as BODY_LEN says. -/
def halfImage (s : State) (i : Nat) : List Byte :=
  mread s.flash (halfAt i) (4096 + min (leNat (mread s.flash (halfAt i + 16) 4)) 16773120)

def halfSeq (s : State) (i : Nat) : Half := BitVec.ofNat 32 (leNat (mread s.flash (halfAt i + 20) 4))

/-- A half verifies (R683, R685); `ok`: it was read without a read error. -/
def halfVerifies (s : State) (i : Nat) (ok : Bool) : Bool :=
  ok && imgVerifies s (halfImage s i) && s.g.rollback ≤ secVersion (imgVersion (halfImage s i))

/-- A half verifies as FW_UPDATE finds it; whether its reading meets an error is open. -/
def halfUsable (s : State) (i : Nat) : Bool := halfVerifies s i (Config.flashReadOk (2 * s.free + i))

/-! ### Resets (R661, R662, R674, R675, R679) -/

/-- A memory in canonical form from what a reset leaves, below a size. -/
def leftMemory (n size : Nat) : List Host.Cell :=
  (Config.memoryAfterReset n).foldl (fun m c => if c.1 < size then mset m c.1 c.2 else m) []

/-- An FW_UPDATE is writing the inactive half, which then does not verify (R679). -/
def updating (s : State) : Bool := s.fy.longs.any fun l => pktOpcode l.packet = 0xF0

/-- The half that FW_UPDATE writes (R686). -/
def updateHalf (s : State) : Nat :=
  if !s.g.bootSel then (if s.g.bootHalf then 0 else 1)
  else if !halfUsable s 0 then 0 else if !halfUsable s 1 then 1
  else if 0 ≤ (halfSeq s 0 - halfSeq s 1).toInt then 1 else 0

/-- A half whose writing did not come to its end, from byte k of it on: nothing says what it holds. -/
def spoiltHalf (s : State) (i k : Nat) : List Host.Cell :=
  (Config.flashLeft s.free).foldl (fun m c => if halfAt i + k ≤ c.1 && c.1 < halfAt (i + 1) then mset m c.1 c.2 else m)
    (mzero s.flash (halfAt i) (2 ^ 24))

/-- The flash after a reset that may have cut a write off: the half has no MAGIC (R679). -/
def flashAfter (s : State) : List Host.Cell := if updating s then spoiltHalf s (updateHalf s) 4 else s.flash

/-- Everything returns to reset but the pins, the fuses, the flash, Host memory, the outputs and the queue; memories hold
what nothing guarantees, and a new NONCE is drawn (R546, R662). -/
def coldState (g : Gctl) (s : State) : State :=
  { State.reset with
    pending := s.pending, outputs := s.outputs, host := s.host, pins := s.pins, flash := flashAfter s
    free := s.free + 4
    g := { g with serial := s.g.serial, rollback := s.g.rollback, keyHashSet := s.g.keyHashSet, keyHash := s.g.keyHash,
                  debugLocked := s.g.debugLocked, coreVidFused := s.g.coreVidFused }
    pantry := leftMemory s.free pantrySize, cellar := leftMemory (s.free + 1) cellarSize
    larder := leftMemory (s.free + 2) larderSize
    house := { State.reset.house with nonce := Config.nonce (s.free + 3) } }

/-- A device reset of a source (R661, R662). House time and the scratch register stay, and so does the PF's command
register under DEVICE, which keeps the link (log entry 16). -/
def deviceReset (source : BitVec 3) (s : State) : State :=
  let g : Gctl := { scratch := s.g.scratch, devResets := s.g.devResets + 1, lastReset := source
                    houseTime := s.g.houseTime, powered := s.g.powered }
  let t := coldState g s
  let kept (fs : List Nat) : List Nat := if source = 4 then fs.filter (· = 0) else []
  { t with side := s.side, house := { t.house with slew := 0 }
           pcie := { t.pcie with bme := kept s.pcie.bme, mse := kept s.pcie.mse
                                 bar0 := if source = 4 then s.pcie.bar0 else 0, bar2 := if source = 4 then s.pcie.bar2 else 0
                                 vfBar0 := if source = 4 then s.pcie.vfBar0 else 0
                                 mps := if source = 3 || source = 4 then s.pcie.mps else t.pcie.mps } }

/-- What a function-level event does while the device has power. -/
def ifPowered (f : State → State) (s : State) : State := if s.g.powered then f s else s

/-- PWRGD_RISE: a power-on, with house time from 0 (R674). -/
def execPwrgdRise (s : State) : Host.Outcome State Fault Refusal :=
  if s.pins.pwrgd then .next s
  else
    let s := { s with pins := { s.pins with pwrgd := true } }
    let t := coldState {} s
    .next { t with g := { t.g with powered := s.pins.refclkSys }
                   pcie := { t.pcie with linkUp := s.pins.perstN } }

/-- PWRGD_FALL: the device stops at once, and everything is lost (R675). -/
def execPwrgdFall (s : State) : Host.Outcome State Fault Refusal :=
  let t := coldState { powered := false, initStarted := false } { s with pins := { s.pins with pwrgd := false } }
  .next { t with pcie := { t.pcie with linkUp := false } }

/-- PERST_N_ASSERT (R661): the device is held in reset while PERST_N is low (R674). -/
def execPerstNAssert (s : State) : Host.Outcome State Fault Refusal :=
  let low := s.pins.perstN
  let s := { s with pins := { s.pins with perstN := false } }
  .next (if low then ifPowered (fun s =>
    let t := deviceReset 1 s
    { t with g := { t.g with initStarted := false }, pcie := { t.pcie with linkUp := false } }) s else s)

/-- PERST_N_DEASSERT: INIT starts, with REFCLK_PCIE stable and the link trained again (R674, R677). -/
def execPerstNDeassert (s : State) : Host.Outcome State Fault Refusal :=
  if s.pins.perstN then .next s
  else
    let s := { s with pins := { s.pins with perstN := true, refclkPcie := true } }
    .next (ifPowered (fun s => { s with g := { s.g with initStarted := true }, pcie := { s.pcie with linkUp := true } }) s)

/-- A reset from the bus reaches a device that runs. -/
def busReset (source : BitVec 3) (s : State) : State :=
  if s.g.powered && s.pins.perstN then deviceReset source s else s

/-- PCIE_HOT_RESET (R661). -/
def execPcieHotReset (s : State) : Host.Outcome State Fault Refusal := .next (busReset 2 s)

/-- PF_FLR (R661). -/
def execPfFlr (s : State) : Host.Outcome State Fault Refusal := .next (busReset 3 s)

/-- REFCLK_PCIE_LOSS: a hot reset, and the link is down (R692). -/
def execRefclkPcieLoss (s : State) : Host.Outcome State Fault Refusal :=
  let t := busReset 2 { s with pins := { s.pins with refclkPcie := false } }
  .next { t with pcie := { t.pcie with linkUp := false } }

/-- REFCLK_SYS_LOSS: the device stops as without PWRGD and drives ALERT_N low (R692). -/
def execRefclkSysLoss (s : State) : Host.Outcome State Fault Refusal :=
  let t := coldState { powered := false, initStarted := false } { s with pins := { s.pins with refclkSys := false } }
  .next { t with pcie := { t.pcie with linkUp := false } }

/-- REFCLK_SYS_RESTORED: a power-on once the clock has been stable (R692). -/
def execRefclkSysRestored (s : State) : Host.Outcome State Fault Refusal :=
  if s.pins.refclkSys then .next s
  else
    let s := { s with pins := { s.pins with refclkSys := true } }
    let t := coldState {} s
    .next { t with g := { t.g with powered := s.pins.pwrgd, initStarted := s.pins.pwrgd && s.pins.perstN }
                   pcie := { t.pcie with linkUp := s.pins.pwrgd && s.pins.perstN } }

/-! ### INIT (R677, R698) -/

/-- INIT_COMPLETE: the straps are sampled, a power-on writes the Pantry and the Larder to 0, and the loader takes over. -/
def execInitComplete (s : State) : Host.Outcome State Fault Refusal :=
  if s.g.powered && s.pins.perstN && s.g.initStarted && s.g.devState = .init then
    let s := { s with
      g := { s.g with devState := .boot, hallEligible := s.pins.strapHallEligible, claimPrio := s.pins.strapClaimPrio
                      bootSel := s.pins.strapBootSel }
      fy := { s.fy with state := .boot } }
    .next (if s.g.lastReset = 0 then { s with pantry := [], larder := [], pantryUe := [], larderUe := [] } else s)
  else .next s

/-! ### READY (R318, R467, R664, R666, R684, R685) -/

/-- Management messages that waited for the Foyer (R666). -/
def runParked (s : State) : State :=
  let ms := s.house.parked
  ms.foldl (fun t x => match mgN x.2 0 1 with
    | 0x82 => joinReqHere x.1 x.2 t
    | 0x84 => keyShareHere x.1 x.2 t
    | 0x85 => keyDeliverHere x.1 x.2 t
    | 0x87 => keyReqHere x.2 t
    | 0x8E => groupSetHere x.2 t
    | _ => t) { s with house := { s.house with parked := [] } }

/-- The firmware runs: the first READY after a device reset makes Room 0 and sets every domain ON; a later one is a
restart's, with its audit record. -/
def foyerReady (half : Bool) (version : Word) (s : State) : State :=
  let old := s.fy.fwVersion
  let first : Bool := (s.room 0).state = .none
  let s := { s with
    fy := { s.fy with state := .ready, fwVersion := version }
    g := { s.g with devState := .ready, bootHalf := half
                    rollback := if s.g.rollback < secVersion version then secVersion version else s.g.rollback } }
  if first then
    let s := s.setRoom 0 { state := .active, share := 1, misuseLimit := 256 }
    runParked (if s.nrg.tripped then s else
      { s with domains := tmap s.domains {} fun _ d => { d with state := .on, waking := false, move := none } })
  else runParked (auditRec { eventRec 0x0230 0 with unitKind := 15, arg0 := old, arg1 := version } s)

/-- Neither half verifies: the Foyer stops (R664, R684). -/
def foyerStops (s : State) : State :=
  let was : Bool := s.fy.state = .fault || s.fy.state = .bootFail
  let s := { s with fy := { s.fy with state := .bootFail }, g := { s.g with devState := .foyerDown } }
  if s.err.fatalIrqEn && !was then pfCause 0 s.err.vector s else s

/-- The half that boots: the newer one that verifies, half 0 on a tie (R684). -/
def bootChoice (seq0 seq1 : Half) (ok0 ok1 : Bool) : Option Bool :=
  let newer1 : Bool := 0 < (seq1 - seq0).toInt
  if newer1 then (if ok1 then some true else if ok0 then some false else none)
  else (if ok0 then some false else if ok1 then some true else none)

/-- BOOT_COMPLETE: the loader has verified the flash halves; the operands say which were read without a read error. With
BOOT_SEL high it reads no flash (R683, R684, R689). -/
def execBootComplete (read0 read1 : Bool) (s : State) : Host.Outcome State Fault Refusal :=
  if s.g.devState = .boot && !s.g.bootSel then
    match bootChoice (halfSeq s 0) (halfSeq s 1) (halfVerifies s 0 read0) (halfVerifies s 1 read1) with
    | some h => .next (foyerReady h (imgVersion (halfImage s (if h then 1 else 0))) s)
    | none => .next (foyerStops s)
  else .next s

/-! ### The recovery mailbox (R689) -/

/-- The loader's answer to a LOAD, and the version it runs. -/
def mailboxResult (s : State) (len : Nat) : Byte × Word :=
  let img := mread s.pantry 0 len
  if len < 8192 || 2 ^ 24 < len || !imgLenOk img then (0xE3, 0)
  else if !imgVerifies s img then (0xE1, 0)
  else if secVersion (imgVersion img) < s.g.rollback then (0xE2, 0)
  else (0x5C, imgVersion img)

/-- A write of the scratch register in BOOT with BOOT_SEL high and MB_CODE LOAD (R689). -/
def loadMailbox (v : Word) (s : State) : State :=
  let s := { s with g := { s.g with scratch := v } }
  if s.g.devState = .boot && s.g.bootSel && fld v 56 8 = 0xB0 then
    match mailboxResult s (fld v 0 32).toNat with
    | (code, ver) =>
      let s := { s with g := { s.g with scratch := code ++ (fld v 0 56 : BitVec 56) } }
      if code = 0x5C then foyerReady false ver s else s
  else s

/-- RECOVERY_LOAD (R689). -/
def execRecoveryLoad (data : BitVec 64) (s : State) : Host.Outcome State Fault Refusal :=
  .next (if fnOpen s 0 then loadMailbox data s else s.emit .unsupported)

/-! ### GCTL_RESET and the Foyer restart (R664, R667) -/

/-- A request for a Foyer restart; a second one is absorbed. -/
def requestRestart (s : State) : State :=
  if s.fy.restart || s.g.devState = .boot then s
  else { s with fy := { s.fy with restart := true }, g := { s.g with foyerRestarts := s.g.foyerRestarts + 1 } }

/-- A write of GCTL_RESET (R667). -/
def writeReset (v : Word) (s : State) : State :=
  if fld v 8 8 ≠ 0xA5 then
    auditRec { status := St.malformed, severity := 1, unitKind := 13, object := 0x18, arg1 := v } s
  else if v.getLsbD 0 then deviceReset 4 s
  else if v.getLsbD 1 then requestRestart s
  else s

/-- DEVICE_RESET_REQUEST (R661, R667). -/
def execDeviceResetRequest (data : BitVec 64) (s : State) : Host.Outcome State Fault Refusal :=
  .next (if fnOpen s 0 then writeReset data s else s.emit .unsupported)

/-- FOYER_RESTART_REQUEST (R664, R667). -/
def execFoyerRestartRequest (data : BitVec 64) (s : State) : Host.Outcome State Fault Refusal :=
  .next (if fnOpen s 0 then writeReset data s else s.emit .unsupported)

/-- FOYER_REBOOT: no long command runs, and the Foyer boots (R664 step 2). The loader's verdict is BOOT_COMPLETE's. -/
def execFoyerReboot (s : State) : Host.Outcome State Fault Refusal :=
  .next (if s.fy.restart && s.fy.longs = [] then
    { s with fy := { s.fy with restart := false, state := .boot }, g := { s.g with devState := .boot } } else s)

/-! ### FW_UPDATE (R274, R279, R296, R686) -/

/-- FW_UPDATE is taken: FY_STATE shows UPDATE. -/
def fwUpdate (k : Nat) (p : BitVec 512) (s : State) : State :=
  let a := p64 p 24
  if p32 p 16 % 4096 ≠ 0 || spaceOf a ≠ some .host || offOf a % 4096 ≠ 0 then cmdBad k p Dt.range s
  else
    let s := startLong k p s
    { s with fy := { s.fy with state := .update } }

/-- FW_UPDATE (R296): it starts only when no other long command runs (R274). -/
def execFwUpdate (k : Fin 64) (pkt : BitVec 512) (s : State) : Host.Outcome State Fault Refusal :=
  .next (if s.fy.longs = [] then takePacket 0x00F0 k pkt (fwUpdate k pkt) s else s)

/-- UPDATE_SEQ that FW_UPDATE writes (R686). -/
def nextUpdateSeq (s : State) : Half :=
  let a := halfSeq s 0
  let b := halfSeq s 1
  if halfUsable s 0 && halfUsable s 1 then (if 0 ≤ (a - b).toInt then a else b) + 1
  else if halfUsable s 0 then a + 1 else if halfUsable s 1 then b + 1 else 1

/-- The flash with an image in half i, its UPDATE_SEQ replaced (R681, R686). -/
def flashWith (s : State) (i : Nat) (seq : Half) (img : List Byte) : List Host.Cell :=
  mwrite (mzero s.flash (halfAt i) (2 ^ 24)) (halfAt i) (img.take 20 ++ leB 4 seq ++ img.drop 24)

/-- The checks and the flash write of FW_UPDATE are done. -/
def finishUpdate (l : LongCmd) (s : State) : State :=
  let s := { s with fy := { s.fy with state := .ready } }
  match hostGet s 0 (offOf (p64 l.packet 24)) (p32 l.packet 16) with
  | none => endLong l St.busError 0 0 0 s
  | some img =>
    if !imgVerifies s img then endLong l St.malformed Dt.signature 0 0 s
    else if secVersion (imgVersion img) < s.g.rollback then endLong l St.malformed Dt.rollback 0 0 s
    else
      let i := updateHalf s
      let seq := nextUpdateSeq s
      let okW := Config.flashWriteOk s.free
      let left := spoiltHalf s i 0
      let s := { s with free := s.free + 1 }
      if okW then endLong l St.ok 0 (imgVersion img) 0 { s with flash := flashWith s i seq img }
      else endLong l St.internal 0 0 0 { s with flash := left }

/-! ### LONG_COMMAND_DONE (R272, R285) -/

/-- A running long command has nothing left to wait for. -/
def finishLong (l : LongCmd) (s : State) : State :=
  match (pktOpcode l.packet).toNat with
  | 0x21 => if l.awaits.all (fun g => !(s.sq g).destroying) then endLong l St.ok 0 l.result0 0 s else s
  | 0x80 =>
    let held := (setDomains s (pkRoom l.packet) (packetSet s l.packet)).filter fun d => !pdOn s d
    if held = [] then finishLoad l s else held.foldl (fun t d => wakeOnDemand d t) s
  | 0xF0 => finishUpdate l s
  | _ => s

/-- LONG_COMMAND_DONE: the long command of ring k ends where its work is done; those that other rows end go on. -/
def execLongCommandDone (k : Fin 64) (s : State) : Host.Outcome State Fault Refusal :=
  match s.fy.longs.find? (·.ring = k.val) with
  | some l => .next (finishLong l s)
  | none => .next s

end Sys2Proof.Machine
end

