-- ==== Sys2Proof/Machine/Upkeep.lean ====
section
/-! DEFINITION. Upkeep of the memories: patrol scrub, Cellar refresh and stack temperature (09 R427, R428, 14 R642,
15 R670). -/
namespace Sys2Proof.Machine

/-! ### Patrol scrub (R642) -/

/-- Lines of the Pantry: an upset number from here up names a line of the Cellar (log entry 25). -/
abbrev pantryLines : Nat := 2 ^ 22

/-- Bursts of 4 KiB in a quadrant. -/
abbrev quadBursts : Nat := 2 ^ 14

/-- First line of the burst that quadrant q's patrol reads next. -/
def scrubLine (s : State) (q : Nat) : Nat := q * 2 ^ 20 + s.err.scrubPos.getD q 0 * 64

/-- The patrol reads one burst of a quadrant on input 15 of its 16 bank groups; what it finds uncorrectable is reported
and stays, and the position moves on (R419, R639, R642). -/
def scrubQuadrant (upset : List Nat) (s : State) (q : Nat) : State :=
  if !pdOn s (3 + q) then s
  else
    let lo := scrubLine s q
    let here (l : Nat) : Bool := lo ≤ l && l < lo + 64
    let s := (List.range 16).foldl (fun t g => emergency (q * 16 + g) t) s
    let s := { s with pantryUe := (upset.filter here).foldl ninsert s.pantryUe }
    let s := (s.pantryUe.filter here).foldl (fun t l => eccReport 0 none 0 (l * 64) t) s
    let n := s.err.scrubPos.getD q 0 + 1
    { s with err := { s.err with
      scrubPos := s.err.scrubPos.set q (n % quadBursts)
      scrubSwept := if n = quadBursts then s.err.scrubSwept.set q true else s.err.scrubSwept } }

/-- PASSES increases when every quadrant that is ON has completed a sweep (R642). -/
def countPass (s : State) : State :=
  let on := (List.range 4).filter fun q => pdOn s (3 + q)
  if on ≠ [] && on.all (fun q => s.err.scrubSwept.getD q false) then
    { s with err := { s.err with scrubPasses := s.err.scrubPasses + 1, scrubSwept := [false, false, false, false] } }
  else s

/-- A Cellar controller's own scrub has found a line uncorrectable (R642). -/
def scrubCellar (s : State) (l : Nat) : State :=
  let a := (l - pantryLines) * 64
  if l < pantryLines || cellarSize ≤ a || !pdOn s (pdCellar a) then s
  else eccReport 2 none 0 a (celCount a 64 1 { s with cellarUe := ninsert s.cellarUe (a / 64) })

/-- SCRUB_BURST: the patrol's turn, every INTERVAL_US while EN is set (R642). -/
def execScrubBurst (corrected : BitVec 32) (upset : List Nat) (s : State) : Host.Outcome State Fault Refusal :=
  if !s.err.scrubEn || s.now < s.err.scrubLast + s.err.scrubIntervalUs.toNat * 1000 then .next s
  else
    let s := { s with err := { s.err with scrubLast := s.now, pantryCorr := satAdd s.err.pantryCorr corrected.toNat } }
    let s := (List.range 4).foldl (scrubQuadrant upset) s
    .next (countPass (upset.foldl scrubCellar s))

/-! ### Cellar refresh and temperature (R427, R428, R670) -/

/-- The controller of a stack runs: its domain is not down (R656). -/
def cellarUp (s : State) (p : Nat) : Bool := pdOf s (13 + p) ≠ .off

/-- CELLAR_REFRESH: a refresh falls due. Under a streaming owner up to 8 are postponed, and then one is forced; otherwise
it is placed, and the postponed ones with it (R427). -/
def execCellarRefresh (p : Fin 4) (streaming : Bool) (s : State) : Host.Outcome State Fault Refusal :=
  let n : Nat := p
  let c := s.cel n
  if !cellarUp s n then .next s
  else if !streaming then .next (s.setCel n { c with postponed := 0 })
  else if c.postponed < 8 then .next (s.setCel n { c with postponed := c.postponed + 1 })
  else .next (s.setCel n { c with forced := satInc c.forced })

/-- CELLAR_TEMP_SAMPLE: the stack's temperature; refresh is doubled above 85 °C (R428, R670). -/
def execCellarTempSample (p : Fin 4) (mc : BitVec 32) (s : State) : Host.Outcome State Fault Refusal :=
  let n : Nat := p
  let c := s.cel n
  if !cellarUp s n then .next s
  else .next (s.setCel n { c with
    sampled := true, tempMc := mc, hot := 85000 < mc.toInt
    peakMc := if !c.sampled || c.peakMc.toInt < mc.toInt then mc else c.peakMc })

end Sys2Proof.Machine
end

