-- ==== Sys2Proof/Machine/SyncViews.lean ====
section
/-! DEFINITION. Register views of the sync fabric: the PF's flag and counter records, the barrier wires, the sync window of a
Room, and the full/empty debug view (08 R397 to R405, 15 R658). -/
namespace Sys2Proof.Machine

/-! ### The PF records (R402) -/

/-- A write of SY_VALUE: a signal with SOURCE 5 (R402). -/
def writeFlag (p : Nat) (v : Bool) (s : State) : State :=
  if (s.flag p).mapped then signalFlag p v (lastSignal s 5 0 (ownNode s)) s else s

/-- SY_VALUE_WRITE (R402). -/
def execSyValueWrite (f : BitVec 16) (v : Bool) (s : State) : Host.Outcome State Fault Refusal :=
  .next (throughBar 0 (writeFlag f.toNat v) s)

/-- The increment that a write of CT_ADD or VW_ADD gives, where it is valid: 1 to 0xFFFF_FFFF by a write that covers the
low half (R402). -/
def addValue (half : RegHalf) (v : Word) : Option Word :=
  let low : Word := (fld v 0 32).setWidth 64
  match half with
  | .full => if v ≠ 0 && v = low then some v else none
  | .low => if low ≠ 0 then some low else none
  | .high => none

/-- A write of CT_ADD (R402). -/
def writeAdd (p : Nat) (half : RegHalf) (v : Word) (s : State) : State :=
  if !(s.counter p).mapped then s
  else match addValue half v with
    | some n => signalCounter p n (lastSignal s 5 0 (ownNode s)) s
    | none => auditRec { status := St.malformed, severity := 1, unitKind := 8, detail := BitVec.ofNat 16 p, arg1 := v } s

/-- CT_ADD_WRITE (R402). -/
def execCtAddWrite (t : BitVec 13) (half : RegHalf) (v : BitVec 64) (s : State) : Host.Outcome State Fault Refusal :=
  .next (throughBar 0 (writeAdd t.toNat half v) s)

/-! ### The sync window of a Room (R404, R405) -/

/-- The Sync-space address that an object of the window has. -/
def windowAddr (isC : Bool) (id : Nat) : Word := BitVec.ofNat 64 (4 * 2 ^ 60 + (if isC then 2 ^ 12 else 0) + id)

/-- A record of a failed window write, in the Room's own fault log (R405): the owner's act, and none of the Room's work. -/
def windowRec (k : Nat) (status : Byte) (isC : Bool) (id : Nat) (v : Word) (s : State) : State :=
  actRec k { status := status, severity := 1, unitKind := 8, object := windowAddr isC id, arg1 := v,
              detail := if status = St.syncUnmapped then 0xFFFF else
                match counterPhys s k id with
                | some p => BitVec.ofNat 16 p
                | none => 0 } s

/-- A write of VW_FLAG: a signal with SOURCE 3 (R404, R405). -/
def writeVwFlag (k id : Nat) (v : Bool) (s : State) : State :=
  if (s.room k).reset.isSome then s
  else match flagPhys s k id with
    | some p => signalFlag p v (lastSignal s 3 0 (ownNode s)) s
    | none => windowRec k St.syncUnmapped false id (if v then 1 else 0) s

/-- VW_FLAG_WRITE (R404). Room 0 has no sync window. -/
def execVwFlagWrite (k : Fin 64) (id : BitVec 12) (v : Bool) (s : State) : Host.Outcome State Fault Refusal :=
  .next (if k.val = 0 then s else throughBar k (writeVwFlag k id.toNat v) s)

/-- A write of VW_ADD (R404, R405). -/
def writeVwAdd (k id : Nat) (half : RegHalf) (v : Word) (s : State) : State :=
  if (s.room k).reset.isSome then s
  else match counterPhys s k id with
    | none => windowRec k St.syncUnmapped true id v s
    | some p => match addValue half v with
      | some n => signalCounter p n (lastSignal s 3 0 (ownNode s)) s
      | none => windowRec k St.malformed true id v s

/-- A write of VW_COUNT is ignored; one that names an unmapped counter is recorded (R404, R405). -/
def writeVwCount (k id : Nat) (v : Word) (s : State) : State :=
  if (s.room k).reset.isSome || (counterPhys s k id).isSome then s else windowRec k St.syncUnmapped true id v s

/-- VW_ADD_WRITE (R404). -/
def execVwAddWrite (k : Fin 64) (id : BitVec 9) (half : RegHalf) (v : BitVec 64) (s : State) :
    Host.Outcome State Fault Refusal :=
  .next (if k.val = 0 then s else throughBar k (writeVwAdd k id.toNat half v) s)

/-! ### Barrier wires (R394, R397) -/

/-- A write of BW_MASK_LO or BW_MASK_HI: the AND is evaluated again, and the waiters of a wire that completes end (R397). -/
def writeMask (w : Nat) (hi : Bool) (half : RegHalf) (v : Word) (s : State) : State :=
  let x := s.wire w
  let x := if hi then { x with maskHi := mergeHalf x.maskHi v half } else { x with maskLo := mergeHalf x.maskLo v half }
  settle (evalWire w (s.setWire w x))

/-- BW_MASK_WRITE (R397). -/
def execBwMaskWrite (w : Fin 32) (hi : Bool) (half : RegHalf) (v : BitVec 64) (s : State) :
    Host.Outcome State Fault Refusal := .next (throughBar 0 (writeMask w hi half v) s)

/-- A waiter waits on a wire. -/
def waitsOnWire (i : Nat) (w : Waiter) : Bool :=
  match w.obj with
  | .wire j => j = i
  | .wireArrive j => j = i
  | _ => false

/-- ENABLE is cleared: the arrivals go, and every wait of the wire ends with SYNC_UNMAPPED (R397). -/
def disableWire (i : Nat) (s : State) : State :=
  releaseWaits (waitsOnWire i) St.syncUnmapped (clearArrivals i (s.setWire i { s.wire i with enable := false }))

/-- BW_ENABLE_CLEAR (R397). -/
def execBwEnableClear (w : Fin 32) (s : State) : Host.Outcome State Fault Refusal :=
  .next (throughBar 0 (disableWire w) s)

/-- A write of BW_CFG: ROOM only while ENABLE is 0; clearing ENABLE as above (R397). -/
def writeWireCfg (i : Nat) (v : Word) (s : State) : State :=
  let x := s.wire i
  let on := v.getLsbD 8
  if x.enable then (if on then s else disableWire i s)
  else settle (evalWire i (s.setWire i { x with room := fld v 0 6, enable := on }))

/-! ### The full/empty debug view (R403, R419, R658) -/

/-- Physical Pantry offset that DBG_FE_ADDR names. -/
def dbgAddr (s : State) : Nat := s.dbgFeAddr.toNat * 8

/-- DBG_FE_VALUE: not valid where the line fails ECC, as an open value. -/
def dbgValue (s : State) : Word :=
  if s.pantryUe.contains (dbgAddr s / 64) then Config.badLineValue (dbgAddr s)
  else BitVec.ofNat 64 (leNat (mread s.pantry (dbgAddr s) 8))

/-- DBG_FE_TAG. -/
def dbgTag (s : State) : Word :=
  let a := dbgAddr s
  let bad := s.pantryUe.contains (a / 64)
  let full : Bool := if bad then Config.badLineTag a else tagFull s (a / 8)
  match regionAt s a with
  | some (k, r, _) => BitVec.ofNat 64 (b1 full + 2 + k * 4 + r * 256 + b1 bad * 4096)
  | none => BitVec.ofNat 64 (b1 full + b1 bad * 4096)

/-- A read of DBG_FE_VALUE or DBG_FE_TAG: the word is read through input 15, and its owner is preempted. A quadrant
in OFF or RETAIN serves no read, and an uncorrectable line is reported (R403, R475, R639). -/
def readDbg (tag : Bool) (s : State) : State × Word :=
  let a := dbgAddr s
  if s.g.debugLocked || !quadOpen s a then (s, 0)
  else
    let s := emergency (bankGroup a) s
    let v := if tag then dbgTag s else dbgValue s
    (if s.pantryUe.contains (a / 64) then eccReport 0 none 0 (a / 64 * 64) s else pdTouch (pdPantry a) s, v)

/-- DBG_FE_READ (R403). -/
def execDbgFeRead (tag : Bool) (s : State) : Host.Outcome State Fault Refusal :=
  .next (throughBar 0 (fun s => match readDbg tag s with
    | (s, v) => s.emit (.readData v)) s)

end Sys2Proof.Machine
end

