-- ==== Sys2Proof/Machine/Registers.lean ====
section
/-! DEFINITION. The register map: which register an offset names, what each register reads, and what a write of it does
(00 R4 to R9, 15 R645 to R647, R653 to R659, R668 to R671, R713, R714, and the register tables of the chapters). -/
namespace Sys2Proof.Machine

/-! ### Which register an offset names (R646, R647, R671) -/

/-- A register, by its block, its item and its place in the block in 8-byte steps. -/
inductive Reg where
  | reserved
  | gctl (n : Nat)
  /-- A command ring's block: FY_ of ring 0, ROOM_CMD of the others (R316). -/
  | foyer (k n : Nat)
  | room (k n : Nat)
  | cad (n : Nat)
  | slot (n : Nat)
  | nrg (n : Nat)
  | share (k : Nat)
  | pdCtl (d : Nat)
  | pdStatus (d : Nat)
  | nrgClass (n : Nat)
  | arb (i n : Nat)
  | err (n : Nat)
  | flt (k n : Nat)
  | ch (c n : Nat)
  | sq (g n : Nat)
  | cq (g n : Nat)
  | zl (p n : Nat)
  | loop (n : Nat)
  | ovf (k n : Nat)
  | rdx (n : Nat)
  | rdxSlot (i n : Nat)
  | study (n : Nat)
  | studySet (i n : Nat)
  | cel (p n : Nat)
  | dbg (n : Nat)
  | msix (fn e n : Nat)
  | pba (fn n : Nat)
  | syFlag (f n : Nat)
  | syCount (t n : Nat)
  | wire (w n : Nat)
  | bell (p : Page) (n : Nat)
  | vwFlag (k i : Nat)
  | vwCount (k i : Nat)
  deriving DecidableEq, Repr

/-- A block of items at a stride, with registers 0 to n − 1 in each: item and register number. -/
def inBlock (o base count stride n : Nat) (f : Nat → Nat → Reg) : Option Reg :=
  if base ≤ o && o < base + count * stride then
    let i := (o - base) / stride
    let r := (o - base) % stride / 8
    some (if r < n then f i r else .reserved)
  else none

/-- Registers of a Room record that exist: 0 to 5, and the 16 window pairs from 0x100 (R356). -/
def roomReg (k n : Nat) : Reg := if n < 6 || 32 ≤ n then .room k n else .reserved

/-- The physical function's map (R646, R671). -/
def decodePf (o : Nat) : Reg :=
  ((inBlock o 0x0000_0000 1 0x1_0000 11 fun _ n => .gctl n)
  <|> (inBlock o 0x0001_0000 1 0x8000 12 fun _ n => .foyer 0 n)
  <|> (inBlock o 0x0001_8000 64 0x200 64 roomReg)
  <|> (inBlock o 0x0002_0100 1 0x800 256 fun _ n => .slot n)
  <|> (inBlock o 0x0002_0000 1 0x1_0000 6 fun _ n => .cad n)
  <|> (inBlock o 0x0003_0100 1 0x200 64 fun _ n => .share n)
  <|> (inBlock o 0x0003_0400 1 0x100 17 fun _ n => .pdCtl n)
  <|> (inBlock o 0x0003_0500 1 0x100 17 fun _ n => .pdStatus n)
  <|> (inBlock o 0x0003_0600 1 0x100 8 fun _ n => .nrgClass n)
  <|> (inBlock o 0x0003_0000 1 0x1_0000 4 fun _ n => .nrg n)
  <|> (inBlock o 0x0004_0000 5 0x100 7 .arb)
  <|> (inBlock o 0x0005_0000 1 0x1000 9 fun _ n => .err n)
  <|> (inBlock o 0x0005_1000 64 0x40 5 .flt)
  <|> (inBlock o 0x0010_0000 128 0x4000 18 .ch)
  <|> (inBlock o 0x0030_0000 1024 0x400 9 .sq)
  <|> (inBlock o 0x0040_0000 1024 0x400 8 .cq)
  <|> (inBlock o 0x0050_0000 16 0x1_0000 14 .zl)
  <|> (inBlock o 0x0060_0060 1 0x10 2 fun _ n => .loop n)
  <|> (inBlock o 0x0060_1000 64 0x20 3 .ovf)
  <|> (inBlock o 0x0070_0000 1 0x100 5 fun _ n => .rdx n)
  <|> (inBlock o 0x0070_0100 32 0x20 3 .rdxSlot)
  <|> (inBlock o 0x0080_0000 1 0x1000 3 fun _ n => .study n)
  <|> (inBlock o 0x0080_1000 512 0x10 2 .studySet)
  <|> (inBlock o 0x0090_0000 4 0x100 4 .cel)
  <|> (inBlock o 0x00A0_0100 1 0x20 4 fun _ n => .dbg n)
  <|> (inBlock o 0x00F0_0000 256 0x10 2 (.msix 0))
  <|> (inBlock o 0x00F0_1000 1 0x20 4 fun _ n => .pba 0 n)
  <|> (inBlock o 0x0100_0000 65536 0x40 4 .syFlag)
  <|> (inBlock o 0x0140_0000 8192 0x40 5 .syCount)
  <|> (inBlock o 0x0148_0000 32 0x40 6 .wire)
  <|> (inBlock o 0x0200_0000 1024 0x1000 3 fun g n => .bell (.pf (Fin.ofNat 1024 g)) n)).getD .reserved

/-- VF k's map (R647, R671). Room 0 has no sync window (R405). -/
def decodeVf (k : Fin 64) (o : Nat) : Reg :=
  ((inBlock o 0x0_0000 1 0x200 64 fun _ n => roomReg k n)
  <|> (inBlock o 0x1_0000 4096 0x10 2 fun i n =>
      if k.val = 0 then .reserved else if n = 0 then .vwFlag k i else if i < 1024 then .vwCount k i else .reserved)
  <|> (inBlock o 0x2_0000 1 0x100 6 fun _ n => .foyer k n)
  <|> (inBlock o 0x2_0100 1 0x100 5 fun _ n => .flt k n)
  <|> (inBlock o 0x3_0000 32 0x10 2 (.msix k))
  <|> (inBlock o 0x3_1000 1 0x8 1 fun _ n => .pba k n)
  <|> (inBlock o 0x4_0000 64 0x1000 3 fun q n => .bell (.vf k (Fin.ofNat 64 q)) n)).getD .reserved

def barFn : Bar → Nat
  | .pf => 0
  | .vf k => k

/-- The register that an offset of a BAR0 lies in. -/
def decodeReg (b : Bar) (o : Nat) : Reg :=
  match b with
  | .pf => decodePf o
  | .vf k => decodeVf k o

/-- While the loader runs after a device reset, only these blocks answer through the physical function (R687). -/
def bootShows : Reg → Bool
  | .gctl _ => true
  | .foyer _ _ => true
  | .err _ => true
  | .msix _ _ _ => true
  | .pba _ _ => true
  | _ => false

/-- The register as the device shows it now. -/
def regNow (s : State) (b : Bar) (o : Nat) : Reg :=
  let r := decodeReg b o
  if s.g.devState = .boot && (s.room 0).state = .none && !bootShows r then .reserved else r

/-! ### What a register reads -/

/-- Fields by their lowest bit. -/
def pack (fs : List (Nat × Nat)) : Word := BitVec.ofNat 64 (fs.foldl (fun n f => n + f.2 * 2 ^ f.1) 0)

def DevState.code : DevState → Nat
  | .init => 0 | .boot => 1 | .ready => 2 | .foyerDown => 3

def HState.code : HState → Nat
  | .unattached => 0 | .claiming => 1 | .candidate => 2 | .joining => 3 | .wing => 4 | .hall => 5 | .stopped => 6

def RoomState.code : RoomState → Nat
  | .none => 0 | .active => 1 | .resetting => 2 | .destroying => 3

def ChState.code : ChState → Nat
  | .unassigned => 0 | .idle => 1 | .running => 2 | .waiting => 3 | .held => 4 | .pausing => 5 | .paused => 6

def PortState.code : PortState → Nat
  | .disabled => 0 | .training => 1 | .clear => 2 | .secure => 3 | .quarantined => 4 | .retrain => 5

/-- A signed 32-bit field. -/
def signed32 (i : Int) : Nat := (BitVec.ofInt 32 i).toNat

/-- GCTL (R659). -/
def readGctl (s : State) (n : Nat) : Word :=
  match n with
  | 0 => 0x0100_0250
  | 1 => 0x0080_3F24_0FFF_FFFF
  | 2 => pack [(0, s.g.devState.code), (4, b1 s.g.hallEligible), (5, s.g.claimPrio.toNat), (9, b1 s.g.bootSel),
      (10, b1 s.g.bootHalf), (16, s.g.lastReset.toNat), (32, s.g.devResets.toNat), (48, s.g.foyerRestarts.toNat)]
  | 4 => s.g.irqStatus
  | 5 => s.g.irqMask
  | 6 => s.g.houseTime
  | 7 => s.g.serial
  | 8 => pack [(0, s.house.node.toNat), (10, b1 s.house.nodeValid), (11, b1 s.house.isHall), (12, s.house.hstate.code),
      (32, s.house.epoch.toNat)]
  | 9 => s.g.scratch
  | 10 => pack [(0, s.g.rollback.toNat), (16, b1 s.g.keyHashSet), (17, b1 s.g.debugLocked)]
  | _ => 0

/-- The block of a command ring, and the audit log's registers (R316). -/
def readFoyer (s : State) (k n : Nat) : Word :=
  let r := s.ring k
  match n with
  | 0 => r.base
  | 1 => pack [(0, r.log2.toNat), (8, b1 r.enable), (16, r.vector.toNat), (24, b1 r.irqEn)]
  | 2 => pack [(0, r.prod.toNat)]
  | 3 => r.replyBase
  | 4 => pack [(0, r.cons.toNat), (32, b1 r.replyPhase)]
  | 5 => fyStateReg s k
  | 6 => s.fy.fwVersion
  | 7 => s.audit.base
  | 8 => pack [(0, s.audit.log2.toNat), (8, b1 s.audit.enable)]
  | 9 => pack [(0, s.audit.tail.toNat)]
  | 10 => pack [(0, s.audit.head.toNat)]
  | 11 => pack [(0, s.audit.lost.toNat)]
  | _ => 0

/-- A quota or use register: SQs, CQs, channels, regions, counters, flags (R356). -/
def packQuota (sq cq ch fe counters flags : Nat) : Word :=
  pack [(0, sq), (8, cq), (16, ch), (24, fe), (32, counters), (48, flags)]

/-- Live buffers of a Room. -/
def roomBuffers (s : State) (k : Nat) : List Buffer := (liveBuffers s).filter (·.room = k)

/-- A Room's record (R356). -/
def readRoom (s : State) (k n : Nat) : Word :=
  let r := s.room k
  let w := tget r.windows {} (n / 2 - 16)
  match n with
  | 0 => pack [(0, b1 (r.state ≠ .none)), (1, r.state.code), (4, b1 r.admClosed), (16, r.resetCount.toNat),
      (32, r.share.toNat), (48, r.misuseLimit.toNat)]
  | 1 => packQuota r.maxSq r.maxCq r.maxCh r.maxFe r.maxCounters r.maxFlags
  | 2 => pack [(0, r.maxGranules), (32, r.maxHandles)]
  | 3 => packQuota (roomSqs s k).length (roomCqs s k).length (roomChans s k).length r.regions.length
      r.counterMap.length r.flagMap.length
  | 4 => pack [(0, (roomBuffers s k).foldl (fun m b => m + b.granules) 0), (32, (roomBuffers s k).length)]
  | 5 => pack [(0, r.resetNs.toNat), (32, r.resetUnacked.toNat), (48, b1 r.resetThermal)]
  | _ =>
    if n < 32 then 0
    else if n % 2 = 0 then pack [(0, b1 w.valid), (1, b1 w.cellar), (2, b1 w.exported), (3, b1 w.pool), (8, w.granules),
      (32, w.physGran)]
    else pack [(0, w.roomGran * granule)]

/-- CAD (R449). -/
def readCad (s : State) (n : Nat) : Word :=
  let c := s.cad
  match n with
  | 0 => pack [(0, c.source.toNat), (2, b1 c.outEn), (3, b1 c.fallingEdge), (8, c.irqEn.toNat), (16, c.vector.toNat),
      (24, c.nominalPs.toNat)]
  | 1 => pack [(0, c.state.code), (3, b1 c.phaseStep), (4, b1 c.turnStep), (5, b1 c.lost), (6, b1 c.hallLost),
      (7, b1 c.hallSelf), (48, c.rejects.toNat)]
  | 2 => pack [(0, c.period / 65536 % 2 ^ 40)]
  | 3 => s.stamp
  | 4 => c.stamp
  | 5 => pack [(0, c.coasted.toNat), (32, c.lostEvents.toNat)]
  | _ => 0

/-- NRG (R465). -/
def readNrg (s : State) (n : Nat) : Word :=
  let x := s.nrg
  match n with
  | 0 => pack [(0, x.capMw.toNat), (32, x.baseMw.toNat)]
  | 1 => pack [(0, slotTokens s % 2 ^ 32)]
  | 2 => pack [(0, x.tempMc.toNat), (32, x.peakMc.toNat)]
  | 3 => pack [(0, x.factorQ8.toNat), (9, b1 x.throttling), (10, b1 x.tripped), (11, b1 x.thrIrqEn), (16, x.vector.toNat),
      (32, x.throttledSlots.toNat)]
  | _ => 0

/-- NRG_SHARE_n: a Room that does not exist shows the reset value (R465). -/
def readShare (s : State) (k : Nat) : Word :=
  let r := s.room k
  let b := r.balance.getD 0
  pack [(0, if r.state = .none then 1 else r.share.toNat), (16, b1 (b < 0)), (17, b1 r.deferred),
    (32, signed32 (b / 65536))]

/-- Channels that a domain holds, and those it pauses (R484). -/
def heldCount (s : State) (d : Nat) : Nat := (s.chans.filter fun h => h.2.state = .held && h.2.heldBy.contains d).length
def pausedCount (s : State) (d : Nat) : Nat := (s.chans.filter fun h => h.2.pauseDomain.contains d).length

/-- PD_STATUS_n (R484). -/
def readPd (s : State) (d : Nat) : Word :=
  let x := s.domain d
  pack [(0, x.state.code), (3, b1 x.waking), (4, x.cause.toNat), (6, b1 x.hard), (8, heldCount s d),
    (16, pausedCount s d), (32, x.drainNs.toNat)]

/-- An ARB instance (R430). -/
def readArb (s : State) (i n : Nat) : Word :=
  let r := s.arb i
  match n with
  | 0 => r.map
  | 1 => pack [(0, r.starveLimit.toNat)]
  | 2 => pack [(0, b1 r.holdEn), (32, r.holdLimit.toNat)]
  | 3 => pack [(0, r.starved.toNat), (16, r.starvedGroup.toNat), (24, r.starvedCode.toNat), (32, r.maxWait.toNat)]
  | 4 => pack [(0, r.held.toNat), (16, r.heldGroup.toNat), (24, r.heldCode.toNat), (32, r.cuts.toNat)]
  | 5 => pack [(0, r.preempts.toNat), (32, b1 ((instArbs i).any fun a => (s.arbiter a).owner = some 15))]
  | 6 => pack [(0, b1 r.starveIrqEn), (1, b1 r.heldIrqEn), (8, r.vector.toNat)]
  | _ => 0

/-- ERR (R644). -/
def readErr (s : State) (n : Nat) : Word :=
  let e := s.err
  match n with
  | 0 => pack [(0, b1 e.auditIrqEn), (1, e.auditIrqSev.toNat), (4, b1 e.eccIrqEn), (5, b1 e.fatalIrqEn),
      (8, e.vector.toNat)]
  | 1 => pack [(0, b1 e.eccUe), (1, b1 (s.fy.state = .fault || s.fy.state = .bootFail)), (2, b1 e.internal)]
  | 2 => pack [(0, e.pantryCorr.toNat), (32, e.pantryUncorr.toNat)]
  | 3 => match e.pantryAddr with
    | some a => pack [(0, a.toNat), (63, 1)]
    | none => 0
  | 4 => pack [(0, e.larderCorr.toNat), (32, e.larderUncorr.toNat)]
  | 5 => pack [(0, e.cellarCorr.toNat), (32, e.cellarUncorr.toNat)]
  | 6 => match e.cellarAddr with
    | some a => pack [(0, a.toNat), (63, 1)]
    | none => 0
  | 7 => pack [(0, e.parity.toNat)]
  | 8 => pack [(0, b1 e.scrubEn), (16, e.scrubIntervalUs.toNat), (32, e.scrubPasses.toNat)]
  | _ => 0

/-- The registers of a fault log (R629). -/
def readFlt (s : State) (k n : Nat) : Word :=
  let l := s.log k
  match n with
  | 0 => l.base
  | 1 => pack [(0, l.log2.toNat), (8, b1 l.enable), (9, b1 l.irqEn), (10, l.irqSev.toNat), (13, b1 l.error),
      (14, b1 l.showsFull), (15, b1 l.badHead), (16, l.vector.toNat)]
  | 2 => pack [(0, l.tail.toNat), (32, l.seq.toNat)]
  | 3 => pack [(0, l.head.toNat)]
  | 4 => pack [(0, l.lost.toNat)]
  | _ => 0

/-- A program is loaded on a channel (R160). -/
def chLoaded (h : Chan) : Bool := h.state ≠ .unassigned && h.state ≠ .idle

/-- Opcode of the instruction at CH_PC; 0 with no program. -/
def curOpcode (s : State) (h : Chan) : Nat :=
  if chLoaded h then
    match h.cur with
    | some q => q.opcode.toNat
    | none => (fld (wordAt s h) 0 8).toNat
  else 0

/-- A channel's block (R77, R160, R187). -/
def readCh (s : State) (c n : Nat) : Word :=
  let h := s.chan c
  match n with
  | 0 => pack [(0, b1 (chLoaded h)), (1, b1 h.pauseBit)]
  | 1 => pack [(0, h.state.code), (3, b1 h.late), (4, b1 h.trigOverrun), (5, b1 h.holdCut), (8, b1 h.pauseBit),
      (9, b1 (h.pauseDomain ≠ [])), (10, b1 h.pauseReset), (16, curOpcode s h)]
  | 2 => h.pc
  | 3 => pack [(0, h.room.toNat), (63, b1 h.assigned)]
  | 4 => pack [(0, h.loop0.toNat)]
  | 5 => pack [(0, h.loop1.toNat)]
  | 6 => pack [(0, h.loop2.toNat)]
  | 7 => pack [(0, h.loop3.toNat)]
  | 8 => pack [(0, h.srcOff.toNat), (32, h.dstOff.toNat)]
  | 9 => h.lastErr
  | 10 => pack [(0, h.badCount.toNat)]
  | 11 => pack [(0, h.trigSrc.toNat), (4, h.trigPending.toNat), (8, h.trigChannel.toNat), (16, h.trigSlot.toNat),
      (24, h.trigStep.toNat), (32, h.trigPeriod.toNat)]
  | 12 => pack [(0, h.irqEn.toNat), (8, h.irqPend.toNat), (16, h.irqVector.toNat)]
  | 13 => h.oob
  | 14 => pack [(0, h.lfsr.toNat), (32, h.seed.toNat)]
  | 15 => h.consumed
  | 16 => chProgress s c
  | 17 => h.progBase
  | _ => 0

/-- An SQ's block (R250). -/
def readSq (s : State) (g n : Nat) : Word :=
  let q := s.sq g
  match n with
  | 0 => q.base
  | 1 => pack [(0, q.log2.toNat)]
  | 2 => pack [(0, b1 q.phaseMode), (1, b1 q.haltPolicy), (2, b1 q.dbFlagEn), (4, q.dbFlag.toNat), (16, q.cq.toNat),
      (26, q.room.toNat), (32, q.overloadTurns.toNat), (63, b1 q.valid)]
  | 3 => pack [(0, b1 q.halted), (1, b1 q.admClosed), (2, b1 q.dbPending), (3, b1 q.overloaded), (4, b1 q.overNow),
      (5, b1 q.badProd), (6, b1 q.expPhase), (8, q.headStatus.toNat), (16, (shownCause q).toNat), (32, q.cache.length)]
  | 4 => pack [(0, q.cons.toNat), (32, q.fetch.toNat)]
  | 5 => q.prodAddr
  | 6 => pack [(0, q.latchedCount.toNat), (32, q.latchedStatus.toNat), (40, b1 q.latchedValid)]
  | 7 => pack [(0, q.age.toNat), (32, q.maxAge.toNat)]
  | 8 => pack [(0, q.prio.toNat)]
  | _ => 0

/-- A CQ's block (R251). -/
def readCq (s : State) (g n : Nat) : Word :=
  let q := s.cq g
  match n with
  | 0 => q.base
  | 1 => pack [(0, q.log2.toNat)]
  | 2 => pack [(0, b1 q.phaseMode), (26, q.room.toNat), (63, b1 q.valid)]
  | 3 => pack [(0, b1 q.error), (1, b1 q.phase), (2, b1 q.armed), (3, b1 q.badHead), (4, b1 (fullStallNow s g)),
      (32, q.reserved)]
  | 4 => pack [(0, q.tail.toNat), (32, q.head.toNat)]
  | 5 => q.headAddr
  | 6 => pack [(0, q.vector.toNat), (8, b1 q.irqEn), (16, q.irqCount.toNat), (32, q.delayUs.toNat)]
  | 7 => q.tailAddr
  | _ => 0

/-- A port's block (R539). Violations of the current ms only (R534). -/
def readZl (s : State) (p n : Nat) : Word :=
  let x := s.port p
  match n with
  | 0 => pack [(0, b1 x.enable), (1, b1 x.allow4), (8, x.attempts.toNat), (16, x.violLimit.toNat), (32, x.irqEn.toNat),
      (40, x.vector.toNat)]
  | 1 => pack [(0, x.state.code), (3, b1 x.width4), (4, b1 x.laneGroup), (5, b1 (x.state = .quarantined)),
      (6, b1 x.txKey.isSome), (7, b1 x.rxKey.isSome), (8, b1 x.txNextKey.isSome), (9, b1 x.rxNextKey.isSome),
      (10, b1 x.keyLow), (11, b1 x.keyStall), (16, x.lanesOk.toNat), (32, x.partnerNode.toNat),
      (42, b1 x.partnerNodeValid)]
  | 2 => x.partner
  | 3 => pack [(0, x.txNext.toNat), (16, x.txAcked.toNat), (32, x.rxExpected.toNat), (48, x.txLimit.toNat)]
  | 4 => pack [(0, x.txEpoch.toNat), (32, x.rxEpoch.toNat)]
  | 5 => pack [(0, x.txIvc % 2 ^ 32), (32, x.rxIvc.toNat)]
  | 6 => pack [(0, x.episodes.toNat), (32, x.exhausted.toNat), (48, x.maxAttempts.toNat)]
  | 7 => x.retx
  | 8 => pack [(0, x.fecCorrected.toNat), (32, x.fecUncorrected.toNat)]
  | 9 => pack [(0, x.crcFail.toNat), (32, x.trainFails.toNat)]
  | 10 => pack [(0, x.violTotal.toNat), (32, x.violReason.toNat), (48, x.violSeq.toNat)]
  | 11 => pack [(0, if x.violMsNo = s.now / 1000000 then x.violMs.toNat else 0), (16, x.violPeak.toNat),
      (32, x.naksRx.toNat)]
  | 12 => pack [(0, x.coded.toNat), (32, x.rawBlocks.toNat)]
  | 13 => pack [(0, x.expanded.toNat), (32, x.overflows.toNat)]
  | _ => 0

/-- ZL_COMP and ZL_EXP of the loopback port, and a Room's overflow registers (R540). -/
def readLoop (s : State) (n : Nat) : Word :=
  if n = 0 then pack [(0, s.loopback.coded.toNat), (32, s.loopback.rawBlocks.toNat)]
  else pack [(0, s.loopback.expanded.toNat), (32, s.loopback.overflows.toNat)]

def readOvf (s : State) (k n : Nat) : Word :=
  let x := s.ovfOf k
  match n with
  | 0 => pack [(0, x.base.toNat)]
  | 1 => pack [(0, x.blocks.toNat)]
  | _ => pack [(0, x.next.toNat), (32, x.fullEvents.toNat)]

/-- KiB that an instance's accumulators take, rounded up. -/
def usedKib (g : Group) : Nat :=
  match g.inst with
  | some i => (usedBytes i + 1023) / 1024
  | none => 0

/-- REDUCER (R587). -/
def readRdx (s : State) (n : Nat) : Word :=
  match n with
  | 0 => pack [(0, s.groups.foldl (fun m g => m + g.2.kib) 0), (16, s.groups.foldl (fun m g => m + usedKib g.2) 0),
      (32, s.groups.length)]
  | 1 => pack [(0, s.rdx.retries.toNat), (32, s.rdx.mismatches.toNat)]
  | 2 => pack [(0, s.house.epoch.toNat), (32, s.house.mgen.toNat)]
  | 3 => pack [(0, s.house.members.length), (16, s.house.hops % 32)]
  | 4 => pack [(0, s.house.irqEn.toNat), (8, s.house.vector.toNat)]
  | _ => 0

def readSlot (s : State) (i n : Nat) : Word :=
  match s.groups.find? (·.2.slot = i) with
  | none => 0
  | some (g, x) =>
    match n with
    | 0 => pack [(0, g), (8, x.room), (14, 1), (15, b1 x.inst.isSome), (16, x.rank), (32, x.members)]
    | 1 => pack [(0, x.kib), (16, usedKib x)]
    | _ => match x.inst with
      | some j => pack [(0, j.stored.toNat), (32, j.acked.toNat)]
      | none => 0

/-- STUDY (R623). -/
def readStudy (s : State) (n : Nat) : Word :=
  match n with
  | 0 => pack [(0, s.study.jobs.length)]
  | 1 => pack [(0, s.study.hits.toNat), (32, s.study.misses.toNat)]
  | _ => s.study.bytes

def readSet (s : State) (i n : Nat) : Word :=
  let x := tget s.study.sets {} i
  if n = 0 then pack [(0, x.vocabCount.toNat), (21, x.mergeCount.toNat), (63, b1 x.valid)]
  else pack [(0, x.loadGen.toNat)]

/-- A Cellar controller (R670). A stack whose domain is down is in self-refresh (R482). -/
def readCel (s : State) (p n : Nat) : Word :=
  let c := s.cel p
  match n with
  | 0 => pack [(0, (pdOf s (13 + p)).code), (3, b1 (pdOf s (13 + p) = .off)), (4, b1 c.hot), (8, c.postponed.toNat)]
  | 1 => pack [(0, c.tempMc.toNat), (32, c.peakMc.toNat)]
  | 2 => c.bytes
  | _ => pack [(0, c.forced.toNat)]

/-- An MSI-X table entry: address, then data and vector control (R636; log entry 16). -/
def readMsix (s : State) (fn e n : Nat) : Word :=
  let x := tget s.msix {} (fn * 256 + e)
  if n = 0 then x.addr else pack [(0, x.data.toNat), (32, b1 x.masked)]

/-- 64 pending bits. -/
def readPba (s : State) (fn n : Nat) : Word :=
  pack ((List.range 64).map fun i => (i, b1 (tget s.msix {} (fn * 256 + n * 64 + i)).pending))

/-- SY_ROOM and CT_ROOM (R401). -/
def packOwner (room : BitVec 6) (virt : BitVec 12) (mapped exported db : Bool) : Word :=
  pack [(0, room.toNat), (6, virt.toNat), (24, b1 mapped), (25, b1 exported), (26, b1 db)]

/-- SY_WAITERS: local and remote waiters of an object, and its first local one (R401). -/
def packWaiters (s : State) (o : WaitObj) : Word :=
  let mine := s.waiters.filter fun w => w.obj == o
  let far (w : Waiter) : Bool := match w.unit with
    | .peer _ _ => true
    | _ => false
  let near := mine.filter fun w => !far w
  pack ([(0, near.length % 65536), (16, (mine.filter far).length % 65536)] ++ match near with
    | w :: _ => [(32, match w.unit with
        | .chan c => c.val
        | .sq q => 128 + q.val
        | .peer _ _ => 0), (47, 1)]
    | [] => [])

def packLast (l : LastSignal) : Word :=
  pack [(0, l.source.toNat), (8, l.unit.toNat), (18, l.node.toNat), (32, l.time.toNat)]

/-- Records of the sync fabric (R399, R401). -/
def readSyFlag (s : State) (f n : Nat) : Word :=
  let x := s.flag f
  match n with
  | 0 => pack [(0, b1 x.value)]
  | 1 => packOwner x.room x.virt x.mapped x.exported x.dbSq.isSome
  | 2 => packWaiters s (.flag f)
  | _ => packLast x.last

def readSyCount (s : State) (t n : Nat) : Word :=
  let x := s.counter t
  match n with
  | 0 => x.value
  | 1 => packOwner x.room x.virt x.mapped x.exported false
  | 2 => packWaiters s (.counter t)
  | 3 => packLast x.last
  | _ => 0

def readWire (s : State) (w n : Nat) : Word :=
  let x := s.wire w
  match n with
  | 0 => pack [(0, x.room.toNat), (8, b1 x.enable)]
  | 1 => x.maskLo
  | 2 => x.maskHi
  | 3 => x.arrivedLo
  | 4 => x.arrivedHi
  | _ => pack [(0, x.gen.toNat)]

/-- DEBUG (R403, R658). The reads of DBG_FE_VALUE and DBG_FE_TAG are `readDbg`'s. -/
def readDebug (s : State) (n : Nat) : Word :=
  if s.g.debugLocked then 0
  else match n with
    | 0 => pack [(3, s.dbgFeAddr.toNat)]
    | 3 => pack [(0, s.polls.toNat)]
    | _ => 0

/-- Reads of the sync window: an unmapped identifier reads 0 (R404, R405). -/
def readVwFlag (s : State) (k i : Nat) : Word :=
  match flagPhys s k i with
  | some p => pack [(0, b1 (s.flag p).value)]
  | none => 0

def readVwCount (s : State) (k i : Nat) : Word :=
  if 511 < i then 0
  else match counterPhys s k i with
    | some p => (s.counter p).value
    | none => 0

/-- The value of a register. -/
def readReg (s : State) : Reg → Word
  | .reserved => 0
  | .gctl n => readGctl s n
  | .foyer k n => readFoyer s k n
  | .room k n => readRoom s k n
  | .cad n => readCad s n
  | .slot n => pack [(0, (tget s.cad.weights 0x80 n).toNat)]
  | .nrg n => readNrg s n
  | .share k => readShare s k
  | .pdCtl d => pack [(0, b1 (s.domain d).autoEn), (16, (s.domain d).idleUs.toNat)]
  | .pdStatus d => readPd s d
  | .nrgClass n => pack [(0, (s.nrg.classes.getD n 0).toNat)]
  | .arb i n => readArb s i n
  | .err n => readErr s n
  | .flt k n => readFlt s k n
  | .ch c n => readCh s c n
  | .sq g n => readSq s g n
  | .cq g n => readCq s g n
  | .zl p n => readZl s p n
  | .loop n => readLoop s n
  | .ovf k n => readOvf s k n
  | .rdx n => readRdx s n
  | .rdxSlot i n => readSlot s i n
  | .study n => readStudy s n
  | .studySet i n => readSet s i n
  | .cel p n => readCel s p n
  | .dbg n => readDebug s n
  | .msix fn e n => readMsix s fn e n
  | .pba fn n => readPba s fn n
  | .syFlag f n => readSyFlag s f n
  | .syCount t n => readSyCount s t n
  | .wire w n => readWire s w n
  | .bell _ _ => 0
  | .vwFlag k i => readVwFlag s k i
  | .vwCount k i => readVwCount s k i

/-! ### RC fields (R4, R654) -/

/-- Halves that a read covers. -/
def covers (half : RegHalf) : Bool × Bool :=
  match half with
  | .full => (true, true)
  | .low => (true, false)
  | .high => (false, true)

/-- Clear the RC fields of a register that the read covers whole. -/
def clearRc (r : Reg) (half : RegHalf) (s : State) : State :=
  let (lo, hi) := covers half
  let z (b : Bool) (x : Half) : Half := if b then 0 else x
  match r with
  | .foyer 0 11 => { s with audit := { s.audit with lost := z lo s.audit.lost } }
  | .cad 1 => { s with cad := { s.cad with rejects := if hi then 0 else s.cad.rejects } }
  | .arb i 5 => s.setArb i { s.arb i with preempts := z lo (s.arb i).preempts }
  | .err 2 => { s with err := { s.err with pantryCorr := z lo s.err.pantryCorr, pantryUncorr := z hi s.err.pantryUncorr } }
  | .err 4 => { s with err := { s.err with larderCorr := z lo s.err.larderCorr, larderUncorr := z hi s.err.larderUncorr } }
  | .err 5 => { s with err := { s.err with cellarCorr := z lo s.err.cellarCorr, cellarUncorr := z hi s.err.cellarUncorr } }
  | .err 7 => { s with err := { s.err with parity := z lo s.err.parity } }
  | .flt k 4 => s.setLog k { s.log k with lost := z lo (s.log k).lost }
  | .zl p 7 => if lo && hi then s.setPort p { s.port p with retx := 0 } else s
  | .zl p 8 => s.setPort p { s.port p with fecCorrected := z lo (s.port p).fecCorrected
                                           fecUncorrected := z hi (s.port p).fecUncorrected }
  | .zl p 9 => s.setPort p { s.port p with crcFail := z lo (s.port p).crcFail }
  | .zl p 12 => s.setPort p { s.port p with coded := z lo (s.port p).coded, rawBlocks := z hi (s.port p).rawBlocks }
  | .zl p 13 => s.setPort p { s.port p with expanded := z lo (s.port p).expanded, overflows := z hi (s.port p).overflows }
  | .loop 0 => { s with loopback := { s.loopback with coded := z lo s.loopback.coded
                                                      rawBlocks := z hi s.loopback.rawBlocks } }
  | .loop 1 => { s with loopback := { s.loopback with expanded := z lo s.loopback.expanded
                                                      overflows := z hi s.loopback.overflows } }
  | .rdx 1 => { s with rdx := { retries := z lo s.rdx.retries, mismatches := z hi s.rdx.mismatches } }
  | .study 1 => { s with study := { s.study with hits := z lo s.study.hits, misses := z hi s.study.misses } }
  | .cel p 2 => if lo && hi then s.setCel p { s.cel p with bytes := 0 } else s
  | .cel p 3 => s.setCel p { s.cel p with forced := z lo (s.cel p).forced }
  | .dbg 3 => if s.g.debugLocked then s else { s with polls := z lo s.polls }
  | _ => s

/-- The part of a register that an access covers, in the low bits. -/
def halfOf64 (half : RegHalf) (v : Word) : Word :=
  match half with
  | .full => v
  | .low => (fld v 0 32).setWidth 64
  | .high => (fld v 32 32).setWidth 64

/-- A read of a register: its value, and the RC fields that it clears (R6, R654). -/
def takeReg (r : Reg) (half : RegHalf) (s : State) : State × Word :=
  match r with
  | .dbg 1 => match readDbg false s with
    | (s, v) => (s, halfOf64 half v)
  | .dbg 2 => match readDbg true s with
    | (s, v) => (s, halfOf64 half v)
  | _ => (clearRc r half s, halfOf64 half (readReg s r))

/-- RC_REGISTER_READ (R654). A VF whose Room does not exist reads 0 (R657). -/
def execRcRegisterRead (bar : Bar) (offset : BitVec 26) (half : RegHalf) (s : State) : Host.Outcome State Fault Refusal :=
  let fn := barFn bar
  if !fnOpen s fn then .next (s.emit .unsupported)
  else if fn ≠ 0 && (s.room fn).state = .none then .next (s.emit (.readData 0))
  else match takeReg (regNow s bar (offset.toNat / 8 * 8)) half s with
    | (s, v) => .next (s.emit (.readData v))

/-! ### What a write does (R4, R7, R9, R713, R714) -/

/-- Bits that an access writes, in their place. -/
def written (half : RegHalf) (v : Word) : Word := mergeHalf 0 v half

/-- A vector is stored where the function's table has it (R713). -/
def vecOr (fn : Nat) (old v : Byte) : Byte := if v.toNat < vectorLimit fn then v else old

/-- GCTL_IRQ_MASK: each bit cleared while its STATUS bit is 1 sends one message on its group's vector (R669). -/
def groupVector (s : State) (bit : Nat) : Byte :=
  match bit with
  | 0 => s.err.vector
  | 1 => s.cad.vector
  | 2 => s.nrg.vector
  | 3 => s.house.vector
  | _ => if bit < 9 then (s.arb (bit - 4)).vector else (s.port (bit - 16)).vector

def irqGroups : Word := 0x0000_0000_FFFF_01FF

def writeIrqMask (half : RegHalf) (v : Word) (s : State) : State :=
  let old := s.g.irqMask
  let new := mergeHalf old v half &&& irqGroups
  let s := { s with g := { s.g with irqMask := new } }
  (List.range 32).foldl (fun t b =>
    if old.getLsbD b && !new.getLsbD b && s.g.irqStatus.getLsbD b then sendMsix 0 (groupVector s b).toNat t else t) s

/-- IRQ_MASK_WRITE (R669). -/
def execIrqMaskWrite (half : RegHalf) (v : BitVec 64) (s : State) : Host.Outcome State Fault Refusal :=
  .next (throughBar 0 (writeIrqMask half v) s)

/-- GCTL (R659). -/
def writeGctl (n : Nat) (half : RegHalf) (v : Word) (s : State) : State :=
  match n with
  | 3 => writeReset (written half v) s
  | 4 => { s with g := { s.g with irqStatus := s.g.irqStatus &&& ~~~(written half v) } }
  | 5 => writeIrqMask half v s
  | 9 => if half = .full then loadMailbox v s
    else { s with g := { s.g with scratch := mergeHalf s.g.scratch v half } }
  | _ => s

/-- A base that a ring register may hold: Host space, aligned; another value leaves the field as it is (R255, R714). -/
def hostBaseOk (v : Word) (align : Nat) : Bool := spaceOf v = some .host && offOf v % align = 0

/-- The registers of a command ring and of the audit log (R255, R256, R314, R316). -/
def writeFoyer (k n : Nat) (half : RegHalf) (v : Word) (s : State) : State :=
  let m := mergeHalf (readFoyer s k n) v half
  let w := written half v
  let lo := (covers half).1
  let r := s.ring k
  match n with
  | 0 => if r.enable || !hostBaseOk m (min 4096 (r.size * 64)) then s else s.setRing k { r with base := m }
  | 1 => if lo then ringSize k m s else s
  | 2 => if lo then ringDoorbell k (fld v 0 32) s else s
  | 3 => if r.enable || !hostBaseOk m (min 4096 (r.size * 32)) then s else s.setRing k { r with replyBase := m }
  | 5 =>
    let s := s.setRing k { r with badProd := r.badProd && !w.getLsbD 4 }
    if k = 0 then { s with audit := { s.audit with badHead := s.audit.badHead && !w.getLsbD 7 } } else s
  | 7 => if hostBaseOk m 4096 then { s with audit := { s.audit with base := m } } else s
  | 8 => if lo then auditSize m s else s
  | 10 => if lo then { s with audit := s.audit.writeHead (fld v 0 32) } else s
  | _ => s

/-- The registers of a fault log (R629, R631). -/
def writeFlt (k n : Nat) (half : RegHalf) (v : Word) (s : State) : State :=
  let l := s.log k
  let m := mergeHalf (readFlt s k n) v half
  match n with
  | 0 => if l.enable || !hostBaseOk m (min 4096 (l.size * 64)) then s else s.setLog k { l with base := m }
  | 1 => if (covers half).1 then fltSize k v s else s
  | 3 => if (covers half).1 then s.setLog k (l.writeHead (fld v 0 32)) else s
  | _ => s

/-- CAD (R449). -/
def writeCad (n : Nat) (half : RegHalf) (v : Word) (s : State) : State :=
  let c := s.cad
  let m := mergeHalf (readCad s n) v half
  let w := written half v
  match n with
  | 0 => { s with cad := { c with irqEn := fld m 8 4, vector := fld m 16 8 } }
  | 1 => { s with cad := { c with phaseStep := c.phaseStep && !w.getLsbD 3, turnStep := c.turnStep && !w.getLsbD 4
                                  lost := c.lost && !w.getLsbD 5 } }
  | _ => s

/-- NRG (R452, R462, R465). -/
def writeNrg (n : Nat) (half : RegHalf) (v : Word) (s : State) : State :=
  let m := mergeHalf (readNrg s n) v half
  match n with
  | 0 => if (covers half).2 then writeBase (fld m 32 32) s else s
  | 3 =>
    let s := { s with nrg := { s.nrg with thrIrqEn := m.getLsbD 11, vector := fld m 16 8 } }
    if (written half v).getLsbD 10 then clearTrip s else s
  | _ => s

/-- PD_CTL_n: AUTO_EN is fixed for PD_AON and PD_LINKS; IDLE_US is not 0 (R477, R484, R714). -/
def writePdCtl (d : Nat) (m : Word) (s : State) : State :=
  let x := s.domain d
  let us : BitVec 16 := fld m 16 16
  s.setDomain d { x with autoEn := m.getLsbD 0 && d ≠ 0 && pdPorts d = [], idleUs := if us = 0 then x.idleUs else us }

/-- An ARB instance (R430). -/
def writeArb (i n : Nat) (half : RegHalf) (v : Word) (s : State) : State :=
  let r := s.arb i
  let m := mergeHalf (readArb s i n) v half
  let w := written half v
  match n with
  | 0 => writeMap i half v s
  | 1 => s.setArb i { r with starveLimit := fld m 0 32 }
  | 2 => s.setArb i { r with holdEn := m.getLsbD 0, holdLimit := fld m 32 32 }
  | 3 => clearStarved i (fld w 0 16) (s.setArb i { r with maxWait := fld m 32 32 })
  | 4 => s.setArb i { r with held := r.held &&& ~~~(fld w 0 16) }
  | 6 => s.setArb i { r with starveIrqEn := m.getLsbD 0, heldIrqEn := m.getLsbD 1, vector := fld m 8 8 }
  | _ => s

/-- ERR (R644). -/
def writeErr (n : Nat) (half : RegHalf) (v : Word) (s : State) : State :=
  let e := s.err
  let m := mergeHalf (readErr s n) v half
  let w := written half v
  match n with
  | 0 => { s with err := { e with auditIrqEn := m.getLsbD 0, auditIrqSev := fld m 1 3, eccIrqEn := m.getLsbD 4
                                  fatalIrqEn := m.getLsbD 5, vector := fld m 8 8 } }
  | 1 => { s with err := { e with eccUe := e.eccUe && !w.getLsbD 0, internal := e.internal && !w.getLsbD 2 } }
  | 8 =>
    let us : BitVec 16 := fld m 16 16
    { s with err := { e with scrubEn := m.getLsbD 0, scrubIntervalUs := if us = 0 then 1 else us } }
  | _ => s

/-- CH_CTL: the PAUSE bit takes its value, RUN starts an IDLE channel, and CH_RESET has the last word (R160). -/
def writeChCtl (c : Nat) (w : Word) (s : State) : State :=
  let s := setPause c (w.getLsbD 1) s
  let s := if w.getLsbD 0 then runChan c s else s
  if w.getLsbD 2 then resetChannel c true s else s

/-- RW fields of a channel but PAUSE and CH_IRQ's, on an IDLE or PAUSED channel (R160, R149, R187). PC keeps bits 4 to 0
at 0 by refusing an address that is not aligned (R714). Of a channel PAUSED within an instruction the spec does not say
what a written CH_PC resumes: the model finishes that instruction, and goes on 32 bytes after the address written (DESIGN
CHOICE, log entry 74). -/
def writeChRw (c n : Nat) (half : RegHalf) (m : Word) (s : State) : State :=
  let h := s.chan c
  match n with
  | 2 => if fld m 0 5 = 0 then s.setChan c { h with pc := m } else s
  | 4 => s.setChan c { h with loop0 := fld m 0 32 }
  | 5 => s.setChan c { h with loop1 := fld m 0 32 }
  | 6 => s.setChan c { h with loop2 := fld m 0 32 }
  | 7 => s.setChan c { h with loop3 := fld m 0 32 }
  | 8 => s.setChan c { h with srcOff := fld m 0 32, dstOff := fld m 32 32 }
  | 11 =>
    let x := loadTrigger m s.now h
    s.setChan c (if (covers half).2 then x
      else { x with trigPeriod := h.trigPeriod, trigNext := s.now + h.trigPeriod.toNat })
  | 13 => s.setChan c { h with oob := m }
  | 14 => s.setChan c { h with lfsr := if (fld m 0 32 : Half) = 0 then 1 else fld m 0 32, seed := fld m 32 32 }
  | 15 => s.setChan c { h with consumed := m }
  | _ => s

/-- A channel's block (R160). -/
def writeCh (c n : Nat) (half : RegHalf) (v : Word) (s : State) : State :=
  let h := s.chan c
  let m := mergeHalf (readCh s c n) v half
  let w := written half v
  match n with
  | 0 => if (covers half).1 then writeChCtl c w s else s
  | 1 => s.setChan c { h with late := h.late && !w.getLsbD 3, trigOverrun := h.trigOverrun && !w.getLsbD 4
                              holdCut := h.holdCut && !w.getLsbD 5 }
  | 12 => s.setChan c { h with irqEn := fld m 0 4, irqPend := h.irqPend &&& ~~~(fld w 8 4)
                               irqVector := vecOr h.room.toNat h.irqVector (fld m 16 8) }
  | _ => if h.state = .idle || h.state = .paused then writeChRw c n half m s else s

/-- An SQ's block (R250). -/
def writeSq (g n : Nat) (half : RegHalf) (v : Word) (s : State) : State :=
  let q := s.sq g
  let m := mergeHalf (readSq s g n) v half
  let w := written half v
  match n with
  | 2 => s.setSq g { q with overloadTurns := fld m 32 8 }
  | 3 => s.setSq g { q with overloaded := q.overloaded && !w.getLsbD 3, badProd := q.badProd && !w.getLsbD 5 }
  | 7 => s.setSq g { q with maxAge := fld m 32 32 }
  | 8 => s.setSq g { q with prio := fld m 0 4 }
  | _ => s

/-- A CQ's block; a condition that the write makes true sends the interrupt (R244, R251). -/
def writeCq (g n : Nat) (half : RegHalf) (v : Word) (s : State) : State :=
  let q := s.cq g
  let m := mergeHalf (readCq s g n) v half
  let w := written half v
  match n with
  | 3 => s.setCq g { q with badHead := q.badHead && !w.getLsbD 3 }
  | 6 =>
    let n : BitVec 16 := fld m 16 16
    cqIrq g (s.setCq g { q with vector := vecOr q.room.toNat q.vector (fld m 0 8), irqEn := m.getLsbD 8
                                irqCount := if n = 0 then 1 else n, delayUs := fld m 32 16 })
  | _ => s

/-- A port's block (R539). -/
def writeZl (p n : Nat) (half : RegHalf) (v : Word) (s : State) : State :=
  let x := s.port p
  let m := mergeHalf (readZl s p n) v half
  let w := written half v
  match n with
  | 0 =>
    let s := s.setPort p { x with irqEn := fld m 32 6, vector := fld m 40 8 }
    if w.getLsbD 2 then retrainPort p s else s
  | 1 => if w.getLsbD 5 then clearQuarantine p s else s
  | _ => s

/-- A Room's overflow registers (R540, R714). -/
def writeOvf (k n : Nat) (half : RegHalf) (v : Word) (s : State) : State :=
  let x := s.ovfOf k
  let m := mergeHalf (readOvf s k n) v half
  match n with
  | 0 => if fld m 0 12 = 0 then s.setOvf k { x with base := fld m 0 60 } else s
  | 1 => s.setOvf k { x with blocks := fld m 0 32 }
  | _ => s.setOvf k { x with next := fld m 0 32 }

/-- An MSI-X table entry; unmasking a pending one sends its message (R636). -/
def writeMsix (fn e n : Nat) (half : RegHalf) (v : Word) (s : State) : State :=
  let i := fn * 256 + e
  let x := tget s.msix {} i
  let m := mergeHalf (readMsix s fn e n) v half
  if n = 0 then { s with msix := tset s.msix {} i { x with addr := m &&& ~~~3#64 } }
  else
    let y := { x with data := fld m 0 32, masked := m.getLsbD 32 }
    if x.pending && !y.masked then
      { s with msix := tset s.msix {} i { y with pending := false } }.emit (.msix fn e)
    else { s with msix := tset s.msix {} i y }

/-- A write of a register under its access codes: RO fields and reserved bits keep what they are (R4, R9, R653). -/
def writeReg (r : Reg) (half : RegHalf) (v : Word) (s : State) : State :=
  let m := mergeHalf (readReg s r) v half
  match r with
  | .reserved => s
  | .gctl n => writeGctl n half v s
  | .foyer k n => writeFoyer k n half v s
  | .room _ _ => s
  | .cad n => writeCad n half v s
  | .slot n => { s with cad := { s.cad with weights := tset s.cad.weights 0x80 n (fld m 0 8) } }
  | .nrg n => writeNrg n half v s
  | .share _ => s
  | .pdCtl d => writePdCtl d m s
  | .pdStatus _ => s
  | .nrgClass n => { s with nrg := { s.nrg with classes := s.nrg.classes.set n (fld m 0 31) } }
  | .arb i n => writeArb i n half v s
  | .err n => writeErr n half v s
  | .flt k n => writeFlt k n half v s
  | .ch c n => writeCh c n half v s
  | .sq g n => writeSq g n half v s
  | .cq g n => writeCq g n half v s
  | .zl p n => writeZl p n half v s
  | .loop _ => s
  | .ovf k n => writeOvf k n half v s
  | .rdx n => if n = 4 then { s with house := { s.house with irqEn := fld m 0 4, vector := fld m 8 8 } } else s
  | .rdxSlot _ _ => s
  | .study _ => s
  | .studySet _ _ => s
  | .cel _ _ => s
  | .dbg n => if n = 0 && !s.g.debugLocked then { s with dbgFeAddr := fld m 3 25 } else s
  | .msix fn e n => writeMsix fn e n half v s
  | .pba _ _ => s
  | .syFlag f n => if n = 0 && (covers half).1 then writeFlag f (v.getLsbD 0) s else s
  | .syCount t n => if n = 4 then writeAdd t half v s else s
  | .wire w n => match n with
    | 0 => if (covers half).1 then writeWireCfg w v s else s
    | 1 => writeMask w false half v s
    | 2 => writeMask w true half v s
    | _ => s
  | .bell p n => match n with
    | 0 => ringSq p s
    | 1 => invalSq p s
    | _ => armCq p s
  | .vwFlag k i => if (covers half).1 then writeVwFlag k i (v.getLsbD 0) s else s
  | .vwCount k i => if 511 < i then writeVwAdd k (i - 512) half v s else writeVwCount k i v s

/-- REGISTER_WRITE (R4). -/
def execRegisterWrite (bar : Bar) (offset : BitVec 26) (half : RegHalf) (v : BitVec 64) (s : State) :
    Host.Outcome State Fault Refusal :=
  .next (throughBar (barFn bar) (fun s => writeReg (regNow s bar (offset.toNat / 8 * 8)) half v s) s)

/-! ### Accesses of a wrong width or alignment (R8, R653) -/

/-- A width and an alignment that R5 gives. -/
def accessOk (o len : Nat) : Bool := (len = 8 && o % 8 = 0) || (len = 4 && o % 4 = 0)

/-- The record of a malformed access: to the audit log, or to the Room's fault log (R8). -/
def malformedAccess (fn o : Nat) (s : State) : State :=
  let r : ErrRec := { status := St.malformed, severity := 1, unitKind := 13, object := BitVec.ofNat 64 o }
  if fn = 0 then auditRec r s else actRec fn r s

/-- MALFORMED_REG_ACCESS (R8). Nothing of a reserved offset is recorded (R653). -/
def execMalformedRegAccess (bar : Bar) (offset : BitVec 26) (len : Nat) (isWrite : Bool) (s : State) :
    Host.Outcome State Fault Refusal :=
  let fn := barFn bar
  let o := offset.toNat
  if accessOk o len then .next s
  else if !fnOpen s fn then .next (s.emit .unsupported)
  else
    let hidden : Bool := (fn ≠ 0 && (s.room fn).state = .none) || regNow s bar (o / 8 * 8) = .reserved
    let s := if hidden then s else malformedAccess fn o s
    .next (if isWrite then s else s.emit (.readData 0))

end Sys2Proof.Machine
end

