-- ==== Sys2Proof/Machine/Sideband.lean ====
section
/-! DEFINITION. The sideband ports: MCTP control messages over SMBus and the JTAG port (16 R702, R703; log entry 19). -/
namespace Sys2Proof.Machine

/-! ### MCTP (R702) -/

/-! Completion codes of control messages. -/
namespace Mctp
abbrev success : Byte := 0x00
abbrev invalidData : Byte := 0x02
abbrev invalidLength : Byte := 0x03
abbrev unsupportedCmd : Byte := 0x05
abbrev typeUnsupported : Byte := 0x80
end Mctp

/-- Byte k of a message; 0 beyond its end. -/
def mcByte (m : List Byte) (k : Nat) : Byte := m.getD k 0

/-- The target takes a request for a control command: from PWRGD on, message type 0, the Rq bit set (R702). -/
def mcRequest (s : State) (m : List Byte) : Bool :=
  s.pins.pwrgd && s.g.powered && 3 ≤ m.length && fld (mcByte m 0) 0 7 = 0 && (mcByte m 1).getLsbD 7

/-- The response to a request: type, instance ID, command, completion code and data. -/
def mcAnswer (m : List Byte) (code : Byte) (data : List Byte) (s : State) : State :=
  s.emit (.mctp ([0, mcByte m 1 &&& 0x1F, mcByte m 2, code] ++ data))

/-- A row of command c whose request carries n bytes of data; a message of another command is not this row's. -/
def mcCommand (c : Byte) (n : Nat) (m : List Byte) (body : State → State) (s : State) : State :=
  if !mcRequest s m || mcByte m 2 ≠ c then s
  else if m.length ≠ 3 + n then mcAnswer m Mctp.invalidLength [] s
  else body s

/-- Set Endpoint ID: operations 0 and 1 set a valid ID; the others are not supported by an endpoint of this kind. -/
def setEid (m : List Byte) (s : State) : State :=
  let op : BitVec 2 := fld (mcByte m 3) 0 2
  let e := mcByte m 4
  if 2 ≤ op || e = 0 || e = 0xFF then mcAnswer m Mctp.invalidData [] s
  else mcAnswer m Mctp.success [0, e, 0] { s with side := { s.side with eid := e } }

/-- MCTP_SET_ENDPOINT_ID (R702). -/
def execMctpSetEndpointId (msg : List Byte) (s : State) : Host.Outcome State Fault Refusal :=
  .next (mcCommand 0x01 2 msg (setEid msg) s)

/-- MCTP_GET_ENDPOINT_ID (R702): a simple endpoint with a dynamic ID. -/
def execMctpGetEndpointId (msg : List Byte) (s : State) : Host.Outcome State Fault Refusal :=
  .next (mcCommand 0x02 0 msg (fun s => mcAnswer msg Mctp.success [s.side.eid, 0, 0] s) s)

/-- MCTP_GET_ENDPOINT_UUID (R702): derived from GCTL_SERIAL, most significant byte first. -/
def execMctpGetEndpointUuid (msg : List Byte) (s : State) : Host.Outcome State Fault Refusal :=
  .next (mcCommand 0x03 0 msg (fun s =>
    mcAnswer msg Mctp.success (leBytes 16 (Config.endpointUuid s.g.serial).toNat).reverse s) s)

/-- MCTP_GET_VERSION_SUPPORT (R702): of the base specification and of control messages. -/
def execMctpGetVersionSupport (msg : List Byte) (s : State) : Host.Outcome State Fault Refusal :=
  .next (mcCommand 0x04 1 msg (fun s =>
    if mcByte msg 3 = 0xFF || mcByte msg 3 = 0 then
      mcAnswer msg Mctp.success (1 :: leBytes 4 Config.mctpVersion.toNat) s
    else mcAnswer msg Mctp.typeUnsupported [] s) s)

/-- MCTP_GET_MESSAGE_TYPE_SUPPORT (R702): control messages only. -/
def execMctpGetMessageTypeSupport (msg : List Byte) (s : State) : Host.Outcome State Fault Refusal :=
  .next (mcCommand 0x05 0 msg (fun s => mcAnswer msg Mctp.success [1, 0] s) s)

/-- MCTP_UNSUPPORTED_CMD (R702). -/
def execMctpUnsupportedCmd (msg : List Byte) (s : State) : Host.Outcome State Fault Refusal :=
  let c := mcByte msg 2
  .next (if mcRequest s msg && !(1 ≤ c && c ≤ 5) then mcAnswer msg Mctp.unsupportedCmd [] s else s)

/-! ### JTAG (R695, R703) -/

/-- Boundary cells: the low-speed balls but the JTAG balls, the clocks and the sense balls (R695, R703). -/
abbrev cellCount : Nat := 24

/-- Levels of the 24 balls, CA20 to CA33 and then CB20 to CB25 and CB31 to CB34. The spec gives the SMBus and SPI balls no
level here: they are open values. -/
def ballLevels (s : State) : List Bool :=
  let open_ (i : Nat) : Bool := Config.ballLevel (s.free * cellCount + i)
  let vid := coreVid s
  let pr := s.pins.strapClaimPrio
  [s.pins.perstN, s.pins.pwrgd, !thermTripLow s, !alertLow s, open_ 0, open_ 1, s.pins.cadIn, cadOut s,
   s.pins.strapHallEligible, pr.getLsbD 0, pr.getLsbD 1, pr.getLsbD 2, pr.getLsbD 3, s.pins.strapBootSel,
   open_ 2, open_ 3, open_ 4, open_ 5, open_ 6, open_ 7, vid.getLsbD 0, vid.getLsbD 1, vid.getLsbD 2, vid.getLsbD 3]

/-- Shift bits through a register whose first bit leaves first: what leaves, and what stays. -/
def jtagShift (reg tdi : List Bool) : List Bool × List Bool :=
  let all := reg ++ tdi
  (all.take tdi.length, all.drop tdi.length)

/-- The one-bit bypass register, which captures 0. -/
def jtagPass (tdi : List Bool) (s : State) : State := s.emit (.jtag (jtagShift [false] tdi).1)

/-- EXTEST no longer holds the pins. -/
def leaveExtest (s : State) : State := { s with side := { s.side with extest := false } }

/-- JTAG_BYPASS (R703). -/
def execJtagBypass (tdi : List Bool) (s : State) : Host.Outcome State Fault Refusal :=
  .next (jtagPass tdi (leaveExtest s))

/-- The identification code: stepping A0, part 0x0250, the maker's code, 1 (R703). -/
def idcode : Half := (0#4 ++ 0x0250#16) ++ (Config.jedecMaker ++ 1#1)

/-- JTAG_IDCODE (R703). -/
def execJtagIdcode (tdi : List Bool) (s : State) : Host.Outcome State Fault Refusal :=
  .next ((leaveExtest s).emit (.jtag (jtagShift ((List.range 32).map idcode.getLsbD) tdi).1))

/-- Capture the balls' levels, shift, and update the cells. -/
def jtagCells (tdi : List Bool) (s : State) : State :=
  match jtagShift (ballLevels s) tdi with
  | (out, cells) => { s with free := s.free + 1, side := { s.side with cells := cells } }.emit (.jtag out)

/-- JTAG_SAMPLE_PRELOAD (R703). -/
def execJtagSamplePreload (tdi : List Bool) (s : State) : Host.Outcome State Fault Refusal :=
  .next (jtagCells tdi (leaveExtest s))

/-- JTAG_EXTEST: accepted while PERST_N is low, and BYPASS otherwise (R703). -/
def execJtagExtest (tdi : List Bool) (s : State) : Host.Outcome State Fault Refusal :=
  .next (if s.pins.perstN then jtagPass tdi (leaveExtest s)
    else jtagCells tdi { s with side := { s.side with extest := true } })

end Sys2Proof.Machine
end

