-- ==== Sys2Proof/Machine/Dispatch.lean ====
section
/-! DEFINITION. One arm for each command of the opcode table. -/
namespace Sys2Proof.Machine

def exec (i : Instr) (s : State) : Host.Outcome State Fault Refusal :=
  match i with
  | .move c => Sys2Proof.Machine.execMove c s
  | .moveList c => Sys2Proof.Machine.execMoveList c s
  | .moveTile c => Sys2Proof.Machine.execMoveTile c s
  | .fill c => Sys2Proof.Machine.execFill c s
  | .moveCoords c => Sys2Proof.Machine.execMoveCoords c s
  | .loop c => Sys2Proof.Machine.execLoop c s
  | .stop c => Sys2Proof.Machine.execStop c s
  | .waitFlag c => Sys2Proof.Machine.execWaitFlag c s
  | .waitFull c => Sys2Proof.Machine.execWaitFull c s
  | .waitPhase c => Sys2Proof.Machine.execWaitPhase c s
  | .waitCount c => Sys2Proof.Machine.execWaitCount c s
  | .waitBarrier c => Sys2Proof.Machine.execWaitBarrier c s
  | .signalFlag c => Sys2Proof.Machine.execSignalFlag c s
  | .signalCount c => Sys2Proof.Machine.execSignalCount c s
  | .arrive c => Sys2Proof.Machine.execArrive c s
  | .fence c => Sys2Proof.Machine.execFence c s
  | .notify c => Sys2Proof.Machine.execNotify c s
  | .reduceSend c => Sys2Proof.Machine.execReduceSend c s
  | .reduceStore c => Sys2Proof.Machine.execReduceStore c s
  | .moverBurst m => Sys2Proof.Machine.execMoverBurst m s
  | .halfEvent c => Sys2Proof.Machine.execHalfEvent c s
  | .fullEvent c => Sys2Proof.Machine.execFullEvent c s
  | .timerTrigger c => Sys2Proof.Machine.execTimerTrigger c s
  | .chRun c => Sys2Proof.Machine.execChRun c s
  | .chPause c pause => Sys2Proof.Machine.execChPause c pause s
  | .chReset c => Sys2Proof.Machine.execChReset c s
  | .channelPaused c => Sys2Proof.Machine.execChannelPaused c s
  | .phaseWake c => Sys2Proof.Machine.execPhaseWake c s
  | .waitTimeoutExpiry u => Sys2Proof.Machine.execWaitTimeoutExpiry u s
  | .runProgram q => Sys2Proof.Machine.execRunProgram q s
  | .copy q => Sys2Proof.Machine.execCopy q s
  | .tile q => Sys2Proof.Machine.execTile q s
  | .fillEntry q => Sys2Proof.Machine.execFillEntry q s
  | .tokenize q => Sys2Proof.Machine.execTokenize q s
  | .detokenize q => Sys2Proof.Machine.execDetokenize q s
  | .collective q => Sys2Proof.Machine.execCollective q s
  | .signalEntry q => Sys2Proof.Machine.execSignalEntry q s
  | .waitEntry q => Sys2Proof.Machine.execWaitEntry q s
  | .nop q => Sys2Proof.Machine.execNop q s
  | .dbSq page => Sys2Proof.Machine.execDbSq page s
  | .dbSqInval page => Sys2Proof.Machine.execDbSqInval page s
  | .dbCqArm page => Sys2Proof.Machine.execDbCqArm page s
  | .sqScan q => Sys2Proof.Machine.execSqScan q s
  | .sqDispatch q => Sys2Proof.Machine.execSqDispatch q s
  | .deadlineDrop q => Sys2Proof.Machine.execDeadlineDrop q s
  | .completionWrite q => Sys2Proof.Machine.execCompletionWrite q s
  | .cqIrqDelay q => Sys2Proof.Machine.execCqIrqDelay q s
  | .cqHeadReread q => Sys2Proof.Machine.execCqHeadReread q s
  | .sqOverload q => Sys2Proof.Machine.execSqOverload q s
  | .identify k pkt => Sys2Proof.Machine.execIdentify k pkt s
  | .roomCreate k pkt => Sys2Proof.Machine.execRoomCreate k pkt s
  | .roomDestroy k pkt => Sys2Proof.Machine.execRoomDestroy k pkt s
  | .roomReset k pkt => Sys2Proof.Machine.execRoomReset k pkt s
  | .roomResetEnd k => Sys2Proof.Machine.execRoomResetEnd k s
  | .roomWindowSet k pkt => Sys2Proof.Machine.execRoomWindowSet k pkt s
  | .roomShareSet k pkt => Sys2Proof.Machine.execRoomShareSet k pkt s
  | .sqCreate k pkt => Sys2Proof.Machine.execSqCreate k pkt s
  | .sqDestroy k pkt => Sys2Proof.Machine.execSqDestroy k pkt s
  | .cqCreate k pkt => Sys2Proof.Machine.execCqCreate k pkt s
  | .cqDestroy k pkt => Sys2Proof.Machine.execCqDestroy k pkt s
  | .sqResume k pkt => Sys2Proof.Machine.execSqResume k pkt s
  | .channelAssign k pkt => Sys2Proof.Machine.execChannelAssign k pkt s
  | .channelRelease k pkt => Sys2Proof.Machine.execChannelRelease k pkt s
  | .bufAlloc k pkt => Sys2Proof.Machine.execBufAlloc k pkt s
  | .bufFree k pkt => Sys2Proof.Machine.execBufFree k pkt s
  | .bufQuery k pkt => Sys2Proof.Machine.execBufQuery k pkt s
  | .bufReclaim k pkt => Sys2Proof.Machine.execBufReclaim k pkt s
  | .syncMap k pkt => Sys2Proof.Machine.execSyncMap k pkt s
  | .syncUnmap k pkt => Sys2Proof.Machine.execSyncUnmap k pkt s
  | .feRegionSet k pkt => Sys2Proof.Machine.execFeRegionSet k pkt s
  | .powerDomain k pkt => Sys2Proof.Machine.execPowerDomain k pkt s
  | .powerCapSet k pkt => Sys2Proof.Machine.execPowerCapSet k pkt s
  | .cadenceConfig k pkt => Sys2Proof.Machine.execCadenceConfig k pkt s
  | .linkConfig k pkt => Sys2Proof.Machine.execLinkConfig k pkt s
  | .linkKeyLoad k pkt => Sys2Proof.Machine.execLinkKeyLoad k pkt s
  | .housePolicy k pkt => Sys2Proof.Machine.execHousePolicy k pkt s
  | .groupDefine k pkt => Sys2Proof.Machine.execGroupDefine k pkt s
  | .groupRelease k pkt => Sys2Proof.Machine.execGroupRelease k pkt s
  | .studyLoadTables k pkt => Sys2Proof.Machine.execStudyLoadTables k pkt s
  | .studyCacheFlush k pkt => Sys2Proof.Machine.execStudyCacheFlush k pkt s
  | .fwUpdate k pkt => Sys2Proof.Machine.execFwUpdate k pkt s
  | .diagEcho k pkt => Sys2Proof.Machine.execDiagEcho k pkt s
  | .diagTemperature k pkt => Sys2Proof.Machine.execDiagTemperature k pkt s
  | .diagBuffers k pkt => Sys2Proof.Machine.execDiagBuffers k pkt s
  | .diagMisuse k pkt => Sys2Proof.Machine.execDiagMisuse k pkt s
  | .fyCmdDoorbell k prod => Sys2Proof.Machine.execFyCmdDoorbell k prod s
  | .fyCmdEnable k size => Sys2Proof.Machine.execFyCmdEnable k size s
  | .fyAuditEnable size => Sys2Proof.Machine.execFyAuditEnable size s
  | .fyAuditHeadWrite head => Sys2Proof.Machine.execFyAuditHeadWrite head s
  | .fltEnable k size => Sys2Proof.Machine.execFltEnable k size s
  | .fltHeadWrite k head => Sys2Proof.Machine.execFltHeadWrite k head s
  | .fltIrqCoalesce k => Sys2Proof.Machine.execFltIrqCoalesce k s
  | .workRecordWindow => Sys2Proof.Machine.execWorkRecordWindow s
  | .misuseWindow => Sys2Proof.Machine.execMisuseWindow s
  | .deviceResetRequest data => Sys2Proof.Machine.execDeviceResetRequest data s
  | .foyerRestartRequest data => Sys2Proof.Machine.execFoyerRestartRequest data s
  | .foyerReboot => Sys2Proof.Machine.execFoyerReboot s
  | .recoveryLoad data => Sys2Proof.Machine.execRecoveryLoad data s
  | .vfFlr k => Sys2Proof.Machine.execVfFlr k s
  | .vfBmeClear k => Sys2Proof.Machine.execVfBmeClear k s
  | .vfMseClear k => Sys2Proof.Machine.execVfMseClear k s
  | .vfDisable numVfs => Sys2Proof.Machine.execVfDisable numVfs s
  | .atsInvalidation r => Sys2Proof.Machine.execAtsInvalidation r s
  | .vwFlagWrite k id v => Sys2Proof.Machine.execVwFlagWrite k id v s
  | .vwAddWrite k id half v => Sys2Proof.Machine.execVwAddWrite k id half v s
  | .syValueWrite f v => Sys2Proof.Machine.execSyValueWrite f v s
  | .ctAddWrite t half v => Sys2Proof.Machine.execCtAddWrite t half v s
  | .bwMaskWrite w hi half v => Sys2Proof.Machine.execBwMaskWrite w hi half v s
  | .bwEnableClear w => Sys2Proof.Machine.execBwEnableClear w s
  | .remotePoll u => Sys2Proof.Machine.execRemotePoll u s
  | .malformedRegAccess bar offset len isWrite => Sys2Proof.Machine.execMalformedRegAccess bar offset len isWrite s
  | .registerWrite bar offset half v => Sys2Proof.Machine.execRegisterWrite bar offset half v s
  | .arbMapWrite n half v => Sys2Proof.Machine.execArbMapWrite n half v s
  | .arbStarvedClear n bits => Sys2Proof.Machine.execArbStarvedClear n bits s
  | .quarantineClear p => Sys2Proof.Machine.execQuarantineClear p s
  | .trippedClear => Sys2Proof.Machine.execTrippedClear s
  | .baseMwWrite mw => Sys2Proof.Machine.execBaseMwWrite mw s
  | .portRetrain p => Sys2Proof.Machine.execPortRetrain p s
  | .irqMaskWrite half v => Sys2Proof.Machine.execIrqMaskWrite half v s
  | .arbDecision a requests cycles => Sys2Proof.Machine.execArbDecision a requests cycles s
  | .arbStarvation a code => Sys2Proof.Machine.execArbStarvation a code s
  | .holdWatchdogCut a unit => Sys2Proof.Machine.execHoldWatchdogCut a unit s
  | .scrubBurst corrected upset => Sys2Proof.Machine.execScrubBurst corrected upset s
  | .cellarRefresh p streaming => Sys2Proof.Machine.execCellarRefresh p streaming s
  | .cellarTempSample p mc => Sys2Proof.Machine.execCellarTempSample p mc s
  | .cadReferenceEvent level => Sys2Proof.Machine.execCadReferenceEvent level s
  | .cadMissedBoundary => Sys2Proof.Machine.execCadMissedBoundary s
  | .cadAcquireTimeout => Sys2Proof.Machine.execCadAcquireTimeout s
  | .slotEntry => Sys2Proof.Machine.execSlotEntry s
  | .nrgTempSample mc => Sys2Proof.Machine.execNrgTempSample mc s
  | .domainIdleRequest d => Sys2Proof.Machine.execDomainIdleRequest d s
  | .domainDrainStart d => Sys2Proof.Machine.execDomainDrainStart d s
  | .domainPowerDown d => Sys2Proof.Machine.execDomainPowerDown d s
  | .drainLimitCut d => Sys2Proof.Machine.execDrainLimitCut d s
  | .domainTransitionDone d => Sys2Proof.Machine.execDomainTransitionDone d s
  | .hello p rec => Sys2Proof.Machine.execHello p rec s
  | .trainingTimeout p => Sys2Proof.Machine.execTrainingTimeout p s
  | .retrainEnd p => Sys2Proof.Machine.execRetrainEnd p s
  | .laneLossOfLock p => Sys2Proof.Machine.execLaneLossOfLock p s
  | .dataFrame p f => Sys2Proof.Machine.execDataFrame p f s
  | .ctrlFrame p f => Sys2Proof.Machine.execCtrlFrame p f s
  | .nak p rec => Sys2Proof.Machine.execNak p rec s
  | .portSendFrame p => Sys2Proof.Machine.execPortSendFrame p s
  | .ackTimer p => Sys2Proof.Machine.execAckTimer p s
  | .replayTimeout p => Sys2Proof.Machine.execReplayTimeout p s
  | .replayExhausted p => Sys2Proof.Machine.execReplayExhausted p s
  | .violationWindow => Sys2Proof.Machine.execViolationWindow s
  | .openMsg p f n => Sys2Proof.Machine.execOpenMsg p f n s
  | .doneMsg p f n => Sys2Proof.Machine.execDoneMsg p f n s
  | .refuseMsg p f n => Sys2Proof.Machine.execRefuseMsg p f n s
  | .readMsg p f n => Sys2Proof.Machine.execReadMsg p f n s
  | .signalMsg p f n => Sys2Proof.Machine.execSignalMsg p f n s
  | .signalAck p f n => Sys2Proof.Machine.execSignalAck p f n s
  | .waitReg p f n => Sys2Proof.Machine.execWaitReg p f n s
  | .wake p f n => Sys2Proof.Machine.execWake p f n s
  | .waitCancel p f n => Sys2Proof.Machine.execWaitCancel p f n s
  | .poll p f n => Sys2Proof.Machine.execPoll p f n s
  | .rdxReq p f n => Sys2Proof.Machine.execRdxReq p f n s
  | .rdxGrant p f n => Sys2Proof.Machine.execRdxGrant p f n s
  | .rdxOpen p f n => Sys2Proof.Machine.execRdxOpen p f n s
  | .rdxAck p f n => Sys2Proof.Machine.execRdxAck p f n s
  | .rdxRetry p f n => Sys2Proof.Machine.execRdxRetry p f n s
  | .rdxFail p f n => Sys2Proof.Machine.execRdxFail p f n s
  | .hbArrive p f n => Sys2Proof.Machine.execHbArrive p f n s
  | .hbRelease p f n => Sys2Proof.Machine.execHbRelease p f n s
  | .roomAbort p f n => Sys2Proof.Machine.execRoomAbort p f n s
  | .roomAbortAck p f n => Sys2Proof.Machine.execRoomAbortAck p f n s
  | .routeFail p f n => Sys2Proof.Machine.execRouteFail p f n s
  | .accumulatorReserve g chunk => Sys2Proof.Machine.execAccumulatorReserve g chunk s
  | .rdxGrantTimeout c => Sys2Proof.Machine.execRdxGrantTimeout c s
  | .chunkComplete g chunk => Sys2Proof.Machine.execChunkComplete g chunk s
  | .claim p f => Sys2Proof.Machine.execClaim p f s
  | .hallAnnounce p f => Sys2Proof.Machine.execHallAnnounce p f s
  | .joinReq p f => Sys2Proof.Machine.execJoinReq p f s
  | .joinAck p f => Sys2Proof.Machine.execJoinAck p f s
  | .keyShare p f => Sys2Proof.Machine.execKeyShare p f s
  | .keyDeliver p f => Sys2Proof.Machine.execKeyDeliver p f s
  | .houseDissolve p f => Sys2Proof.Machine.execHouseDissolve p f s
  | .keyReq p f => Sys2Proof.Machine.execKeyReq p f s
  | .memberUpdate p f => Sys2Proof.Machine.execMemberUpdate p f s
  | .linkReport p f => Sys2Proof.Machine.execLinkReport p f s
  | .tick p f => Sys2Proof.Machine.execTick p f s
  | .beacon p f => Sys2Proof.Machine.execBeacon p f s
  | .timePing p f => Sys2Proof.Machine.execTimePing p f s
  | .timePong p f => Sys2Proof.Machine.execTimePong p f s
  | .groupSet p f => Sys2Proof.Machine.execGroupSet p f s
  | .dupStop p f => Sys2Proof.Machine.execDupStop p f s
  | .claimStart => Sys2Proof.Machine.execClaimStart s
  | .claimRepeat => Sys2Proof.Machine.execClaimRepeat s
  | .hallElected => Sys2Proof.Machine.execHallElected s
  | .joinRetry => Sys2Proof.Machine.execJoinRetry s
  | .joinRefusedRetry => Sys2Proof.Machine.execJoinRefusedRetry s
  | .tickTimer => Sys2Proof.Machine.execTickTimer s
  | .timePingTimer => Sys2Proof.Machine.execTimePingTimer s
  | .hallLost => Sys2Proof.Machine.execHallLost s
  | .wingRemoval n => Sys2Proof.Machine.execWingRemoval n s
  | .groupDefineTimeout g => Sys2Proof.Machine.execGroupDefineTimeout g s
  | .studyCacheFill j => Sys2Proof.Machine.execStudyCacheFill j s
  | .studyJobComplete j => Sys2Proof.Machine.execStudyJobComplete j s
  | .bar2Write offset data enables => Sys2Proof.Machine.execBar2Write offset data enables s
  | .bar2Read offset len => Sys2Proof.Machine.execBar2Read offset len s
  | .configRequest k reg isWrite v => Sys2Proof.Machine.execConfigRequest k reg isWrite v s
  | .pwrgdRise => Sys2Proof.Machine.execPwrgdRise s
  | .pwrgdFall => Sys2Proof.Machine.execPwrgdFall s
  | .perstNAssert => Sys2Proof.Machine.execPerstNAssert s
  | .perstNDeassert => Sys2Proof.Machine.execPerstNDeassert s
  | .pcieHotReset => Sys2Proof.Machine.execPcieHotReset s
  | .pfFlr => Sys2Proof.Machine.execPfFlr s
  | .initComplete => Sys2Proof.Machine.execInitComplete s
  | .bootComplete read0 read1 => Sys2Proof.Machine.execBootComplete read0 read1 s
  | .refclkSysLoss => Sys2Proof.Machine.execRefclkSysLoss s
  | .refclkSysRestored => Sys2Proof.Machine.execRefclkSysRestored s
  | .refclkPcieLoss => Sys2Proof.Machine.execRefclkPcieLoss s
  | .mctpSetEndpointId msg => Sys2Proof.Machine.execMctpSetEndpointId msg s
  | .mctpGetEndpointId msg => Sys2Proof.Machine.execMctpGetEndpointId msg s
  | .mctpGetEndpointUuid msg => Sys2Proof.Machine.execMctpGetEndpointUuid msg s
  | .mctpGetVersionSupport msg => Sys2Proof.Machine.execMctpGetVersionSupport msg s
  | .mctpGetMessageTypeSupport msg => Sys2Proof.Machine.execMctpGetMessageTypeSupport msg s
  | .mctpUnsupportedCmd msg => Sys2Proof.Machine.execMctpUnsupportedCmd msg s
  | .jtagBypass tdi => Sys2Proof.Machine.execJtagBypass tdi s
  | .jtagIdcode tdi => Sys2Proof.Machine.execJtagIdcode tdi s
  | .jtagSamplePreload tdi => Sys2Proof.Machine.execJtagSamplePreload tdi s
  | .jtagExtest tdi => Sys2Proof.Machine.execJtagExtest tdi s
  | .laneLock p lanes => Sys2Proof.Machine.execLaneLock p lanes s
  | .longCommandDone k => Sys2Proof.Machine.execLongCommandDone k s
  | .pcieCompletion k addr data ok => Sys2Proof.Machine.execPcieCompletion k addr data ok s
  | .rcRegisterRead bar offset half => Sys2Proof.Machine.execRcRegisterRead bar offset half s
  | .dbgFeRead tag => Sys2Proof.Machine.execDbgFeRead tag s

end Sys2Proof.Machine
end

