-- ==== Sys2Proof/Safety.lean ====
section
/-! DEFINITION. What a safe state of the block is, in the terms the statements use: every memory and every table in its
canonical form; and the vocabulary of the statements about channel instructions, work entries, packets and frames. -/
namespace Sys2Proof.Machine

/-! ### Canonical forms -/

/-- The memories and the boot flash are in canonical form: addresses rising, no byte 0 listed. -/
def memoriesWf (s : State) : Bool :=
  Memory.wf s.pantry && Memory.wf s.cellar && Memory.wf s.larder && Memory.wf s.host && Memory.wf s.flash

/-- Every register file and object table is in canonical form: indices rising, no default record listed. -/
def tablesWf (s : State) : Bool :=
  tableWf {} s.msix && tableWf {} s.logs && tableWf {} s.rooms && tableWf {} s.chans && tableWf {} s.sqs
    && tableWf {} s.cqs && tableWf {} s.flags && tableWf {} s.counters && tableWf {} s.wires && tableWf {} s.arbs
    && tableWf {} s.arbiters && tableWf {} s.domains && tableWf {} s.cellars && tableWf {} s.ports && tableWf {} s.ovf
    && tableWf {} s.rings && tableWf {} s.fy.slots

/-- A canonical state: equal contents are equal data, and each Mover has its place in the rotation. -/
def State.wf (s : State) : Bool := memoriesWf s && tablesWf s && s.rotor.length = 2

/-! ### Channel instructions (R103, R139, R145, R469) -/

/-- The trigger that the instruction waits for is there: an event pends, or has been taken for it already (R145). -/
def triggerReady (h : Chan) (w : BitVec 256) : Bool :=
  !flTrigger (wFlags w) || h.trigTaken || (h.trigSrc ≠ 0 && h.trigPending ≠ 0)

/-- Channel c issues the instruction word w, which has opcode o, now: it is RUNNING with nothing in progress, the
domains of its fetch and its Mover are neither OFF nor in RETAIN, the fetch leaves the state s1 and gives w, w sets no flag
or operand byte that is reserved, and its trigger is there. -/
def MayIssue (s : State) (c : Nat) (o : Byte) (w : BitVec 256) (s1 : State) : Prop :=
  issueReady (s.chan c) = true ∧ (∀ d ∈ fetchDomains s (s.chan c), pdUp s d = true) ∧ pdUp s (pdMover c) = true
    ∧ fetchInstr c s = (s1, .ok w) ∧ fld w 0 8 = o ∧ flagsOk o (wFlags w) = true ∧ operandsReservedOk w = true
    ∧ triggerReady ((pdTouch (pdMover c) s1).chan c) w = true

/-- The state in which the instruction's own rules apply: the Mover's domain has served an access, and TRIGGER_WAIT has
taken one pending event (R145, R477). -/
def atIssue (c : Nat) (w : BitVec 256) (s1 : State) : State :=
  let s := pdTouch (pdMover c) s1
  let h := s.chan c
  if flTrigger (wFlags w) && !h.trigTaken then
    s.setChan c { h with trigPending := h.trigPending - 1, trigTaken := true }
  else s

/-- Every domain of a list is ON, so nothing is held (R470). -/
def allOn (s : State) (ds : List Nat) : Prop := ∀ d ∈ ds, pdOn s d = true

/-- What an instruction of channel c touches: its Mover, its fetch, and the domains of a list (R469). -/
def issueDomains (c : Nat) (s : State) (ds : List Nat) : List Nat := (baseDomains c s ++ ds).eraseDups

/-- Channel c reads the tile descriptor at `desc` and the records that it names, whose quadrants and stacks are ON: it is
the plan p, and the reads leave the state t (R67, R114, R468). -/
def TileRead (c : Nat) (desc : Word) (readOff writeOff : Option Half) (reduce : Option Layout) (s t : State)
    (p : TilePlan) : Prop :=
  let k := (s.chan c).room.toNat
  tableStatus s k desc 64 128 = St.ok ∧ allOn s (issueDomains c s (spanDomains s k desc 128))
    ∧ ∃ u d, devWord 128 k desc s = (u, .ok d)
      ∧ allOn u (issueDomains c u (((if reduce.isSome then [] else [fld d 0 64]) ++ [fld d 64 64] : List Word).flatMap
          fun a => spanDomains u k a 64))
      ∧ readTile k d readOff writeOff reduce u = (t, .ok p)

/-- Every arbiter that the channel's next burst passes grants it (R38, R413). -/
def Granted (s : State) (c : Nat) : Prop := ∀ x ∈ wants s c, (s.arbiter x.1).owner = some x.2

/-- No waiter's condition holds: no wait ends now (R383). -/
def noWaitEnds (s : State) : Prop := ∀ w ∈ s.waiters, (!w.paused && condHolds s w) = false

/-- t differs from s in channel c only. -/
def OnlyChan (c : Nat) (s t : State) : Prop :=
  { t with chans := s.chans } = s ∧ ∀ d, d ≠ c → t.chan d = s.chan d

/-! ### Work entries (R228) -/

/-- The head e of SQ g, with the entries `rest` behind it, passes every check of R228: the SQ may dispatch, the entry is
well formed and not to be dropped, its FENCE is met, the target is free and its domains serve, no other SQ of the Room comes
first, and the Room's energy admits it, leaving the balance b. -/
def HeadReady (s : State) (g : Nat) (e : Cached) (rest : List Cached) (target : Target) (b : Int) : Prop :=
  (s.sq g).cache = e :: rest ∧ mayDispatch (s.sq g) = true ∧ entryStatus s (s.sq g).room.toNat e.word = St.ok
    ∧ (weDropLate e.word && entryLate s e) = false ∧ fenceOk (s.sq g) e = true
    ∧ targetOf s (s.sq g).room.toNat e.word = some target ∧ target ≠ .quota
    ∧ dispatchHeld s (s.sq g).room.toNat e.word target = [] ∧ outranked s g target = false
    ∧ energyBehind s g = false
    ∧ energyAdmits (s.room (s.sq g).room.toNat) (s.nrg.classes.getD (weClass e.word).toNat 0).toNat = some b

/-- The four memories are unchanged. -/
def SameMemory (s t : State) : Prop :=
  t.pantry = s.pantry ∧ t.cellar = s.cellar ∧ t.larder = s.larder ∧ t.host = s.host

/-- A parity error of the staging memory discards the cached entries of SQ g, to be fetched again (R641); which reads
meet one is a free value. -/
def CacheDiscarded (g : Nat) (s t : State) : Prop :=
  (t.sq g).cache = [] ∧ (t.sq g).fetch = (s.sq g).cons ∧ (t.sq g).cons = (s.sq g).cons ∧ (t.sq g).dbPending = true
    ∧ t.err.parity = satInc s.err.parity ∧ SameMemory s t

/-- The head has left the queue: CONS has advanced, and the Room's balance is b (R225, R455). -/
def HeadTaken (g : Nat) (rest : List Cached) (b : Int) (s t : State) : Prop :=
  (t.sq g).cons = (s.sq g).cons + 1 ∧ (t.sq g).cache = rest ∧ (t.room (s.sq g).room.toNat).balance = some b
    ∧ SameMemory s t

/-- The completion of an entry, OK or LATE, that joins its queue's reports (R201, R236). -/
def doneReport (s : State) (e : Cached) (result : Word) : Report :=
  { count := e.count, tag := weTag e.word, status := if entryLate s e then St.late else St.ok, result := result,
    irq := weIrq e.word, opcode := weOpcode e.word }

/-! ### Command packets (R260, R270, R313) -/

/-- The Foyer takes the packet p of opcode o, which stands at CONS of ring k, now, and it passes steps 1 to 3 of R270. -/
def Accepted (s : State) (k : Nat) (p : BitVec 512) (o : BitVec 16) : Prop :=
  canTake s k = true ∧ hostReach s k = true ∧ ringPacket s k = some p ∧ pktOpcode p = o ∧ pkCheck k p = (St.ok, 0)

/-- The parts of the block that a reply and an audit record may change, taken from t, and everything else from e: Host
memory, the audit log, the interrupts, the rings, the last opcode and the round. -/
def withReply (t e : State) : State :=
  { e with host := t.host, audit := t.audit, outputs := t.outputs, msix := t.msix, rings := t.rings
           g := { e.g with irqStatus := t.g.irqStatus }, fy := { e.fy with lastOpcode := t.fy.lastOpcode, served := t.fy.served } }

/-- The command at CONS of ring k has ended in state t: its 32-byte reply stands in its slot, CONS has advanced, no other
ring has changed, and the rest of the block is as in e, the command's own effect. -/
def Answers (k : Nat) (p : BitVec 512) (status : Byte) (detail : BitVec 16) (r0 r1 : Word) (s e t : State) : Prop :=
  t = withReply t e
    ∧ mread t.host (hostKey k (replySlot (s.ring k))) 32 = replyBytes (s.ring k).replyPhase p status detail r0 r1
    ∧ (t.ring k).cons = (s.ring k).cons + 1 ∧ (∀ j, j ≠ k → t.ring j = s.ring j)
    ∧ t.fy.lastOpcode = pktOpcode p

/-! ### Records, resets and received frames -/

/-- t differs from s at most in what a record and its interrupt change: Host memory, the logs, the interrupts. -/
def Recorded (s t : State) : Prop :=
  { t with host := s.host, audit := s.audit, logs := s.logs, outputs := s.outputs, msix := s.msix
           g := { t.g with irqStatus := s.g.irqStatus } } = s

/-- Everything of t is at its reset value but the pins, the flash, Host memory, the outputs, the queue, the registers of
GCTL, the PCIe link, the sideband, the memories' contents and the NONCE (R661, R662, R674, R675). -/
def AtReset (s t : State) : Prop :=
  t = { State.reset with
        pending := s.pending, outputs := s.outputs, host := s.host, pins := t.pins, flash := t.flash, free := t.free, g := t.g
        pcie := t.pcie, side := t.side, pantry := t.pantry, cellar := t.cellar, larder := t.larder
        house := { State.reset.house with nonce := t.house.nonce } }
    ∧ t.g.devState = .init ∧ t.g.irqStatus = 0 ∧ t.g.irqMask = 0 ∧ t.g.serial = s.g.serial ∧ t.g.rollback = s.g.rollback
    ∧ t.flash = flashAfter s

/-- A frame of type ty that port p accepts, with content c, by every check but those of its messages. -/
def Received (s : State) (p : Nat) (f : FrameIn) (ty : Nat) (extra : List Byte → Option Nat) (c : List Byte) : Prop :=
  fType f.raw = ty ∧ judge s p f extra = .ok c

/-- Port p receives a MSG frame of the one message m, which is for this node (R514). -/
def OnlyMessage (s : State) (p : Nat) (f : FrameIn) (m : Msg) : Prop :=
  ∃ c, Received s p f 3 (msgVerdict s p) c ∧ c.length = 64 ∧ Msg.unpack (msgAt c 0) = m ∧ (s.port p).msgAt = 0
    ∧ m.dst.toNat = ownNode s

/-- Port p receives a MGMT frame of the one message w, which this node takes now (R544, R550, R560,
R666). -/
def OnlyMgmt (s : State) (p : Nat) (f : FrameIn) (w : BitVec 512) : Prop :=
  ∃ c, Received s p f 4 (mgVerdict s p) c ∧ c.length = 64 ∧ msgAt c 0 = w ∧ s.house.hstate ≠ .stopped
    ∧ s.fy.state = .ready ∧ (s.port p).msgAt = 0 ∧ (ofOwnHouse (mgN w 0 1) = true → houseLink s p = true) ∧ (isFlooded (mgN w 0 1) = true ∨ 0x8000 ≤ mgN w 6 2 ∨ mgN w 6 2 = ownNode s)

/-- The row x takes the frame f of port p: the message's own effect leads to u, and the frame is accepted (R500). -/
def Takes (x : Instr) (p : Nat) (f : FrameIn) (s u : State) : Prop := exec x s = .next (acceptSeq p (some f) u)

/-- u differs from s in the content that waits on port q only: the items are there after what waited before. -/
def Queued (q : Nat) (items : List TxItem) (s u : State) : Prop :=
  { u with ports := s.ports } = s ∧ u.port q = { s.port q with queue := (s.port q).queue ++ items }
    ∧ ∀ r, r ≠ q → u.port r = s.port r

/-- A message of this node as it waits on a port (R514). -/
def ownMsg (s : State) (m : Msg) : TxItem := .msg ({ m with src := BitVec.ofNat 16 (ownNode s) }).pack

/-- A sequenced frame of port p has been accepted: the expected SEQ and the limit granted have advanced (R500). -/
def Advanced (p : Nat) (s t : State) : Prop :=
  (t.port p).rxExpected = (s.port p).rxExpected + 1 ∧ (t.port p).rxLimit = (s.port p).rxLimit + 1

end Sys2Proof.Machine
end

