-- ==== Sys2Proof/Certificates/Slice0/Obligations.lean ====
section
/-! DEFINITION. The statements for the provers. -/

open Sys2Proof Sys2Proof.Machine

/-! ### The engine -/

/-- The command at the front of the queue runs on the state with the queue's rest; on an empty queue one ns passes
(the model's choice: log entries 4 and 15). -/
def Obligations.StepRunsFrontCommand : Prop :=
  (∀ (c : Instr) (r : List Instr) (s : State), step { s with pending := c :: r } = exec c { s with pending := r })
    ∧ ∀ s : State, s.pending = [] → step s = .next (tick s)

/-- No command's effect touches the queue: a step takes exactly the front command off it (log entry 15). -/
def Obligations.StepTakesOneCommandOff : Prop :=
  ∀ s t : State, step s = .next t → t.pending = s.pending.tail

/-- The state after reset is canonical, with no command waiting, and holds the reset values that the spec's register
tables give (R160, R187, R250, R316, R356, R401, R430, R449, R465, R539, R623, R659). The model's choices in it, by
log entry: the reset moment: 1; Room 0 comes with READY: 28. -/
def Obligations.ResetIsCanonical : Prop :=
  let s := State.reset
  s.wf = true ∧ s.pending = [] ∧ s.g.devState = .init ∧ s.g.irqStatus = 0 ∧ s.g.irqMask = 0 ∧ s.fy.state = .reset
    ∧ (∀ c, (s.chan c).state = .idle ∧ (s.chan c).pc = 0 ∧ (s.chan c).lfsr = 1 ∧ (s.chan c).seed = 0)
    ∧ (∀ q, (s.sq q).valid = false ∧ (s.sq q).overloadTurns = 8 ∧ (s.sq q).expPhase = true ∧ (s.cq q).valid = false)
    ∧ (∀ k, (s.room k).state = .none ∧ (s.ring k).enable = false ∧ (s.ring k).log2 = 4 ∧ (s.ring k).replyPhase = true)
    ∧ (∀ i, (s.flag i).value = false ∧ (s.counter i).value = 0)
    ∧ (∀ i, (s.arb i).map = 0xFEDC_BA98_7654_3210#64 ∧ (s.arb i).starveLimit = 0x0001_0000#32
      ∧ (s.arb i).holdEn = false ∧ (s.arb i).holdLimit = 0x001E_8480#32)
    ∧ (∀ p, (s.port p).state = .disabled ∧ (s.port p).attempts = 8 ∧ (s.port p).violLimit = 64)
    ∧ s.cad.source = 2 ∧ s.cad.state = .internal ∧ s.cad.nominalPs.toNat = 20000000000 ∧ s.cad.turn = 0 ∧ s.cad.phase = 0
    ∧ s.nrg.capMw.toNat = 260000 ∧ s.nrg.baseMw.toNat = 60000 ∧ s.nrg.factorQ8 = 256
    ∧ s.nrg.classes = [0, 16, 64, 256, 1024, 4096, 16384, 65536] ∧ s.study.hits = 0 ∧ s.study.misses = 0

/-- Every step keeps every memory and every table in canonical form. -/
def Obligations.StepKeepsCanonical : Prop :=
  ∀ s t : State, s.wf = true → step s = .next t → t.wf = true

/-! ### Channel instructions -/

/-- LOOP: its counter, the address offsets and the pc; nothing else of the block changes but the bookkeeping of the
channel's issue. A malformed LOOP (COUNT 0, a positive TARGET, a COUNTER above 3) is marked bad: its record stands in
CH_LAST_ERR and CH_BAD_COUNT, and no counter or offset moves (R117, R142). -/
def Obligations.LoopCountsAndBranches : Prop :=
  ∀ (c : Fin 128) (w : BitVec 256) (s s1 : State), MayIssue s c Op.loop w s1 →
    let n := (fld w 32 8).toNat
    let count : Half := fld w 64 32
    let target : Half := fld w 96 32
    let h := (atIssue c w s1).chan c
    let r := (if loopGet h n = 0 then count else loopGet h n) - 1
    (count ≠ 0 → n ≤ 3 → target.toInt ≤ 0 → allOn (atIssue c w s1) (issueDomains c (atIssue c w s1) []) →
      ∃ t, exec (.loop c) s = .next t ∧ OnlyChan c (atIssue c w s1) t
        ∧ loopGet (t.chan c) n = r ∧ (∀ m ≤ 3, m ≠ n → loopGet (t.chan c) m = loopGet h m)
        ∧ (r ≠ 0 → (t.chan c).srcOff = h.srcOff + fld w 128 32 ∧ (t.chan c).dstOff = h.dstOff + fld w 160 32
            ∧ (t.chan c).pc = h.pc + target.signExtend 64 * 32)
        ∧ (r = 0 → (t.chan c).srcOff = h.srcOff - fld w 128 32 * (count - 1)
            ∧ (t.chan c).dstOff = h.dstOff - fld w 160 32 * (count - 1) ∧ (t.chan c).pc = h.pc + 32))
    ∧ (count = 0 ∨ 3 < n ∨ 0 < target.toInt → (s1.chan c).implicit = none →
      ∃ t, exec (.loop c) s = .next t ∧ (t.chan c).badCount = satInc ((s1.chan c).badCount)
        ∧ fld (t.chan c).lastErr 0 8 = St.malformed ∧ fld (t.chan c).lastErr 8 8 = Op.loop
        ∧ (∀ m ≤ 3, loopGet (t.chan c) m = loopGet (s1.chan c) m) ∧ (t.chan c).srcOff = (s1.chan c).srcOff
        ∧ (t.chan c).dstOff = (s1.chan c).dstOff)

/-- STOP ends the program: the channel is IDLE, its entry's completion (OK, or PARTIAL where an instruction was marked
bad, with RESULT) joins the reports of its queue, and STOP is raised (R103, R118, R153). With BARRIER of the
instruction, or of the entry (R196), and writes on their way, the end waits for them. The model's choices in it, by
log entry: when STOP is raised: 20; reports: 33. -/
def Obligations.StopEndsTheProgram : Prop :=
  ∀ (c : Fin 128) (w : BitVec 256) (s s1 : State), MayIssue s c Op.stop w s1 →
    let s2 := atIssue c w s1
    let h := s2.chan c
    let st := if h.badCount = 0 then St.ok else St.partialDone
    allOn s2 (issueDomains c s2 []) →
    (h.implicit = none → h.flights = [] →
      ∃ t, exec (.stop c) s = .next t ∧ SameMemory s2 t ∧ (t.chan c).state = .idle ∧ (t.chan c).entry = none
        ∧ (t.chan c).irqPend.getLsbD 2 = true
        ∧ ∀ e d, h.entry = some e → (s2.sq e.sq).dispatched.find? (·.count = BitVec.ofNat 32 e.count) = some d →
          engineOp d.opcode = false → (s2.sq e.sq).behind = [] →
          (t.sq e.sq).reports = (s2.sq e.sq).reports
            ++ [{ count := BitVec.ofNat 32 e.count, tag := d.tag, irq := d.irq, opcode := d.opcode, result := fld w 64 64,
                  status := if st = St.ok && d.late then St.late else st }])
    ∧ (flBarrier (wFlags w) = true → h.flights ≠ [] →
      ∃ t, exec (.stop c) s = .next t ∧ OnlyChan c s2 t ∧ (t.chan c).hold = .stop
        ∧ (t.chan c).ending = some (st, fld w 64 64) ∧ (t.chan c).state = h.state)

/-- MOVE and FILL of at least one byte: a valid instruction whose domains are ON starts, and its plan stands in the
channel until the Mover has carried it (R43, R45, R113, R131, R136 to R138, R144, R469). -/
def Obligations.MoveAndFillStart : Prop :=
  (∀ (c : Fin 128) (w : BitVec 256) (s s1 : State) (src dst : Word), MayIssue s c Op.move w s1 →
    let s2 := atIssue c w s1
    let k := (s2.chan c).room.toNat
    let len := (fld w 32 32).toNat
    let ds := issueDomains c s2 (spanDomains s2 k src len ++ spanDomains s2 k dst len)
    withOff (flOffSrc (wFlags w)) (fld w 64 64) (s2.chan c).srcOff = some src →
    withOff (flOffDst (wFlags w)) (fld w 128 64) (s2.chan c).dstOff = some dst →
    wireOk (wFlags w) dst = true → moveStatus s2 k src dst len (flSwap (wFlags w)) = St.ok → allOn s2 ds → 0 < len →
    exec (.move c) s = .next (s2.setChan c { s2.chan c with
      cur := some { opcode := Op.move, flags := wFlags w, plan := .copy src dst len (flSwap (wFlags w)),
                    item := .move src dst len, total := len, domains := ds } }))
  ∧ (∀ (c : Fin 128) (w : BitVec 256) (s s1 : State) (dst : Word), MayIssue s c Op.fill w s1 →
    let s2 := atIssue c w s1
    let k := (s2.chan c).room.toNat
    let len := (fld w 32 32).toNat
    let pb := (fld w 192 8).toNat
    let ds := issueDomains c s2 (spanDomains s2 k dst len)
    withOff (flOffDst (wFlags w)) (fld w 64 64) (s2.chan c).dstOff = some dst →
    fillStatus s2 k dst len pb = St.ok → allOn s2 ds → 0 < len →
    exec (.fill c) s = .next (s2.setChan c { s2.chan c with
      cur := some { opcode := Op.fill, flags := wFlags w, plan := .fill dst len (fld w 128 64) pb, total := len,
                    domains := ds } }))

/-- MOVE_LIST, MOVE_TILE and MOVE_COORDS start in the same way, from their list or descriptor (R67, R90, R91, R112,
R114, R162, R185): the plan stands in the channel, at its first entry or tile. -/
def Obligations.ListAndTileMovesStart : Prop :=
  (∀ (c : Fin 128) (w : BitVec 256) (s s1 : State) (cg : Word), MayIssue s c Op.moveList w s1 →
    let s2 := atIssue c w s1
    let h := s2.chan c
    let k := h.room.toNat
    let count := (fld w 32 32).toNat
    let mode := (fld w 192 8).toNat
    let size := if mode = 2 then 32 else 16
    let ahead := listAhead k (fld w 64 64) mode cg h (wFlags w) s2 count 0 0
    let ds := issueDomains c s2 (spanDomains s2 k (fld w 64 64) (count * size) ++ ahead.2)
    (match mode with
      | 0 => withOff (flOffDst (wFlags w)) (fld w 128 64) h.dstOff
      | 1 => withOff (flOffSrc (wFlags w)) (fld w 128 64) h.srcOff
      | _ => if (fld w 128 64 : Word) = 0 then some 0 else none) = some cg →
    mode ≤ 2 → 1 ≤ count → count ≤ 65536 → (mode = 0 → wireOk (wFlags w) cg = true) →
    tableStatus s2 k (fld w 64 64) size (count * size) = St.ok → allOn s2 ds →
    exec (.moveList c) s = .next (s2.setChan c { h with
      cur := some { opcode := Op.moveList, flags := wFlags w, total := ahead.1, domains := ds,
                    plan := .list (fld w 64 64) count mode cg (flSwap (wFlags w)) } }))
  ∧ (∀ (c : Fin 128) (w : BitVec 256) (s s1 s3 : State) (p : TilePlan), MayIssue s c Op.moveTile w s1 →
    let s2 := atIssue c w s1
    let h := s2.chan c
    let k := h.room.toNat
    let b : Block := (p, false, false)
    let ds := issueDomains c s3 (tileDomains s3 k p [b])
    TileRead c (fld w 64 64) (if flOffSrc (wFlags w) then some h.srcOff else none)
      (if flOffDst (wFlags w) then some h.dstOff else none) none s2 s3 p →
    tileStatus s3 k p (wFlags w) [b] = St.ok → allOn s3 ds →
    ∃ t, exec (.moveTile c) s = .next t ∧ OnlyChan c s3 t
      ∧ (t.chan c).cur = some { opcode := Op.moveTile, flags := wFlags w, plan := if p.packed then .packed p else .tile p
                                item := .block p false false, total := writeTotal b, domains := ds }
      ∧ (t.chan c).lfsr = (if p.tr.round = 2 ∧ p.tr.seed ≠ 0 then p.tr.seed else (s3.chan c).lfsr))
  ∧ (∀ (c : Fin 128) (w : BitVec 256) (s s1 s3 : State) (p : TilePlan), MayIssue s c Op.moveCoords w s1 →
    let s2 := atIssue c w s1
    let h := s2.chan c
    let k := h.room.toNat
    let count := (fld w 32 32).toNat
    let mode := (fld w 192 8).toNat
    let size := if mode = 2 then 32 else 16
    let table := spanDomains s3 k (fld w 64 64) (count * size)
    let bs := coordBlocks k (fld w 64 64) mode p s3 count 0
    let ds := issueDomains c s3 (table ++ tileDomains s3 k p bs)
    mode ≤ 2 → 1 ≤ count → count ≤ 65536 → tableStatus s2 k (fld w 64 64) size (count * size) = St.ok →
    TileRead c (fld w 128 64) (if flOffSrc (wFlags w) then some h.srcOff else none)
      (if flOffDst (wFlags w) then some h.dstOff else none) none s2 s3 p →
    (mode ≠ 1 → p.origin.all (· = 0)) → (mode ≠ 0 → p.worigin.all (· = 0)) →
    tileStatus s3 k p (wFlags w) bs = St.ok → allOn s3 ds →
    ∃ t, exec (.moveCoords c) s = .next t ∧ OnlyChan c s3 t
      ∧ (t.chan c).cur = some { opcode := Op.moveCoords, flags := wFlags w, total := (bs.map writeTotal).foldl (· + ·) 0
                                plan := .coords (fld w 64 64) count mode p, domains := ds }
      ∧ (t.chan c).lfsr = (if p.tr.round = 2 ∧ p.tr.seed ≠ 0 then p.tr.seed else (s3.chan c).lfsr))

/-- A turn of a Mover's rotation, for a MOVE or FILL from Pantry to Pantry. A read burst, at most the bytes up to the next
4 KiB boundary of either end, gives its bytes to a write burst and changes no memory; the write burst puts them at the
destination, and no other byte of memory changes. A burst goes only when every arbiter on its path grants it; until then
the turn stays with the channel. A fill of freed granules of a pool is marked bad (R26, R38, R113, R131, R137, R142, R308).
The model's choices in it, by log entry: the place in the rotation: 31; the writes arrive at once: 69; 70; what one turn
carries: 81. -/
def Obligations.MoverBurstCopiesAndFills : Prop :=
  (∀ (m : Fin 2) (s : State) (c len ps : Nat) (sw : BitVec 2) (q : Cur) (src dst : Word),
    nextReady s m (s.rotor.getD m 0) = some c → (s.chan c).cur = some q → q.plan = .copy src dst len sw →
    q.item = .move src dst len → q.stage = .fresh → q.staged = [] → q.bad = none → q.done < len →
    let k := (s.chan c).room.toNat
    let a := offOf src + q.done
    let b := offOf dst + q.done
    let n := burstLen a b (len - q.done)
    (s.room k).reset = none → spaceOf src = some .pantry → a < 2 ^ 60 → translate s k false a = some ps →
    poolOk s k a n = true →
    s.pantryUe = [] → Granted (prepare c (pdTouch (pdMover c) s)) c → s.rotor.length = 2 →
    ∃ t, exec (.moverBurst m) s = .next t ∧ t.rotor.getD m 0 = (c + 1) % 64 ∧ SameMemory s t
      ∧ (t.chan c).cur.map (fun x => (x.stage, x.toRead, x.toWrite, x.done)) =
          some (.writing, [], [wholeRun b (swapBytes sw (mread s.pantry ps n))], q.done))
  ∧ (∀ (m : Fin 2) (s : State) (c len pd : Nat) (sw : BitVec 2) (q : Cur) (src dst : Word) (bytes : List Byte),
    nextReady s m (s.rotor.getD m 0) = some c → (s.chan c).cur = some q → q.plan = .copy src dst len sw →
    q.item = .move src dst len → q.stage = .writing →
    let k := (s.chan c).room.toNat
    let b := offOf dst + q.done
    let n := burstLen (offOf src + q.done) b (len - q.done)
    q.toWrite = [wholeRun b bytes] → bytes.length = n → 0 < n → (s.room k).reset = none →
    spaceOf dst = some .pantry → b < 2 ^ 60 → translate s k false b = some pd → poolOk s k b n = true →
    s.pantryUe = [] → Granted s c → s.wf = true →
    ∃ t, exec (.moverBurst m) s = .next t ∧ t.rotor.getD m 0 = (c + 1) % 64
      ∧ (∀ i < n, mget t.pantry (pd + i) = bytes.getD i 0)
      ∧ (∀ x, x < pd ∨ pd + n ≤ x → mget t.pantry x = mget s.pantry x)
      ∧ t.cellar = s.cellar ∧ t.larder = s.larder ∧ t.host = s.host
      ∧ (s.waiters = [] → q.done + n < len →
        (t.chan c).cur.map (fun x => (x.stage, x.done)) = some (.fresh, q.done + n)))
  ∧ (∀ (m : Fin 2) (s : State) (c len pb pd : Nat) (q : Cur) (dst pattern : Word),
    nextReady s m (s.rotor.getD m 0) = some c → (s.chan c).cur = some q → q.plan = .fill dst len pattern pb →
    q.item = .none → q.stage = .fresh → q.toRead = [] → q.done < len →
    let k := (s.chan c).room.toNat
    let b := offOf dst + q.done
    let n := burstLen 0 b (len - q.done)
    (s.room k).reset = none → spaceOf dst = some .pantry → b < 2 ^ 60 → translate s k false b = some pd →
    poolOk s k b n = true → s.pantryUe = [] →
    Granted (prepare c (pdTouch (pdMover c) s)) c → s.wf = true →
    ∃ t, exec (.moverBurst m) s = .next t
      ∧ (∀ i < n, mget t.pantry (pd + i) = fld pattern (8 * ((q.done + i) % pb)) 8)
      ∧ (∀ x, x < pd ∨ pd + n ≤ x → mget t.pantry x = mget s.pantry x)
      ∧ t.cellar = s.cellar ∧ t.larder = s.larder ∧ t.host = s.host)
  ∧ (∀ (m : Fin 2) (s : State) (c len pd : Nat) (q : Cur) (dst pattern : Word) (pb : Nat),
    nextReady s m (s.rotor.getD m 0) = some c → (s.chan c).cur = some q → q.plan = .fill dst len pattern pb →
    q.item = .none → q.stage = .fresh → q.toRead = [] → q.bad = none → q.done < len →
    let k := (s.chan c).room.toNat
    let b := offOf dst + q.done
    let n := burstLen 0 b (len - q.done)
    (s.room k).reset = none → spaceOf dst = some .pantry → b < 2 ^ 60 → translate s k false b = some pd →
    poolOk s k b n = false →
    Granted (prepare c (pdTouch (pdMover c) s)) c → s.wf = true →
    ∃ t, exec (.moverBurst m) s = .next t ∧ (t.chan c).badCount = satInc (s.chan c).badCount
      ∧ (fld (t.chan c).lastErr 0 8 : Byte) = St.bufStale)
  ∧ (∀ (m : Fin 2) (s : State) (c : Nat) (q : Cur) (x : Nat × Nat),
    nextReady s m (s.rotor.getD m 0) = some c → (s.chan c).cur = some q → q.stage ≠ .fresh →
    (s.room (s.chan c).room.toNat).reset = none → x ∈ wants s c → (s.arbiter x.1).owner ≠ some x.2 →
    ∃ t, exec (.moverBurst m) s = .next t ∧ t.rotor = s.rotor ∧ SameMemory s t
      ∧ (t.chan c).cur.map (fun y => (y.stage, y.toRead, y.staged, y.toWrite, y.done)) =
          some (q.stage, q.toRead, q.staged, q.toWrite, q.done))

/-- A WAIT_FLAG, WAIT_COUNT or WAIT_FULL on a local object whose condition does not hold puts the channel to sleep as
the last of the waiters, with its timeout; nothing else changes (R119, R120, R360, R364, R372, R383). -/
def Obligations.LocalWaitsSleep : Prop :=
  (∀ (c : Fin 128) (w : BitVec 256) (s s1 : State) (p : Nat), MayIssue s c Op.waitFlag w s1 →
    let s2 := atIssue c w s1
    let mode := (fld w 32 8).toNat
    let t := addWaiter { chanWaiter c (.flag p) w s2 with expect := mode % 2 = 1, consume := 2 ≤ mode }
      (sleepIn c w .nothing s2)
    mode ≤ 3 → syncTarget s2 (s2.chan c).room.toNat (fld w 64 64) false = .ok (.localFlag p) → noWaitEnds t →
    exec (.waitFlag c) s = .next t)
  ∧ (∀ (c : Fin 128) (w : BitVec 256) (s s1 : State) (p : Nat), MayIssue s c Op.waitCount w s1 →
    let s2 := atIssue c w s1
    let mode := (fld w 32 8).toNat
    let target : Word := if mode = 1 then (s2.chan c).consumed + fld w 128 64 else fld w 128 64
    let t := addWaiter { chanWaiter c (.counter p) w s2 with target := target } (sleepIn c w .nothing s2)
    mode ≤ 1 → syncTarget s2 (s2.chan c).room.toNat (fld w 64 64) true = .ok (.localCounter p) → noWaitEnds t →
    exec (.waitCount c) s = .next t)
  ∧ (∀ (c : Fin 128) (w : BitVec 256) (s s1 : State) (p : Nat), MayIssue s c Op.waitFull w s1 →
    let s2 := atIssue c w s1
    let s3 := pdTouch (pdPantry p) s2
    let k := (s2.chan c).room.toNat
    let mode := (fld w 32 8).toNat
    let o := offOf (fld w 64 64)
    let t := addWaiter { chanWaiter c (.word p) w s3 with consume := mode = 2 } (sleepIn c w .nothing s3)
    mode = 0 ∨ mode = 2 → spaceOf (fld w 64 64) = some .pantry → o % 8 = 0 → (fld w 128 64 : Word) = 0 →
    inRegion s2 k o = true → spanStatus s2 k (fld w 64 64) 8 = St.ok → translate s2 k false o = some p →
    pdOn s2 (pdPantry p) = true → badLine s2.pantryUe p 8 = none → noWaitEnds t →
    exec (.waitFull c) s = .next t)

/-- A local wait whose condition holds ends in the same step: CONSUME complements the flag, consuming a counter moves
CH_CONSUMED by VALUE, TAKE empties the word, SNAPSHOT loads CH_CONSUMED and never waits; the channel goes on with the
next instruction (R119, R360, R364, R372). -/
def Obligations.LocalWaitsEndAtOnce : Prop :=
  (∀ (c : Fin 128) (w : BitVec 256) (s s1 : State) (p : Nat), MayIssue s c Op.waitFlag w s1 →
    let s2 := atIssue c w s1
    let mode := (fld w 32 8).toNat
    mode ≤ 3 → syncTarget s2 (s2.chan c).room.toNat (fld w 64 64) false = .ok (.localFlag p) → s2.waiters = [] →
    (s2.chan c).implicit = none → (s2.flag p).value = decide (mode % 2 = 1) → s2.wf = true →
    ∃ t, exec (.waitFlag c) s = .next t ∧ t.waiters = [] ∧ (t.chan c).pc = (s2.chan c).pc + 32
      ∧ (t.chan c).state = .running ∧ (t.flag p).value = (if 2 ≤ mode then !(s2.flag p).value else (s2.flag p).value)
      ∧ (∀ j, j ≠ p → t.flag j = s2.flag j) ∧ (∀ d, d ≠ c.val → t.chan d = s2.chan d) ∧ SameMemory s2 t)
  ∧ (∀ (c : Fin 128) (w : BitVec 256) (s s1 : State) (p : Nat), MayIssue s c Op.waitCount w s1 →
    let s2 := atIssue c w s1
    let mode := (fld w 32 8).toNat
    let v : Word := fld w 128 64
    let target : Word := if mode = 1 then (s2.chan c).consumed + v else v
    mode ≤ 1 → syncTarget s2 (s2.chan c).room.toNat (fld w 64 64) true = .ok (.localCounter p) → s2.waiters = [] →
    (s2.chan c).implicit = none → 0 ≤ ((s2.counter p).value - target).toInt →
    ∃ t, exec (.waitCount c) s = .next t ∧ t.waiters = [] ∧ (t.chan c).pc = (s2.chan c).pc + 32
      ∧ (t.chan c).consumed = (if mode = 1 then (s2.chan c).consumed + v else (s2.chan c).consumed)
      ∧ OnlyChan c s2 t)
  ∧ (∀ (c : Fin 128) (w : BitVec 256) (s s1 : State) (p : Nat), MayIssue s c Op.waitCount w s1 →
    let s2 := atIssue c w s1
    (fld w 32 8).toNat = 2 → (fld w 128 64 : Word) = 0 → (s2.chan c).implicit = none →
    syncTarget s2 (s2.chan c).room.toNat (fld w 64 64) true = .ok (.localCounter p) →
    ∃ t, exec (.waitCount c) s = .next t ∧ (t.chan c).consumed = (s2.counter p).value
      ∧ (t.chan c).pc = (s2.chan c).pc + 32 ∧ OnlyChan c s2 t)
  ∧ (∀ (c : Fin 128) (w : BitVec 256) (s s1 : State) (p : Nat), MayIssue s c Op.waitFull w s1 →
    let s2 := atIssue c w s1
    let k := (s2.chan c).room.toNat
    let mode := (fld w 32 8).toNat
    let o := offOf (fld w 64 64)
    mode = 0 ∨ mode = 2 → spaceOf (fld w 64 64) = some .pantry → o % 8 = 0 → (fld w 128 64 : Word) = 0 →
    inRegion s2 k o = true → spanStatus s2 k (fld w 64 64) 8 = St.ok → translate s2 k false o = some p →
    pdOn s2 (pdPantry p) = true → badLine s2.pantryUe p 8 = none → s2.waiters = [] → (s2.chan c).implicit = none →
    p / 8 ∈ s2.tags →
    ∃ t, exec (.waitFull c) s = .next t ∧ t.waiters = [] ∧ (t.chan c).pc = (s2.chan c).pc + 32
      ∧ (p / 8 ∈ t.tags ↔ mode = 0) ∧ (∀ x, x ≠ p / 8 → (x ∈ t.tags ↔ x ∈ s2.tags)) ∧ SameMemory s2 t)

/-- WAIT_PHASE sleeps until the turn and phase are reached, NEXT being the next crossing of PHASE; an ABSOLUTE moment
that has already passed is LATE and does not wait. PHASE_WAKE ends the wait when its moment has come (R123). The
model's choices in it, by log entry: NEXT: 32. -/
def Obligations.PhaseWaitsSleepAndWake : Prop :=
  (∀ (c : Fin 128) (w : BitVec 256) (s s1 : State), MayIssue s c Op.waitPhase w s1 →
    let s2 := atIssue c w s1
    let mode := (fld w 32 8).toNat
    let p : Half := fld w 64 32
    let turn : Half := if mode = 1 then fld w 96 32 else if p ≤ s2.cad.phase then s2.cad.turn + 1 else s2.cad.turn
    (mode = 1 ∨ mode = 0 ∧ (fld w 96 32 : Half) = 0) → allOn s2 (issueDomains c s2 []) →
    (reached s2.cad.turn s2.cad.phase turn p = false →
      exec (.waitPhase c) s = .next (addWaiter { unit := .chan c, obj := .phase (mode = 1) turn p, mode := fld w 32 8 }
        (setCur c (fun q => { q with domains := baseDomains c s2 }) (sleepIn c w .nothing s2))))
    ∧ (reached s2.cad.turn s2.cad.phase turn p = true → (s2.chan c).implicit = none →
      ∃ t, exec (.waitPhase c) s = .next t ∧ OnlyChan c s2 t ∧ (t.chan c).pc = (s2.chan c).pc + 32
        ∧ (t.chan c).late = ((s2.chan c).late || decide (s2.cad.turn ≠ turn ∨ s2.cad.phase ≠ p))))
  ∧ (∀ (c : Fin 128) (s : State) (x : Waiter) (a : Bool) (turn p : Half) (q : Cur),
    s.waiters = [x] → x.unit = .chan c → x.paused = false → x.obj = .phase a turn p →
    reached s.cad.turn s.cad.phase turn p = true → (s.chan c).implicit = none → (s.chan c).state = .waiting →
    (s.chan c).cur = some q → q.opcode = Op.waitPhase →
    ∃ t, exec (.phaseWake c) s = .next t ∧ t.waiters = [] ∧ (t.chan c).pc = (s.chan c).pc + 32
      ∧ (t.chan c).state = .running ∧ (t.chan c).cur = none ∧ { t with chans := s.chans, waiters := s.waiters } = s)

/-- SIGNAL_FLAG and SIGNAL_COUNT to a local object: the flag takes VALUE, the counter advances by ADD, with the sender
and the time, and the channel goes on; a signal of 1 to a doorbell flag rings its SQ and leaves the flag 0
(R126, R223, R359, R362, R363, R401). -/
def Obligations.SignalsReachLocalObjects : Prop :=
  (∀ (c : Fin 128) (w : BitVec 256) (s s1 : State) (p : Nat), MayIssue s c Op.signalFlag w s1 →
    let s2 := atIssue c w s1
    let v : Bool := (fld w 32 8 : Byte) ≠ 0
    let l := lastSignal s2 1 c (ownNode s2)
    let a := advance c s2
    (fld w 32 8).toNat ≤ 1 → syncTarget s2 (s2.chan c).room.toNat (fld w 64 64) false = .ok (.localFlag p) →
    ((a.flag p).dbSq = none ∨ v = false →
      noWaitEnds (a.setFlag p { a.flag p with value := v, last := l }) →
      exec (.signalFlag c) s = .next (a.setFlag p { a.flag p with value := v, last := l }))
    ∧ (∀ g, (a.flag p).dbSq = some g → v = true → s2.wf = true →
      noWaitEnds (setDbPending g (a.setFlag p { a.flag p with value := false, last := l })) →
      ∃ t, exec (.signalFlag c) s = .next t ∧ (t.flag p).value = false ∧ (t.sq g).dbPending = true
        ∧ { t with chans := s2.chans, flags := s2.flags, sqs := s2.sqs } =
          { s2 with waiters := t.waiters, msix := t.msix, outputs := t.outputs }))
  ∧ (∀ (c : Fin 128) (w : BitVec 256) (s s1 : State) (p : Nat), MayIssue s c Op.signalCount w s1 →
    let s2 := atIssue c w s1
    let add : Word := (fld w 128 32 : Half).setWidth 64
    let a := advance c s2
    let t := a.setCounter p { a.counter p with value := (a.counter p).value + add,
                                               last := lastSignal s2 1 c (ownNode s2) }
    (fld w 128 32 : Half) ≠ 0 → syncTarget s2 (s2.chan c).room.toNat (fld w 64 64) true = .ok (.localCounter p) →
    noWaitEnds t → exec (.signalCount c) s = .next t)

/-- ARRIVE and WAIT_BARRIER on a barrier wire: the arrival is recorded with the wire's generation; the last effective
member's arrival adds 1 to GEN and clears every arrival. WAIT_BARRIER then sleeps until GEN has moved on (R393, R394). -/
def Obligations.BarrierWiresRelease : Prop :=
  (∀ (c : Fin 128) (w : BitVec 256) (s s1 : State) (i : Nat), MayIssue s c Op.arrive w s1 →
    let a := advance c (atIssue c w s1)
    let v := (a.setChan c { a.chan c with arrivals := (a.chan c).arrivals ++ [(i, (a.wire i).gen)] }).setWire i
      (setArrived (a.wire i) c true)
    barrierOf w = some (.inl i) → mayArrive (atIssue c w s1) c i = true →
    ((atIssue c w s1).chan c).arrivals.any (·.1 = i) = false → (atIssue c w s1).wf = true →
    (wireReady v (v.wire i) = false → noWaitEnds v → exec (.arrive c) s = .next v)
    ∧ (wireReady v (v.wire i) = true → noWaitEnds (evalWire i v) →
      ∃ t, exec (.arrive c) s = .next t ∧ (t.wire i).gen = ((atIssue c w s1).wire i).gen + 1
        ∧ (t.wire i).arrivedLo = 0 ∧ (t.wire i).arrivedHi = 0 ∧ (∀ d, (t.chan d).arrivals.any (·.1 = i) = false)
        ∧ ∀ j, j ≠ i → t.wire j = (atIssue c w s1).wire j))
  ∧ (∀ (c : Fin 128) (w : BitVec 256) (s s1 : State) (i : Nat) (gen : Half), MayIssue s c Op.waitBarrier w s1 →
    let s2 := atIssue c w s1
    let t := addWaiter { chanWaiter c (.wire i) w s2 with addr := 0, mode := 0, target := gen.setWidth 64 }
      (sleepIn c w .nothing s2)
    barrierOf w = some (.inl i) → mayArrive s2 c i = true →
    (s2.chan c).arrivals.find? (·.1 = i) = some (i, gen) → noWaitEnds t → exec (.waitBarrier c) s = .next t)

/-- FENCE goes on with the next instruction and holds it until everything issued earlier has arrived. NOTIFY waits in
the same way, then writes VALUE or sends the interrupt VECTOR of its Room, and goes on (R125, R127, R636). -/
def Obligations.FenceAndNotify : Prop :=
  (∀ (c : Fin 128) (w : BitVec 256) (s s1 : State), MayIssue s c Op.fence w s1 →
    let s2 := atIssue c w s1
    (s2.chan c).implicit = none → allOn s2 (issueDomains c s2 []) →
    ∃ t, exec (.fence c) s = .next t ∧ OnlyChan c s2 t ∧ (t.chan c).pc = (s2.chan c).pc + 32
      ∧ (t.chan c).flights = (s2.chan c).flights
      ∧ (t.chan c).hold = (if (s2.chan c).flights = [] then (s2.chan c).hold else .fence))
  ∧ (∀ (c : Fin 128) (w : BitVec 256) (s s1 : State), MayIssue s c Op.notify w s1 →
    let s2 := atIssue c w s1
    let k := (s2.chan c).room.toNat
    notifyStatus s2 k w = St.ok → (s2.chan c).implicit = none →
    ((s2.chan c).flights ≠ [] →
      exec (.notify c) s = .next (s2.setChan c { s2.chan c with hold := .fence }))
    ∧ ((s2.chan c).flights = [] → (fld w 40 8).toNat = 2 → allOn s2 (issueDomains c s2 []) →
      ∃ t, exec (.notify c) s = .next t ∧ SameMemory s2 t ∧ (t.chan c).pc = (s2.chan c).pc + 32
        ∧ let e := tget s2.msix {} (k * 256 + (fld w 32 8).toNat)
          (e.masked = false → t.outputs = .msix k (fld w 32 8).toNat :: s2.outputs ∧ t.msix = s2.msix)
          ∧ (e.masked = true → (tget t.msix {} (k * 256 + (fld w 32 8).toNat)).pending = true
              ∧ t.outputs = s2.outputs))
    ∧ (∀ p, (s2.chan c).flights = [] → (fld w 40 8).toNat = 1 → spaceOf (fld w 64 64) = some .pantry →
      translate s2 k false (offOf (fld w 64 64)) = some p → allOn s2 (issueDomains c s2 (spanDomains s2 k (fld w 64 64) 8)) →
      s2.pantryUe = [] → s2.wf = true →
      ∃ t, exec (.notify c) s = .next t ∧ mread t.pantry p 8 = leBytes 8 (fld w 128 64 : Word).toNat
        ∧ (∀ x, x < p ∨ p + 8 ≤ x → mget t.pantry x = mget s2.pantry x) ∧ t.cellar = s2.cellar
        ∧ t.larder = s2.larder ∧ t.host = s2.host))

/-- REDUCE_SEND to this node's own Reducer waits for its grant, which comes at once where the chunk has its
accumulator; to another node it sends RDX_REQ and waits. REDUCE_STORE waits for its chunk, and runs where the chunk is
complete (R128 to R130, R572, R573). The model's choices in it, by log entry: when the bytes go: 43. -/
def Obligations.ReductionsWaitForTheReducer : Prop :=
  (∀ (c : Fin 128) (w : BitVec 256) (s s1 : State) (src : Word) (x : Group) (i : Instance), MayIssue s c Op.reduceSend w s1 →
    let s2 := atIssue c w s1
    let k := (s2.chan c).room.toNat
    let n := (fld w 32 32).toNat
    let g := (fld w 128 8).toNat
    let fmt : BitVec 4 := fld w 136 4
    let op : BitVec 2 := fld w 140 2
    let chunk := (fld w 144 16).toNat
    let node := (fld w 160 10).toNat
    let len := n * (fmtWidth fmt / 8)
    let plan : Plan := .reduceSend src n fmt op g chunk node
    let far := spanDomains s2 k (BitVec.ofNat 64 (3 * 2 ^ 60 + node * 2 ^ 50)) 1
    withOff (flOffSrc (wFlags w)) (fld w 64 64) (s2.chan c).srcOff = some src → fmtReducible fmt = true → op ≠ 3 →
    elementsOk n = true → spaceOf src = some .pantry → instanceFor s2 k g fmt chunk = some (x, i) → i.op = op →
    accBytes n ≤ x.kib * 1024 → spanStatus s2 k src len = St.ok →
    allOn s2 (issueDomains c s2 (pdLarder :: spanDomains s2 k src len ++ (if node = ownNode s2 then [] else far))) →
    (∀ ch, node = ownNode s2 → x.resv = [] → chunkOf i chunk = some ch → ch.elements = n → s2.waiters = [] →
      ∃ t, exec (.reduceSend c) s = .next t ∧ (t.chan c).state = .running ∧ t.waiters = []
        ∧ (t.chan c).cur.map (·.plan) = some plan ∧ (∀ d, d ≠ c.val → t.chan d = s2.chan d) ∧ SameMemory s2 t)
    ∧ (∀ p, node ≠ ownNode s2 → isMember s2 node = true → egress s2 node = some p →
      ∃ t, exec (.reduceSend c) s = .next t ∧ (t.chan c).state = .waiting
        ∧ (t.chan c).cur.map (·.plan) = some plan ∧ t.waiters.length = s2.waiters.length + 1
        ∧ (t.port p).queue = (s2.port p).queue ++ [.msg (Msg.pack {
            mtype := 0x40, dst := BitVec.ofNat 16 node, src := BitVec.ofNat 16 (ownNode s2), room := BitVec.ofNat 8 k, req := BitVec.ofNat 32 c,
            arg0 := rdxArg g fmt op chunk n })] ∧ SameMemory s2 t))
  ∧ (∀ (c : Fin 128) (w : BitVec 256) (s s1 : State) (x : Group) (i : Instance), MayIssue s c Op.reduceStore w s1 →
    let s2 := atIssue c w s1
    let h := s2.chan c
    let k := h.room.toNat
    let n := (fld w 32 32).toNat
    let g := (fld w 128 8).toNat
    let fmt : BitVec 4 := fld w 136 4
    let chunk := (fld w 144 16).toNat
    let off := if flOffDst (wFlags w) then some h.dstOff else none
    let starts (s3 : State) (plan : Plan) (item : Item) (total : Nat) : Prop :=
      ∃ t, exec (.reduceStore c) s = .next t ∧ SameMemory s3 t
        ∧ (t.chan c).cur.map (fun q => (q.plan, q.item, q.total)) = some (plan, item, total)
        ∧ (t.chan c).state = (if chunkReady s3 g chunk then .running else .waiting)
        ∧ t.waiters.length = s3.waiters.length + (if chunkReady s3 g chunk then 0 else 1)
    fmtReducible fmt = true → elementsOk n = true → instanceFor s2 k g fmt chunk = some (x, i) →
    (∀ ch, chunkOf i chunk = some ch → ch.elements = n) → (fld w 192 64 : Word) = 0 →
    (∀ dst, w.getLsbD 140 = false → withOff (flOffDst (wFlags w)) (fld w 64 64) h.dstOff = some dst →
      spaceOf dst = some .pantry → spanStatus s2 k dst (rdxLen n fmt) = St.ok →
      allOn s2 (issueDomains c s2 (pdLarder :: spanDomains s2 k dst (rdxLen n fmt))) →
      starts s2 (.reduceStore dst n fmt g chunk 0 none) .none (rdxLen n fmt))
    ∧ (∀ s3 p, w.getLsbD 140 = true → TileRead c (fld w 64 64) none off (some (accLayout fmt n)) s2 s3 p →
      let b : Block := (p, false, false)
      p.wr.format = fmt → p.wr.comp = 0 → spaceOf p.wr.base = some .pantry → tileOk p = true → belowZero b = false →
      endStatus s3 k p.wr.base (writeSide b) = St.ok →
      allOn s3 (issueDomains c s3 (pdLarder :: endDomains s3 k p.wr.base (writeSide b))) →
      starts s3 (.reduceStore p.wr.base n fmt g chunk 0 (some p)) (.block p false false) (writeTotal b)))

/-- HALF_EVENT and FULL_EVENT raise one event that is due: PEND, and the Room's vector where it is enabled; a timer
period that has passed is one trigger event, counted up to 15 and then lost in overrun (R145, R147, R150, R153). -/
def Obligations.ChannelEventsFire : Prop :=
  (∀ (c : Fin 128) (s : State), (s.chan c).halfDue ≠ 0 → s.wf = true → followers s c = [] →
    ∃ t, exec (.halfEvent c) s = .next t ∧ (t.chan c).halfDue = (s.chan c).halfDue - 1
      ∧ (t.chan c).irqPend = (s.chan c).irqPend ||| 1 ∧ (∀ d, d ≠ c.val → t.chan d = s.chan d)
      ∧ ((s.chan c).irqEn.getLsbD 0 = false → OnlyChan c s t)
      ∧ ((s.chan c).irqEn.getLsbD 0 = true →
        let v := (s.chan c).room.toNat * 256 + (s.chan c).irqVector.toNat
        (tget s.msix {} v).masked = false →
        t.outputs = .msix (s.chan c).room.toNat (s.chan c).irqVector.toNat :: s.outputs))
  ∧ (∀ (c : Fin 128) (s : State), (s.chan c).fullDue ≠ 0 → s.wf = true → followers s c = [] →
    ∃ t, exec (.fullEvent c) s = .next t ∧ (t.chan c).fullDue = (s.chan c).fullDue - 1
      ∧ (t.chan c).irqPend = (s.chan c).irqPend ||| 2 ∧ (∀ d, d ≠ c.val → t.chan d = s.chan d)
      ∧ ((s.chan c).irqEn.getLsbD 1 = false → OnlyChan c s t))
  ∧ (∀ (c : Fin 128) (s : State), (s.chan c).trigSrc = 1 → (s.chan c).trigNext ≤ s.now →
    (s.chan c).state ≠ .waiting →
    ∃ t, exec (.timerTrigger c) s = .next t ∧ OnlyChan c s t
      ∧ (t.chan c).trigNext = (s.chan c).trigNext + (s.chan c).trigPeriod.toNat
      ∧ (t.chan c).trigPending = (if (s.chan c).trigPending = 15 then 15 else (s.chan c).trigPending + 1)
      ∧ (t.chan c).trigOverrun = ((s.chan c).trigOverrun || decide ((s.chan c).trigPending = 15)))

/-- CH_RUN starts an IDLE channel at CH_PC with the registers of R101, and leaves any other as it is; CH_RESET ends
what runs and returns every register but CH_ROOM to its reset value (R78, R101, R159, R160). The model's choices in
it, by log entry: the order of a write of CH_CTL: 59; STOP at a reset: 20. -/
def Obligations.RunAndReset : Prop :=
  (∀ (c : Fin 128) (s : State), fnOpen s 0 = true →
    ((s.chan c).state = .idle →
      ∃ t, exec (.chRun c) s = .next t ∧ OnlyChan c s t ∧ (t.chan c).pc = (s.chan c).pc
        ∧ (t.chan c).progBase = (s.chan c).pc ∧ (∀ m ≤ 3, loopGet (t.chan c) m = 0) ∧ (t.chan c).srcOff = 0
        ∧ (t.chan c).dstOff = 0 ∧ (t.chan c).consumed = 0 ∧ (t.chan c).progress = 0 ∧ (t.chan c).badCount = 0
        ∧ (t.chan c).lastErr = 0 ∧ (t.chan c).oob = (s.chan c).oob
        ∧ (t.chan c).state = (if pauseCause (s.chan c) then .paused else .running))
    ∧ ((s.chan c).state ≠ .idle → exec (.chRun c) s = .next s))
  ∧ (∀ (c : Fin 128) (s : State), fnOpen s 0 = true → s.wf = true → s.pantryUe = [] →
    ∃ t, exec (.chReset c) s = .next t ∧ (t.chan c).room = (s.chan c).room
      ∧ (t.chan c).assigned = (s.chan c).assigned
      ∧ (t.chan c).state = (if (s.chan c).assigned then .idle else .unassigned)
      ∧ (t.chan c).pc = 0 ∧ (t.chan c).progBase = 0 ∧ (∀ m ≤ 3, loopGet (t.chan c) m = 0) ∧ (t.chan c).srcOff = 0
      ∧ (t.chan c).dstOff = 0 ∧ (t.chan c).oob = 0 ∧ (t.chan c).lfsr = 1 ∧ (t.chan c).cur = none
      ∧ (t.chan c).irqEn = 0 ∧ (t.chan c).trigSrc = 0 ∧ (∀ x ∈ t.waiters, x.unit ≠ .chan c)
      ∧ t.pantry = s.pantry ∧ t.cellar = s.cellar ∧ t.larder = s.larder)

/-- A pause takes hold at once where no burst, tile or read is under way, and else when it has ended; a waiting channel's
timeout stops; the channel resumes when its last cause is removed (R154, R158). The model's choices in it, by log entry:
which bursts count: 74. -/
def Obligations.PauseStopsAtTheBurstBoundary : Prop :=
  (∀ (c : Fin 128) (s : State), fnOpen s 0 = true →
    ((s.chan c).state = .running →
      exec (.chPause c true) s = .next (s.setChan c { s.chan c with
        pauseBit := true, state := if underWay (s.chan c) then .pausing else .paused }))
    ∧ ((s.chan c).state = .waiting →
      ∃ t, exec (.chPause c true) s = .next t ∧ (t.chan c).state = .paused ∧ (t.chan c).pauseBit = true
        ∧ (∀ x ∈ t.waiters, x.unit = .chan c → x.paused = true) ∧ t.waiters.length = s.waiters.length
        ∧ { t with chans := s.chans, waiters := s.waiters } = s)
    ∧ ((s.chan c).state = .paused → (s.chan c).pauseDomain = [] → (s.chan c).pauseReset = false →
      (s.chan c).heldBy = [] → (∀ x ∈ s.waiters, x.unit ≠ .chan c) →
      ∃ t, exec (.chPause c false) s = .next t ∧ OnlyChan c s t ∧ (t.chan c).state = .running
        ∧ (t.chan c).pauseBit = false ∧ (t.chan c).pc = (s.chan c).pc ∧ (t.chan c).cur = (s.chan c).cur))
  ∧ (∀ (c : Fin 128) (s : State), (s.chan c).state = .pausing → underWay (s.chan c) = false →
    exec (.channelPaused c) s = .next (s.setChan c { s.chan c with state := .paused }))

/-- A wait at a local object whose deadline has come ends with WAIT_TIMEOUT: the instruction is marked bad and the
channel goes on (R122, R389, R391). RDX_GRANT_TIMEOUT does so for a REDUCE_SEND (R572). -/
def Obligations.WaitsTimeOut : Prop :=
  (∀ (c : Fin 128) (s : State) (x : Waiter) (p d : Nat) (q : Cur), s.waiters = [x] → x.unit = .chan c →
    x.paused = false → x.obj = .counter p → condHolds s x = false → x.deadline = some d → d ≤ s.now →
    (s.chan c).cur = some q → (s.chan c).implicit = none → flStopOnBad q.flags = false →
    ownFlights (s.chan c) = false →
    ∃ t, exec (.waitTimeoutExpiry (.chan c)) s = .next t ∧ t.waiters = []
      ∧ fld (t.chan c).lastErr 0 8 = St.waitTimeout ∧ (t.chan c).badCount = satInc ((s.chan c).badCount)
      ∧ (t.chan c).pc = (s.chan c).pc + 32 ∧ (t.chan c).cur = none ∧ t.counters = s.counters)
  ∧ (∀ (c : Fin 128) (s : State) (x : Waiter) (g n d node : Nat) (q : Cur) (src : Word) (el : Nat) (f : BitVec 4)
      (op : BitVec 2), s.waiters = [x] → x.unit = .chan c → x.paused = false → x.obj = .grant g n →
    x.deadline = some d → d ≤ s.now → (s.chan c).cur = some q → q.plan = .reduceSend src el f op g n node →
    node = ownNode s → instOf s g = none → (s.chan c).implicit = none → flStopOnBad q.flags = false →
    ownFlights (s.chan c) = false →
    ∃ t, exec (.rdxGrantTimeout c) s = .next t ∧ t.waiters = []
      ∧ fld (t.chan c).lastErr 0 8 = St.waitTimeout ∧ (t.chan c).badCount = satInc ((s.chan c).badCount)
      ∧ (t.chan c).pc = (s.chan c).pc + 32 ∧ (t.chan c).cur = none)

/-! ### Work entries, doorbells and completions -/

/-- RUN_PROGRAM, COPY, TILE and FILL: a head that passes every check takes its idle channel. RUN_PROGRAM starts at its
program's address and loads the trigger and interrupt fields; the others run one implicit instruction (R101, R102,
R202, R203, R228). Whether the staging memory's parity holds is a free value (R641). The model's choices in it, by log
entry: the row names the SQ: 10; implicit programs: 42. -/
def Obligations.ChannelEntriesStart : Prop :=
  (∀ (g : Fin 1024) (c : Nat) (e : Cached) (rest : List Cached) (b : Int) (s : State),
    HeadReady s g e rest (.chan c) b → weOpcode e.word = 0x01 →
    ∀ i ∈ [Instr.runProgram g, .sqDispatch g], ∃ t, exec i s = .next t
      ∧ (Config.parityFault s.free = true → CacheDiscarded g s t)
      ∧ (Config.parityFault s.free = false → HeadTaken g rest b s t
        ∧ (t.chan c).pc = b64 e.word 24 ∧ (t.chan c).progBase = b64 e.word 24 ∧ (t.chan c).implicit = none
        ∧ (t.chan c).entry = some { sq := g, count := e.count.toNat, barrier := weBarrier e.word }
        ∧ (t.chan c).trigSrc = fld (b64 e.word 32) 0 2 ∧ (t.chan c).trigPending = 0
        ∧ (t.chan c).irqEn = fld e.word 320 4 ∧ (t.chan c).irqVector = fld e.word 328 8
        ∧ (t.chan c).state = (if pauseCause (s.chan c) then .paused else .running)
        ∧ (t.sq g).dispatched.length = (s.sq g).dispatched.length + 1 ∧ ∀ d, d ≠ c → t.chan d = s.chan d))
  ∧ (∀ (g : Fin 1024) (c : Nat) (e : Cached) (rest : List Cached) (b : Int) (s : State),
    HeadReady s g e rest (.chan c) b →
    ∀ i o, (i, o) ∈ [(Instr.copy g, (0x02 : Byte)), (.tile g, 0x03), (.fillEntry g, 0x04)] → weOpcode e.word = o →
    ∃ t, exec i s = .next t
      ∧ (Config.parityFault s.free = true → CacheDiscarded g s t)
      ∧ (Config.parityFault s.free = false → HeadTaken g rest b s t
        ∧ (t.chan c).implicit = some (implicitWord e.word) ∧ (t.chan c).pc = (s.chan c).pc
        ∧ (t.chan c).entry = some { sq := g, count := e.count.toNat, barrier := weBarrier e.word }
        ∧ (t.chan c).state = (if pauseCause (s.chan c) then .paused else .running)
        ∧ (t.sq g).dispatched.length = (s.sq g).dispatched.length + 1 ∧ ∀ d, d ≠ c → t.chan d = s.chan d))

/-- TOKENIZE and DETOKENIZE take the lowest free job place with the table set as it stands; COLLECTIVE opens its
group's instance (R204, R228, R568, R569, R588, R597). The model's choices in it, by log entry: 10, 51. -/
def Obligations.StudyAndCollectiveEntriesStart : Prop :=
  (∀ (g : Fin 1024) (j : Nat) (e : Cached) (rest : List Cached) (b : Int) (s : State),
    HeadReady s g e rest (.study j) b →
    ∀ i o, (i, o) ∈ [(Instr.tokenize g, (0x08 : Byte)), (.detokenize g, 0x09)] → weOpcode e.word = o →
    ∃ t, exec i s = .next t
      ∧ (Config.parityFault s.free = true → CacheDiscarded g s t)
      ∧ (Config.parityFault s.free = false → HeadTaken g rest b s t
        ∧ tget (t.study.jobs.map fun x => (x.1, some x.2)) none j = some {
            room := (s.sq g).room.toNat, sq := g, count := e.count, word := e.word
            set := tget s.study.sets {} ((s.sq g).room.toNat * 8 + b8 e.word 16) }
        ∧ t.study.cache = s.study.cache ∧ t.study.sets = s.study.sets))
  ∧ (∀ (g : Fin 1024) (n : Nat) (e : Cached) (rest : List Cached) (b : Int) (s : State),
    HeadReady s g e rest (.group n) b → weOpcode e.word = 0x10 → (groupOf s n).isSome = true →
    b32 e.word 32 ≠ 0 ∨ b32 e.word 36 ≠ 0 →
    ∃ t, exec (.collective g) s = .next t
      ∧ (Config.parityFault s.free = true → CacheDiscarded g s t)
      ∧ (Config.parityFault s.free = false → HeadTaken g rest b s t
        ∧ instOf t n = some {
            sq := g, count := e.count, format := fld e.word 136 4, op := fld e.word 140 2, contrib := b8 e.word 18
            first := (b16 e.word 20).toNat, range := (b32 e.word 24).toNat, timeoutUs := b32 e.word 28
            sends := b32 e.word 32, stores := b32 e.word 36 }))

/-- NOP, SIGNAL and WAIT run on the queue engine: NOP completes; SIGNAL applies its value, which is the RESULT, and
completes; WAIT sleeps as a waiter of the SQ, which dispatches nothing more until it ends (R207 to R209, R211, R363).
The model's choices in it, by log entry: 10, 33. -/
def Obligations.EngineEntriesRun : Prop :=
  ∀ (g : Fin 1024) (e : Cached) (rest : List Cached) (b : Int) (s : State),
    HeadReady s g e rest .engine b → (s.sq g).dispatched = [] → (s.sq g).behind = [] →
    (weOpcode e.word = 0x7E → ∃ t, exec (.nop g) s = .next t
      ∧ (Config.parityFault s.free = true → CacheDiscarded g s t)
      ∧ (Config.parityFault s.free = false → HeadTaken g rest b s t
        ∧ (t.sq g).reports = (s.sq g).reports ++ [doneReport s e 0] ∧ (t.sq g).dispatched = []
        ∧ { t with sqs := s.sqs, rooms := s.rooms, free := s.free } = s))
    ∧ (∀ p, weOpcode e.word = 0x18 → s.waiters = [] →
      syncTarget s (s.sq g).room.toNat (b64 e.word 16) true = .ok (.localCounter p) →
      (b64 e.word 16).getLsbD 12 = true →
      ∃ t, exec (.signalEntry g) s = .next t
      ∧ (Config.parityFault s.free = true → CacheDiscarded g s t)
      ∧ (Config.parityFault s.free = false → HeadTaken g rest b s t
        ∧ t.counter p = { s.counter p with value := (s.counter p).value + (b32 e.word 24).setWidth 64,
                                           last := lastSignal s 2 g (ownNode s) }
        ∧ (t.sq g).reports = (s.sq g).reports ++ [doneReport s e ((s.counter p).value + (b32 e.word 24).setWidth 64)]
        ∧ (t.sq g).dispatched = [] ∧ ∀ j, j ≠ p → t.counter j = s.counter j))
    ∧ (∀ p, weOpcode e.word = 0x19 → s.waiters = [] →
      syncTarget s (s.sq g).room.toNat (b64 e.word 16) true = .ok (.localCounter p) →
      (b64 e.word 16).getLsbD 12 = true → hasReached (s.counter p).value (b64 e.word 32) = false →
      ∃ t, exec (.waitEntry g) s = .next t
      ∧ (Config.parityFault s.free = true → CacheDiscarded g s t)
      ∧ (Config.parityFault s.free = false → HeadTaken g rest b s t
        ∧ t.waiters = [{
            unit := .sq g, obj := .counter p, addr := b64 e.word 16, mode := fld e.word 192 8, value := b64 e.word 32
            target := b64 e.word 32, expect := b8 e.word 24 % 2 = 1, timeoutUs := b32 e.word 40
            deadline := some (waitDeadline s (b32 e.word 40)) }]
        ∧ (t.sq g).waitCause = 5 ∧ mayDispatch (t.sq g) = false ∧ t.counters = s.counters))

/-- The doorbells of a page with a queue: DB_SQ makes the SQ pending; DB_SQ_INVAL discards the cached entries and their
reservations and fetches again from CONS; DB_CQ_ARM arms the CQ, which sends its interrupt and disarms where one is
due (R220, R227, R244, R245, R252). -/
def Obligations.DoorbellsReachTheirQueues : Prop :=
  ∀ (page : Page) (g : Nat) (s : State), fnOpen s (pageFn page) = true →
    (pageFn page = 0 ∨ (s.room (pageFn page)).state ≠ .none) →
    (pageSq s page = some g →
      exec (.dbSq page) s = .next (s.setSq g { s.sq g with dbPending := true })
      ∧ ∃ t, exec (.dbSqInval page) s = .next t ∧ (t.sq g).cache = [] ∧ (t.sq g).fetch = (s.sq g).cons
        ∧ (t.sq g).dbPending = true ∧ (t.sq g).dispatched = (s.sq g).dispatched
        ∧ (∀ k, t.room k = { s.room k with deferred := (t.room k).deferred })
        ∧ { t with sqs := s.sqs, cqs := s.cqs, rooms := s.rooms } = s)
    ∧ (pageCq s page = some g → (s.cq g).valid = true → (s.cq g).irqEn = true →
      spaceOf (s.cq g).headAddr = some .host → hostReach s (s.cq g).room.toNat = true →
      let h : Half := BitVec.ofNat 32 (leNat (mread s.host (hostKey (s.cq g).room.toNat (offOf (s.cq g).headAddr)) 4))
      let left := (moveHead h (s.cq g)).times
      ((s.cq g).tail - h).toNat ≤ (s.cq g).size →
      ∃ t, exec (.dbCqArm page) s = .next t ∧ (t.cq g).head = h ∧ (t.cq g).times = left ∧ SameMemory s t
        ∧ (t.cq g).armed = !cqIrqDue s { s.cq g with times := left }
        ∧ (cqIrqDue s { s.cq g with times := left } = true →
          (tget s.msix {} ((s.cq g).room.toNat * 256 + (s.cq g).vector.toNat)).masked = false →
          t.outputs = .msix (s.cq g).room.toNat (s.cq g).vector.toNat :: s.outputs))

/-- SQ_SCAN in index mode over a ring in Host memory: the one entry between FETCH and the producer count is cached with
the turn of its arrival, and a slot of the CQ is reserved for it. A head with DROP_IF_LATE that is past its deadline
completes with LATE and does not run (R199, R200, R213, R215, R218, R225). The model's choices in it, by log entry:
33; staging errors: 8. -/
def Obligations.EntriesAreFetchedAndDropped : Prop :=
  (∀ (g : Fin 1024) (s : State), mayScan (s.sq g) = true → (s.sq g).phaseMode = false → (s.sq g).cache = [] →
    spaceOf (s.sq g).prodAddr = some .host → spaceOf (sqSlot (s.sq g) (s.sq g).fetch) = some .host →
    hostReach s (s.sq g).room.toNat = true →
    let k := (s.sq g).room.toNat
    let c := (s.sq g).cq.toNat
    (BitVec.ofNat 32 (leNat (mread s.host (hostKey k (offOf (s.sq g).prodAddr)) 4)) : Half) = (s.sq g).fetch + 1 →
    ((s.sq g).fetch + 1 - (s.sq g).cons).toNat ≤ (s.sq g).size → (s.cq c).valid = true → (s.cq c).error = false →
    cqFree (s.cq c) ≠ 0 →
    let w : BitVec 512 := BitVec.ofNat (8 * 64)
      (leNat (mread s.host (hostKey k (offOf (sqSlot (s.sq g) (s.sq g).fetch))) 64))
    ∃ t, exec (.sqScan g) s = .next t ∧ (t.sq g).fetch = (s.sq g).fetch + 1 ∧ (t.sq g).cons = (s.sq g).cons
      ∧ (t.sq g).cache = [{ count := (s.sq g).fetch, turn := s.cad.turn, word := w }] ∧ (t.sq g).dbPending = false
      ∧ (t.sq g).scanning = false ∧ (t.cq c).reserved = (s.cq c).reserved + 1
      ∧ { t with sqs := s.sqs, cqs := s.cqs } = s)
  ∧ (∀ (g : Fin 1024) (e : Cached) (rest : List Cached) (s : State), (s.sq g).cache = e :: rest →
    (s.sq g).valid = true → (s.sq g).admClosed = false → (s.sq g).behind = [] →
    engineOp (weOpcode e.word) = false ∨ (s.sq g).dispatched = [] →
    entryStatus s (s.sq g).room.toNat e.word = St.ok → weDropLate e.word = true → entryLate s e = true →
    ∃ t, exec (.deadlineDrop g) s = .next t ∧ (t.sq g).cache = rest ∧ (t.sq g).cons = (s.sq g).cons + 1
      ∧ (t.sq g).dispatched = (s.sq g).dispatched
      ∧ (t.sq g).reports = (s.sq g).reports ++ [{ count := e.count, tag := weTag e.word, status := St.late, result := 0,
                                                  irq := weIrq e.word, opcode := weOpcode e.word }]
      ∧ { t with sqs := s.sqs, rooms := s.rooms } = s)

/-- COMPLETION_WRITE to a CQ in Host memory: the 32 bytes of the oldest completion go to the slot at TAIL, and no other
byte changes but, in index mode, the four of the tail count; TAIL advances and the reservation is used. A CQ in ERROR
gets no completion: what waits for it stays unwritten (R198, R210, R236, R239, R240, R246). The model's choices in it, by log
entry: 33. -/
def Obligations.CompletionIsWritten : Prop :=
  (∀ (g : Fin 1024) (r : Report) (rest : List Report) (s : State), (s.sq g).reports = r :: rest →
      (s.sq g).valid = true → (s.sq g).destroying = false →
      let c := (s.sq g).cq.toNat
      let k := (s.sq g).room.toNat
      let a := hostKey k (offOf (cqSlot (s.cq c) (s.cq c).tail))
      let ta := hostKey k (offOf (s.cq c).tailAddr)
      (s.cq c).valid = true → (s.cq c).error = false → (s.cq c).armed = false →
      spaceOf (cqSlot (s.cq c) (s.cq c).tail) = some .host → hostReach s k = true → s.wf = true →
      ((s.cq c).phaseMode = true →
        ∃ t, exec (.completionWrite g) s = .next t ∧ mread t.host a 32 = completionBytes s (s.sq g) (s.cq c) r
          ∧ (∀ x, x < a ∨ a + 32 ≤ x → mget t.host x = mget s.host x) ∧ (t.sq g).reports = rest
          ∧ (t.cq c).tail = (s.cq c).tail + 1 ∧ (t.cq c).reserved = (s.cq c).reserved - 1
          ∧ { t with sqs := s.sqs, cqs := s.cqs, host := s.host, outputs := s.outputs } = s)
      ∧ ((s.cq c).phaseMode = false → spaceOf (s.cq c).tailAddr = some .host → ta + 4 ≤ a ∨ a + 32 ≤ ta →
        ∃ t, exec (.completionWrite g) s = .next t ∧ mread t.host a 32 = completionBytes s (s.sq g) (s.cq c) r
          ∧ mread t.host ta 4 = leBytes 4 ((s.cq c).tail + 1).toNat
          ∧ (∀ x, (x < a ∨ a + 32 ≤ x) → (x < ta ∨ ta + 4 ≤ x) → mget t.host x = mget s.host x)
          ∧ (t.sq g).reports = rest ∧ (t.cq c).tail = (s.cq c).tail + 1
          ∧ { t with sqs := s.sqs, cqs := s.cqs, host := s.host, outputs := s.outputs } = s))
  ∧ (∀ (g : Fin 1024) (r : Report) (rest : List Report) (s : State), (s.sq g).reports = r :: rest →
    (s.sq g).destroying = false →
    (s.cq (s.sq g).cq.toNat).error = true → exec (.completionWrite g) s = .next s)

/-- The interrupt delay, the re-read of a full CQ's head, and an overloaded SQ (R241, R244, R249). -/
def Obligations.QueueTimersAct : Prop :=
  (∀ (q : Fin 1024) (s : State) (t0 : Nat) (ts : List Nat), (s.cq q).armed = true → (s.cq q).irqEn = true →
    (s.cq q).headDue = false → (s.cq q).delayUs ≠ 0 → (s.cq q).times = t0 :: ts → t0 + (s.cq q).delayUs.toNat * 1000 ≤ s.now →
    let v := (s.cq q).room.toNat * 256 + (s.cq q).vector.toNat
    ∃ t, exec (.cqIrqDelay q) s = .next t ∧ (t.cq q).armed = false ∧ SameMemory s t
      ∧ ((tget s.msix {} v).masked = false →
        t.outputs = .msix (s.cq q).room.toNat (s.cq q).vector.toNat :: s.outputs ∧ { t with cqs := s.cqs, outputs := s.outputs } = s)
      ∧ ((tget s.msix {} v).masked = true → (tget t.msix {} v).pending = true ∧ t.outputs = s.outputs))
  ∧ (∀ (q : Fin 1024) (s : State), (s.cq q).valid = true → (s.cq q).headDue = true →
    spaceOf (s.cq q).headAddr = some .host → hostReach s (s.cq q).room.toNat = true →
    let h : Half := BitVec.ofNat 32 (leNat (mread s.host (hostKey (s.cq q).room.toNat (offOf (s.cq q).headAddr)) 4))
    ((s.cq q).tail - h).toNat ≤ (s.cq q).size →
    ∃ t, exec (.cqHeadReread q) s = .next t ∧ (t.cq q).head = h ∧ (t.cq q).headDue = false
      ∧ { t with cqs := s.cqs, outputs := s.outputs, msix := s.msix } = s)
  ∧ (∀ (q : Fin 1024) (s : State), (s.cq q).valid = true → (s.cq q).headDue = false → (s.cq q).fullStall = true →
    stalled s q = true →
    (s.cq q).lastHeadRead = 0 ∨ (s.cq q).lastHeadRead + 999 ≤ s.now → spaceOf (s.cq q).headAddr = some .host →
    hostReach s (s.cq q).room.toNat = true →
    let h : Half := BitVec.ofNat 32 (leNat (mread s.host (hostKey (s.cq q).room.toNat (offOf (s.cq q).headAddr)) 4))
    ((s.cq q).tail - h).toNat ≤ (s.cq q).size →
    ∃ t, exec (.cqHeadReread q) s = .next t ∧ (t.cq q).head = h ∧ (t.cq q).tail = (s.cq q).tail
      ∧ (t.cq q).fullStall = decide ((s.cq q).size - ((s.cq q).tail - h).toNat - (s.cq q).reserved = 0)
      ∧ { t with cqs := s.cqs } = s)
  ∧ (∀ (q : Fin 1024) (s : State), (s.sq q).valid = true → (s.sq q).overloadTurns ≠ 0 → (s.sq q).overNow = false →
    (s.sq q).overloadTurns.toNat * 256 < (s.sq q).age.toNat →
    ∃ t, exec (.sqOverload q) s = .next t ∧ t.sq q = { s.sq q with overloaded := true, overNow := true }
      ∧ (∀ j, j ≠ q.val → t.sq j = s.sq j) ∧ t.pantry = s.pantry ∧ t.cellar = s.cellar ∧ t.larder = s.larder)

/-! ### Command packets -/

/-- The commands that only answer: IDENTIFY, the DIAG subcodes and BUF_QUERY write their results in the reply and
change nothing else of the block (R278, R297, R307). The model's choices in it, by log entry: the packet is an
operand: 11. -/
def Obligations.QueriesAnswer : Prop :=
  ∀ (k : Fin 64) (p : BitVec 512) (s : State), s.wf = true →
    (Accepted s k p 0x0001 → ∃ t, exec (.identify k p) s = .next t
      ∧ Answers k p St.ok 0 s.fy.fwVersion
          (BitVec.ofNat 64 (k.val + ownNode s * 2 ^ 16 + (if s.house.isHall then 1 else 0) * 2 ^ 32)) s s t)
    ∧ (Accepted s k p 0x00F1 → p8 p 16 = 0 → ∃ t, exec (.diagEcho k p) s = .next t
      ∧ Answers k p St.ok 0 (p64 p 24) (fyStateReg (noteTaken k 0x00F1 s) 0) s s t)
    ∧ (Accepted s k p 0x00F1 → p8 p 16 = 1 → ∃ t, exec (.diagTemperature k p) s = .next t
      ∧ Answers k p St.ok 0 (s.nrg.tempMc.signExtend 64) (s.nrg.peakMc.signExtend 64) s s t)
    ∧ (Accepted s k p 0x00F1 → p8 p 16 = 2 → ∃ t, exec (.diagBuffers k p) s = .next t
      ∧ Answers k p St.ok 0 (BitVec.ofNat 64 (liveBuffers s).length) (BitVec.ofNat 64 (freePool s)) s s t)
    ∧ (Accepted s k p 0x00F1 → p8 p 16 = 3 → ∃ t, exec (.diagMisuse k p) s = .next t
      ∧ Answers k p St.ok 0 (BitVec.ofNat 64 ((rollMisuse s).room ((p64 p 24).toNat % 64)).misuse)
          (BitVec.ofNat 64 ((rollMisuse s).room ((p64 p 24).toNat % 64)).misuseOver) s (rollMisuse s) t)
    ∧ (∀ b, Accepted s k p 0x0042 → currentBuf s (p64 p 16) = some b → k = 0 ∨ b.room = k →
      ∃ t, exec (.bufQuery k p) s = .next t
        ∧ Answers k p St.ok 0 (BitVec.ofNat 64 b.off)
            (BitVec.ofNat 64 (b.granules + quadrant b.phys * 2 ^ 24 + b.room * 2 ^ 32)) s s t)

/-- ROOM_CREATE, ROOM_SHARE_SET and ROOM_WINDOW_SET from Room 0. A created Room is ACTIVE with its quotas and a share
of 1; a share answers its old value; a window takes its place, and every granule that another Room or no window held
last reads as 0 (R280, R318, R324 to R329, R454). The model's choices in it, by log entry: 11. -/
def Obligations.RoomsAreSetUp : Prop :=
  ∀ (k : Fin 64) (p : BitVec 512) (s : State), s.wf = true →
    let r := pkRoom p
    (Accepted s k p 0x0010 → p8 p 16 ≤ 64 → p8 p 17 ≤ 64 → p8 p 18 ≤ 128 → p8 p 19 ≤ 16 → p16 p 20 ≤ 4096 →
      p16 p 22 ≤ 512 → p32 p 28 ≤ 65536 → (s.room r).state = .none → fnExists s r = true →
      ∃ t, exec (.roomCreate k p) s = .next t ∧ Answers k p St.ok 0 0 0 s (s.setRoom r {
        state := .active, share := 1, misuseLimit := if p16 p 32 = 0 then 256 else BitVec.ofNat 16 (p16 p 32)
        maxSq := p8 p 16, maxCq := p8 p 17, maxCh := p8 p 18, maxFe := p8 p 19, maxFlags := p16 p 20
        maxCounters := p16 p 22, maxGranules := p32 p 24, maxHandles := p32 p 28 }) t)
    ∧ (Accepted s k p 0x0014 → p16 p 16 ≠ 0 → (s.room r).state ≠ .none →
      ∃ t, exec (.roomShareSet k p) s = .next t ∧ Answers k p St.ok 0 ((s.room r).share.setWidth 64) 0 s
        (s.setRoom r { s.room r with share := BitVec.ofNat 16 (p16 p 16) }) t)
    ∧ (let i := p8 p 16
      let n := p32 p 20
      let off := (p64 p 24).toNat
      let phys := (p64 p 32).toNat
      let old := tget (s.room r).windows {} i
      let new : Window := { valid := true, exported := p8 p 18 % 2 = 1, pool := p8 p 18 / 2 % 2 = 1, granules := n
                            physGran := phys / granule, roomGran := off / granule }
      Accepted s k p 0x0013 → i ≤ 15 → p8 p 17 = 0 → p8 p 18 ≤ 3 → (s.room r).state ≠ .none → 0 < n →
      off % granule = 0 → phys % granule = 0 → off + n * granule ≤ 2 ^ 50 → phys + n * granule ≤ pantrySize →
      (∀ w ∈ (s.room r).windows, w.1 ≠ i → w.2.valid = true → w.2.cellar = false →
        granulesMeet w.2.roomGran w.2.granules (off / granule) n = false) →
      (∀ x ∈ s.rooms, ∀ w ∈ x.2.windows, ¬(x.1 = r ∧ w.1 = i) → w.2.valid = true → w.2.cellar = false →
        granulesMeet w.2.physGran w.2.granules (phys / granule) n = false) →
      (old.valid = true → removalBusy s r old new = false) → windowHeld p s = false →
      ∃ t, exec (.roomWindowSet k p) s = .next t
        ∧ Answers k p St.ok 0 0 0 s (((removedGranules new old).foldl (fun u g => takeGranule r false u g.2) s).setRoom r
            { s.room r with windows := tset (s.room r).windows {} i new }) t
        ∧ ∀ g ∈ removedGranules new old, tget s.granules 0 g.2 ≠ r + 1 → ∀ x < granule,
            mget t.pantry (g.2 * granule + x) = 0)

/-- ROOM_RESET and ROOM_DESTROY close the Room's admission at once and start the sequence, as long commands; a burst of the
Room that has begun is waited for first. Where no peer is awaited, or after 200 µs, ROOM_RESET_END makes the Room ACTIVE again with its reset counted, and drops the
doorbells that came in between (R281, R346 to R348). The model's choices in it, by log entry: whom the abort reaches:
21; when the steps run: 68. -/
def Obligations.RoomResetRuns : Prop :=
  (∀ (k : Fin 64) (p : BitVec 512) (s : State), s.wf = true → longFree s = true → pkRoom p ≠ 0 →
    (s.room (pkRoom p)).state ≠ .none → (s.room (pkRoom p)).reset = none → roomGroups s (pkRoom p) = [] →
    (Accepted s k p 0x0012 → ∃ t, exec (.roomReset k p) s = .next t ∧ (t.room (pkRoom p)).state = .resetting
      ∧ (t.room (pkRoom p)).admClosed = true
      ∧ (t.room (pkRoom p)).reset = some { start := s.now, stopping := roomBurst s (pkRoom p) }
      ∧ { ring := k.val, packet := p, start := s.now } ∈ t.fy.longs
      ∧ (∀ j, j ≠ pkRoom p → (t.room j).state = (s.room j).state))
    ∧ (Accepted s k p 0x0011 → ∃ t, exec (.roomDestroy k p) s = .next t ∧ (t.room (pkRoom p)).state = .destroying
      ∧ (t.room (pkRoom p)).admClosed = true
      ∧ (t.room (pkRoom p)).reset = some { start := s.now, destroy := true, stopping := roomBurst s (pkRoom p) }
      ∧ { ring := k.val, packet := p, start := s.now } ∈ t.fy.longs))
  ∧ (∀ (k : Fin 64) (x : RoomReset) (s : State), s.wf = true → (s.room k).reset = some x → x.destroy = false →
    x.stopping = false → x.awaited = [] ∨ x.start + 200000 ≤ s.now →
    ∃ t, exec (.roomResetEnd k) s = .next t ∧ (t.room k).state = .active ∧ (t.room k).admClosed = false
      ∧ (t.room k).reset = none ∧ (t.room k).resetCount = (s.room k).resetCount + 1
      ∧ (t.room k).resetNs = BitVec.ofNat 32 (s.now - x.start)
      ∧ (t.room k).resetUnacked = BitVec.ofNat 10 (unackedPeers x).length ∧ (t.room k).resetThermal = x.thermal
      ∧ (∀ q ∈ roomSqs s k, (t.sq q.1).admClosed = false ∧ (t.sq q.1).dbPending = false) ∧ t.pantry = s.pantry
      ∧ t.cellar = s.cellar ∧ t.larder = s.larder)

/-- SQ_CREATE and CQ_CREATE define the queue of the lowest free number; CQ_DESTROY, SQ_RESUME and SQ_DESTROY of a queue
with nothing outstanding take effect at once (R192, R224, R232, R283, R285, R286). The model's choices in it, by log
entry: lowest free numbers: 27; SQ_DESTROY: 23. -/
def Obligations.QueuesAreDefined : Prop :=
  ∀ (k : Fin 64) (p : BitVec 512) (s : State), s.wf = true → (s.room (pkRoom p)).state ≠ .none →
    let r := pkRoom p
    (∀ cq fl, Accepted s k p 0x0020 → p8 p 16 ≤ 63 → 4 ≤ p8 p 17 → p8 p 17 ≤ 16 → p8 p 18 ≤ 7 → p8 p 19 ≤ 63 →
      p16 p 20 ≤ 4095 → p8 p 22 ≤ 15 → ringBaseOk (p64 p 24) (2 ^ p8 p 17 * 64) = true →
      (if p8 p 18 % 2 = 1 then p64 p 32 = 0 else countAddrOk (p64 p 32) = true) →
      (p8 p 18 / 4 = 0 → p16 p 20 = 0 ∧ fl = none) →
      (p8 p 18 / 4 = 1 → ∃ f, fl = some f ∧ flagPhys s r (p16 p 20) = some f ∧ (s.flag f).dbSq = none) →
      sqByLocal s r (p8 p 16) = none → cqByLocal s r (p8 p 19) = some cq →
      (r = 0 ∨ (roomSqs s r).length < (s.room r).maxSq) → (s.sqs.filter (·.2.valid)).length < 1024 →
      inWindows s r (p64 p 24) (2 ^ p8 p 17 * 64) = true →
      (p8 p 18 % 2 = 1 ∨ inWindows s r (p64 p 32) 4 = true) →
      let g := lowest ((s.sqs.filter (·.2.valid)).map (·.1))
      let q := s.setSq g {
        valid := true, base := p64 p 24, log2 := BitVec.ofNat 5 (p8 p 17), phaseMode := p8 p 18 % 2 = 1
        haltPolicy := p8 p 18 / 2 % 2 = 1, dbFlagEn := p8 p 18 / 4 = 1, dbFlag := BitVec.ofNat 12 (p16 p 20)
        cq := BitVec.ofNat 10 cq, room := BitVec.ofNat 6 r, loc := BitVec.ofNat 6 (p8 p 16)
        overloadTurns := if p8 p 23 = 0 then 8 else BitVec.ofNat 8 (p8 p 23)
        prodAddr := p64 p 32, prio := BitVec.ofNat 4 (p8 p 22), admClosed := (s.room r).admClosed }
      ∃ t, exec (.sqCreate k p) s = .next t ∧ Answers k p St.ok 0 (BitVec.ofNat 64 g) 0 s (match fl with
        | some f => q.setFlag f { s.flag f with dbSq := some g }
        | none => q) t)
    ∧ (Accepted s k p 0x0022 → p8 p 16 ≤ 63 → 4 ≤ p8 p 17 → p8 p 17 ≤ 16 → p8 p 18 ≤ 3 → p8 p 19 < vectorLimit r →
      ringBaseOk (p64 p 24) (2 ^ p8 p 17 * 32) = true → countAddrOk (p64 p 32) = true →
      (if p8 p 18 % 2 = 1 then p64 p 40 = 0 else countAddrOk (p64 p 40) = true) → cqByLocal s r (p8 p 16) = none →
      (r = 0 ∨ (roomCqs s r).length < (s.room r).maxCq) → (s.cqs.filter (·.2.valid)).length < 1024 →
      inWindows s r (p64 p 24) (2 ^ p8 p 17 * 32) = true → inWindows s r (p64 p 32) 4 = true →
      (p8 p 18 % 2 = 1 ∨ inWindows s r (p64 p 40) 4 = true) →
      let i := lowest ((s.cqs.filter (·.2.valid)).map (·.1))
      ∃ t, exec (.cqCreate k p) s = .next t ∧ Answers k p St.ok 0 (BitVec.ofNat 64 i) 0 s (s.setCq i {
        valid := true, base := p64 p 24, log2 := BitVec.ofNat 5 (p8 p 17), phaseMode := p8 p 18 % 2 = 1
        room := BitVec.ofNat 6 r, loc := BitVec.ofNat 6 (p8 p 16), headAddr := p64 p 32, tailAddr := p64 p 40
        vector := BitVec.ofNat 8 (p8 p 19), irqEn := p8 p 18 / 2 % 2 = 1
        irqCount := if p16 p 20 = 0 then 1 else BitVec.ofNat 16 (p16 p 20), delayUs := BitVec.ofNat 16 (p16 p 22) }) t)
    ∧ (∀ i, Accepted s k p 0x0023 → p8 p 16 ≤ 63 → cqByLocal s r (p8 p 16) = some i →
      (∀ q ∈ s.sqs, q.2.valid = true → q.2.cq.toNat ≠ i) →
      ∃ t, exec (.cqDestroy k p) s = .next t ∧ Answers k p St.ok 0 0 0 s (s.setCq i {}) t)
    ∧ (∀ g, Accepted s k p 0x0024 → p8 p 16 ≤ 63 → sqByLocal s r (p8 p 16) = some g → (s.sq g).halted = true →
      ∃ t, exec (.sqResume k p) s = .next t
        ∧ Answers k p St.ok 0 ((s.sq g).cons.setWidth 64) 0 s
            (invalidate g (s.setSq g { s.sq g with halted := false, latchedValid := false, waitCause := 0 })) t
        ∧ (t.sq g).halted = false ∧ (t.sq g).latchedValid = false ∧ (t.sq g).fetch = (s.sq g).cons ∧ (t.sq g).cache = [])
    ∧ (∀ g, Accepted s k p 0x0021 → longFree s = true → p8 p 16 ≤ 63 → sqByLocal s r (p8 p 16) = some g →
      pkForce p = false → (s.sq g).destroying = false → (s.sq g).dbFlagEn = false →
      ((s.sq g).dispatched = [] → (s.sq g).reports = [] → ∃ t, exec (.sqDestroy k p) s = .next t ∧ t.sq g = {}
        ∧ Answers k p St.ok 0 (BitVec.ofNat 64 (s.sq g).cache.length) 0 s ((discardCache g s).setSq g {}) t)
      ∧ ((s.sq g).dispatched ≠ [] → ∃ t, exec (.sqDestroy k p) s = .next t ∧ (t.sq g).admClosed = true
        ∧ (t.sq g).destroying = true ∧ (t.sq g).cache = [] ∧ (t.sq g).dispatched = (s.sq g).dispatched
        ∧ t.fy.longs.length = s.fy.longs.length + 1))

/-- CHANNEL_ASSIGN gives an unassigned channel to a Room, with every register at reset; CHANNEL_RELEASE of an IDLE
channel takes it back (R287, R288). The model's choices in it, by log entry: 11. -/
def Obligations.ChannelsAreAssigned : Prop :=
  ∀ (k : Fin 64) (p : BitVec 512) (s : State), s.wf = true →
    let r := pkRoom p
    let c := p8 p 16
    (Accepted s k p 0x0030 → c ≤ 127 → (s.room r).state ≠ .none → (s.chan c).assigned = false →
      (r = 0 ∨ (roomChans s r).length < (s.room r).maxCh) →
      ∃ t, exec (.channelAssign k p) s = .next t ∧ Answers k p St.ok 0 0 0 s
        (evalWires (s.setChan c { room := BitVec.ofNat 6 r, assigned := true, state := .idle })) t)
    ∧ (Accepted s k p 0x0031 → longFree s = true → c ≤ 127 → (s.chan c).assigned = true →
      (s.chan c).room.toNat = r → (s.chan c).state = .idle →
      ∃ t, exec (.channelRelease k p) s = .next t ∧ Answers k p St.ok 0 0 0 s
        (evalWires ((withdrawArrivals c s).setChan c {})) t)

/-- BUF_ALLOC answers a handle of the slot's generation and the Room-relative place, the lowest that fits; BUF_FREE and
BUF_RECLAIM end the buffer, and its slot's generation goes up, so that the handle is stale (R299 to R306, R310). The
model's choices in it, by log entry: lowest free numbers: 27. -/
def Obligations.BuffersAreAllocatedAndFreed : Prop :=
  ∀ (k : Fin 64) (p : BitVec 512) (s : State), s.wf = true →
    let r := pkRoom p
    let n := p32 p 16
    let align := 2 ^ (if p8 p 21 = 0 then 12 else p8 p 21)
    (∀ off phys, Accepted s k p 0x0040 → 0 < n → n ≤ 65536 → (p8 p 20 ≤ 3 ∨ p8 p 20 = 255) →
      (p8 p 21 = 0 ∨ 12 ≤ p8 p 21 ∧ p8 p 21 ≤ 21) → p8 p 22 ≤ 1 → (s.room r).state ≠ .none →
      (r = 0 ∨ (roomBufs s r).length < (s.room r).maxHandles
        ∧ (roomBufs s r).foldl (fun m b => m + b.granules) 0 + n ≤ (s.room r).maxGranules) →
      lowestPlace (places s r (if p8 p 20 = 255 then none else some (p8 p 20)) align (n * 4096)) = some (off, phys) →
      s.fy.fresh < 65536 →
      let i := s.fy.fresh
      let b := setBufSlot i { gen := (bufSlot s i).gen, live := some { room := r, phys := phys, off := off, granules := n } }
        { s with fy := { s.fy with fresh := i + 1 } }
      ∃ t, exec (.bufAlloc k p) s = .next t
        ∧ Answers k p St.ok 0 (makeHandle r i (bufSlot s i).gen n) (BitVec.ofNat 64 off) s
            (if p8 p 22 = 1 then scrubZero phys (n * 4096) b else b) t
        ∧ (p8 p 22 = 1 → ∀ x, phys ≤ x → x < phys + n * 4096 → mget t.pantry x = 0))
    ∧ (∀ b, Accepted s k p 0x0041 → currentBuf s (p64 p 16) = some b → b.room = k →
      ∃ t, exec (.bufFree k p) s = .next t ∧ Answers k p St.ok 0 0 0 s (releaseSlot (hSlot (p64 p 16)) s) t
        ∧ currentBuf t (p64 p 16) = none)
    ∧ (∀ b, Accepted s k p 0x0043 → currentBuf s (p64 p 16) = some b →
      ∃ t, exec (.bufReclaim k p) s = .next t ∧ currentBuf t (p64 p 16) = none
        ∧ mread t.host (hostKey k (replySlot (s.ring k))) 32
            = replyBytes (s.ring k).replyPhase p St.ok 0 0 (BitVec.ofNat 64 b.room)
        ∧ (t.ring k).cons = (s.ring k).cons + 1 ∧ t.pantry = s.pantry)

/-- SYNC_MAP gives a span of identifiers the lowest free physical objects, at 0; SYNC_UNMAP takes them back and ends
their waits; FE_REGION_SET defines a tagged region, every word full or empty as it says (R289 to R291, R368, R369).
The model's choices in it, by log entry: lowest free numbers: 27. -/
def Obligations.SyncObjectsAreMapped : Prop :=
  ∀ (k : Fin 64) (p : BitVec 512) (s : State) (isC : Bool) (v n : Nat), s.wf = true →
    (s.room (pkRoom p)).state ≠ .none →
    let r := pkRoom p
    let map := if isC then (s.room r).counterMap else (s.room r).flagMap
    let used := if isC then usedCounters s else usedFlags s
    let pairs := ((List.range n).map (v + ·)).zip (lowestFree used 0 (used.length + n) n)
    (Accepted s k p 0x0050 → p8 p 17 ≤ 1 → syncParams p = some (isC, v, n, true) →
      (∀ m ∈ map, ¬(v ≤ m.1 ∧ m.1 < v + n)) →
      (r = 0 ∨ map.length + n ≤ (if isC then (s.room r).maxCounters else (s.room r).maxFlags)) →
      used.length + n ≤ (if isC then 8192 else 65536) →
      ∃ t, exec (.syncMap k p) s = .next t ∧ Answers k p St.ok 0 (BitVec.ofNat 64 n) 0 s
        (if isC then mapCounters r (p8 p 17 = 1) pairs s else mapFlags r (p8 p 17 = 1) pairs s) t)
    ∧ (let gone := map.filter fun m => v ≤ m.1 && m.1 < v + n
      Accepted s k p 0x0051 → syncParams p = some (isC, v, n, true) →
      (isC = false → ∀ m ∈ gone, (s.flag m.2).dbSq = none) →
      ∃ t, exec (.syncUnmap k p) s = .next t
        ∧ (∀ m ∈ gone, if isC then t.counter m.2 = {} else t.flag m.2 = {})
        ∧ (t.ring k).cons = (s.ring k).cons + 1
        ∧ mread t.host (hostKey k (replySlot (s.ring k))) 32 = replyBytes (s.ring k).replyPhase p St.ok 0
            (BitVec.ofNat 64 gone.length) (BitVec.ofNat 64 (gone.foldl (fun a m => a + waitersOn s isC m) 0)))
    ∧ (let new : FeRegion := { off := offOf (p64 p 24), len := p32 p 20 }
      Accepted s k p 0x0052 → p8 p 16 ≤ 15 → p8 p 17 ≤ 1 → new.len % 8 = 0 → 0 < new.len → new.len ≤ 2 ^ 20 →
      spaceOf (p64 p 24) = some .pantry → new.off % 8 = 0 → (s.room r).regions = [] →
      spanOk s r false new.off new.len = true → (r = 0 ∨ 0 < (s.room r).maxFe) →
      s.rooms.foldl (fun m x => m + x.2.regions.length) 0 < 1024 → s.waiters = [] →
      ∃ t, exec (.feRegionSet k p) s = .next t ∧ Answers k p St.ok 0 0 0 s
        (setTags (regionWords s r new) (p8 p 17 = 1)
          (s.setRoom r { s.room r with regions := tput (s.room r).regions (p8 p 16) new })) t)

/-- POWER_CAP_SET, CADENCE_CONFIG, HOUSE_POLICY, LINK_CONFIG of a port that stays enabled or disabled, LINK_KEY_LOAD and
STUDY_CACHE_FLUSH set what they name and answer (R293, R435, R452, R486, R510, R546, R599). -/
def Obligations.DeviceSettingsTakeEffect : Prop :=
  ∀ (k : Fin 64) (p : BitVec 512) (s : State), s.wf = true →
    (Accepted s k p 0x0061 → 40000 ≤ p32 p 16 → p32 p 16 ≤ 260000 → s.nrg.baseMw.toNat < p32 p 16 →
      ∃ t, exec (.powerCapSet k p) s = .next t ∧ Answers k p St.ok 0 (s.nrg.capMw.setWidth 64) 0 s
        { s with nrg := { s.nrg with capMw := BitVec.ofNat 32 (p32 p 16) } } t)
    ∧ (Accepted s k p 0x0062 → p8 p 16 ≤ 2 → p8 p 17 ≤ 3 → 5000000 ≤ (p64 p 24).toNat →
      (p64 p 24).toNat ≤ 25000000000 →
      ∃ t, exec (.cadenceConfig k p) s = .next t ∧ t.cad.source = fld p 128 2 ∧ t.cad.outEn = p.getLsbD 136
        ∧ t.cad.fallingEdge = p.getLsbD 137 ∧ t.cad.nominalPs = fld p 192 40
        ∧ (p8 p 16 = 2 → t.cad.state = .internal ∧ t.cad.period = (fld p 192 40 : BitVec 40).toNat * 65536)
        ∧ Answers k p St.ok 0 0 0 s (cadConfig (fld p 128 2) (p.getLsbD 136) (p.getLsbD 137) (fld p 192 40) s) t)
    ∧ (Accepted s k p 0x0072 → p8 p 16 ≤ 3 → p16 p 18 ≤ 1024 →
      ∃ t, exec (.housePolicy k p) s = .next t ∧ Answers k p St.ok 0 0 0 s { s with house := { s.house with
        hallAllow := p.getLsbD 128, acceptJoin := p.getLsbD 129
        maxNodes := if p16 p 18 = 0 then 1024 else p16 p 18
        settleUs := if p32 p 20 = 0 then 5000 else BitVec.ofNat 32 (p32 p 20) } } t)
    ∧ (Accepted s k p 0x0070 → p8 p 16 ≤ 15 → p8 p 17 ≤ 3 → p8 p 18 ≤ 15 →
      (s.port (p8 p 16)).enable = decide (p8 p 17 % 2 = 1) →
      ∃ t, exec (.linkConfig k p) s = .next t ∧ Answers k p St.ok 0 0 0 s
        (s.setPort (p8 p 16) { s.port (p8 p 16) with
          allow4 := 2 ≤ p8 p 17, attempts := if p8 p 18 = 0 then 8 else BitVec.ofNat 4 (p8 p 18)
          violLimit := if p16 p 20 = 0 then 64 else BitVec.ofNat 16 (p16 p 20) }) t)
    ∧ (∀ e, let a := offOf (p64 p 24)
      let kr : BitVec 512 := BitVec.ofNat 512 (leNat (mread s.host (hostKey 0 a) 64))
      Accepted s k p 0x0071 → hostReach s 0 = true → p8 p 16 ≤ 15 → p8 p 17 ≤ 1 → spaceOf (p64 p 24) = some .host →
      a % 64 = 0 → fld kr 384 128 = 0 → (fld kr 288 32 : Half) = BitVec.ofNat 32 (p32 p 20) →
      loadKey (p8 p 16) (p8 p 17) { key := fld kr 0 256, fixed := fld kr 256 32, epoch := fld kr 288 32 }
        (fld kr 320 64) (noteTaken k 0x0071 s) = some e →
      ∃ t, exec (.linkKeyLoad k p) s = .next t ∧ Answers k p St.ok 0 0 0 s e t)
    ∧ (Accepted s k p 0x0081 → (p8 p 16 ≤ 7 ∨ p8 p 16 = 255) → (s.room (pkRoom p)).state ≠ .none →
      ∃ t, exec (.studyCacheFlush k p) s = .next t ∧ Answers k p St.ok 0 0 0 s { s with study := { s.study with
        cache := s.study.cache.filter fun l => !(l.room = pkRoom p && (p8 p 16 = 255 || l.set = p8 p 16)) } } t)

/-- The long commands POWER_DOMAIN, GROUP_DEFINE, GROUP_RELEASE, STUDY_LOAD_TABLES and FW_UPDATE start: the command
runs and has no reply yet; a soft request closes its domain; a repeated target is answered at once (R272, R292, R294
to R296, R470, R479, R564, R566, R595). The model's choices in it, by log entry: 11. -/
def Obligations.LongCommandsStart : Prop :=
  ∀ (k : Fin 64) (p : BitVec 512) (s : State), s.wf = true → longFree s = true →
    let l : LongCmd := { ring := k, packet := p, start := s.now }
    let d := p8 p 16
    (Accepted s k p 0x0060 → 1 ≤ d → d ≤ 16 → (s.domain d).move = none → (s.domain d).state = .on →
      (p8 p 17 = 0 → s.nrg.tripped = false →
        ∃ t, exec (.powerDomain k p) s = .next t ∧ Answers k p St.ok 0 0 0 s s t)
      ∧ (p8 p 17 = 1 → pkForce p = false → d ≠ 11 →
        ∃ t, exec (.powerDomain k p) s = .next t ∧ t.fy.longs = s.fy.longs ++ [l]
          ∧ t.domain d = { s.domain d with state := .closing, cause := 1, hard := false, target := .off, requested := s.now }
          ∧ (∀ j, (t.ring j).cons = (s.ring j).cons) ∧ { t with domains := s.domains, fy := s.fy, rings := s.rings } = s))
    ∧ (∀ ns, Accepted s k p 0x0073 → 2 ≤ p16 p 18 → p16 p 18 ≤ 1024 → 1 ≤ p32 p 20 → p32 p 20 ≤ 24576 →
      spaceOf (p64 p 24) = some .host → s.house.isHall = true → (∀ x ∈ s.house.groupDefs, x.1 ≠ d) →
      groupList s p = some ns → ns.Nodup → (∀ n ∈ ns, isMember s n = true ∧ n ≠ ownNode s) →
      ∃ t, exec (.groupDefine k p) s = .next t ∧ t.fy.longs = s.fy.longs ++ [{ l with awaits := ns, members := ns }]
        ∧ t.house.groupDefs = s.house.groupDefs ∧ (∀ j, (t.ring j).cons = (s.ring j).cons) ∧ SameMemory s t)
    ∧ (∀ g, Accepted s k p 0x0074 → s.house.isHall = true → s.house.groupDefs.find? (·.1 = d) = some (d, g) →
      ownNode s ∉ g.members → g.members ≠ [] →
      ∃ t, exec (.groupRelease k p) s = .next t
        ∧ t.fy.longs = s.fy.longs ++ [{ l with awaits := g.members, members := g.members }]
        ∧ t.house.groupDefs = tdel s.house.groupDefs d ∧ (∀ j, (t.ring j).cons = (s.ring j).cons) ∧ SameMemory s t)
    ∧ (Accepted s k p 0x0080 → d ≤ 7 → 1 ≤ p32 p 20 → p32 p 20 ≤ 2 ^ 20 → p32 p 24 ≤ 2 ^ 20 →
      (∀ b ∈ [32, 40, 48], spaceOf (p64 p b) = some .cellar) → (s.room (pkRoom p)).state ≠ .none →
      exec (.studyLoadTables k p) s = .next (startLong k p (noteTaken k 0x0080 s)))
    ∧ (Accepted s k p 0x00F0 → s.fy.longs = [] → p32 p 16 % 4096 = 0 → spaceOf (p64 p 24) = some .host →
      offOf (p64 p 24) % 4096 = 0 →
      ∃ t, exec (.fwUpdate k p) s = .next t ∧ t.fy.state = .update ∧ t.fy.longs = [l]
        ∧ (∀ j, (t.ring j).cons = (s.ring j).cons) ∧ { t with fy := s.fy, rings := s.rings } = s)

/-- LONG_COMMAND_DONE of an SQ_DESTROY whose queue has gone answers with the number of entries discarded; of an
FW_UPDATE whose image does not verify, DT_SIGNATURE, with the Foyer READY again (R272, R285, R296). The model's
choices in it, by log entry: 23, 54. -/
def Obligations.LongCommandsEnd : Prop :=
  ∀ (k : Fin 64) (l : LongCmd) (s : State), s.wf = true → s.fy.longs = [l] → l.ring = k → l.orphan = false →
    hostReach s k = true → (s.ring k).enable = true → (s.ring k).ringError = false →
    (pktOpcode l.packet = 0x0021 → (∀ g ∈ l.awaits, (s.sq g).destroying = false) →
      ∃ t, exec (.longCommandDone k) s = .next t ∧ t.fy.longs = [] ∧ (t.ring k).cons = (s.ring k).cons + 1
        ∧ mread t.host (hostKey k (replySlot (s.ring k))) 32 = replyBytes (s.ring k).replyPhase l.packet St.ok 0 l.result0 0
        ∧ t.sqs = s.sqs ∧ t.pantry = s.pantry ∧ t.cellar = s.cellar ∧ t.larder = s.larder)
    ∧ (∀ img, pktOpcode l.packet = 0x00F0 → hostGet s 0 (offOf (p64 l.packet 24)) (p32 l.packet 16) = some img →
      imgVerifies s img = false →
      ∃ t, exec (.longCommandDone k) s = .next t ∧ t.fy.longs = [] ∧ t.fy.state = .ready ∧ t.flash = s.flash
        ∧ mread t.host (hostKey k (replySlot (s.ring k))) 32
            = replyBytes (s.ring k).replyPhase l.packet St.malformed Dt.signature 0 0)

/-- A packet that fails step 1, 2 or 3 of R270 is answered with the status and reason of the check, and has no effect
but that a privileged opcode from another Room counts as misuse (R270, R271). The model's choices in it, by log entry:
11, 26. -/
def Obligations.RefusedPacketsAnswer : Prop :=
  ∀ (k : Fin 64) (p : BitVec 512) (s : State), s.wf = true → canTake s k = true → hostReach s k = true →
    ringPacket s k = some p → s.fy.longs = [] → (pkCheck k p).1 ≠ St.ok →
    ∀ x ∈ [(Instr.identify k p, 0x0001), (.roomCreate k p, 0x0010), (.roomDestroy k p, 0x0011), (.roomReset k p, 0x0012),
      (.roomWindowSet k p, 0x0013), (.roomShareSet k p, 0x0014), (.sqCreate k p, 0x0020), (.sqDestroy k p, 0x0021),
      (.cqCreate k p, 0x0022), (.cqDestroy k p, 0x0023), (.sqResume k p, 0x0024), (.channelAssign k p, 0x0030),
      (.channelRelease k p, 0x0031), (.bufAlloc k p, 0x0040), (.bufFree k p, 0x0041), (.bufQuery k p, 0x0042),
      (.bufReclaim k p, 0x0043), (.syncMap k p, 0x0050), (.syncUnmap k p, 0x0051), (.feRegionSet k p, 0x0052),
      (.powerDomain k p, 0x0060), (.powerCapSet k p, 0x0061), (.cadenceConfig k p, 0x0062), (.linkConfig k p, 0x0070),
      (.linkKeyLoad k p, 0x0071), (.housePolicy k p, 0x0072), (.groupDefine k p, 0x0073), (.groupRelease k p, 0x0074),
      (.studyLoadTables k p, 0x0080), (.studyCacheFlush k p, 0x0081), (.fwUpdate k p, (0x00F0 : BitVec 16))],
    pktOpcode p = x.2 ∨ cmdOpcodes.contains (pktOpcode p).toNat = false →
    let misused : Bool := (pkCheck k p).2 = Dt.notPermitted && (pkCheck k p).1 = St.badOpcode
    ∃ t, exec x.1 s = .next t ∧ (t.ring k).cons = (s.ring k).cons + 1
      ∧ mread t.host (hostKey k (replySlot (s.ring k))) 32
          = replyBytes (s.ring k).replyPhase p (pkCheck k p).1 (pkCheck k p).2 0 0
      ∧ (misused = true → (t.room k).misuse = ((rollMisuse s).room k).misuse + 1)
      ∧ (misused = false → t.rooms = s.rooms)
      ∧ Recorded s { t with rings := s.rings, rooms := s.rooms
                            fy := { t.fy with lastOpcode := s.fy.lastOpcode, misuseSec := s.fy.misuseSec
                                              served := s.fy.served } }

/-! ### Registers that act -/

/-- The registers of a command ring. SIZE: LOG2 only while disabled and in range; enabling starts the counts and the
phase again, disabling orphans the ring's long commands. The doorbell: a producer count beyond the ring is refused with
BAD_PROD; another is taken, and whether the Foyer's memory then holds a parity error is a free value (R256, R258, R259,
R263, R264, R641, R714). -/
def Obligations.RingRegistersAct : Prop :=
  ∀ (k : Fin 64) (s : State), s.wf = true → fnOpen s k = true → (k ≠ 0 → (s.room k).state ≠ .none) →
    let r := s.ring k
    (∀ size : BitVec 64,
      let lg := (fld size 0 4 : BitVec 4).toNat
      ∃ t, exec (.fyCmdEnable k size) s = .next t ∧ (t.ring k).enable = size.getLsbD 8
        ∧ (t.ring k).irqEn = size.getLsbD 24
        ∧ (t.ring k).log2 = (if r.enable = false ∧ 4 ≤ lg ∧ lg ≤ 12 then fld size 0 4 else r.log2)
        ∧ (size.getLsbD 8 = true → r.enable = false → (t.ring k).prod = 0 ∧ (t.ring k).cons = 0
            ∧ (t.ring k).replyPhase = true ∧ (t.ring k).ringError = false)
        ∧ (size.getLsbD 8 = false ∨ r.enable = true → (t.ring k).prod = r.prod ∧ (t.ring k).cons = r.cons)
        ∧ (r.enable = true → size.getLsbD 8 = false → ∀ l ∈ t.fy.longs, l.ring = k.val → l.orphan = true)
        ∧ (∀ j, j ≠ k.val → t.ring j = s.ring j)
        ∧ { t with rings := s.rings, fy := { t.fy with longs := s.fy.longs } } = s)
    ∧ (∀ prod : BitVec 32,
      (r.size < (prod - r.cons).toNat → ∃ t, exec (.fyCmdDoorbell k prod) s = .next t ∧ (t.ring k).badProd = true
        ∧ (t.ring k).prod = r.prod ∧ (t.ring k).cons = r.cons ∧ (∀ j, j ≠ k.val → t.ring j = s.ring j)
        ∧ Recorded s { t with rings := s.rings })
      ∧ ((prod - r.cons).toNat ≤ r.size → ∃ t, exec (.fyCmdDoorbell k prod) s = .next t ∧ (t.ring k).prod = prod
        ∧ (t.ring k).cons = r.cons ∧ (∀ j, j ≠ k.val → t.ring j = s.ring j)
        ∧ (s.fy.state ≠ .ready → { t with rings := s.rings } = s)
        ∧ (s.fy.state = .ready → Config.parityFault s.free = false → { t with rings := s.rings, free := s.free } = s)
        ∧ (s.fy.state = .ready → Config.parityFault s.free = true → t.fy.state = .fault ∧ t.g.devState = .foyerDown
            ∧ t.fy.longs = [] ∧ t.err.internal = true ∧ t.err.parity = satInc s.err.parity)))

/-- The registers of the audit log and of a fault log, the message that a later record waits for, and the windows of a
ms and a second (R309, R314, R629, R631, R633, R714). The model's choices in it, by log entry: 62. -/
def Obligations.LogRegistersAct : Prop :=
  ∀ (k : Fin 64) (s : State), s.wf = true →
    (fnOpen s 0 = true →
      (∀ size : BitVec 64,
        let lg := (fld size 0 5 : BitVec 5).toNat
        ∃ t, exec (.fyAuditEnable size) s = .next t ∧ { t with audit := s.audit } = s
          ∧ t.audit.enable = size.getLsbD 8 ∧ t.audit.log2 = (if 4 ≤ lg ∧ lg ≤ 16 then fld size 0 5 else s.audit.log2)
          ∧ (size.getLsbD 8 = true → s.audit.enable = false → t.audit.tail = 0 ∧ t.audit.head = 0
              ∧ t.audit.error = false ∧ t.audit.full = false)
          ∧ (size.getLsbD 8 = false ∨ s.audit.enable = true → t.audit.tail = s.audit.tail ∧ t.audit.head = s.audit.head)
          ∧ t.audit.lost = s.audit.lost ∧ t.audit.seq = s.audit.seq)
      ∧ (∀ head : BitVec 32,
        ((s.audit.tail - head).toNat ≤ s.audit.size → exec (.fyAuditHeadWrite head) s = .next { s with audit := {
          s.audit with head := head, full := if head = s.audit.head then s.audit.full else false } })
        ∧ (s.audit.size < (s.audit.tail - head).toNat →
          exec (.fyAuditHeadWrite head) s = .next { s with audit := { s.audit with badHead := true } })))
    ∧ (fnOpen s (fltBar s k) = true → (fltBar s k ≠ 0 → (s.room (fltBar s k)).state ≠ .none) →
      let l := s.log k
      (∀ size : BitVec 64,
        let lg := (fld size 0 5 : BitVec 5).toNat
        ∃ t, exec (.fltEnable k size) s = .next t ∧ { t with logs := s.logs } = s ∧ (t.log k).enable = size.getLsbD 8
          ∧ (t.log k).irqEn = size.getLsbD 9 ∧ (t.log k).irqSev = fld size 10 3
          ∧ (t.log k).log2 = (if l.enable = false ∧ 4 ≤ lg ∧ lg ≤ 16 then fld size 0 5 else l.log2)
          ∧ (t.log k).vector = (if (fld size 16 8 : Byte).toNat < vectorLimit k then fld size 16 8 else l.vector)
          ∧ (size.getLsbD 8 = true → l.enable = false → (t.log k).tail = 0 ∧ (t.log k).head = 0
              ∧ (t.log k).error = false ∧ (t.log k).full = false)
          ∧ (size.getLsbD 8 = false ∨ l.enable = true → (t.log k).tail = l.tail ∧ (t.log k).head = l.head)
          ∧ ∀ j, j ≠ k.val → t.log j = s.log j)
      ∧ (∀ head : BitVec 32,
        ((l.tail - head).toNat ≤ l.size → exec (.fltHeadWrite k head) s
          = .next (s.setLog k { l with head := head, full := if head = l.head then l.full else false }))
        ∧ (l.size < (l.tail - head).toNat → exec (.fltHeadWrite k head) s = .next (s.setLog k { l with badHead := true }))))
    ∧ ((s.log k).irqDue = true → (s.log k).sentUs ≠ s.now / 1000 + 1 →
      let v := (s.log k).vector.toNat
      ∃ t, exec (.fltIrqCoalesce k) s = .next t ∧ (t.log k).irqDue = false ∧ (t.log k).sentUs = s.now / 1000 + 1
        ∧ { t with logs := s.logs, outputs := s.outputs, msix := s.msix } = s
        ∧ ((tget s.msix {} (k * 256 + v)).masked = false → t.outputs = .msix k v :: s.outputs ∧ t.msix = s.msix)
        ∧ ((tget s.msix {} (k * 256 + v)).masked = true → t.outputs = s.outputs
            ∧ (tget t.msix {} (k * 256 + v)).pending = true))
    ∧ (∃ t, exec .workRecordWindow s = .next t ∧ { t with logs := s.logs } = s
        ∧ ∀ j, (t.log j).workThisMs = if (s.log j).workMs = s.now / 1000000 then (s.log j).workThisMs else 0)
    ∧ (∃ t, exec .misuseWindow s = .next t ∧ t.fy.misuseSec = s.now / 1000000000
        ∧ { t with rooms := s.rooms, fy := s.fy } = s
        ∧ (s.fy.misuseSec = s.now / 1000000000 → t = s)
        ∧ (s.fy.misuseSec ≠ s.now / 1000000000 → ∀ j, t.room j = { s.room j with misuse := 0 }))

/-- A register access: a reserved offset reads 0 and keeps nothing, a read-only register keeps its value, a read
answers the value and clears the RC fields it covers, RW fields take what is written; an access of a wrong width or
alignment has no effect but its record, and a read 0 (R4 to R9, R403, R452, R462, R537, R539, R653, R654, R668, R669).
The model's choices in it, by log entry: 61, 62, 64. -/
def Obligations.RegisterAccessesAct : Prop :=
  (∀ (b : Bar) (o : BitVec 26) (half : RegHalf) (v : BitVec 64) (s : State), fnOpen s (barFn b) = true →
    (barFn b ≠ 0 → (s.room (barFn b)).state ≠ .none) →
    let r := regNow s b (o.toNat / 8 * 8)
    (r = .reserved → exec (.registerWrite b o half v) s = .next s
      ∧ exec (.rcRegisterRead b o half) s = .next (s.emit (.readData 0)))
    ∧ (∀ k n, r ∈ [.room k n, .share k, .pdStatus k, .rdxSlot k n, .study n, .studySet k n, .cel k n, .pba k n, .loop n] →
      exec (.registerWrite b o half v) s = .next s)
    ∧ (∀ i, r = .arb i 1 → exec (.registerWrite b o half v) s = .next (s.setArb i { s.arb i with
        starveLimit := fld (mergeHalf (readArb s i 1) v half) 0 32 }))
    ∧ (∀ n, r = .slot n → exec (.registerWrite b o half v) s = .next { s with cad := { s.cad with
        weights := tset s.cad.weights 0x80 n (fld (mergeHalf (readReg s r) v half) 0 8) } })
    ∧ (∀ n, n ≤ 8 → r = .err n → half = .full → exec (.rcRegisterRead b o half) s
        = .next ((clearRc (.err n) .full s).emit (.readData (readErr s n))))
    ∧ (r = .err 2 → exec (.rcRegisterRead b o .low) s
        = .next ({ s with err := { s.err with pantryCorr := 0 } }.emit
            (.readData ((fld (readErr s 2) 0 32 : Half).setWidth 64)))))
  ∧ (∀ (o : BitVec 26) (len : Nat) (w : Bool) (s : State), fnOpen s 0 = true → accessOk o.toNat len = false →
    (regNow s .pf (o.toNat / 8 * 8) = .reserved →
      exec (.malformedRegAccess .pf o len w) s = .next (if w then s else s.emit (.readData 0)))
    ∧ (regNow s .pf (o.toNat / 8 * 8) ≠ .reserved →
      ∃ t, exec (.malformedRegAccess .pf o len w) s = .next t ∧ Recorded s t ∧ t.audit.seq = s.audit.seq + 1
        ∧ (w = false → t.outputs.head? = some (.readData 0))))
  ∧ (∀ s : State, fnOpen s 0 = true → s.g.debugLocked = false → quadOpen s (dbgAddr s) = true →
    (s.pantryUe.contains (dbgAddr s / 64)) = false →
    (∃ t, exec (.dbgFeRead false) s = .next t ∧ SameMemory s t ∧ t.tags = s.tags ∧ t.outputs
        = .readData (BitVec.ofNat 64 (leNat (mread s.pantry (dbgAddr s) 8))) :: s.outputs)
    ∧ (∃ v t, exec (.dbgFeRead true) s = .next t ∧ SameMemory s t ∧ t.tags = s.tags ∧ t.outputs = .readData v :: s.outputs
        ∧ v.getLsbD 0 = tagFull s (dbgAddr s / 8)))
  ∧ (∀ (half : RegHalf) (v : BitVec 64) (s : State), fnOpen s 0 = true →
    let m := mergeHalf s.g.irqMask v half &&& irqGroups
    ∃ t, exec (.irqMaskWrite half v) s = .next t ∧ t.g = { s.g with irqMask := m }
      ∧ { t with g := s.g, outputs := s.outputs, msix := s.msix } = s
      ∧ ∀ b, b < 32 → s.g.irqMask.getLsbD b = true → m.getLsbD b = false → s.g.irqStatus.getLsbD b = true →
        (tget s.msix {} (groupVector s b).toNat).masked = false →
        .msix 0 (groupVector s b).toNat ∈ t.outputs)
  ∧ (∀ (p : Fin 16) (mw : BitVec 32) (s : State), fnOpen s 0 = true →
    ((s.port p).state = .quarantined → ∃ t, exec (.quarantineClear p) s = .next t ∧ { t with ports := s.ports } = s
      ∧ (t.port p).state = (if (s.port p).txKey.isSome && (s.port p).rxKey.isSome then .secure else .clear)
      ∧ (t.port p).violMs = 0 ∧ ∀ j, j ≠ p.val → t.port j = s.port j)
    ∧ ((s.port p).state ≠ .quarantined → exec (.quarantineClear p) s = .next s)
    ∧ (s.nrg.tempMc.toInt < 100000 →
      exec .trippedClear s = .next { s with nrg := { s.nrg with tripped := false } })
    ∧ (100000 ≤ s.nrg.tempMc.toInt → exec .trippedClear s = .next s)
    ∧ (mw < s.nrg.capMw → exec (.baseMwWrite mw) s = .next { s with nrg := { s.nrg with baseMw := mw } })
    ∧ (s.nrg.capMw ≤ mw → ∃ t, exec (.baseMwWrite mw) s = .next t ∧ Recorded s t ∧ t.audit.seq = s.audit.seq + 1)
    ∧ ((s.port p).state = .disabled ∨ (s.port p).state = .retrain → exec (.portRetrain p) s = .next s)
    ∧ ((s.port p).state ≠ .disabled → (s.port p).state ≠ .retrain → ∃ t, exec (.portRetrain p) s = .next t ∧ (t.port p).state = .retrain
      ∧ (t.port p).since = s.now ∧ (t.port p).queue = [] ∧ (t.port p).replay = [] ∧ (t.port p).tx = []
      ∧ (t.port p).rx = []))

/-- Signals through the sync window and the PF's records, with their sources; an invalid one has no effect but its record.
A barrier wire's mask takes its new value, and a wire that this completes is released; clearing ENABLE ends its waits.
A refused remote registration is polled every 8 µs (R359, R363, R387, R394, R397, R401, R402, R404, R405). -/
def Obligations.SyncViewsAct : Prop :=
  (∀ (k : Fin 64) (id : BitVec 12) (v : Bool) (p : Nat) (s : State), k ≠ 0 → fnOpen s k = true →
    (s.room k).state ≠ .none → (s.room k).reset = none → flagPhys s k id.toNat = some p →
    (s.flag p).dbSq = none ∨ v = false →
    let t := s.setFlag p { s.flag p with value := v, last := lastSignal s 3 0 (ownNode s) }
    noWaitEnds t → exec (.vwFlagWrite k id v) s = .next t)
  ∧ (∀ (k : Fin 64) (id : BitVec 9) (half : RegHalf) (v n : BitVec 64) (s : State), k ≠ 0 → fnOpen s k = true →
    s.wf = true → (s.room k).state ≠ .none → (s.room k).reset = none →
    (∀ p, counterPhys s k id.toNat = some p → addValue half v = some n →
      let t := s.setCounter p { s.counter p with value := (s.counter p).value + n
                                                 last := lastSignal s 3 0 (ownNode s) }
      noWaitEnds t → exec (.vwAddWrite k id half v) s = .next t)
    ∧ (counterPhys s k id.toNat = none ∨ addValue half v = none →
      ∃ t, exec (.vwAddWrite k id half v) s = .next t ∧ Recorded s t ∧ (t.log k).seq = (s.log k).seq + 1))
  ∧ (∀ (f : BitVec 16) (v : Bool) (s : State), fnOpen s 0 = true →
    ((s.flag f.toNat).mapped = false → exec (.syValueWrite f v) s = .next s)
    ∧ ((s.flag f.toNat).mapped = true → (s.flag f.toNat).dbSq = none ∨ v = false →
      let t := s.setFlag f.toNat { s.flag f.toNat with value := v, last := lastSignal s 5 0 (ownNode s) }
      noWaitEnds t → exec (.syValueWrite f v) s = .next t))
  ∧ (∀ (c : BitVec 13) (half : RegHalf) (v n : BitVec 64) (s : State), fnOpen s 0 = true →
    (s.counter c.toNat).mapped = true →
    (addValue half v = some n →
      let t := s.setCounter c.toNat { s.counter c.toNat with value := (s.counter c.toNat).value + n
                                                             last := lastSignal s 5 0 (ownNode s) }
      noWaitEnds t → exec (.ctAddWrite c half v) s = .next t)
    ∧ (addValue half v = none →
      ∃ t, exec (.ctAddWrite c half v) s = .next t ∧ Recorded s t ∧ t.audit.seq = s.audit.seq + 1))
  ∧ (∀ (w : Fin 32) (hi : Bool) (half : RegHalf) (v : BitVec 64) (s : State), fnOpen s 0 = true → s.wf = true →
    let x := s.wire w
    let y := if hi then { x with maskHi := mergeHalf x.maskHi v half } else { x with maskLo := mergeHalf x.maskLo v half }
    let u := s.setWire w y
    (wireReady u y = false → noWaitEnds u → exec (.bwMaskWrite w hi half v) s = .next u)
    ∧ (wireReady u y = true → noWaitEnds (evalWire w u) →
      ∃ t, exec (.bwMaskWrite w hi half v) s = .next t
        ∧ t.wire w = { y with gen := x.gen + 1, arrivedLo := 0, arrivedHi := 0 }
        ∧ (∀ d, (t.chan d).arrivals.any (·.1 = w.val) = false) ∧ ∀ j, j ≠ w.val → t.wire j = s.wire j))
  ∧ (∀ (w : Fin 32) (s : State), fnOpen s 0 = true → s.wf = true →
    ∃ t, exec (.bwEnableClear w) s = .next t ∧ (t.wire w).enable = false ∧ (t.wire w).arrivedLo = 0
      ∧ (t.wire w).arrivedHi = 0 ∧ (t.wire w).gen = (s.wire w).gen ∧ ∀ x ∈ t.waiters, waitsOnWire w x = false)
  ∧ (∀ (c : Fin 128) (s : State) (x : Waiter) (n t0 p : Nat) (a : Word), s.waiters = [x] → x.unit = .chan c →
    x.paused = false → x.obj = .remote n a → x.polled = some t0 → t0 ≤ s.now → egress s n = some p → n < 65536 →
    ∃ t, exec (.remotePoll (.chan c)) s = .next t ∧ t.polls = satInc s.polls
      ∧ t.waiters = [{ x with polled := some (s.now + 8000) }]
      ∧ (t.port p).queue = (s.port p).queue ++ [.msg (Msg.pack
          { waitMsg 0x0D (s.chan c).room.toNat n x with src := BitVec.ofNat 16 (ownNode s) })]
      ∧ { t with ports := s.ports, waiters := s.waiters, polls := s.polls } = s)

/-! ### Resets, boot and the bus -/

/-- Resets and power: everything returns to its reset value; LAST_RESET names the source of a device reset, which is
counted and keeps house time and the scratch register; without PWRGD or REFCLK_SYS the part does not run; PERST_N low
holds it in reset until it rises (R661, R662, R667, R674, R675, R677, R692). What the memories hold then is a free
value. The model's choices in it, by log entry: 1, 52, 53, 63. -/
def Obligations.ResetsReturnEverything : Prop :=
  ∀ s : State,
    (let Device (src : BitVec 3) (t : State) : Prop :=
      AtReset s t ∧ t.g.lastReset = src ∧ t.g.devResets = s.g.devResets + 1 ∧ t.g.houseTime = s.g.houseTime
        ∧ t.g.scratch = s.g.scratch ∧ t.side = s.side ∧ t.g.powered = s.g.powered
    (∀ data : BitVec 64, fnOpen s 0 = true → (fld data 8 8 : Byte) = 0xA5 → data.getLsbD 0 = true →
      ∃ t, exec (.deviceResetRequest data) s = .next t ∧ Device 4 t ∧ t.pins = s.pins
        ∧ t.pcie = { bme := s.pcie.bme.filter (· = 0), mse := s.pcie.mse.filter (· = 0), mps := s.pcie.mps
                     bar0 := s.pcie.bar0, bar2 := s.pcie.bar2, vfBar0 := s.pcie.vfBar0 })
    ∧ (∀ data : BitVec 64, fnOpen s 0 = true → (fld data 8 8 : Byte) ≠ 0xA5 →
      ∃ t, exec (.deviceResetRequest data) s = .next t ∧ Recorded s t ∧ t.audit.seq = s.audit.seq + 1)
    ∧ (s.g.powered = true → s.pins.perstN = true →
      (∃ t, exec .pcieHotReset s = .next t ∧ Device 2 t ∧ t.pins = s.pins ∧ t.pcie = {})
      ∧ (∃ t, exec .pfFlr s = .next t ∧ Device 3 t ∧ t.pins = s.pins ∧ t.pcie = { mps := s.pcie.mps })
      ∧ (∃ t, exec .refclkPcieLoss s = .next t ∧ Device 2 t ∧ t.pins = { s.pins with refclkPcie := false }
          ∧ t.pcie = { linkUp := false })
      ∧ (∃ t, exec .perstNAssert s = .next t ∧ Device 1 t ∧ t.pins = { s.pins with perstN := false }
          ∧ t.g.initStarted = false ∧ t.pcie = { linkUp := false })))
    ∧ (s.pins.perstN = false → ∃ t, exec .perstNDeassert s = .next t
      ∧ t.pins = { s.pins with perstN := true, refclkPcie := true }
      ∧ (s.g.powered = true → t.g.initStarted = true ∧ t.pcie = { s.pcie with linkUp := true })
      ∧ { t with pins := s.pins, g := s.g, pcie := s.pcie } = s)
    ∧ (s.pins.pwrgd = false → ∃ t, exec .pwrgdRise s = .next t ∧ AtReset s t ∧ t.pins = { s.pins with pwrgd := true }
      ∧ t.g.houseTime = 0 ∧ t.g.scratch = 0 ∧ t.g.devResets = 0 ∧ t.g.lastReset = 0 ∧ t.g.powered = s.pins.refclkSys
      ∧ t.side = {})
    ∧ (∃ t, exec .pwrgdFall s = .next t ∧ AtReset s t ∧ t.pins = { s.pins with pwrgd := false } ∧ t.g.powered = false
      ∧ t.pcie = { linkUp := false })
    ∧ (∃ t, exec .refclkSysLoss s = .next t ∧ AtReset s t ∧ t.pins = { s.pins with refclkSys := false }
      ∧ t.g.powered = false ∧ alertLow t = s.pins.pwrgd)
    ∧ (s.pins.refclkSys = false → ∃ t, exec .refclkSysRestored s = .next t ∧ AtReset s t
      ∧ t.pins = { s.pins with refclkSys := true } ∧ t.g.powered = s.pins.pwrgd ∧ t.g.houseTime = 0)

/-- The boot: INIT samples the straps and, at power-on, writes the Pantry and the Larder to 0; the loader takes the
newer half that verifies, or stops; READY makes Room 0 once. A recovery load answers in the mailbox. A Foyer restart
is counted, and takes place when no long command runs. Each of the five rows completes in every state (R318, R664, R667,
R677, R684, R685, R689, R698). The model's choices in it, by log entry: 28, 53, 81; an event out of its state changes
nothing: 9. -/
def Obligations.BootReachesReady : Prop :=
  ∀ s : State,
    (let due : Prop := s.g.powered = true ∧ s.pins.perstN = true ∧ s.g.initStarted = true ∧ s.g.devState = .init
     (due → ∃ t, exec .initComplete s = .next t ∧ t.fy = { s.fy with state := .boot }
        ∧ t.g = { s.g with devState := .boot, hallEligible := s.pins.strapHallEligible
                           claimPrio := s.pins.strapClaimPrio, bootSel := s.pins.strapBootSel }
        ∧ (s.g.lastReset = 0 → t.pantry = [] ∧ t.larder = []) ∧ (s.g.lastReset ≠ 0 → SameMemory s t)
        ∧ t.cellar = s.cellar)
     ∧ (¬ due → exec .initComplete s = .next s))
    ∧ (∀ r0 r1 : Bool, s.g.devState ≠ .boot ∨ s.g.bootSel = true → exec (.bootComplete r0 r1) s = .next s)
    ∧ (∀ r0 r1 : Bool, s.g.devState = .boot → s.g.bootSel = false →
      let pick := bootChoice (halfSeq s 0) (halfSeq s 1) (halfVerifies s 0 r0) (halfVerifies s 1 r1)
      (∃ t, exec (.bootComplete r0 r1) s = .next t)
      ∧ (∀ h, pick = some h → s.house.parked = [] →
        let v := imgVersion (halfImage s (if h then 1 else 0))
        ∃ t, exec (.bootComplete r0 r1) s = .next t ∧ t.g.devState = .ready ∧ t.fy.state = .ready ∧ t.fy.fwVersion = v
          ∧ t.g.bootHalf = h ∧ t.flash = s.flash
          ∧ t.g.rollback = (if s.g.rollback < secVersion v then secVersion v else s.g.rollback)
          ∧ ((s.room 0).state = .none → t.room 0 = { state := .active, share := 1, misuseLimit := 256 }
              ∧ (s.nrg.tripped = false → ∀ d, pdOn t d = true))
          ∧ ((s.room 0).state ≠ .none → t.rooms = s.rooms ∧ t.audit.seq = s.audit.seq + 1))
      ∧ (pick = none → ∃ t, exec (.bootComplete r0 r1) s = .next t ∧ t.g.devState = .foyerDown
          ∧ t.fy.state = .bootFail ∧ t.flash = s.flash ∧ t.rooms = s.rooms))
    ∧ (∀ data : BitVec 64,
      let load : Prop := s.g.devState = .boot ∧ s.g.bootSel = true ∧ (fld data 56 8 : Byte) = 0xB0
      let x := mailboxResult { s with g := { s.g with scratch := data } } (fld data 0 32 : Half).toNat
      (fnOpen s 0 = false → exec (.recoveryLoad data) s = .next (s.emit .unsupported))
      ∧ (fnOpen s 0 = true → ¬ load → exec (.recoveryLoad data) s = .next { s with g := { s.g with scratch := data } })
      ∧ (fnOpen s 0 = true → load → ∃ t, exec (.recoveryLoad data) s = .next t
        ∧ ((fld data 0 32 : Half).toNat < 8192 → x.1 = 0xE3)
        ∧ (x.1 ≠ 0x5C → t = { s with g := { s.g with scratch := x.1 ++ (fld data 0 56 : BitVec 56) } })
        ∧ (x.1 = 0x5C → s.house.parked = [] → t.g.scratch = x.1 ++ (fld data 0 56 : BitVec 56)
            ∧ t.fy.state = .ready ∧ t.g.devState = .ready ∧ t.fy.fwVersion = x.2 ∧ t.flash = s.flash)))
    ∧ (∀ data : BitVec 64,
      (fnOpen s 0 = false → exec (.foyerRestartRequest data) s = .next (s.emit .unsupported))
      ∧ (fnOpen s 0 = true → (fld data 8 8 : Byte) = 0xA5 → data.getLsbD 0 = false → data.getLsbD 1 = true →
        (s.fy.restart = false → s.g.devState ≠ .boot → exec (.foyerRestartRequest data) s = .next { s with
          fy := { s.fy with restart := true }, g := { s.g with foyerRestarts := s.g.foyerRestarts + 1 } })
        ∧ (s.fy.restart = true ∨ s.g.devState = .boot → exec (.foyerRestartRequest data) s = .next s)))
    ∧ (s.fy.restart = true → s.fy.longs = [] → exec .foyerReboot s = .next { s with
        fy := { s.fy with restart := false, state := .boot }, g := { s.g with devState := .boot } })
    ∧ (s.fy.restart = false ∨ s.fy.longs ≠ [] → exec .foyerReboot s = .next s)

/-- Events of the functions: an FLR of a VF disables its command ring and clears its Bus Master Enable and resets its
Room; the enables are cleared as they say; the Rooms of VFs that go are destroyed; an ATS invalidation takes the
function's translations of its range and is completed; a configuration request answers Request Retry in INIT, and reads
or writes the bits that the model holds afterwards, the Device IDs and Max_Payload_Size among them (R18, R33, R320, R322,
R323, R351, R632, R660). The register places are the model's (log entries 16 and 78). -/
def Obligations.FunctionEventsAct : Prop :=
  (∀ (k : Fin 64) (s : State), k ≠ 0 →
    exec (.vfBmeClear k) s = .next { s with pcie := { s.pcie with bme := nremove s.pcie.bme k } }
    ∧ exec (.vfMseClear k) s = .next { s with pcie := { s.pcie with mse := nremove s.pcie.mse k } }
    ∧ (∀ (a : BitVec 60) (len : Nat), ∃ t, exec (.atsInvalidation ⟨k, a, len⟩) s = .next t
      ∧ t.outputs = .atsComplete k :: s.outputs ∧ { t with outputs := s.outputs, pcie := s.pcie } = s
      ∧ t.pcie = { s.pcie with ats := t.pcie.ats }
      ∧ ∀ p, p ∈ t.pcie.ats ↔ p ∈ s.pcie.ats ∧ ¬(hostPage k a.toNat ≤ p ∧ p * 4096 < hostKey k a.toNat + len))
    ∧ (fnExists s k = false → exec (.vfFlr k) s = .next s)
    ∧ (s.wf = true → fnExists s k = true → (s.room k).state ≠ .none → (s.room k).reset = none → roomGroups s k = [] →
      ∃ t, exec (.vfFlr k) s = .next t ∧ (t.room k).state = .resetting ∧ (t.room k).admClosed = true
        ∧ (t.room k).reset = some { start := s.now, stopping := roomBurst s k } ∧ t.ring k = {}
        ∧ t.pcie.bme = nremove s.pcie.bme k ∧ t.pcie.mse = s.pcie.mse))
  ∧ (∀ (n : Fin 64) (s : State), s.wf = true →
    (s.pcie.vfEnable = false ∨ s.pcie.numVfs ≤ n.val → exec (.vfDisable n) s = .next s)
    ∧ (s.pcie.vfEnable = true → n.val < s.pcie.numVfs →
      ∃ t, exec (.vfDisable n) s = .next t ∧ t.pcie.numVfs = n ∧ t.pcie.vfEnable = decide (n ≠ 0)
        ∧ (∀ f ∈ t.pcie.bme, f ≤ n.val) ∧ (∀ f ∈ t.pcie.mse, f ≤ n.val)
        ∧ ∀ k, n.val < k → (s.room k).state ≠ .none → (s.room k).reset = none → (t.room k).state = .destroying))
  ∧ (∀ (k : Fin 64) (reg : BitVec 12) (w : Bool) (v : BitVec 32) (s : State),
    (s.g.powered = false ∨ s.pcie.linkUp = false → exec (.configRequest k reg w v) s = .next s)
    ∧ (s.g.powered = true → s.pcie.linkUp = true →
      (s.g.devState = .init → exec (.configRequest k reg w v) s = .next (s.emit .configRetry))
      ∧ (s.g.devState ≠ .init → fnExists s k = false → exec (.configRequest k reg w v) s = .next (s.emit .unsupported))
      ∧ (s.g.devState ≠ .init → fnExists s k = true →
        (∃ x t, exec (.configRequest k reg false v) s = .next t ∧ t = s.emit (.configData x)
          ∧ (reg = 0x000 → fld x 16 16 = if k.val = 0 then 0x0250#16 else 0x0251#16)
          ∧ (reg = 0x004 → x.getLsbD 1 = s.pcie.mse.contains k.val ∧ x.getLsbD 2 = s.pcie.bme.contains k.val))
        ∧ (k.val = 0 → (fld v 5 3 : BitVec 3).toNat ≤ 2 → exec (.configRequest k 0x048 true v) s
            = .next { s with pcie := { s.pcie with mps := 128 * 2 ^ (fld v 5 3 : BitVec 3).toNat } })
        ∧ (∃ t, exec (.configRequest k 0x004 true v) s = .next t ∧ { t with pcie := s.pcie } = s
          ∧ t.pcie.mse.contains k.val = v.getLsbD 1 ∧ t.pcie.bme.contains k.val = v.getLsbD 2))))

/-- BAR2 writes the enabled bytes of the Pantry and no other, and reads the Pantry or the Larder view; a quadrant that
is down aborts a read, and what lies beyond reads 0. Completions bring a burst's source, part by part; a failed one
fails the instruction; a zero-length one proves the writes before it; one for a packet that the Foyer fetches stops the ring
(R141, R143, R263, R346, R421, R475, R648 to R652, R658). The
model's choices in it, by log entry: unwritten Host bytes: 6; views: 58. -/
def Obligations.ApertureAndCompletions : Prop :=
  (∀ (o : BitVec 29) (data : List Byte) (en : List Bool) (s : State), fnOpen s 0 = true → s.wf = true →
    data.length = en.length → 0 < data.length →
    o.toNat / quadrantSize = (o.toNat + data.length - 1) / quadrantSize → o.toNat + data.length ≤ pantrySize →
    quadOpen s o.toNat = true → s.pantryUe = [] → s.waiters = [] →
    let n := min data.length (s.bar2Cut.getD data.length)
    ∃ t, exec (.bar2Write o data en) s = .next t
      ∧ (∀ i < n, mget t.pantry (o.toNat + i)
          = if en.getD i false then data.getD i 0 else mget s.pantry (o.toNat + i))
      ∧ (∀ x, x < o.toNat ∨ o.toNat + n ≤ x → mget t.pantry x = mget s.pantry x) ∧ t.bar2Cut = none
      ∧ { t with pantry := s.pantry, tags := s.tags, domains := s.domains, bar2Cut := s.bar2Cut } = s)
  ∧ (∀ (o : BitVec 29) (n : Nat) (s : State), fnOpen s 0 = true → 0 < n →
    (o.toNat + n ≤ pantrySize → (∀ x ∈ quadParts o.toNat n, quadOpen s x.1 = true) →
      ∃ t, exec (.bar2Read o n) s = .next t ∧ SameMemory s { t with host := s.host }
        ∧ t.outputs.head? = some (.bar2Data (mread s.pantry o.toNat n)
            (s.pantryUe.any fun l => l * 64 < o.toNat + n && o.toNat < (l + 1) * 64)))
    ∧ (o.toNat + n ≤ pantrySize → (∃ x ∈ quadParts o.toNat n, quadOpen s x.1 = false) →
      ∃ t, exec (.bar2Read o n) s = .next t ∧ SameMemory s { t with host := s.host }
        ∧ t.outputs.head? = some .completerAbort ∧ t.audit.seq = s.audit.seq + 1)
    ∧ (pantrySize ≤ o.toNat → o.toNat + n ≤ pantrySize + larderSize → s.g.debugLocked = false → pdOn s pdLarder = true →
      s.larderUe = [] →
      exec (.bar2Read o n) s = .next (s.emit (.bar2Data (mread s.larder (o.toNat - pantrySize) n) false)))
    ∧ (pantrySize < o.toNat + n → o.toNat < pantrySize ∨ pantrySize + larderSize < o.toNat + n →
      ∃ t, exec (.bar2Read o n) s = .next t ∧ Recorded s t
        ∧ t.outputs.head? = some (.bar2Data (List.replicate n 0) false) ∧ t.audit.seq = s.audit.seq + 1))
  ∧ (∀ (k : Fin 64) (a : BitVec 60) (data : List Byte) (r : HostRead) (s : State), s.hostReads = [r] → r.room = k.val →
    r.addr = a.toNat → data ≠ [] →
    let h := mwrite s.host (hostKey k r.addr) (data.take r.len)
    (data.length < r.len → exec (.pcieCompletion k a data true) s = .next
      (setCur r.chan (fun q => { q with staged := q.staged ++ [(r.addr, data)] }) { s with
        host := h, hostReads := [{ r with addr := r.addr + data.length, len := r.len - data.length }] }))
    ∧ (r.len ≤ data.length → exec (.pcieCompletion k a data true) s
        = .next (readArrived r.chan r.addr (data.take r.len) { s with host := h, hostReads := [] }))
    ∧ (∀ q, (s.chan r.chan).cur = some q → q.bad = none → planGroup q.plan = none →
      ∃ t, exec (.pcieCompletion k a data false) s = .next t ∧ t.hostReads = []
        ∧ fld (t.chan r.chan).lastErr 0 8 = St.busError ∧ (t.chan r.chan).cur = none
        ∧ (t.chan r.chan).badCount = satInc (s.chan r.chan).badCount ∧ t.larder = s.larder))
  ∧ (∀ (k : Fin 64) (a : BitVec 60) (c : Nat) (s : State), s.hostReads = [] →
    (s.proofs = [] → exec (.pcieCompletion k a [] true) s = .next s)
    ∧ (s.proofs = [(k.val, c)] → exec (.pcieCompletion k a [] true) s = .next (arrive1 c .host { s with proofs := [] })
      ∧ (canTake s k = false ∨ a.toNat ≠ packetSlot (s.ring k) →
        exec (.pcieCompletion k a [] false) s = .next (failFlight c .host St.busError { s with proofs := [] })))
    ∧ (∀ data, canTake s k = true → a.toNat = packetSlot (s.ring k) →
      ∃ t, exec (.pcieCompletion k a data false) s = .next t ∧ (t.ring k).ringError = true
        ∧ (t.ring k).cons = (s.ring k).cons ∧ (t.ring k).prod = (s.ring k).prod ∧ Recorded s { t with rings := s.rings }))

/-! ### Arbiters and upkeep -/

/-- The arbiters. The input map takes permutations with code 15 on input 15 only. Where no owner keeps its grant, the
requester on the highest requesting input is granted; an owner that still requests keeps its grant but for input 15,
which takes it for one burst. What the Movers' next bursts need is always requested. A wait beyond LIMIT starves, once;
clearing a STARVED bit starts the wait again of who still waits. The watchdog ends a grant that is held too long (R411 to
R416, R418 to R425). The model's choices in it, by log entry: 57, 79. -/
def Obligations.ArbitersGrant : Prop :=
  (∀ (i : Fin 5) (half : RegHalf) (v : BitVec 64) (bits : BitVec 16) (s : State), fnOpen s 0 = true → s.wf = true →
    let m := mergeHalf (s.arb i).map v half
    (mapOk m = true → exec (.arbMapWrite i half v) s = .next (s.setArb i { s.arb i with map := m }))
    ∧ (mapOk m = false → ∃ r, exec (.arbMapWrite i half v) s = .next (auditRec r s) ∧ r.status = St.malformed
      ∧ Recorded s (auditRec r s) ∧ (auditRec r s).audit.seq = s.audit.seq + 1)
    ∧ (∃ t, exec (.arbStarvedClear i bits) s = .next t ∧ (t.arb i).starved = (s.arb i).starved &&& ~~~bits
        ∧ (∀ a ∈ instArbs i, ∀ c,
            let again : Bool := bits.getLsbD c && (s.arb i).starved.getLsbD c && (s.arbiter a).requests.getLsbD c
              && (s.arbiter a).owner ≠ some c
            tget (t.arbiter a).waits 0 c = (if again then 0 else tget (s.arbiter a).waits 0 c)
              ∧ (c ∈ (t.arbiter a).flagged ↔ c ∈ (s.arbiter a).flagged ∧ again = false))
        ∧ (∀ a, a ∉ instArbs i → t.arbiter a = s.arbiter a) ∧ { t with arbs := s.arbs, arbiters := s.arbiters } = s))
  ∧ (∀ (a : Fin 68) (req : BitVec 16) (n : BitVec 32) (s : State), s.wf = true →
    let q := (req ||| moverRequests s a) &&& canRequest a
    let i := arbInst a
    let m := (s.arb i).map
    let o := (s.arbiter a).owner
    let first : Bool := q.getLsbD 15 && o ≠ some 15
    let asks (j : Nat) : Bool := mapCode m j ≠ 15 && q.getLsbD (mapCode m j)
    ∃ t, exec (.arbDecision a req n) s = .next t
      ∧ Recorded s { t with arbs := s.arbs, arbiters := s.arbiters, free := s.free }
      ∧ (t.arbiter a).requests = q ∧ (∀ b, b ≠ a.val → t.arbiter b = s.arbiter b)
      ∧ (first = true → (t.arbiter a).owner = some 15)
      ∧ (first = false → ∀ c, o = some c → c ≠ 15 → q.getLsbD c = true → (t.arbiter a).owner = some c)
      ∧ (first = false → (∀ c, o = some c → c = 15 ∨ q.getLsbD c = false) →
        (∀ j < 16, asks j = true → (∀ l < 16, j < l → asks l = false) → (t.arbiter a).owner = some (mapCode m j))
        ∧ ((∀ j < 16, asks j = false) → (t.arbiter a).owner = none))
      ∧ (t.arb i).preempts = (if first && o.any (fun c => c ≠ 15 && q.getLsbD c) then satInc (s.arb i).preempts
          else (s.arb i).preempts))
  ∧ (∀ (a : Fin 68) (c : Fin 16) (s : State), s.wf = true →
    let r := s.arb (arbInst a)
    let due : Bool := r.starveLimit.toNat ≠ 0 && r.starveLimit.toNat < tget (s.arbiter a).waits 0 c
      && !(s.arbiter a).flagged.contains c.val
    (due = false → exec (.arbStarvation a c) s = .next s)
    ∧ (due = true → ∃ t, exec (.arbStarvation a c) s = .next t ∧ (t.arb (arbInst a)).starved = r.starved ||| (1#16 <<< c.val)
      ∧ (t.arb (arbInst a)).starvedCode = BitVec.ofNat 4 c ∧ (t.arb (arbInst a)).starvedGroup = BitVec.ofNat 6 (arbGroup a)
      ∧ c.val ∈ (t.arbiter a).flagged ∧ t.audit.seq = s.audit.seq + 1
      ∧ Recorded s { t with arbs := s.arbs, arbiters := s.arbiters }))
  ∧ (∀ (a : Fin 68) (u : Fin 128) (c : Nat) (s : State), s.wf = true → (s.arbiter a).owner = some c → c < 15 →
    holdWatched a c u s = true →
    let r := s.arb (arbInst a)
    ∃ t, exec (.holdWatchdogCut a u) s = .next t ∧ (t.arb (arbInst a)).held = r.held ||| (1#16 <<< c)
      ∧ (t.arb (arbInst a)).heldCode = BitVec.ofNat 4 c ∧ (t.arb (arbInst a)).cuts = satInc r.cuts
      ∧ (t.arbiter a).owner = bestRequest r.map ((s.arbiter a).requests &&& ~~~(1#16 <<< c)))

/-- The patrol scrub takes one burst of every quadrant that is ON; refresh is postponed up to eight times under a
streaming owner; a stack above 85 °C is hot. A device at 110 °C trips: every domain but PD_AON goes down, the Pantry
retaining (R427, R428, R458, R461, R642, R670). The model's choices in it, by log entry: 25, 56, 58. -/
def Obligations.UpkeepAndTemperature : Prop :=
  (∀ (n : BitVec 32) (up : List Nat) (s : State),
    (s.err.scrubEn = false ∨ s.now < s.err.scrubLast + s.err.scrubIntervalUs.toNat * 1000 →
      exec (.scrubBurst n up) s = .next s)
    ∧ (s.err.scrubEn = true → s.err.scrubLast + s.err.scrubIntervalUs.toNat * 1000 ≤ s.now → s.err.scrubPos.length = 4 →
      ∃ t, exec (.scrubBurst n up) s = .next t ∧ t.err.scrubLast = s.now
        ∧ t.err.pantryCorr = satAdd s.err.pantryCorr n.toNat ∧ SameMemory s { t with host := s.host }
        ∧ (∀ q < 4, t.err.scrubPos.getD q 0 = if pdOn s (3 + q) then (s.err.scrubPos.getD q 0 + 1) % quadBursts
            else s.err.scrubPos.getD q 0)
        ∧ ∀ q < 4, pdOn s (3 + q) = true → ∀ l ∈ up, scrubLine s q ≤ l → l < scrubLine s q + 64 → l ∈ t.pantryUe))
  ∧ (∀ (p : Fin 4) (st : Bool) (mc : BitVec 32) (s : State), cellarUp s p = true →
    exec (.cellarRefresh p st) s = .next (s.setCel p (if st = false then { s.cel p with postponed := 0 }
      else if (s.cel p).postponed < 8 then { s.cel p with postponed := (s.cel p).postponed + 1 }
      else { s.cel p with forced := satInc (s.cel p).forced }))
    ∧ exec (.cellarTempSample p mc) s = .next (s.setCel p { s.cel p with
        sampled := true, tempMc := mc, hot := decide (85000 < mc.toInt)
        peakMc := if (s.cel p).sampled = false ∨ (s.cel p).peakMc.toInt < mc.toInt then mc else (s.cel p).peakMc }))
  ∧ (∀ (mc : BitVec 32) (s : State), s.g.devState ≠ .init → s.nrg.lastSample = 0 ∨ s.nrg.lastSample + 100000 ≤ s.now →
    let u : State := { s with nrg := { s.nrg with
      tempMc := mc, lastSample := max 1 s.now
      peakMc := if s.nrg.lastSample = 0 ∨ s.nrg.peakMc.toInt < mc.toInt then mc else s.nrg.peakMc } }
    (mc.toInt < 110000 ∨ s.nrg.tripped = true → exec (.nrgTempSample mc) s = .next u)
    ∧ (110000 ≤ mc.toInt → s.nrg.tripped = false →
      ∃ t, exec (.nrgTempSample mc) s = .next t ∧ t.nrg = { u.nrg with tripped := true }
        ∧ ∀ d, 1 ≤ d → d ≤ 16 → (pdOf t d = .off ∨ pdOf t d = .retain)
          ∧ (pdOf s d = .on → pdOf t d = if 3 ≤ d ∧ d ≤ 6 then .retain else .off)))

/-! ### Cadence and power domains -/

/-- The Cadence unit. An event of SOURCE 0 within an eighth of a period of the last is rejected; the first in ACQUIRING
is accepted; one within 1/32 turn of the predicted boundary moves the period by an eighth of the difference. A missed
boundary coasts, and the 64th is a loss; 64 turns of ACQUIRING are a loss on the nominal period. A slot's entry takes
the throttle factor and refills every Room up to its carry cap (R436, R438 to R441, R453, R459, R460). The model's
choices in it, by log entry: 29. -/
def Obligations.CadenceFollowsItsReference : Prop :=
  ∀ s : State,
    let c := s.cad
    let e := nowUnits s
    (∀ level : Bool, let u : State := { s with pins := { s.pins with cadIn := level } }
      (level = s.pins.cadIn ∨ c.source ≠ 0 ∨ level = c.fallingEdge ∨ c.state = .internal →
        exec (.cadReferenceEvent level) s = .next u)
      ∧ (level ≠ s.pins.cadIn → c.source = 0 → level ≠ c.fallingEdge →
        (∀ l, c.state ≠ .internal → c.lastAccepted = some l → 8 * (e - l) < c.period →
          exec (.cadReferenceEvent level) s = .next { u with cad := { c with rejects := satInc c.rejects } })
        ∧ (c.state = .acquiring → c.lastAccepted = none → exec (.cadReferenceEvent level) s
            = .next { u with cad := { c with
                events := [], lastAccepted := some e, beaconTurn := none, stamp := BitVec.ofNat 64 s.now } })
        ∧ (∀ l, c.state = .locked → c.lastAccepted = some l → c.period ≤ 8 * (e - l) →
          32 * ((e : Int) - c.nextBoundary).natAbs ≤ c.period →
          ∃ t, exec (.cadReferenceEvent level) s = .next t ∧ t.cad.state = .locked ∧ t.cad.coasted = 0
            ∧ t.cad.lastAccepted = some e ∧ t.cad.rejects = c.rejects ∧ t.cad.turn = c.turn
            ∧ t.cad.period = ((c.period : Int) + (((e - l : Nat) : Int) - c.period).tdiv 8).toNat
            ∧ { t with cad := c } = u)))
    ∧ (c.state ∈ [CadState.internal, .acquiring] ∨ 32 * e ≤ 32 * c.nextBoundary + c.period →
      exec .cadMissedBoundary s = .next s)
    ∧ (32 * c.nextBoundary + c.period < 32 * e →
      (c.state = .locked → ∃ t, exec .cadMissedBoundary s = .next t ∧ t.cad = { c with
        state := .coasting, coasted := satInc c.coasted, nextBoundary := c.nextBoundary + c.period })
      ∧ (c.state = .coasting → c.coasted = 63 → ∃ t, exec .cadMissedBoundary s = .next t ∧ t.cad.state = .cadLost
        ∧ t.cad.lost = true ∧ t.cad.lostEvents = c.lostEvents + 1 ∧ t.cad.period = c.period
        ∧ t.audit.seq = s.audit.seq + 1))
    ∧ (c.state = .acquiring → 64 ≤ (c.turn - BitVec.ofNat 32 c.acquireTurns).toNat →
      ∃ t, exec .cadAcquireTimeout s = .next t ∧ t.cad.state = .cadLost ∧ t.cad.lost = true
        ∧ t.cad.period = c.nominalPs.toNat * 65536 ∧ t.audit.seq = s.audit.seq + 1)
    ∧ (let n := (nextSlot c).1
      let turn := (nextSlot c).2
      let due := reached c.turn c.phase turn (BitVec.ofNat 32 (n * 2 ^ 24))
      (due = false → exec .slotEntry s = .next s)
      ∧ (due = true → s.wf = true → ∃ t, exec .slotEntry s = .next t ∧ t.cad.lastSlot = some n ∧ t.cad.lastSlotTurn = turn
        ∧ t.nrg.factorQ8 = BitVec.ofNat 9 (factorOf s.nrg.tempMc.toInt)
        ∧ t.nrg.throttling = decide (factorOf s.nrg.tempMc.toInt < 256)
        ∧ let u := setFactor { s with cad := { c with lastSlot := some n, lastSlotTurn := turn } }
          (∀ k, (s.room 0).state ≠ .none → (s.room k).state ≠ .none → (t.room k).carry = carryOf u k
            ∧ (t.room k).balance = some (min (carryOf u k : Int) ((s.room k).balance.getD 0 + refillOf u n k)))
          ∧ ((s.room 0).state = .none → t.rooms = s.rooms)))

/-- A power domain goes down in steps: the idle policy asks, CLOSING waits for held instructions, DRAINING for the
bursts issued, the limit cuts what has not drained, and the transition ends; ON lets the channels that it held go on
(R466, R470 to R472, R477, R479 to R483). The model's choices in it, by log entry: 52. -/
def Obligations.DomainsGoDownAndReturn : Prop :=
  ∀ (d : Fin 17) (s : State), s.wf = true →
    let x := s.domain d
    (d ≠ 0 → pdPorts d = [] → x.autoEn = true → x.state = .on → x.move = none →
      (∀ l ∈ s.fy.longs, pdLong d l = false) → x.lastAccess + x.idleUs.toNat * 1000 ≤ s.now →
      (d ≠ 11 ∨ larderBusy s = false) →
      exec (.domainIdleRequest d) s = .next (s.setDomain d { x with
        cause := 2, hard := false, state := .closing, requested := s.now
        target := if (pdQuadrant d).isSome then .retain else .off }))
    ∧ (x.state = .closing →
      (heldOpen s d = true → s.now < x.requested + 2000000 → exec (.domainDrainStart d) s = .next s)
      ∧ (heldOpen s d = false ∨ x.requested + 2000000 ≤ s.now →
        ∃ t, exec (.domainDrainStart d) s = .next t ∧ t.domain d = { x with state := .draining, drainStart := s.now }
          ∧ (∀ c q, (s.chan c).cur = some q → q.domains.contains d.val = true → q.plan ≠ .nothing →
              d.val ∈ (t.chan c).pauseDomain)
          ∧ { t with chans := s.chans, waiters := s.waiters, domains := s.domains } = s))
    ∧ (x.state = .draining → stillBusy s d = [] → domainStreams s d = [] →
      (x.target = .retain → exec (.domainPowerDown d) s = .next (s.setDomain d { x with
        state := .retain, waking := false, move := some { target := .retain, started := s.now }
        drainNs := BitVec.ofNat 32 (min (s.now - x.drainStart) (2 ^ 32 - 1)) }))
      ∧ (x.target = .off → ∃ t, exec (.domainPowerDown d) s = .next t ∧ (t.domain d).state = .off
        ∧ (t.domain d).move = some { target := .off, started := s.now }
        ∧ (d = 12 → t.study.cache = []) ∧ (d = 11 → t.larder = [])))
    ∧ (x.state = .draining → x.drainStart + 50000 ≤ s.now → x.target = .retain → s.waiters = [] →
      ∃ t, exec (.drainLimitCut d) s = .next t ∧ (t.domain d).state = .retain
        ∧ (∀ c ∈ stillBusy s d, (t.chan c).cur = none)
        ∧ (stillBusy s d ≠ [] ∨ domainStreams s d ≠ [] → ∃ u, t = powerDown d .retain (auditRec {
            status := St.domainOff, severity := 3, unitKind := 10, unit := BitVec.ofNat 16 d } u))
        ∧ (stillBusy s d = [] → domainStreams s d = [] → t.audit = s.audit ∧ t.pantry = s.pantry))
    ∧ (∀ m, x.move = some m → (∀ l ∈ s.fy.longs, pdLong d l = false) →
      (m.target ≠ .on →
        let u := s.setDomain d { x with state := m.target, waking := false, move := none }
        let held := (allChans s).any fun c => (s.chan c).heldBy.contains d.val || (s.chan c).pauseDomain.contains d.val
        (held = false → exec (.domainTransitionDone d) s = .next u)
        ∧ (held = true → x.cause = 2 → s.nrg.tripped = false → m.target = .off ∨ m.target = .retain →
          exec (.domainTransitionDone d) s = .next (u.setDomain d { x with
            state := m.target, waking := true, move := some { target := .on, started := s.now } })))
      ∧ (m.target = .on → s.waiters = [] →
        ∃ t, exec (.domainTransitionDone d) s = .next t
          ∧ t.domain d = { x with state := .on, waking := false, move := none, lastAccess := s.now }
          ∧ ∀ c, (s.chan c).state = .held → (s.chan c).heldBy = [d.val] → (s.chan c).pauseReset = false →
            (t.chan c).state = .running ∧ (t.chan c).heldBy = []))

/-! ### Link ports and frames -/

/-- Training: the lanes that lock settle the width; a HELLO of the same lane group settles the partner, and one with
ECHO brings the link up with SEQ 0 both ways and the partner's RX_PLACES as the limit; another restarts training, as
100 ms do; RETRAIN lasts 10 µs; a lane that is lost takes an up port down (R485 to R489). The model's choices in it,
by log entry: 12. -/
def Obligations.PortsTrain : Prop :=
  ∀ (p : Fin 16) (s : State), s.wf = true →
    let x := s.port p
    (∀ lanes : BitVec 8,
      (x.state ≠ .training ∨ x.locked = true → exec (.laneLock p lanes) s = .next s)
      ∧ (x.state = .training → x.locked = false →
        (lanes = 0xFF → exec (.laneLock p lanes) s = .next (s.setPort p { x with
          lanesOk := lanes, width4 := false, laneGroup := false, locked := true }))
        ∧ (lanes ≠ 0xFF → x.allow4 = true → lanes &&& 0x0F = 0x0F → exec (.laneLock p lanes) s
            = .next (s.setPort p { x with lanesOk := lanes, width4 := true, laneGroup := false, locked := true }))
        ∧ (lanes &&& 0x0F ≠ 0x0F → x.allow4 = true → lanes &&& 0xF0 = 0xF0 → exec (.laneLock p lanes) s
            = .next (s.setPort p { x with lanesOk := lanes, width4 := true, laneGroup := true, locked := true }))
        ∧ (lanes ≠ 0xFF → x.allow4 = false ∨ (lanes &&& 0x0F ≠ 0x0F ∧ lanes &&& 0xF0 ≠ 0xF0) →
          exec (.laneLock p lanes) s = .next (s.setPort p { x with lanesOk := lanes }))))
    ∧ (∀ r : BitVec 512,
      (x.state ≠ .training ∨ x.locked = false ∨ helloOk r = false → exec (.hello p r) s = .next s)
      ∧ (x.state = .training → x.locked = true → helloOk r = true →
        (x.laneGroup ≠ r.getLsbD 24 → exec (.hello p r) s = .next (s.setPort p { quiet x .training s.now with
          trainFails := satInc x.trainFails }))
        ∧ (x.laneGroup = r.getLsbD 24 → r.getLsbD 128 = false → exec (.hello p r) s = .next (s.setPort p { x with
          width4 := x.width4 || decide ((fld r 16 8 : Byte) = 4), helloSeen := true, partner := fld r 64 64
          partnerNode := fld r 48 10, partnerNodeValid := r.getLsbD 63 }))
        ∧ (x.laneGroup = r.getLsbD 24 → r.getLsbD 128 = true →
          ∃ t, exec (.hello p r) s = .next t ∧ portUp (t.port p) = true ∧ (t.port p).txNext = 0
            ∧ (t.port p).txAcked = 0 ∧ (t.port p).rxExpected = 0 ∧ (t.port p).txLimit = fld r 32 16
            ∧ (t.port p).rxLimit = 224 ∧ (t.port p).partner = fld r 64 64 ∧ SameMemory s { t with host := s.host })))
    ∧ (x.state = .training → x.since + 100000000 ≤ s.now → exec (.trainingTimeout p) s
        = .next (s.setPort p { quiet x .training s.now with trainFails := satInc x.trainFails }))
    ∧ (x.state ≠ .training ∨ s.now < x.since + 100000000 → exec (.trainingTimeout p) s = .next s)
    ∧ (x.state = .retrain → x.since + 10000 ≤ s.now →
      exec (.retrainEnd p) s = .next (s.setPort p (quiet x .training s.now)))
    ∧ (x.state ≠ .retrain ∨ s.now < x.since + 10000 → exec (.retrainEnd p) s = .next s)
    ∧ (portUp x = true → ∃ t, exec (.laneLossOfLock p) s = .next t ∧ (t.port p).state = .retrain ∧ (t.port p).since = s.now
      ∧ (t.port p).queue = [] ∧ (t.port p).replay = [] ∧ (t.port p).tx = [] ∧ (t.port p).locked = false)
    ∧ (portUp x = false → exec (.laneLossOfLock p) s = .next s)

/-- A port sends: HELLO while it trains, what waits in its order, IDLE where nothing may go, and the frames of a replay
attempt again; a frame goes into the frame stream, whose full message leaves as a codeword on the active lanes; ACK and
CREDIT go on their own after 64 ns; the replay timer starts an attempt, and the window of an
episode exhausts it; the count of violations starts again each ms (R486, R490, R491, R498 to R501, R504, R505, R534,
R641). The model's choices in it, by log entry: 45, 77. -/
def Obligations.PortsSendAndReplay : Prop :=
  ∀ (p : Fin 16) (s : State), s.wf = true →
    let x := s.port p
    (∀ raw,
      (x.txHave + 4352 < 5140 → s.sendRaw p raw = (s.emit (.frame p raw)).setPort p { x with
        txBits := x.txBits + raw.toNat * 2 ^ x.txHave, txHave := x.txHave + 4352 })
      ∧ (5140 ≤ x.txHave + 4352 → ∃ w, rsValid w = true
        ∧ w.setWidth 5140 = BitVec.ofNat 5140 (x.txBits + raw.toNat * 2 ^ x.txHave)
        ∧ (s.sendRaw p raw).outputs
          = .codeword p (laneSymbols x.width4 x.laneGroup w) :: .frame p raw :: s.outputs))
    ∧ (x.state = .training → x.locked = true → exec (.portSendFrame p) s
        = .next (s.sendRaw p (clearFrame 1 64 0 0 0 (leB 64 (helloRec s p)))))
    ∧ (portUp x = false → x.state ≠ .training ∨ x.locked = false → exec (.portSendFrame p) s = .next s)
    ∧ (portUp x = true → x.txKey = none →
      (x.resend = [] → x.queue = [] →
        exec (.portSendFrame p) s = .next (s.sendRaw p (clearFrame 0 0 0 0 0 [])))
      ∧ (∀ b, x.resend = [] → x.queue = [.mgmt b] →
        (mayNumber x = false → exec (.portSendFrame p) s = .next (s.sendRaw p (clearFrame 0 0 0 0 0 [])))
        ∧ (mayNumber x = true →
          let raw := clearFrame 4 b.length x.txNext x.rxExpected x.rxLimit b
          exec (.portSendFrame p) s = .next ((s.setPort p { x with
            queue := [], ackDue := none, txNext := x.txNext + 1
            replay := x.replay ++ [{ seq := x.txNext, raw := raw, items := [.mgmt b], sentAt := s.now }] }).sendRaw
              p raw)))
      ∧ (∀ f r, x.resend = f :: r → ∃ t, exec (.portSendFrame p) s = .next t
        ∧ (Config.parityFault s.free = false → t = ({ s with free := s.free + 1 }.setPort p { x with
            resend := r, retx := satInc x.retx
            replay := x.replay.map fun (g : SentFrame) => if g.seq = f.seq then { g with sentAt := s.now } else g }).sendRaw p f.raw)
        ∧ (Config.parityFault s.free = true → (t.port p).state = .retrain ∧ t.err.parity = satInc s.err.parity
            ∧ (t.port p).exhausted = satInc x.exhausted))
      ∧ (∀ due, x.ackDue = some due →
        (s.now < due + 64 → exec (.ackTimer p) s = .next s)
        ∧ (due + 64 ≤ s.now → exec (.ackTimer p) s = .next ((s.setPort p { x with ackDue := none }).sendRaw
            p (clearFrame 1 0 0 x.rxExpected x.rxLimit [])))))
    ∧ (∀ f r, portUp x = true → x.replay = f :: r → x.resend = [] →
      (s.now < f.sentAt + 1000 → exec (.replayTimeout p) s = .next s)
      ∧ (f.sentAt + 1000 ≤ s.now → x.episode = none → exec (.replayTimeout p) s = .next (s.setPort p { x with
          episode := some (s.now, 1), episodes := satInc x.episodes, resend := x.replay
          maxAttempts := if x.maxAttempts = 0 then 1 else x.maxAttempts })))
    ∧ (∀ since n, x.episode = some (since, n) →
      (s.now < since + 4000 → exec (.replayExhausted p) s = .next s)
      ∧ (since + 4000 ≤ s.now → ∃ t, exec (.replayExhausted p) s = .next t ∧ (t.port p).state = .retrain
        ∧ (t.port p).exhausted = satInc x.exhausted ∧ (t.port p).replay = [] ∧ (t.port p).episode = none))
    ∧ (∃ t, exec .violationWindow s = .next t ∧ { t with ports := s.ports } = s
      ∧ ∀ q, (t.port q).violMs = (if (s.port q).violMsNo = s.now / 1000000 then (s.port q).violMs else 0)
        ∧ (t.port q).violTotal = (s.port q).violTotal)

/-- A port receives. CTRL_FRAME applies ACK and CREDIT; a frame with a byte in a codeword that cannot be corrected is asked
for again, and the codeword counted; a frame with a bad CRC is counted and asked for again; a violation is counted. NAK starts a replay attempt for a link error of a frame still held. A DATA frame's bytes reach
its stream, and the Pantry where the stream stores them as they come; one seen already is answered and no more (R490,
R492, R496, R499 to R504, R516, R518, R533, R534). The model's choices in it, by log entry: 12, 44, 46, 77. -/
def Obligations.FramesAreJudged : Prop :=
  ∀ (p : Fin 16) (s : State), s.wf = true →
    let x := s.port p
    (∀ f c, Received s p f 1 (fun _ => none) c → x.state ≠ .training →
      ∃ t, exec (.ctrlFrame p f) s = .next t
        ∧ (t.port p).replay = x.replay.filter (fun g => 0 ≤ seqDiff g.seq (fAck f.raw))
        ∧ (t.port p).txLimit = (if 0 ≤ seqDiff (fCredit f.raw) x.txLimit then fCredit f.raw else x.txLimit)
        ∧ (t.port p).rxExpected = x.rxExpected ∧ SameMemory s t)
    ∧ (∀ f, fType f.raw = 1 → judge s p f (fun _ => none) = .linkError Nak.crcFail → portUp x = true →
      x.nakFor ≠ some (x.rxExpected, s.now / 1000) →
      let u := takeFrame p f s
      exec (.ctrlFrame p f) s = .next (u.setPort p { u.port p with
        crcFail := satInc x.crcFail, nakFor := some (x.rxExpected, s.now / 1000)
        queue := x.queue ++ [.ctrl (nakBytes Nak.crcFail x.rxExpected)] }))
    ∧ (∀ f r, fType f.raw = 1 → portUp x = true → fecSee x f = some r →
      let u := s.setPort p { x with
        rxBits := r.bits / 2 ^ 4352, rxHave := r.have_ - 4352, rxBad := r.newBad
        fecCorrected := satAdd x.fecCorrected r.corrected
        fecUncorrected := if r.newWord && r.newBad then satInc x.fecUncorrected else x.fecUncorrected }
      takeFrame p f s = u
      ∧ (∀ w, f.word = some w → (r.newBad = true ↔ rsDecode w = none) ∧ (r.newBad = true → r.bad = true))
      ∧ (r.bad = true → x.nakFor ≠ some (x.rxExpected, s.now / 1000) → exec (.ctrlFrame p f) s
          = .next (u.setPort p { u.port p with
              nakFor := some (x.rxExpected, s.now / 1000)
              queue := x.queue ++ [.ctrl (nakBytes Nak.fecFail x.rxExpected)] })))
    ∧ (∀ f reason, fType f.raw = 1 → judge s p f (fun _ => none) = .violation reason →
      ∃ t, exec (.ctrlFrame p f) s = .next t ∧ (t.port p).violTotal = satInc x.violTotal
        ∧ (t.port p).violReason = BitVec.ofNat 8 reason)
    ∧ (∀ r : BitVec 128, portUp x = true → (fld r 0 8 : Byte) = 1 → (fld r 32 96 : BitVec 96) = 0 →
      let reason := (fld r 8 8 : Byte).toNat
      let seq : BitVec 16 := fld r 16 16
      (1 ≤ reason → reason ≤ 4 → (∀ g ∈ x.replay, g.seq ≠ seq) → exec (.nak p r) s = .next s)
      ∧ (1 ≤ reason → reason ≤ 4 → (∃ g ∈ x.replay, g.seq = seq) → x.episode = none →
        exec (.nak p r) s = .next (s.setPort p { x with
          episode := some (s.now, 1), episodes := satInc x.episodes, resend := x.replay
          maxAttempts := if x.maxAttempts = 0 then 1 else x.maxAttempts }))
      ∧ (0x10 ≤ reason → reason ≤ 0x16 → (∀ g ∈ x.replay ++ x.acked, g.seq ≠ seq) →
        exec (.nak p r) s = .next (s.setPort p { x with naksRx := satInc x.naksRx })))
    ∧ (∀ f c y, Received s p f 2 (fun _ => if streamOpen s p (fStream f.raw) then none else some Nak.unexpected) c →
      fwdOf (noteFrame p f s) p (fStream f.raw) = none →
      ((noteFrame p f s).port p).rx.find? (·.id = fStream f.raw) = some y → y.rdx = none → y.req = 0 → y.status = St.ok →
      fLast f.raw = false →
      let s1 := noteFrame p f s
      (y.refused = true → ∃ t, exec (.dataFrame p f) s = .next t ∧ Advanced p s t ∧ SameMemory s t)
      ∧ (y.refused = false → y.wire = 0 →
        let w := putStream p y.got.length y c s1
        ∃ t, exec (.dataFrame p f) s = .next t ∧ Advanced p s t ∧ t.pantry = w.1.pantry
          ∧ ∀ z ∈ (t.port p).rx, z.id = y.id → z = { y with got := y.got ++ c, status := w.2 }))
    ∧ (∀ f, fType f.raw = 2 →
      judge s p f (fun _ => if streamOpen s p (fStream f.raw) then none else some Nak.unexpected) = .duplicate →
      exec (.dataFrame p f) s = .next (enqueue p (.ctrl []) (takeFrame p f s)))

/-! ### Messages -/

/-- Streams. OPEN is checked at the node that holds the range: a stream that passes is open, one that fails is refused
on the port it came through. DONE ends a stream of this node, and its flight arrives or fails; REFUSE and ROUTE_FAIL
fail what they name; READ is answered by a stream, or refused (R514, R516, R518 to R520, R557). The model's choices in
it, by log entry: 30, 66, 73. -/
def Obligations.StreamMessagesAct : Prop :=
  ∀ (p : Fin 16) (f : FrameIn) (m : Msg) (s : State), s.wf = true → OnlyMessage s p f m →
    let s1 := noteFrame p f s
    let id := m.stream.toNat
    (m.mtype = 0x01 →
      let len := (fld m.arg0 0 13 : BitVec 13).toNat
      let store := (fld m.arg0 18 2 : BitVec 2).toNat
      let free : Bool := m.req ≠ 0 && !(s1.peerReads.any fun r => r.req = m.req.toNat && !r.staged)
      let st := if free then St.ok else rangeCheck m.room.toNat (peerOff m.addr) len (store ≠ 0) s1
      let y : RxStream := {
        id := id, src := m.src.setWidth 10, room := m.room.setWidth 6, offset := peerOff m.addr, stored := len
        wire := (fld m.arg0 16 2 : BitVec 2).toNat, store := store, esize := (fld m.arg0 20 2 : BitVec 2).toNat
        refused := decide (st ≠ St.ok), req := m.req.toNat, status := st, ext := m.arg1 }
      (st = St.ok → Takes (.openMsg p f 0) p f s (s1.setPort p { s1.port p with rx := (s1.port p).rx ++ [y] }))
      ∧ (st ≠ St.ok → m.req = 0 → Takes (.openMsg p f 0) p f s (s1.setPort p { s1.port p with
          rx := (s1.port p).rx ++ [y]
          queue := (s1.port p).queue ++ [ownMsg s1 { mtype := 0x03, stream := m.stream, dst := m.src, room := m.room,
                                                     status := st }] })))
    ∧ (∀ x c, (s1.port p).tx.find? (·.id = id) = some x → x.chan = some c → x.rdx = none →
      (m.mtype = 0x02 → m.status = St.ok → ∃ u, Takes (.doneMsg p f 0) p f s u
        ∧ (u.port p).tx = (s1.port p).tx.filter (·.id ≠ id)
        ∧ (u.chan c).flights = (s1.chan c).flights.eraseP (·.kind = .stream p id))
      ∧ (m.mtype = 0x02 → m.status ≠ St.ok →
        Takes (.doneMsg p f 0) p f s (dropTx p id (failFlight c (.stream p id) m.status s1)))
      ∧ (m.mtype = 0x03 → m.stream ≠ 0 →
        Takes (.refuseMsg p f 0) p f s (dropTx p id (failFlight c (.stream p id) m.status s1)))
      ∧ (m.mtype = 0x60 → m.stream ≠ 0 →
        Takes (.routeFail p f 0) p f s (dropTx p id (failFlight c (.stream p id) m.status s1))))
    ∧ (m.stream = 0 → m.mtype = 0x03 → Takes (.refuseMsg p f 0) p f s (failReq m.req.toNat m.status s1))
    ∧ (m.stream = 0 → m.mtype = 0x60 → Takes (.routeFail p f 0) p f s (failReq m.req.toNat m.status s1))
    ∧ (m.mtype = 0x04 → ∀ q, egress s1 m.src.toNat = some q →
      let len := (fld m.arg0 0 13 : BitVec 13).toNat
      let store := (fld m.arg0 18 2 : BitVec 2).toNat
      let st := rangeCheck m.room.toNat (peerOff m.addr) len (store ≠ 0) s1
      (st ≠ St.ok → ∃ u, Takes (.readMsg p f 0) p f s u
        ∧ Queued q [ownMsg s1 { mtype := 0x03, dst := m.src, room := m.room, req := m.req, status := st }] s1 u)
      ∧ (st = St.ok → store = 0 →
        (∀ s2 e, devGet m.room.toNat (BitVec.ofNat 64 (peerOff m.addr)) len (pdTouch pdLarder s1) = (s2, .error e) →
          Takes (.readMsg p f 0) p f s (refuseRead m e s2))
        ∧ (∀ s2 bs, devGet m.room.toNat (BitVec.ofNat 64 (peerOff m.addr)) len (pdTouch pdLarder s1) = (s2, .ok bs) →
          egress s2 m.src.toNat = some q → ∃ u, Takes (.readMsg p f 0) p f s u ∧ SameMemory s2 u
            ∧ (u.port q).tx = (s2.port q).tx ++ [{ id := freeStream (s2.port q), chan := none
                                                   room := BitVec.ofNat 6 m.room.toNat, node := BitVec.ofNat 10 m.src.toNat }]
            ∧ ∀ i ∈ (s2.port q).queue, i ∈ (u.port q).queue)))

/-- Remote signals, waits and barriers. An exported flag or counter takes a remote SIGNAL, which is acknowledged where
it asks, and refused where the object is not exported; a registered wait is kept, or answered at once with WAKE where
its condition holds or the table is full; POLL tests once; WAKE ends this node's wait, or a paused one's on resume; the House barrier counts its
members' arrivals; ROOM_ABORT is acknowledged (R346, R376, R386, R387, R390, R521, R563, R581). The model's choices in
it, by log entry: 34, 38, 47, 71. -/
def Obligations.RemoteSyncMessagesAct : Prop :=
  ∀ (p : Fin 16) (f : FrameIn) (m : Msg) (s : State), s.wf = true → OnlyMessage s p f m →
    let s1 := noteFrame p f s
    let k := m.room.toNat
    (m.mtype = 0x08 → s1.waiters = [] →
      let l := lastSignal s1 4 0 m.src.toNat
      ∃ u, Takes (.signalMsg p f 0) p f s u ∧ SameMemory s1 u
        ∧ (∀ q, exportedObj s1 k m.addr = .ok (false, q) → (s1.flag q).dbSq = none →
            u.flag q = { s1.flag q with value := decide (m.arg0 ≠ 0), last := l } ∧ u.counters = s1.counters)
        ∧ (∀ q, exportedObj s1 k m.addr = .ok (true, q) →
            u.counter q = { s1.counter q with value := (s1.counter q).value + m.arg0, last := l } ∧ u.flags = s1.flags)
        ∧ (∀ e q, exportedObj s1 k m.addr = .error e → egress s1 m.src.toNat = some q →
            e ≠ St.ok ∧ Queued q [ownMsg s1 { mtype := 0x09, dst := m.src, room := m.room, req := m.req, status := e }] s1 u)
        ∧ (∀ o q, exportedObj s1 k m.addr = .ok o → m.mflags.getLsbD 0 = true → egress s1 m.src.toNat = some q →
            let v : Word := if o.1 then (s1.counter o.2).value + m.arg0
              else if (s1.flag o.2).dbSq.isNone && m.arg0 ≠ 0 then 1 else 0
            (u.port q).queue = (s1.port q).queue
              ++ [ownMsg s1 { mtype := 0x09, dst := m.src, room := m.room, req := m.req, arg0 := v }]))
    ∧ (m.mtype = 0x09 → m.status = St.ok →
      (∀ x d, s1.chans.find? (fun h => h.2.flights.any (·.kind = .signal m.req.toNat)) = none →
        s1.sqSignals.find? (·.req = m.req.toNat) = some x → (s1.sq x.sq).dispatched.find? (·.count = x.count) = some d →
        ∃ u, Takes (.signalAck p f 0) p f s u ∧ u.sqSignals = s1.sqSignals.filter (·.req ≠ m.req.toNat)
          ∧ u.sq x.sq = addReport { count := x.count, tag := d.tag, irq := d.irq, result := m.arg0, opcode := d.opcode
                                    status := if d.late then St.late else St.ok }
              { s1.sq x.sq with dispatched := (s1.sq x.sq).dispatched.filter (·.count ≠ x.count) }))
    ∧ (m.mtype = 0x0A → noWaitEnds s1 → ∀ b q, exportedObj s1 k m.addr = .ok (b, q) →
      let w := remoteWaiter m b q
      ((s1.waiters.filter isPeer).length < 8192 → condHolds s1 w = false →
        Takes (.waitReg p f 0) p f s { s1 with waiters := s1.waiters ++ [w] })
      ∧ (∀ r, egress s1 m.src.toNat = some r → 8192 ≤ (s1.waiters.filter isPeer).length →
        ∃ u, Takes (.waitReg p f 0) p f s u
          ∧ Queued r [ownMsg s1 { mtype := 0x0B, dst := m.src, room := m.room, req := m.req, status := St.quota }] s1 u)
      ∧ ((s1.waiters.filter isPeer).length < 8192 → condHolds s1 w = true → w.consume = false →
        ∃ u, Takes (.waitReg p f 0) p f s u ∧ w ∉ u.waiters ∧ u.flags = s1.flags ∧ u.counters = s1.counters))
    ∧ (m.mtype = 0x0D → noWaitEnds s1 → ∀ b q r, exportedObj s1 k m.addr = .ok (b, q) → egress s1 m.src.toNat = some r →
      let w := remoteWaiter m b q
      w.consume = false ∨ condHolds s1 w = false →
      ∃ u, Takes (.poll p f 0) p f s u
        ∧ Queued r [ownMsg s1 { mtype := 0x0B, mflags := if condHolds s1 w then 0 else 2, dst := m.src, room := m.room
                                req := m.req, arg0 := foundOf s1 w.obj }] s1 u)
    ∧ (m.mtype = 0x0B → ∀ w n a, s1.waiters = [w] → reqWait m.req.toNat w = true → w.obj = .remote n a → n = m.src.toNat →
      (m.status = St.quota →
        Takes (.wake p f 0) p f s { s1 with waiters := [{ w with polled := some (s1.now + 8000) }] })
      ∧ (m.status ≠ St.quota → m.status ≠ St.ok ∨ m.mflags.getLsbD 1 = false →
        let v := if m.status = St.ok then m.arg0 else 0
        (w.paused = false → Takes (.wake p f 0) p f s (endWait w m.status v s1))
        ∧ (w.paused = true →
          Takes (.wake p f 0) p f s { s1 with waiters := [{ w with woken := some (m.status, v) }] }))
      ∧ (m.status = St.ok → m.mflags.getLsbD 1 = true → w.mode ≠ 2 → Takes (.wake p f 0) p f s s1))
    ∧ (m.mtype = 0x0C → Takes (.waitCancel p f 0) p f s
        { s1 with waiters := s1.waiters.filter fun w => w.unit != .peer m.src.toNat m.req.toNat })
    ∧ (m.mtype = 0x48 → s1.waiters = [] → tableWf {} s1.house.barriers = true → groupOf s1 (rGroup m) = none → ∀ d,
      s1.house.groupDefs.find? (·.1 = rGroup m) = some (rGroup m, d) →
      let b := tget s1.house.barriers {} (rGroup m)
      let arr := if b.arrived.contains m.src.toNat then b.arrived else b.arrived ++ [m.src.toNat]
      (fld m.arg1 0 32 ≠ b.gen → Takes (.hbArrive p f 0) p f s s1)
      ∧ (fld m.arg1 0 32 = b.gen → ∃ u, Takes (.hbArrive p f 0) p f s u
        ∧ tget u.house.barriers {} (rGroup m) = (if d.members.all arr.contains then { gen := b.gen + 1, arrived := [] }
            else { b with arrived := arr })))
    ∧ (m.mtype = 0x49 → s1.waiters = [] → ∀ x, groupOf s1 (rGroup m) = some x →
      ∃ u, Takes (.hbRelease p f 0) p f s u
        ∧ groupOf u (rGroup m) = some { x with gen := fld m.arg1 0 32, arrived := false })
    ∧ (m.mtype = 0x50 → s1.waiters = [] → ∀ q, egress s1 m.src.toNat = some q → groupOf s1 (rGroup m) = none →
      ∃ u, Takes (.roomAbort p f 0) p f s u
        ∧ Queued q [ownMsg s1 { mtype := 0x51, dst := m.src, room := m.room, req := m.req }] s1 u)
    ∧ (m.mtype = 0x51 → ∀ x, (s1.room k).reset = some x →
      Takes (.roomAbortAck p f 0) p f s (s1.setRoom k { s1.room k with reset := some { x with
        awaited := x.awaited.filter (· ≠ m.src.toNat * 256 + (m.req.toNat - 2048)) } }))

/-- Reductions. A request for an accumulator of another group's Room, of a Room that resets, or of a node whose Larder does
not serve is refused; one that
comes first is granted where the chunk holds one of its size. A grant lets REDUCE_SEND go on. A contribution's stream
opens, its acknowledgement counts, a retry reads the source again, and a failure ends the instance; CHUNK_COMPLETE
wakes the stores of the chunk (R572 to R575, R579). The model's choices in it, by log entry: 21, 22, 39, 71. -/
def Obligations.ReductionMessagesAct : Prop :=
  (∀ (p : Fin 16) (f : FrameIn) (m : Msg) (s : State), s.wf = true → OnlyMessage s p f m →
    let s1 := noteFrame p f s
    let id := m.stream.toNat
    let g := rGroup m
    (m.mtype = 0x40 → ∀ q, egress s1 m.src.toNat = some q →
      let grant (st : Byte) : TxItem := ownMsg s1 { mtype := 0x41, dst := m.src, room := m.room, req := m.req, status := st }
      ((s1.room m.room.toNat).reset ≠ none → ∃ u, Takes (.rdxReq p f 0) p f s u ∧ Queued q [grant St.roomReset] s1 u)
      ∧ ((s1.room m.room.toNat).reset = none → pdOn s1 pdLarder = false → ∃ u, Takes (.rdxReq p f 0) p f s u
        ∧ Queued q [grant (if pdOf s1 pdLarder = .closing ∨ pdOf s1 pdLarder = .draining then St.domainClosing
                           else St.domainOff)] s1 u)
      ∧ ((s1.room m.room.toNat).reset = none → pdOn s1 pdLarder = true →
        (groupOf s1 g = none → ∃ u, Takes (.rdxReq p f 0) p f s u ∧ Queued q [grant St.malformed] s1 u)
        ∧ (∀ x, groupOf s1 g = some x → x.room ≠ m.room.toNat →
          ∃ u, Takes (.rdxReq p f 0) p f s u ∧ Queued q [grant St.malformed] s1 u)
        ∧ (∀ x i c, groupOf s1 g = some x → x.room = m.room.toNat → x.resv = [] → x.inst = some i →
          inRange i (rChunk m) = true → chunkOf i (rChunk m) = some c →
          ∃ u, Takes (.rdxReq p f 0) p f s u
            ∧ Queued q [grant (if c.elements = rElements m then St.ok else St.malformed)] s1 u)
        ∧ (∀ x, groupOf s1 g = some x → x.room = m.room.toNat → x.inst = none →
          Takes (.rdxReq p f 0) p f s (setGroup g { x with resv := x.resv ++ [{
            node := m.src.toNat, room := m.room.toNat, req := m.req, chan := none, chunk := rChunk m, elements := rElements m
            format := fld m.arg0 8 4, op := fld m.arg0 12 2 }] } s1))))
    ∧ (m.mtype = 0x41 → ∀ w c, s1.waiters = [w] → reqWait m.req.toNat w = true → isGrant w.obj = true → w.unit = .chan c →
      (m.status = St.ok → ∃ u, Takes (.rdxGrant p f 0) p f s u ∧ u.waiters = []
        ∧ u.chan c = { s1.chan c with state := runState (s1.chan c) } ∧ { u with waiters := [w], chans := s1.chans } = s1)
      ∧ (m.status ≠ St.ok → Takes (.rdxGrant p f 0) p f s (failWait m.status s1 w)))
    ∧ (m.mtype = 0x42 →
      let st := chunkStatus s1 m.room.toNat
      let known : Bool := st ≠ St.ok || ((instOf s1 g).bind (chunkOf · (rChunk m))).isSome
      Takes (.rdxOpen p f 0) p f s (s1.setPort p { s1.port p with rx := (s1.port p).rx ++ [{
        id := id, src := m.src.setWidth 10, room := m.room.setWidth 6, offset := 0, stored := 0, wire := 0, store := 0
        esize := 0, refused := !known, status := st, rdx := if known then some (g, rChunk m) else none }] }))
    ∧ (∀ x c y, (s1.port p).tx.find? (·.id = id) = some x → x.chan = some c → x.rdx = some y →
      (m.mtype = 0x43 → m.status = St.ok → instOf s1 y.group = none → ∃ u, Takes (.rdxAck p f 0) p f s u
        ∧ (u.port p).tx = (s1.port p).tx.filter (·.id ≠ id)
        ∧ (u.chan c).flights = (s1.chan c).flights.eraseP (·.kind = .contribution y.group y.chunk))
      ∧ (m.mtype = 0x44 → ∀ s2 e, devGet x.room.toNat y.src (y.elements * (fmtWidth y.format / 8)) (dropTx p id s1)
          = (s2, .error e) → Takes (.rdxRetry p f 0) p f s
            (reduceFails x.room.toNat y.group e (failFlight c (.contribution y.group y.chunk) e s2)))
      ∧ (m.mtype = 0x44 → ∀ s2 bs q, devGet x.room.toNat y.src (y.elements * (fmtWidth y.format / 8)) (dropTx p id s1)
          = (s2, .ok bs) → egress s2 x.node.toNat = some q →
        ∃ u, Takes (.rdxRetry p f 0) p f s u ∧ (u.port q).tx = (s2.port q).tx ++ [{
          id := freeStream (s2.port q), chan := some c, room := x.room, node := x.node, rdx := some y }]))
    ∧ (m.mtype = 0x45 → ∀ x, groupOf s1 g = some x → x.room = m.room.toNat →
      ∃ u, Takes (.rdxFail p f 0) p f s u ∧ instOf u g = none
        ∧ (pendingOf s1 g = [] → SameMemory { s1 with host := u.host } u)))
  ∧ (∀ (g : BitVec 8) (n : BitVec 16) (s : State), s.wf = true →
    (nextResv s g.toNat n.toNat = none → exec (.accumulatorReserve g n) s = .next s)
    ∧ (∀ r x i q, nextResv s g.toNat n.toNat = some r → s.groups = [(g.toNat, x)] → x.inst = some i → r.chan = none →
      chunkOf i r.chunk = none → inRange i r.chunk = true → usedBytes i + accBytes r.elements ≤ x.kib * 1024 →
      larderPlace s (accBytes r.elements) ≠ none → storeMismatch s g.toNat r.chunk r.elements = none →
      egress s (r.node % 2 ^ 16) = some q →
      ∃ t, exec (.accumulatorReserve g n) s = .next t ∧ (t.port q).queue = (s.port q).queue
          ++ [ownMsg s { mtype := 0x41, dst := BitVec.ofNat 16 r.node, room := BitVec.ofNat 8 r.room, req := r.req }]
        ∧ ∃ c, (instOf t g.toNat).bind (chunkOf · r.chunk) = some c ∧ c.elements = r.elements
          ∧ some c.base = larderPlace s (accBytes r.elements) ∧ c.committed = 0)
    ∧ (chunkReady s g.toNat n.toNat = false → exec (.chunkComplete g n) s = .next s)
    ∧ (∀ w c, chunkReady s g.toNat n.toNat = true → s.waiters = [w] → w.obj = .chunk g.toNat n.toNat → w.paused = false →
      w.unit = .chan c →
      ∃ t, exec (.chunkComplete g n) s = .next t ∧ t.waiters = []
        ∧ t.chan c = { s.chan c with state := runState (s.chan c) } ∧ { t with waiters := [w], chans := s.chans } = s))

/-! ### The House -/

/-- Management messages. Better claims are kept; an announcement makes a device outside a House join, and a Hall that
hears a better one dissolves its House; the join goes by its steps to the Wing; keys, updates, reports, ticks and
beacons take effect once; a serial that two devices hold stops the device (R444, R546 to R551, R554 to R561, R564,
R566). The details of relaying are the model's (log entry 13 and those of the House). The model's choices in it, by
log entry: 24, 48, 49. -/
def Obligations.HouseMessagesAct : Prop :=
  ∀ (p : Fin 16) (f : FrameIn) (w : BitVec 512) (s : State), s.wf = true → OnlyMgmt s p f w →
    let s1 := noteFrame p f s
    let h := s1.house
    let c := Claim.ofMsg w
    let direct : Prop := 0x8000 ≤ mgN w 6 2
    (mgN w 0 1 = 0x80 → h.hstate ≠ .wing → h.hstate ≠ .hall → c.serial ≠ s1.g.serial →
      ∃ u, Takes (.claim p f) p f s u ∧ u.house.topEpoch = (if h.topEpoch < c.epoch then c.epoch else h.topEpoch)
        ∧ (∀ b, h.best = some b → c.better b = false → u.house.best = h.best)
        ∧ (h.best = none ∨ (∃ b, h.best = some b ∧ c.better b = true) →
            u.house.best = some c ∧ u.house.bestSince = s1.now)
        ∧ u.house.hstate = (if h.hstate = .claiming ∧ c.better (ownClaim s1) = true then .candidate else h.hstate))
    ∧ (mgN w 0 1 = 0x81 → c.serial ≠ s1.g.serial → direct → portUp (s1.port p) = true →
      (h.hstate = .unattached ∨ h.hstate = .candidate ∨ h.hstate = .claiming → mgN w 4 2 < 1024 →
        ∃ u, Takes (.hallAnnounce p f) p f s u ∧ u.house.hstate = .joining ∧ u.house.hall = some c ∧ u.house.viaPort = p
          ∧ u.house.mgen = mgF w 28 4 ∧ u.house.joinAt = s1.now)
      ∧ (h.hstate = .hall → h.isHall = true → ∀ own, h.hall = some own → own.serial ≠ c.serial → c.better own = true →
        ∃ u, Takes (.hallAnnounce p f) p f s u ∧ u.house.hstate = .joining ∧ u.house.isHall = false ∧ u.house.hall = some c))
    ∧ (mgN w 0 1 = 0x82 → ¬ direct →
      (h.hstate = .hall → h.isHall = true → mgF w 16 8 ≠ s1.g.serial → (∀ x ∈ h.wings, x.serial ≠ mgF w 16 8) →
        Takes (.joinReq p f) p f s { s1 with house := { h with joins := h.joins ++ [(mgN w 28 2, w)] } })
      ∧ (h.hstate ≠ .hall → h.hstate ≠ .wing → Takes (.joinReq p f) p f s s1))
    ∧ (mgN w 0 1 = 0x83 → mgF w 16 8 = s1.g.serial → h.hstate = .joining →
      (mgN w 8 1 = 0 → ∃ u, Takes (.joinAck p f) p f s u ∧ u.house.node = fld w 80 10 ∧ u.house.epoch = mgF w 12 4
        ∧ u.house.hstate = .joining)
      ∧ (mgN w 8 1 ≠ 0 → ∃ u, Takes (.joinAck p f) p f s u ∧ u.house.hstate = .candidate
        ∧ u.house.refusedAt = some s1.now))
    ∧ (mgN w 0 1 = 0x84 → h.isHall = false → h.hstate = .joining → h.node ≠ 0 →
      ∃ u, Takes (.keyShare p f) p f s u ∧ u.house.hstate = .wing ∧ u.house.nodeValid = true ∧ u.house.node = h.node
        ∧ u.house.houseKey = some (houseKey h.keyPair (fld w 64 392)
            (houseSalt (h.hall.getD {}).serial s1.g.serial) (houseInfo h.epoch)))
    ∧ (mgN w 0 1 = 0x85 →
      (h.houseKey = none → Takes (.keyDeliver p f) p f s s1)
      ∧ (∀ hk, h.houseKey = some hk → mgN w 8 1 < 16 → mgN w 9 1 = 1 → (s1.port (mgN w 8 1)).rxKey = none →
        let body := gcmOpen hk (deliverIv (mgN w 8 1) 1 (mgF w 12 4) (ownNode s1)) (leB 16 (fld w 0 128 : BitVec 128))
          (leB 48 (fld w 128 384 : BitVec 384))
        ∃ u, Takes (.keyDeliver p f) p f s u
          ∧ (body = none → Recorded s1 u ∧ u.audit.seq = s1.audit.seq + 1)
          ∧ (∀ bs, body = some bs → ∃ k, (u.port (mgN w 8 1)).rxKey = some k ∧ k.epoch = mgF w 12 4
              ∧ k.key = BitVec.ofNat 256 (leNat (bs.take 32)))))
    ∧ (mgN w 0 1 = 0x86 →
      (h.hstate = .wing → mgF w 8 4 = h.epoch → h.heard = none → ∃ u, Takes (.houseDissolve p f) p f s u
        ∧ u.house.hstate = .candidate ∧ u.house.nodeValid = false ∧ u.house.members = [] ∧ u.house.routes = [])
      ∧ (h.hstate ≠ .wing ∨ mgF w 8 4 ≠ h.epoch → Takes (.houseDissolve p f) p f s s1))
    ∧ (mgN w 0 1 = 0x87 →
      (h.isHall = false → Takes (.keyReq p f) p f s s1)
      ∧ (∀ l, h.isHall = true → (linksOf s1 (mgN w 4 2)).find? (·.port = mgN w 8 1) = some l →
        ∃ u, Takes (.keyReq p f) p f s u ∧ u.free = s1.free + 1))
    ∧ (mgN w 0 1 = 0x88 →
      (h.hstate ≠ .wing ∨ mgF w 8 4 ≤ h.mgen → Takes (.memberUpdate p f) p f s s1)
      ∧ (h.hstate = .wing → h.mgen < mgF w 8 4 → ∃ u, Takes (.memberUpdate p f) p f s u ∧ u.house.mgen = mgF w 8 4
        ∧ (mgN w 14 1 = 0 → u.house.members = ninsert h.members (mgN w 12 2))
        ∧ (mgN w 14 1 = 1 → u.house.members = nremove h.members (mgN w 12 2))))
    ∧ (mgN w 0 1 = 0x89 →
      (h.isHall = false → Takes (.linkReport p f) p f s s1)
      ∧ (h.isHall = true → mgN w 9 1 = 0 → ∃ u, Takes (.linkReport p f) p f s u
        ∧ u.house.reports = (h.reports.filter fun r => !(r.node = mgN w 4 2 && r.port = mgN w 8 1))
            ++ [{ node := mgN w 4 2, port := mgN w 8 1, serial := mgF w 16 8 }]))
    ∧ (mgN w 0 1 = 0x8A →
      (h.hstate ≠ .wing ∨ mgF w 8 8 ≤ h.hallTime → Takes (.tick p f) p f s s1)
      ∧ (h.hstate = .wing → h.hallTime < mgF w 8 8 →
        let at_ := (mgF w 8 8).toNat + (s1.port p).delay
        ∃ u, Takes (.tick p f) p f s u ∧ u.house.hallTime = mgF w 8 8
          ∧ (s1.now + 1000 < at_ → u.g.houseTime = BitVec.ofNat 64 at_)
          ∧ (at_ ≤ s1.now + 1000 → u.g.houseTime = s1.g.houseTime ∧ u.house.slew = (at_ : Int) - s1.now)))
    ∧ (mgN w 0 1 = 0x8B →
      (h.hstate ≠ .wing ∨ h.lastBeacon = some (mgF w 8 4) → Takes (.beacon p f) p f s s1)
      ∧ (h.hstate = .wing → h.lastBeacon ≠ some (mgF w 8 4) → ∃ u, Takes (.beacon p f) p f s u
        ∧ u.house.lastBeacon = some (mgF w 8 4) ∧ u.cad.hallLost = decide (mgN w 25 1 = 4)))
    ∧ (mgN w 0 1 = 0x8C → portUp (s1.port p) = true → ∃ u, Takes (.timePing p f) p f s u
      ∧ Queued p [.mgmt (leB 64 (mgMsg 0x8D 0 (mgSrc s1) neighbour [(8, mgN w 8 8), (16, s1.now), (24, s1.now)]))] s1 u)
    ∧ (mgN w 0 1 = 0x8D → ∀ t1, (s1.port p).pingT1 = some t1 → Takes (.timePong p f) p f s (s1.setPort p { s1.port p with
        pingT1 := none, delay := ((s1.now - t1) - (mgN w 24 8 - mgN w 16 8)) / 2 }))
    ∧ (mgN w 0 1 = 0x8E → h.hstate = .wing → mgN w 4 2 = 0 →
      (mgN w 20 1 = 0 → groupOf s1 (mgN w 8 1) = none → groupStatus s1 (mgN w 9 1) (mgN w 16 4) = St.ok →
        ∃ u, Takes (.groupSet p f) p f s u ∧ groupOf u (mgN w 8 1) = some {
          slot := freeGroupSlot s1, room := mgN w 9 1, members := mgN w 10 2, rank := mgN w 12 2, kib := mgN w 16 4 })
      ∧ (mgN w 20 1 = 0 → groupOf s1 (mgN w 8 1) = none → groupStatus s1 (mgN w 9 1) (mgN w 16 4) ≠ St.ok →
        ∃ u, Takes (.groupSet p f) p f s u ∧ u.groups = s1.groups)
      ∧ (mgN w 20 1 = 1 ∨ mgN w 20 1 = 4 → ∃ u, Takes (.groupSet p f) p f s u ∧ groupOf u (mgN w 8 1) = none))
    ∧ (mgN w 0 1 = 0x8F → mgF w 16 8 = s1.g.serial → mgF w 24 4 ≠ h.nonce →
      ∃ u, Takes (.dupStop p f) p f s u ∧ u.house.hstate = .stopped)

/-- The House's timers: claiming, its repetition and the election; the retries of a join; TICK and TIME_PING; the loss
of the Hall, of a Wing, and of a group command's answers (R546, R549, R551, R552, R558, R559, R561, R564). The model's
choices in it, by log entry: 21, 48, 50. -/
def Obligations.HouseTimersAct : Prop :=
  ∀ s : State, s.wf = true →
    let h := s.house
    let Sent (w : BitVec 512) (t : State) : Prop := ∀ q, portUp (s.port q) = true →
      (t.port q).queue = (s.port q).queue ++ [.mgmt (leB 64 w)]
    (∀ up, h.linkUpAt = some up →
      (s.now < up + 2000000 → exec .claimStart s = .next s)
      ∧ (up + 2000000 ≤ s.now → h.hstate = .unattached → eligible s = true → h.announced = false →
        ∃ t, exec .claimStart s = .next t ∧ t.house.hstate = .claiming ∧ t.house.lastClaim = s.now
          ∧ (h.best = none → t.house.best = some (ownClaim s) ∧ t.house.bestSince = s.now)))
    ∧ (h.hstate ≠ .claiming → exec .claimRepeat s = .next s ∧ exec .hallElected s = .next s)
    ∧ (h.hstate = .claiming →
      (h.lastClaim + 1000000 ≤ s.now → ∃ t, exec .claimRepeat s = .next t ∧ t.house = { h with lastClaim := s.now }
        ∧ Sent (mgMsg 0x80 0 (mgSrc s) neighbour (ownClaim s).fields) t)
      ∧ (h.best = some (ownClaim s) → h.bestSince + h.settleUs.toNat * 1000 ≤ s.now →
        ∃ t, exec .hallElected s = .next t ∧ t.house.hstate = .hall ∧ t.house.isHall = true ∧ t.house.nodeValid = true
          ∧ t.house.node = 0 ∧ t.house.members = [0]
          ∧ t.house.epoch = (if h.topEpoch < h.epoch then h.epoch else h.topEpoch) + 1))
    ∧ (h.hstate = .joining → h.joinAt + 10000000 ≤ s.now →
      ∃ t, exec .joinRetry s = .next t ∧ t.house = { h with joinAt := s.now } ∧ { t with house := h, ports := s.ports } = s)
    ∧ (h.hstate ≠ .joining ∨ s.now < h.joinAt + 10000000 → exec .joinRetry s = .next s)
    ∧ (∀ since c, h.refusedAt = some since → h.hall = some c →
      (h.hstate ≠ .candidate ∨ s.now < since + 100000000 → exec .joinRefusedRetry s = .next s)
      ∧ (h.hstate = .candidate → since + 100000000 ≤ s.now →
        ∃ t, exec .joinRefusedRetry s = .next t ∧ t.house.hstate = .joining ∧ t.house.hall = some c
          ∧ t.house.keyPair = s.free ∧ t.house.refusedAt = none ∧ t.house.viaPort = h.viaPort))
    ∧ (h.isHall = true → h.hstate ≠ .stopped → h.lastTickSent + 100000 ≤ s.now →
      ∃ t, exec .tickTimer s = .next t ∧ t.house = { h with lastTickSent := s.now } ∧ Sent (tickMsg s s.now 0) t)
    ∧ (h.isHall = false ∨ s.now < h.lastTickSent + 100000 → exec .tickTimer s = .next s)
    ∧ (inHouse s = true → h.lastPing + 100000000 ≤ s.now →
      ∃ t, exec .timePingTimer s = .next t ∧ t.house = { h with lastPing := s.now }
        ∧ ∀ q, portUp (s.port q) = true → (t.port q).pingT1 = some s.now)
    ∧ (h.hstate = .wing →
      (s.now < h.lastTick + 1000000 → unreached s 0 = false → exec .hallLost s = .next s)
      ∧ (h.lastTick + 1000000 ≤ s.now ∨ unreached s 0 = true →
        ∃ t, exec .hallLost s = .next t ∧ t.house.hstate = (if eligible s then .claiming else .candidate)
          ∧ t.house.nodeValid = false ∧ t.house.members = [] ∧ t.house.heard = none ∧ t.groups = []))
    ∧ (∀ n : BitVec 10,
      (h.isHall = false ∨ n = 0 ∨ unreached s n.toNat = false → exec (.wingRemoval n) s = .next s)
      ∧ (h.isHall = true → n ≠ 0 → h.members.contains n.toNat = true → unreached s n.toNat = true →
        ∃ t, exec (.wingRemoval n) s = .next t ∧ t.house.members = nremove h.members n.toNat
          ∧ t.house.mgen = h.mgen + 1 ∧ (∀ x ∈ t.house.wings, x.node ≠ n.toNat)))
    ∧ (∀ (g : BitVec 8) (l : LongCmd), s.fy.longs = [l] → pktOpcode l.packet = 0x73 → p8 l.packet 16 = g.toNat →
      l.awaits ≠ [] → l.status = St.ok → l.done = [] → l.orphan = false → l.ring < 64 → hostReach s l.ring = true →
      (s.ring l.ring).enable = true → (s.ring l.ring).ringError = false →
      (s.now < l.start + 10000000 → exec (.groupDefineTimeout g) s = .next s)
      ∧ (l.start + 10000000 ≤ s.now → ∃ t, exec (.groupDefineTimeout g) s = .next t ∧ t.fy.longs = []
        ∧ t.house.groupDefs = h.groupDefs ∧ mread t.host (hostKey l.ring (replySlot (s.ring l.ring))) 32
          = replyBytes (s.ring l.ring).replyPhase l.packet St.linkDown l.detail 0 0))

/-! ### The Study and the sideband -/

/-- A Study job runs to the first table line that its lanes miss, which is filled; with every row done it completes
with its RESULT; one whose table set is not valid completes MALFORMED (R595, R597, R598, R600, R607, R612, R619). The
model's choices in it, by log entry: 51. -/
def Obligations.StudyJobsRun : Prop :=
  ∀ (k : Fin 16) (j : Job) (d : Dispatched) (s : State), s.wf = true → s.study.jobs = [(k.val, j)] → jobHeld s j = [] →
    (s.sq j.sq).dispatched.find? (·.count = j.count) = some d → engineOp d.opcode = false → (s.sq j.sq).behind = [] →
    let Reports (status : Byte) (result : Word) (t : State) : Prop := t.study.jobs = [] ∧ SameMemory s t
      ∧ (t.sq j.sq).reports = (s.sq j.sq).reports
        ++ [{ count := j.count, tag := d.tag, status := if status = St.ok && d.late then St.late else status
              result := result, irq := d.irq, opcode := d.opcode }]
    (∀ l, j.table = some l → jobRows j ≤ j.row →
      ∃ t, exec (.studyJobComplete k) s = .next t ∧ Reports St.ok (jobResult j St.ok) t)
    ∧ (j.table = none → j.set.valid = false →
      (∃ t, exec (.studyJobComplete k) s = .next t ∧ Reports St.malformed (BitVec.ofNat 64 j.row) t)
      ∧ ∃ t, exec (.studyCacheFill k) s = .next t ∧ Reports St.malformed (BitVec.ofNat 64 j.row) t)
    ∧ (∀ l s2 text a, j.table = some l → isTok j = true → j.row < jobRows j → j.seen = 0 → s.study.cache = [] →
      s.cellarUe = [] →
      readSpan j.room (b64 j.word 24 + BitVec.ofNat 64 (l.getD j.row 0)) (l.getD (j.row + 1) 0 - l.getD j.row 0)
        (pdTouch pdStudy s) = (s2, .ok text) →
      translate s2 j.room true (offOf j.set.pretokAddr / 64 * 64) = some a →
      ∃ t, exec (.studyCacheFill k) s = .next t ∧ t.study.jobs = [(k.val, { j with seen := 1 })]
        ∧ t.study.misses = satInc s.study.misses ∧ t.study.hits = s.study.hits ∧ SameMemory s t
        ∧ t.study.cache = [{ room := j.room, set := jobSet j, gen := j.set.loadGen
                             addr := offOf j.set.pretokAddr / 64, data := BitVec.ofNat 512 (leNat (mread s.cellar a 64)) }])

/-- The sideband. A control request of MCTP is answered with its instance and command: what follows is the standard's,
outside the spec (log entry 19). JTAG: BYPASS is one bit, IDCODE shifts the identification out, SAMPLE/PRELOAD and EXTEST
the cells; EXTEST is BYPASS while PERST_N is high (R702, R703). -/
def Obligations.SidebandAnswers : Prop :=
  (∀ (m : List Byte) (s : State),
    let ans (code : Byte) (data : List Byte) : Output := .mctp ([0, mcByte m 1 &&& 0x1F, mcByte m 2, code] ++ data)
    (mcRequest s m = false → exec (.mctpSetEndpointId m) s = .next s ∧ exec (.mctpGetEndpointId m) s = .next s
      ∧ exec (.mctpGetEndpointUuid m) s = .next s ∧ exec (.mctpGetVersionSupport m) s = .next s
      ∧ exec (.mctpGetMessageTypeSupport m) s = .next s ∧ exec (.mctpUnsupportedCmd m) s = .next s)
    ∧ (mcRequest s m = true →
      (mcByte m 2 = 1 → m.length = 5 → (mcByte m 3).getLsbD 1 = false → mcByte m 4 ≠ 0 → mcByte m 4 ≠ 0xFF →
        exec (.mctpSetEndpointId m) s = .next
          ({ s with side := { s.side with eid := mcByte m 4 } }.emit (ans 0 [0, mcByte m 4, 0])))
      ∧ (mcByte m 2 = 1 → m.length ≠ 5 → exec (.mctpSetEndpointId m) s = .next (s.emit (ans 3 [])))
      ∧ (mcByte m 2 = 2 → m.length = 3 → exec (.mctpGetEndpointId m) s = .next (s.emit (ans 0 [s.side.eid, 0, 0])))
      ∧ (mcByte m 2 = 3 → m.length = 3 → exec (.mctpGetEndpointUuid m) s
          = .next (s.emit (ans 0 (leBytes 16 (Config.endpointUuid s.g.serial).toNat).reverse)))
      ∧ (mcByte m 2 = 4 → m.length = 4 → mcByte m 3 = 0 ∨ mcByte m 3 = 0xFF → exec (.mctpGetVersionSupport m) s
          = .next (s.emit (ans 0 (1 :: leBytes 4 Config.mctpVersion.toNat))))
      ∧ (mcByte m 2 = 5 → m.length = 3 → exec (.mctpGetMessageTypeSupport m) s = .next (s.emit (ans 0 [1, 0])))
      ∧ (mcByte m 2 = 0 ∨ 5 < mcByte m 2 → exec (.mctpUnsupportedCmd m) s = .next (s.emit (ans 5 [])))))
  ∧ (∀ (tdi : List Bool) (s : State),
    let off : State := { s with side := { s.side with extest := false } }
    let bypass : Output := .jtag ((false :: tdi).take tdi.length)
    let shifted (t : State) : Prop := t.outputs = .jtag ((ballLevels s ++ tdi).take tdi.length) :: s.outputs
      ∧ t.side.cells = (ballLevels s ++ tdi).drop tdi.length
      ∧ { t with outputs := s.outputs, side := s.side, free := s.free } = s
    exec (.jtagBypass tdi) s = .next (off.emit bypass)
    ∧ exec (.jtagIdcode tdi) s
      = .next (off.emit (.jtag ((((List.range 32).map idcode.getLsbD) ++ tdi).take tdi.length)))
    ∧ (∃ t, exec (.jtagSamplePreload tdi) s = .next t ∧ shifted t ∧ t.side.extest = false)
    ∧ (s.pins.perstN = true → exec (.jtagExtest tdi) s = .next (off.emit bypass))
    ∧ (s.pins.perstN = false → ∃ t, exec (.jtagExtest tdi) s = .next t ∧ shifted t ∧ t.side.extest = true))
end

