-- ==== Sys2Proof/Laws/Tables.lean ====
section
/-! SUPPORT. The tables and memories: what a read gives after a write, and that every write keeps the canonical form. -/
namespace Sys2Proof.Machine

/-! ### Reading after writing -/

variable {α : Type}

theorem tget_tdel_ne (t : Table α) (d : α) {k j : Nat} (h : j ≠ k) : tget (tdel t k) d j = tget t d j := by
  induction t with
  | nil => rfl
  | cons p r ih =>
    simp only [tdel]
    split
    · subst_vars; simp [tget, h.symm]
    · split
      · rfl
      · simp [tget, ih]

theorem tget_tput_ne (t : Table α) (d v : α) {k j : Nat} (h : j ≠ k) : tget (tput t k v) d j = tget t d j := by
  induction t with
  | nil => simp [tput, tget, h.symm]
  | cons p r ih =>
    simp only [tput]
    split
    · subst_vars; simp [tget, h.symm]
    · split
      · simp [tget, h.symm]
      · simp [tget, ih]

@[simp] theorem tget_tput_eq (t : Table α) (d v : α) (k : Nat) : tget (tput t k v) d k = v := by
  induction t with
  | nil => simp [tput, tget]
  | cons p r ih =>
    simp only [tput]
    split
    · simp [tget]
    · split
      · simp [tget]
      · simp [tget, *]

/-- Below the first index nothing is listed. -/
theorem tget_of_lt {d : α} {t : Table α} {k : Nat} (h : ∀ q ∈ t, k < q.1) : tget t d k = d := by
  induction t with
  | nil => rfl
  | cons p r ih =>
    have hp : k < p.1 := h p (by simp)
    simp [tget, hp.ne', ih fun q hq => h q (by simp [hq])]

theorem mem_tdel {t : Table α} {k : Nat} {q : Nat × α} (h : q ∈ tdel t k) : q ∈ t := by
  induction t with
  | nil => simp [tdel] at h
  | cons p r ih =>
    simp only [tdel] at h
    split at h
    · exact List.mem_cons_of_mem _ h
    · split at h
      · exact h
      · rcases List.mem_cons.1 h with rfl | h
        · simp
        · exact List.mem_cons_of_mem _ (ih h)

theorem mem_tput {t : Table α} {k : Nat} {v : α} {q : Nat × α} (h : q ∈ tput t k v) : q = (k, v) ∨ q ∈ t := by
  induction t with
  | nil => simpa [tput] using h
  | cons p r ih =>
    simp only [tput] at h
    split at h
    · rcases List.mem_cons.1 h with h | h
      · exact .inl h
      · exact .inr (List.mem_cons_of_mem _ h)
    · split at h
      · exact List.mem_cons.1 h
      · rcases List.mem_cons.1 h with rfl | h
        · simp
        · exact (ih h).imp_right (List.mem_cons_of_mem _)

variable [DecidableEq α]

theorem tget_tset_ne (t : Table α) (d v : α) {k j : Nat} (h : j ≠ k) : tget (tset t d k v) d j = tget t d j := by
  unfold tset
  split
  · exact tget_tdel_ne t d h
  · exact tget_tput_ne t d v h

/-- A record other than the default is read back, whatever the table. -/
theorem tget_tset_of_ne (t : Table α) {d v : α} (k : Nat) (h : v ≠ d) : tget (tset t d k v) d k = v := by
  simp [tset, h]

/-! ### The canonical form -/

/-- The canonical form of a table, one entry at a time. -/
theorem tableWf_cons (d : α) (p : Nat × α) (r : Table α) :
    tableWf d (p :: r) = true ↔ p.2 ≠ d ∧ (∀ q ∈ r, p.1 < q.1) ∧ tableWf d r = true := by
  induction r generalizing p with
  | nil => simp [tableWf]
  | cons q r ih =>
    simp only [tableWf, Bool.and_eq_true, decide_eq_true_eq, List.forall_mem_cons]
    constructor
    · rintro ⟨⟨h1, h2⟩, h3⟩
      exact ⟨h1, ⟨h2, fun x hx => h2.trans (((ih q).1 h3).2.1 x hx)⟩, h3⟩
    · rintro ⟨h1, ⟨h2, -⟩, h3⟩
      exact ⟨⟨h1, h2⟩, h3⟩

theorem tableWf_tdel {d : α} {t : Table α} (k : Nat) (h : tableWf d t = true) : tableWf d (tdel t k) = true := by
  induction t with
  | nil => exact h
  | cons p r ih =>
    have hp := (tableWf_cons d p r).1 h
    simp only [tdel]
    split
    · exact hp.2.2
    · split
      · exact h
      · exact (tableWf_cons d p _).2 ⟨hp.1, fun q hq => hp.2.1 q (mem_tdel hq), ih hp.2.2⟩

theorem tableWf_tput {d v : α} {t : Table α} (k : Nat) (hv : v ≠ d) (h : tableWf d t = true) :
    tableWf d (tput t k v) = true := by
  induction t with
  | nil => simp [tput, tableWf, hv]
  | cons p r ih =>
    have hp := (tableWf_cons d p r).1 h
    simp only [tput]
    split
    · rename_i e
      exact (tableWf_cons d _ r).2 ⟨hv, fun q hq => e ▸ hp.2.1 q hq, hp.2.2⟩
    · split
      · rename_i hlt
        refine (tableWf_cons d _ _).2 ⟨hv, ?_, h⟩
        intro q hq
        rcases List.mem_cons.1 hq with rfl | hq
        · exact hlt
        · exact hlt.trans (hp.2.1 q hq)
      · rename_i h1 h2
        refine (tableWf_cons d p _).2 ⟨hp.1, ?_, ih hp.2.2⟩
        intro q hq
        rcases mem_tput hq with rfl | hq
        · exact lt_of_le_of_ne (not_lt.1 h2) h1
        · exact hp.2.1 q hq

/-- Every write of a table keeps the canonical form. -/
theorem tableWf_tset {d : α} {t : Table α} (k : Nat) (v : α) (h : tableWf d t = true) :
    tableWf d (tset t d k v) = true := by
  unfold tset
  split
  · exact tableWf_tdel k h
  · rename_i hv
    exact tableWf_tput k hv h

theorem tget_tdel_eq {d : α} {t : Table α} (k : Nat) (h : tableWf d t = true) : tget (tdel t k) d k = d := by
  induction t with
  | nil => rfl
  | cons p r ih =>
    have hp := (tableWf_cons d p r).1 h
    simp only [tdel]
    split
    · rename_i e
      exact tget_of_lt fun q hq => e ▸ hp.2.1 q hq
    · split
      · rename_i hlt
        refine tget_of_lt fun q hq => ?_
        rcases List.mem_cons.1 hq with rfl | hq
        · exact hlt
        · exact hlt.trans (hp.2.1 q hq)
      · rename_i h1 _
        simp [tget, h1, ih hp.2.2]

/-- In a canonical table every record is read back, the default among them. -/
theorem tget_tset_eq {d : α} {t : Table α} (k : Nat) (v : α) (h : tableWf d t = true) : tget (tset t d k v) d k = v := by
  unfold tset
  split
  · rename_i e
    rw [tget_tdel_eq k h, e]
  · simp

theorem tableWf_tmap {d : α} (f : Nat → α → α) {t : Table α} (h : tableWf d t = true) :
    tableWf d (tmap t d f) = true := by
  unfold tmap
  suffices ∀ (l acc : Table α), tableWf d acc = true →
      tableWf d (l.foldl (fun acc p => tset acc d p.1 (f p.1 p.2)) acc) = true from this t t h
  intro l
  induction l with
  | nil => exact fun _ h => h
  | cons p l ih => exact fun acc h => ih _ (tableWf_tset _ _ h)

theorem tableWf_filter {d : α} (f : Nat × α → Bool) {t : Table α} (h : tableWf d t = true) :
    tableWf d (t.filter f) = true := by
  induction t with
  | nil => exact h
  | cons p r ih =>
    have hp := (tableWf_cons d p r).1 h
    rw [List.filter_cons]
    split
    · exact (tableWf_cons d p _).2 ⟨hp.1, fun q hq => hp.2.1 q (List.mem_of_mem_filter hq), ih hp.2.2⟩
    · exact ih hp.2.2

/-- A record that is listed is read. -/
theorem tget_of_mem {d : α} {t : Table α} {p : Nat × α} (h : tableWf d t = true) (hp : p ∈ t) : tget t d p.1 = p.2 := by
  induction t with
  | nil => simp at hp
  | cons q r ih =>
    have hq := (tableWf_cons d q r).1 h
    rcases List.mem_cons.1 hp with rfl | hp
    · simp [tget]
    · simp [tget, (hq.2.1 p hp).ne, ih hq.2.2 hp]

/-! ### Memories -/

theorem mget_mset_ne (m : List Host.Cell) (b : Byte) {a x : Nat} (h : x ≠ a) : mget (mset m a b) x = mget m x :=
  tget_tset_ne m 0 b h

theorem mget_mset_eq {m : List Host.Cell} (a : Nat) (b : Byte) (h : Memory.wf m = true) : mget (mset m a b) a = b :=
  tget_tset_eq a b h

theorem wf_mset {m : List Host.Cell} (a : Nat) (b : Byte) (h : Memory.wf m = true) : Memory.wf (mset m a b) = true :=
  tableWf_tset a b h

theorem wf_mwrite {m : List Host.Cell} (a : Nat) (bs : List Byte) (h : Memory.wf m = true) :
    Memory.wf (mwrite m a bs) = true := by
  induction bs generalizing m a with
  | nil => exact h
  | cons b bs ih => exact ih (a + 1) (wf_mset a b h)

theorem wf_mwriteEn {m : List Host.Cell} (a : Nat) (bs : List (Byte × Bool)) (h : Memory.wf m = true) :
    Memory.wf (mwriteEn m a bs) = true := by
  induction bs generalizing m a with
  | nil => exact h
  | cons p bs ih =>
    rcases p with ⟨b, _ | _⟩
    · exact ih (a + 1) h
    · exact ih (a + 1) (wf_mset a b h)

theorem wf_mzero {m : List Host.Cell} (a n : Nat) (h : Memory.wf m = true) : Memory.wf (mzero m a n) = true :=
  tableWf_filter _ h

/-- A write changes no byte outside its span. -/
theorem mget_mwrite_out (m : List Host.Cell) (bs : List Byte) {a x : Nat} (h : x < a ∨ a + bs.length ≤ x) :
    mget (mwrite m a bs) x = mget m x := by
  induction bs generalizing m a with
  | nil => rfl
  | cons b bs ih =>
    simp only [List.length_cons] at h
    rw [mwrite, ih _ (by omega), mget_mset_ne m b (by omega)]

/-- Each byte of a write is read back. -/
theorem mget_mwrite_in {m : List Host.Cell} (a : Nat) {bs : List Byte} {i : Nat} (h : Memory.wf m = true)
    (hi : i < bs.length) : mget (mwrite m a bs) (a + i) = bs.getD i 0 := by
  induction bs generalizing m a i with
  | nil => simp at hi
  | cons b bs ih =>
    rw [mwrite]
    cases i with
    | zero => rw [mget_mwrite_out _ _ (by omega), Nat.add_zero, mget_mset_eq a b h]; rfl
    | succ i =>
      simp only [List.length_cons] at hi
      rw [show a + (i + 1) = (a + 1) + i by omega, ih (a + 1) (wf_mset a b h) (by omega)]
      rfl

@[simp] theorem mread_length (m : List Host.Cell) (a n : Nat) : (mread m a n).length = n := by
  induction n generalizing a with
  | zero => rfl
  | succ n ih => simp [mread, ih]

theorem mread_getD (m : List Host.Cell) (a : Nat) {n i : Nat} (h : i < n) : (mread m a n).getD i 0 = mget m (a + i) := by
  induction n generalizing a i with
  | zero => omega
  | succ n ih =>
    cases i with
    | zero => rfl
    | succ i =>
      rw [mread, List.getD_cons_succ, ih (a + 1) (by omega)]
      congr 1; omega

theorem mread_congr {m m' : List Host.Cell} {a n : Nat} (h : ∀ i < n, mget m (a + i) = mget m' (a + i)) :
    mread m a n = mread m' a n := by
  induction n generalizing a with
  | zero => rfl
  | succ n ih =>
    rw [mread, mread, ih fun i hi => ?_]
    · rw [show mget m a = mget m' a from h 0 (by omega)]
    · simpa [Nat.add_assoc, Nat.add_comm 1] using h (i + 1) (by omega)

/-- What a write put at its address is what a read of the same length gives. -/
theorem mread_mwrite {m : List Host.Cell} (a : Nat) (bs : List Byte) (h : Memory.wf m = true) :
    mread (mwrite m a bs) a bs.length = bs := by
  apply List.ext_getElem (by simp)
  intro i h1 h2
  have e := mread_getD (mwrite m a bs) a (n := bs.length) (i := i) (by simpa using h1)
  rw [mget_mwrite_in a h (by simpa using h1)] at e
  simpa [List.getD_eq_getElem?_getD, List.getElem?_eq_getElem h1, List.getElem?_eq_getElem h2] using e

theorem mread_mwrite_out (m : List Host.Cell) {a x n : Nat} {bs : List Byte} (h : x + n ≤ a ∨ a + bs.length ≤ x) :
    mread (mwrite m a bs) x n = mread m x n :=
  mread_congr fun i hi => mget_mwrite_out m bs (by omega)

theorem mget_mzero (m : List Host.Cell) (a n x : Nat) :
    mget (mzero m a n) x = if a ≤ x ∧ x < a + n then 0 else mget m x := by
  unfold mzero mget
  induction m with
  | nil => simp [tget]
  | cons c m ih =>
    rw [List.filter_cons]
    by_cases hx : c.1 = x
    · subst hx
      by_cases hc : a ≤ c.1 ∧ c.1 < a + n
      · rw [if_neg (by simp; omega), ih, if_pos hc, if_pos hc]
      · rw [if_pos (by simp; omega), if_neg hc]; simp [tget]
    · split
      · rw [tget, if_neg hx, ih, tget, if_neg hx]
      · rw [ih, tget, if_neg hx]

/-- The four memories after reset list nothing, so they are canonical. -/
theorem reset_memories_wf : Memory.wf State.reset.pantry = true ∧ Memory.wf State.reset.cellar = true
    ∧ Memory.wf State.reset.larder = true ∧ Memory.wf State.reset.host = true := ⟨rfl, rfl, rfl, rfl⟩

end Sys2Proof.Machine
end

