-- ==== Sys2Proof/Laws/State.lean ====
section
/-! SUPPORT. What each update of the state changes: one lemma per field per update, and what the accessors give. -/
namespace Sys2Proof.Machine
namespace State

/-! ### setRoom -/

@[simp] theorem setRoom_rooms (s : State) (k : Nat) (r : Room) : (s.setRoom k r).rooms = tset s.rooms {} k r := rfl
@[simp] theorem setRoom_pending (s : State) (k : Nat) (r : Room) : (s.setRoom k r).pending = s.pending := rfl
@[simp] theorem setRoom_free (s : State) (k : Nat) (r : Room) : (s.setRoom k r).free = s.free := rfl
@[simp] theorem setRoom_outputs (s : State) (k : Nat) (r : Room) : (s.setRoom k r).outputs = s.outputs := rfl
@[simp] theorem setRoom_g (s : State) (k : Nat) (r : Room) : (s.setRoom k r).g = s.g := rfl
@[simp] theorem setRoom_pins (s : State) (k : Nat) (r : Room) : (s.setRoom k r).pins = s.pins := rfl
@[simp] theorem setRoom_pcie (s : State) (k : Nat) (r : Room) : (s.setRoom k r).pcie = s.pcie := rfl
@[simp] theorem setRoom_msix (s : State) (k : Nat) (r : Room) : (s.setRoom k r).msix = s.msix := rfl
@[simp] theorem setRoom_err (s : State) (k : Nat) (r : Room) : (s.setRoom k r).err = s.err := rfl
@[simp] theorem setRoom_audit (s : State) (k : Nat) (r : Room) : (s.setRoom k r).audit = s.audit := rfl
@[simp] theorem setRoom_logs (s : State) (k : Nat) (r : Room) : (s.setRoom k r).logs = s.logs := rfl
@[simp] theorem setRoom_granules (s : State) (k : Nat) (r : Room) : (s.setRoom k r).granules = s.granules := rfl
@[simp] theorem setRoom_chans (s : State) (k : Nat) (r : Room) : (s.setRoom k r).chans = s.chans := rfl
@[simp] theorem setRoom_rotor (s : State) (k : Nat) (r : Room) : (s.setRoom k r).rotor = s.rotor := rfl
@[simp] theorem setRoom_hostReads (s : State) (k : Nat) (r : Room) : (s.setRoom k r).hostReads = s.hostReads := rfl
@[simp] theorem setRoom_proofs (s : State) (k : Nat) (r : Room) : (s.setRoom k r).proofs = s.proofs := rfl
@[simp] theorem setRoom_peerReads (s : State) (k : Nat) (r : Room) : (s.setRoom k r).peerReads = s.peerReads := rfl
@[simp] theorem setRoom_sqSignals (s : State) (k : Nat) (r : Room) : (s.setRoom k r).sqSignals = s.sqSignals := rfl
@[simp] theorem setRoom_sqs (s : State) (k : Nat) (r : Room) : (s.setRoom k r).sqs = s.sqs := rfl
@[simp] theorem setRoom_cqs (s : State) (k : Nat) (r : Room) : (s.setRoom k r).cqs = s.cqs := rfl
@[simp] theorem setRoom_flags (s : State) (k : Nat) (r : Room) : (s.setRoom k r).flags = s.flags := rfl
@[simp] theorem setRoom_counters (s : State) (k : Nat) (r : Room) : (s.setRoom k r).counters = s.counters := rfl
@[simp] theorem setRoom_wires (s : State) (k : Nat) (r : Room) : (s.setRoom k r).wires = s.wires := rfl
@[simp] theorem setRoom_waiters (s : State) (k : Nat) (r : Room) : (s.setRoom k r).waiters = s.waiters := rfl
@[simp] theorem setRoom_tags (s : State) (k : Nat) (r : Room) : (s.setRoom k r).tags = s.tags := rfl
@[simp] theorem setRoom_dbgFeAddr (s : State) (k : Nat) (r : Room) : (s.setRoom k r).dbgFeAddr = s.dbgFeAddr := rfl
@[simp] theorem setRoom_polls (s : State) (k : Nat) (r : Room) : (s.setRoom k r).polls = s.polls := rfl
@[simp] theorem setRoom_arbs (s : State) (k : Nat) (r : Room) : (s.setRoom k r).arbs = s.arbs := rfl
@[simp] theorem setRoom_arbiters (s : State) (k : Nat) (r : Room) : (s.setRoom k r).arbiters = s.arbiters := rfl
@[simp] theorem setRoom_cad (s : State) (k : Nat) (r : Room) : (s.setRoom k r).cad = s.cad := rfl
@[simp] theorem setRoom_nrg (s : State) (k : Nat) (r : Room) : (s.setRoom k r).nrg = s.nrg := rfl
@[simp] theorem setRoom_domains (s : State) (k : Nat) (r : Room) : (s.setRoom k r).domains = s.domains := rfl
@[simp] theorem setRoom_cellars (s : State) (k : Nat) (r : Room) : (s.setRoom k r).cellars = s.cellars := rfl
@[simp] theorem setRoom_pantry (s : State) (k : Nat) (r : Room) : (s.setRoom k r).pantry = s.pantry := rfl
@[simp] theorem setRoom_cellar (s : State) (k : Nat) (r : Room) : (s.setRoom k r).cellar = s.cellar := rfl
@[simp] theorem setRoom_larder (s : State) (k : Nat) (r : Room) : (s.setRoom k r).larder = s.larder := rfl
@[simp] theorem setRoom_host (s : State) (k : Nat) (r : Room) : (s.setRoom k r).host = s.host := rfl
@[simp] theorem setRoom_pantryUe (s : State) (k : Nat) (r : Room) : (s.setRoom k r).pantryUe = s.pantryUe := rfl
@[simp] theorem setRoom_cellarUe (s : State) (k : Nat) (r : Room) : (s.setRoom k r).cellarUe = s.cellarUe := rfl
@[simp] theorem setRoom_larderUe (s : State) (k : Nat) (r : Room) : (s.setRoom k r).larderUe = s.larderUe := rfl
@[simp] theorem setRoom_ports (s : State) (k : Nat) (r : Room) : (s.setRoom k r).ports = s.ports := rfl
@[simp] theorem setRoom_loopback (s : State) (k : Nat) (r : Room) : (s.setRoom k r).loopback = s.loopback := rfl
@[simp] theorem setRoom_ovf (s : State) (k : Nat) (r : Room) : (s.setRoom k r).ovf = s.ovf := rfl
@[simp] theorem setRoom_house (s : State) (k : Nat) (r : Room) : (s.setRoom k r).house = s.house := rfl
@[simp] theorem setRoom_fy (s : State) (k : Nat) (r : Room) : (s.setRoom k r).fy = s.fy := rfl
@[simp] theorem setRoom_rings (s : State) (k : Nat) (r : Room) : (s.setRoom k r).rings = s.rings := rfl
@[simp] theorem setRoom_reqSeq (s : State) (k : Nat) (r : Room) : (s.setRoom k r).reqSeq = s.reqSeq := rfl
@[simp] theorem setRoom_groups (s : State) (k : Nat) (r : Room) : (s.setRoom k r).groups = s.groups := rfl
@[simp] theorem setRoom_rdx (s : State) (k : Nat) (r : Room) : (s.setRoom k r).rdx = s.rdx := rfl
@[simp] theorem setRoom_study (s : State) (k : Nat) (r : Room) : (s.setRoom k r).study = s.study := rfl
@[simp] theorem setRoom_flash (s : State) (k : Nat) (r : Room) : (s.setRoom k r).flash = s.flash := rfl
@[simp] theorem setRoom_bar2Cut (s : State) (k : Nat) (r : Room) : (s.setRoom k r).bar2Cut = s.bar2Cut := rfl
@[simp] theorem setRoom_side (s : State) (k : Nat) (r : Room) : (s.setRoom k r).side = s.side := rfl
@[simp] theorem setRoom_chan (s : State) (k j : Nat) (r : Room) : (s.setRoom k r).chan j = s.chan j := rfl
@[simp] theorem setRoom_sq (s : State) (k j : Nat) (r : Room) : (s.setRoom k r).sq j = s.sq j := rfl
@[simp] theorem setRoom_cq (s : State) (k j : Nat) (r : Room) : (s.setRoom k r).cq j = s.cq j := rfl
@[simp] theorem setRoom_flag (s : State) (k j : Nat) (r : Room) : (s.setRoom k r).flag j = s.flag j := rfl
@[simp] theorem setRoom_counter (s : State) (k j : Nat) (r : Room) : (s.setRoom k r).counter j = s.counter j := rfl
@[simp] theorem setRoom_wire (s : State) (k j : Nat) (r : Room) : (s.setRoom k r).wire j = s.wire j := rfl
@[simp] theorem setRoom_log (s : State) (k j : Nat) (r : Room) : (s.setRoom k r).log j = s.log j := rfl
@[simp] theorem setRoom_arb (s : State) (k j : Nat) (r : Room) : (s.setRoom k r).arb j = s.arb j := rfl
@[simp] theorem setRoom_arbiter (s : State) (k j : Nat) (r : Room) : (s.setRoom k r).arbiter j = s.arbiter j := rfl
@[simp] theorem setRoom_domain (s : State) (k j : Nat) (r : Room) : (s.setRoom k r).domain j = s.domain j := rfl
@[simp] theorem setRoom_cel (s : State) (k j : Nat) (r : Room) : (s.setRoom k r).cel j = s.cel j := rfl
@[simp] theorem setRoom_port (s : State) (k j : Nat) (r : Room) : (s.setRoom k r).port j = s.port j := rfl
@[simp] theorem setRoom_ovfOf (s : State) (k j : Nat) (r : Room) : (s.setRoom k r).ovfOf j = s.ovfOf j := rfl
@[simp] theorem setRoom_now (s : State) (k : Nat) (r : Room) : (s.setRoom k r).now = s.now := rfl
theorem setRoom_room_ne (s : State) {k j : Nat} (r : Room) (h : j ≠ k) : (s.setRoom k r).room j = s.room j :=
  tget_tset_ne s.rooms {} r h
theorem setRoom_room_eq {s : State} (k : Nat) (r : Room) (h : tableWf {} s.rooms = true) : (s.setRoom k r).room k = r :=
  tget_tset_eq k r h
theorem setRoom_room_of_ne (s : State) (k : Nat) {r : Room} (h : r ≠ {}) : (s.setRoom k r).room k = r :=
  tget_tset_of_ne s.rooms k h
theorem setRoom_wf {s : State} (k : Nat) (r : Room) (h : tableWf {} s.rooms = true) : tableWf {} (s.setRoom k r).rooms = true :=
  tableWf_tset k r h

/-! ### setChan -/

@[simp] theorem setChan_chans (s : State) (k : Nat) (r : Chan) : (s.setChan k r).chans = tset s.chans {} k r := rfl
@[simp] theorem setChan_pending (s : State) (k : Nat) (r : Chan) : (s.setChan k r).pending = s.pending := rfl
@[simp] theorem setChan_free (s : State) (k : Nat) (r : Chan) : (s.setChan k r).free = s.free := rfl
@[simp] theorem setChan_outputs (s : State) (k : Nat) (r : Chan) : (s.setChan k r).outputs = s.outputs := rfl
@[simp] theorem setChan_g (s : State) (k : Nat) (r : Chan) : (s.setChan k r).g = s.g := rfl
@[simp] theorem setChan_pins (s : State) (k : Nat) (r : Chan) : (s.setChan k r).pins = s.pins := rfl
@[simp] theorem setChan_pcie (s : State) (k : Nat) (r : Chan) : (s.setChan k r).pcie = s.pcie := rfl
@[simp] theorem setChan_msix (s : State) (k : Nat) (r : Chan) : (s.setChan k r).msix = s.msix := rfl
@[simp] theorem setChan_err (s : State) (k : Nat) (r : Chan) : (s.setChan k r).err = s.err := rfl
@[simp] theorem setChan_audit (s : State) (k : Nat) (r : Chan) : (s.setChan k r).audit = s.audit := rfl
@[simp] theorem setChan_logs (s : State) (k : Nat) (r : Chan) : (s.setChan k r).logs = s.logs := rfl
@[simp] theorem setChan_rooms (s : State) (k : Nat) (r : Chan) : (s.setChan k r).rooms = s.rooms := rfl
@[simp] theorem setChan_granules (s : State) (k : Nat) (r : Chan) : (s.setChan k r).granules = s.granules := rfl
@[simp] theorem setChan_rotor (s : State) (k : Nat) (r : Chan) : (s.setChan k r).rotor = s.rotor := rfl
@[simp] theorem setChan_hostReads (s : State) (k : Nat) (r : Chan) : (s.setChan k r).hostReads = s.hostReads := rfl
@[simp] theorem setChan_proofs (s : State) (k : Nat) (r : Chan) : (s.setChan k r).proofs = s.proofs := rfl
@[simp] theorem setChan_peerReads (s : State) (k : Nat) (r : Chan) : (s.setChan k r).peerReads = s.peerReads := rfl
@[simp] theorem setChan_sqSignals (s : State) (k : Nat) (r : Chan) : (s.setChan k r).sqSignals = s.sqSignals := rfl
@[simp] theorem setChan_sqs (s : State) (k : Nat) (r : Chan) : (s.setChan k r).sqs = s.sqs := rfl
@[simp] theorem setChan_cqs (s : State) (k : Nat) (r : Chan) : (s.setChan k r).cqs = s.cqs := rfl
@[simp] theorem setChan_flags (s : State) (k : Nat) (r : Chan) : (s.setChan k r).flags = s.flags := rfl
@[simp] theorem setChan_counters (s : State) (k : Nat) (r : Chan) : (s.setChan k r).counters = s.counters := rfl
@[simp] theorem setChan_wires (s : State) (k : Nat) (r : Chan) : (s.setChan k r).wires = s.wires := rfl
@[simp] theorem setChan_waiters (s : State) (k : Nat) (r : Chan) : (s.setChan k r).waiters = s.waiters := rfl
@[simp] theorem setChan_tags (s : State) (k : Nat) (r : Chan) : (s.setChan k r).tags = s.tags := rfl
@[simp] theorem setChan_dbgFeAddr (s : State) (k : Nat) (r : Chan) : (s.setChan k r).dbgFeAddr = s.dbgFeAddr := rfl
@[simp] theorem setChan_polls (s : State) (k : Nat) (r : Chan) : (s.setChan k r).polls = s.polls := rfl
@[simp] theorem setChan_arbs (s : State) (k : Nat) (r : Chan) : (s.setChan k r).arbs = s.arbs := rfl
@[simp] theorem setChan_arbiters (s : State) (k : Nat) (r : Chan) : (s.setChan k r).arbiters = s.arbiters := rfl
@[simp] theorem setChan_cad (s : State) (k : Nat) (r : Chan) : (s.setChan k r).cad = s.cad := rfl
@[simp] theorem setChan_nrg (s : State) (k : Nat) (r : Chan) : (s.setChan k r).nrg = s.nrg := rfl
@[simp] theorem setChan_domains (s : State) (k : Nat) (r : Chan) : (s.setChan k r).domains = s.domains := rfl
@[simp] theorem setChan_cellars (s : State) (k : Nat) (r : Chan) : (s.setChan k r).cellars = s.cellars := rfl
@[simp] theorem setChan_pantry (s : State) (k : Nat) (r : Chan) : (s.setChan k r).pantry = s.pantry := rfl
@[simp] theorem setChan_cellar (s : State) (k : Nat) (r : Chan) : (s.setChan k r).cellar = s.cellar := rfl
@[simp] theorem setChan_larder (s : State) (k : Nat) (r : Chan) : (s.setChan k r).larder = s.larder := rfl
@[simp] theorem setChan_host (s : State) (k : Nat) (r : Chan) : (s.setChan k r).host = s.host := rfl
@[simp] theorem setChan_pantryUe (s : State) (k : Nat) (r : Chan) : (s.setChan k r).pantryUe = s.pantryUe := rfl
@[simp] theorem setChan_cellarUe (s : State) (k : Nat) (r : Chan) : (s.setChan k r).cellarUe = s.cellarUe := rfl
@[simp] theorem setChan_larderUe (s : State) (k : Nat) (r : Chan) : (s.setChan k r).larderUe = s.larderUe := rfl
@[simp] theorem setChan_ports (s : State) (k : Nat) (r : Chan) : (s.setChan k r).ports = s.ports := rfl
@[simp] theorem setChan_loopback (s : State) (k : Nat) (r : Chan) : (s.setChan k r).loopback = s.loopback := rfl
@[simp] theorem setChan_ovf (s : State) (k : Nat) (r : Chan) : (s.setChan k r).ovf = s.ovf := rfl
@[simp] theorem setChan_house (s : State) (k : Nat) (r : Chan) : (s.setChan k r).house = s.house := rfl
@[simp] theorem setChan_fy (s : State) (k : Nat) (r : Chan) : (s.setChan k r).fy = s.fy := rfl
@[simp] theorem setChan_rings (s : State) (k : Nat) (r : Chan) : (s.setChan k r).rings = s.rings := rfl
@[simp] theorem setChan_reqSeq (s : State) (k : Nat) (r : Chan) : (s.setChan k r).reqSeq = s.reqSeq := rfl
@[simp] theorem setChan_groups (s : State) (k : Nat) (r : Chan) : (s.setChan k r).groups = s.groups := rfl
@[simp] theorem setChan_rdx (s : State) (k : Nat) (r : Chan) : (s.setChan k r).rdx = s.rdx := rfl
@[simp] theorem setChan_study (s : State) (k : Nat) (r : Chan) : (s.setChan k r).study = s.study := rfl
@[simp] theorem setChan_flash (s : State) (k : Nat) (r : Chan) : (s.setChan k r).flash = s.flash := rfl
@[simp] theorem setChan_bar2Cut (s : State) (k : Nat) (r : Chan) : (s.setChan k r).bar2Cut = s.bar2Cut := rfl
@[simp] theorem setChan_side (s : State) (k : Nat) (r : Chan) : (s.setChan k r).side = s.side := rfl
@[simp] theorem setChan_room (s : State) (k j : Nat) (r : Chan) : (s.setChan k r).room j = s.room j := rfl
@[simp] theorem setChan_sq (s : State) (k j : Nat) (r : Chan) : (s.setChan k r).sq j = s.sq j := rfl
@[simp] theorem setChan_cq (s : State) (k j : Nat) (r : Chan) : (s.setChan k r).cq j = s.cq j := rfl
@[simp] theorem setChan_flag (s : State) (k j : Nat) (r : Chan) : (s.setChan k r).flag j = s.flag j := rfl
@[simp] theorem setChan_counter (s : State) (k j : Nat) (r : Chan) : (s.setChan k r).counter j = s.counter j := rfl
@[simp] theorem setChan_wire (s : State) (k j : Nat) (r : Chan) : (s.setChan k r).wire j = s.wire j := rfl
@[simp] theorem setChan_log (s : State) (k j : Nat) (r : Chan) : (s.setChan k r).log j = s.log j := rfl
@[simp] theorem setChan_arb (s : State) (k j : Nat) (r : Chan) : (s.setChan k r).arb j = s.arb j := rfl
@[simp] theorem setChan_arbiter (s : State) (k j : Nat) (r : Chan) : (s.setChan k r).arbiter j = s.arbiter j := rfl
@[simp] theorem setChan_domain (s : State) (k j : Nat) (r : Chan) : (s.setChan k r).domain j = s.domain j := rfl
@[simp] theorem setChan_cel (s : State) (k j : Nat) (r : Chan) : (s.setChan k r).cel j = s.cel j := rfl
@[simp] theorem setChan_port (s : State) (k j : Nat) (r : Chan) : (s.setChan k r).port j = s.port j := rfl
@[simp] theorem setChan_ovfOf (s : State) (k j : Nat) (r : Chan) : (s.setChan k r).ovfOf j = s.ovfOf j := rfl
@[simp] theorem setChan_now (s : State) (k : Nat) (r : Chan) : (s.setChan k r).now = s.now := rfl
theorem setChan_chan_ne (s : State) {k j : Nat} (r : Chan) (h : j ≠ k) : (s.setChan k r).chan j = s.chan j :=
  tget_tset_ne s.chans {} r h
theorem setChan_chan_eq {s : State} (k : Nat) (r : Chan) (h : tableWf {} s.chans = true) : (s.setChan k r).chan k = r :=
  tget_tset_eq k r h
theorem setChan_chan_of_ne (s : State) (k : Nat) {r : Chan} (h : r ≠ {}) : (s.setChan k r).chan k = r :=
  tget_tset_of_ne s.chans k h
theorem setChan_wf {s : State} (k : Nat) (r : Chan) (h : tableWf {} s.chans = true) : tableWf {} (s.setChan k r).chans = true :=
  tableWf_tset k r h

/-! ### setSq -/

@[simp] theorem setSq_sqs (s : State) (k : Nat) (r : Sq) : (s.setSq k r).sqs = tset s.sqs {} k r := rfl
@[simp] theorem setSq_pending (s : State) (k : Nat) (r : Sq) : (s.setSq k r).pending = s.pending := rfl
@[simp] theorem setSq_free (s : State) (k : Nat) (r : Sq) : (s.setSq k r).free = s.free := rfl
@[simp] theorem setSq_outputs (s : State) (k : Nat) (r : Sq) : (s.setSq k r).outputs = s.outputs := rfl
@[simp] theorem setSq_g (s : State) (k : Nat) (r : Sq) : (s.setSq k r).g = s.g := rfl
@[simp] theorem setSq_pins (s : State) (k : Nat) (r : Sq) : (s.setSq k r).pins = s.pins := rfl
@[simp] theorem setSq_pcie (s : State) (k : Nat) (r : Sq) : (s.setSq k r).pcie = s.pcie := rfl
@[simp] theorem setSq_msix (s : State) (k : Nat) (r : Sq) : (s.setSq k r).msix = s.msix := rfl
@[simp] theorem setSq_err (s : State) (k : Nat) (r : Sq) : (s.setSq k r).err = s.err := rfl
@[simp] theorem setSq_audit (s : State) (k : Nat) (r : Sq) : (s.setSq k r).audit = s.audit := rfl
@[simp] theorem setSq_logs (s : State) (k : Nat) (r : Sq) : (s.setSq k r).logs = s.logs := rfl
@[simp] theorem setSq_rooms (s : State) (k : Nat) (r : Sq) : (s.setSq k r).rooms = s.rooms := rfl
@[simp] theorem setSq_granules (s : State) (k : Nat) (r : Sq) : (s.setSq k r).granules = s.granules := rfl
@[simp] theorem setSq_chans (s : State) (k : Nat) (r : Sq) : (s.setSq k r).chans = s.chans := rfl
@[simp] theorem setSq_rotor (s : State) (k : Nat) (r : Sq) : (s.setSq k r).rotor = s.rotor := rfl
@[simp] theorem setSq_hostReads (s : State) (k : Nat) (r : Sq) : (s.setSq k r).hostReads = s.hostReads := rfl
@[simp] theorem setSq_proofs (s : State) (k : Nat) (r : Sq) : (s.setSq k r).proofs = s.proofs := rfl
@[simp] theorem setSq_peerReads (s : State) (k : Nat) (r : Sq) : (s.setSq k r).peerReads = s.peerReads := rfl
@[simp] theorem setSq_sqSignals (s : State) (k : Nat) (r : Sq) : (s.setSq k r).sqSignals = s.sqSignals := rfl
@[simp] theorem setSq_cqs (s : State) (k : Nat) (r : Sq) : (s.setSq k r).cqs = s.cqs := rfl
@[simp] theorem setSq_flags (s : State) (k : Nat) (r : Sq) : (s.setSq k r).flags = s.flags := rfl
@[simp] theorem setSq_counters (s : State) (k : Nat) (r : Sq) : (s.setSq k r).counters = s.counters := rfl
@[simp] theorem setSq_wires (s : State) (k : Nat) (r : Sq) : (s.setSq k r).wires = s.wires := rfl
@[simp] theorem setSq_waiters (s : State) (k : Nat) (r : Sq) : (s.setSq k r).waiters = s.waiters := rfl
@[simp] theorem setSq_tags (s : State) (k : Nat) (r : Sq) : (s.setSq k r).tags = s.tags := rfl
@[simp] theorem setSq_dbgFeAddr (s : State) (k : Nat) (r : Sq) : (s.setSq k r).dbgFeAddr = s.dbgFeAddr := rfl
@[simp] theorem setSq_polls (s : State) (k : Nat) (r : Sq) : (s.setSq k r).polls = s.polls := rfl
@[simp] theorem setSq_arbs (s : State) (k : Nat) (r : Sq) : (s.setSq k r).arbs = s.arbs := rfl
@[simp] theorem setSq_arbiters (s : State) (k : Nat) (r : Sq) : (s.setSq k r).arbiters = s.arbiters := rfl
@[simp] theorem setSq_cad (s : State) (k : Nat) (r : Sq) : (s.setSq k r).cad = s.cad := rfl
@[simp] theorem setSq_nrg (s : State) (k : Nat) (r : Sq) : (s.setSq k r).nrg = s.nrg := rfl
@[simp] theorem setSq_domains (s : State) (k : Nat) (r : Sq) : (s.setSq k r).domains = s.domains := rfl
@[simp] theorem setSq_cellars (s : State) (k : Nat) (r : Sq) : (s.setSq k r).cellars = s.cellars := rfl
@[simp] theorem setSq_pantry (s : State) (k : Nat) (r : Sq) : (s.setSq k r).pantry = s.pantry := rfl
@[simp] theorem setSq_cellar (s : State) (k : Nat) (r : Sq) : (s.setSq k r).cellar = s.cellar := rfl
@[simp] theorem setSq_larder (s : State) (k : Nat) (r : Sq) : (s.setSq k r).larder = s.larder := rfl
@[simp] theorem setSq_host (s : State) (k : Nat) (r : Sq) : (s.setSq k r).host = s.host := rfl
@[simp] theorem setSq_pantryUe (s : State) (k : Nat) (r : Sq) : (s.setSq k r).pantryUe = s.pantryUe := rfl
@[simp] theorem setSq_cellarUe (s : State) (k : Nat) (r : Sq) : (s.setSq k r).cellarUe = s.cellarUe := rfl
@[simp] theorem setSq_larderUe (s : State) (k : Nat) (r : Sq) : (s.setSq k r).larderUe = s.larderUe := rfl
@[simp] theorem setSq_ports (s : State) (k : Nat) (r : Sq) : (s.setSq k r).ports = s.ports := rfl
@[simp] theorem setSq_loopback (s : State) (k : Nat) (r : Sq) : (s.setSq k r).loopback = s.loopback := rfl
@[simp] theorem setSq_ovf (s : State) (k : Nat) (r : Sq) : (s.setSq k r).ovf = s.ovf := rfl
@[simp] theorem setSq_house (s : State) (k : Nat) (r : Sq) : (s.setSq k r).house = s.house := rfl
@[simp] theorem setSq_fy (s : State) (k : Nat) (r : Sq) : (s.setSq k r).fy = s.fy := rfl
@[simp] theorem setSq_rings (s : State) (k : Nat) (r : Sq) : (s.setSq k r).rings = s.rings := rfl
@[simp] theorem setSq_reqSeq (s : State) (k : Nat) (r : Sq) : (s.setSq k r).reqSeq = s.reqSeq := rfl
@[simp] theorem setSq_groups (s : State) (k : Nat) (r : Sq) : (s.setSq k r).groups = s.groups := rfl
@[simp] theorem setSq_rdx (s : State) (k : Nat) (r : Sq) : (s.setSq k r).rdx = s.rdx := rfl
@[simp] theorem setSq_study (s : State) (k : Nat) (r : Sq) : (s.setSq k r).study = s.study := rfl
@[simp] theorem setSq_flash (s : State) (k : Nat) (r : Sq) : (s.setSq k r).flash = s.flash := rfl
@[simp] theorem setSq_bar2Cut (s : State) (k : Nat) (r : Sq) : (s.setSq k r).bar2Cut = s.bar2Cut := rfl
@[simp] theorem setSq_side (s : State) (k : Nat) (r : Sq) : (s.setSq k r).side = s.side := rfl
@[simp] theorem setSq_room (s : State) (k j : Nat) (r : Sq) : (s.setSq k r).room j = s.room j := rfl
@[simp] theorem setSq_chan (s : State) (k j : Nat) (r : Sq) : (s.setSq k r).chan j = s.chan j := rfl
@[simp] theorem setSq_cq (s : State) (k j : Nat) (r : Sq) : (s.setSq k r).cq j = s.cq j := rfl
@[simp] theorem setSq_flag (s : State) (k j : Nat) (r : Sq) : (s.setSq k r).flag j = s.flag j := rfl
@[simp] theorem setSq_counter (s : State) (k j : Nat) (r : Sq) : (s.setSq k r).counter j = s.counter j := rfl
@[simp] theorem setSq_wire (s : State) (k j : Nat) (r : Sq) : (s.setSq k r).wire j = s.wire j := rfl
@[simp] theorem setSq_log (s : State) (k j : Nat) (r : Sq) : (s.setSq k r).log j = s.log j := rfl
@[simp] theorem setSq_arb (s : State) (k j : Nat) (r : Sq) : (s.setSq k r).arb j = s.arb j := rfl
@[simp] theorem setSq_arbiter (s : State) (k j : Nat) (r : Sq) : (s.setSq k r).arbiter j = s.arbiter j := rfl
@[simp] theorem setSq_domain (s : State) (k j : Nat) (r : Sq) : (s.setSq k r).domain j = s.domain j := rfl
@[simp] theorem setSq_cel (s : State) (k j : Nat) (r : Sq) : (s.setSq k r).cel j = s.cel j := rfl
@[simp] theorem setSq_port (s : State) (k j : Nat) (r : Sq) : (s.setSq k r).port j = s.port j := rfl
@[simp] theorem setSq_ovfOf (s : State) (k j : Nat) (r : Sq) : (s.setSq k r).ovfOf j = s.ovfOf j := rfl
@[simp] theorem setSq_now (s : State) (k : Nat) (r : Sq) : (s.setSq k r).now = s.now := rfl
theorem setSq_sq_ne (s : State) {k j : Nat} (r : Sq) (h : j ≠ k) : (s.setSq k r).sq j = s.sq j :=
  tget_tset_ne s.sqs {} r h
theorem setSq_sq_eq {s : State} (k : Nat) (r : Sq) (h : tableWf {} s.sqs = true) : (s.setSq k r).sq k = r :=
  tget_tset_eq k r h
theorem setSq_sq_of_ne (s : State) (k : Nat) {r : Sq} (h : r ≠ {}) : (s.setSq k r).sq k = r :=
  tget_tset_of_ne s.sqs k h
theorem setSq_wf {s : State} (k : Nat) (r : Sq) (h : tableWf {} s.sqs = true) : tableWf {} (s.setSq k r).sqs = true :=
  tableWf_tset k r h

/-! ### setCq -/

@[simp] theorem setCq_cqs (s : State) (k : Nat) (r : Cq) : (s.setCq k r).cqs = tset s.cqs {} k r := rfl
@[simp] theorem setCq_pending (s : State) (k : Nat) (r : Cq) : (s.setCq k r).pending = s.pending := rfl
@[simp] theorem setCq_free (s : State) (k : Nat) (r : Cq) : (s.setCq k r).free = s.free := rfl
@[simp] theorem setCq_outputs (s : State) (k : Nat) (r : Cq) : (s.setCq k r).outputs = s.outputs := rfl
@[simp] theorem setCq_g (s : State) (k : Nat) (r : Cq) : (s.setCq k r).g = s.g := rfl
@[simp] theorem setCq_pins (s : State) (k : Nat) (r : Cq) : (s.setCq k r).pins = s.pins := rfl
@[simp] theorem setCq_pcie (s : State) (k : Nat) (r : Cq) : (s.setCq k r).pcie = s.pcie := rfl
@[simp] theorem setCq_msix (s : State) (k : Nat) (r : Cq) : (s.setCq k r).msix = s.msix := rfl
@[simp] theorem setCq_err (s : State) (k : Nat) (r : Cq) : (s.setCq k r).err = s.err := rfl
@[simp] theorem setCq_audit (s : State) (k : Nat) (r : Cq) : (s.setCq k r).audit = s.audit := rfl
@[simp] theorem setCq_logs (s : State) (k : Nat) (r : Cq) : (s.setCq k r).logs = s.logs := rfl
@[simp] theorem setCq_rooms (s : State) (k : Nat) (r : Cq) : (s.setCq k r).rooms = s.rooms := rfl
@[simp] theorem setCq_granules (s : State) (k : Nat) (r : Cq) : (s.setCq k r).granules = s.granules := rfl
@[simp] theorem setCq_chans (s : State) (k : Nat) (r : Cq) : (s.setCq k r).chans = s.chans := rfl
@[simp] theorem setCq_rotor (s : State) (k : Nat) (r : Cq) : (s.setCq k r).rotor = s.rotor := rfl
@[simp] theorem setCq_hostReads (s : State) (k : Nat) (r : Cq) : (s.setCq k r).hostReads = s.hostReads := rfl
@[simp] theorem setCq_proofs (s : State) (k : Nat) (r : Cq) : (s.setCq k r).proofs = s.proofs := rfl
@[simp] theorem setCq_peerReads (s : State) (k : Nat) (r : Cq) : (s.setCq k r).peerReads = s.peerReads := rfl
@[simp] theorem setCq_sqSignals (s : State) (k : Nat) (r : Cq) : (s.setCq k r).sqSignals = s.sqSignals := rfl
@[simp] theorem setCq_sqs (s : State) (k : Nat) (r : Cq) : (s.setCq k r).sqs = s.sqs := rfl
@[simp] theorem setCq_flags (s : State) (k : Nat) (r : Cq) : (s.setCq k r).flags = s.flags := rfl
@[simp] theorem setCq_counters (s : State) (k : Nat) (r : Cq) : (s.setCq k r).counters = s.counters := rfl
@[simp] theorem setCq_wires (s : State) (k : Nat) (r : Cq) : (s.setCq k r).wires = s.wires := rfl
@[simp] theorem setCq_waiters (s : State) (k : Nat) (r : Cq) : (s.setCq k r).waiters = s.waiters := rfl
@[simp] theorem setCq_tags (s : State) (k : Nat) (r : Cq) : (s.setCq k r).tags = s.tags := rfl
@[simp] theorem setCq_dbgFeAddr (s : State) (k : Nat) (r : Cq) : (s.setCq k r).dbgFeAddr = s.dbgFeAddr := rfl
@[simp] theorem setCq_polls (s : State) (k : Nat) (r : Cq) : (s.setCq k r).polls = s.polls := rfl
@[simp] theorem setCq_arbs (s : State) (k : Nat) (r : Cq) : (s.setCq k r).arbs = s.arbs := rfl
@[simp] theorem setCq_arbiters (s : State) (k : Nat) (r : Cq) : (s.setCq k r).arbiters = s.arbiters := rfl
@[simp] theorem setCq_cad (s : State) (k : Nat) (r : Cq) : (s.setCq k r).cad = s.cad := rfl
@[simp] theorem setCq_nrg (s : State) (k : Nat) (r : Cq) : (s.setCq k r).nrg = s.nrg := rfl
@[simp] theorem setCq_domains (s : State) (k : Nat) (r : Cq) : (s.setCq k r).domains = s.domains := rfl
@[simp] theorem setCq_cellars (s : State) (k : Nat) (r : Cq) : (s.setCq k r).cellars = s.cellars := rfl
@[simp] theorem setCq_pantry (s : State) (k : Nat) (r : Cq) : (s.setCq k r).pantry = s.pantry := rfl
@[simp] theorem setCq_cellar (s : State) (k : Nat) (r : Cq) : (s.setCq k r).cellar = s.cellar := rfl
@[simp] theorem setCq_larder (s : State) (k : Nat) (r : Cq) : (s.setCq k r).larder = s.larder := rfl
@[simp] theorem setCq_host (s : State) (k : Nat) (r : Cq) : (s.setCq k r).host = s.host := rfl
@[simp] theorem setCq_pantryUe (s : State) (k : Nat) (r : Cq) : (s.setCq k r).pantryUe = s.pantryUe := rfl
@[simp] theorem setCq_cellarUe (s : State) (k : Nat) (r : Cq) : (s.setCq k r).cellarUe = s.cellarUe := rfl
@[simp] theorem setCq_larderUe (s : State) (k : Nat) (r : Cq) : (s.setCq k r).larderUe = s.larderUe := rfl
@[simp] theorem setCq_ports (s : State) (k : Nat) (r : Cq) : (s.setCq k r).ports = s.ports := rfl
@[simp] theorem setCq_loopback (s : State) (k : Nat) (r : Cq) : (s.setCq k r).loopback = s.loopback := rfl
@[simp] theorem setCq_ovf (s : State) (k : Nat) (r : Cq) : (s.setCq k r).ovf = s.ovf := rfl
@[simp] theorem setCq_house (s : State) (k : Nat) (r : Cq) : (s.setCq k r).house = s.house := rfl
@[simp] theorem setCq_fy (s : State) (k : Nat) (r : Cq) : (s.setCq k r).fy = s.fy := rfl
@[simp] theorem setCq_rings (s : State) (k : Nat) (r : Cq) : (s.setCq k r).rings = s.rings := rfl
@[simp] theorem setCq_reqSeq (s : State) (k : Nat) (r : Cq) : (s.setCq k r).reqSeq = s.reqSeq := rfl
@[simp] theorem setCq_groups (s : State) (k : Nat) (r : Cq) : (s.setCq k r).groups = s.groups := rfl
@[simp] theorem setCq_rdx (s : State) (k : Nat) (r : Cq) : (s.setCq k r).rdx = s.rdx := rfl
@[simp] theorem setCq_study (s : State) (k : Nat) (r : Cq) : (s.setCq k r).study = s.study := rfl
@[simp] theorem setCq_flash (s : State) (k : Nat) (r : Cq) : (s.setCq k r).flash = s.flash := rfl
@[simp] theorem setCq_bar2Cut (s : State) (k : Nat) (r : Cq) : (s.setCq k r).bar2Cut = s.bar2Cut := rfl
@[simp] theorem setCq_side (s : State) (k : Nat) (r : Cq) : (s.setCq k r).side = s.side := rfl
@[simp] theorem setCq_room (s : State) (k j : Nat) (r : Cq) : (s.setCq k r).room j = s.room j := rfl
@[simp] theorem setCq_chan (s : State) (k j : Nat) (r : Cq) : (s.setCq k r).chan j = s.chan j := rfl
@[simp] theorem setCq_sq (s : State) (k j : Nat) (r : Cq) : (s.setCq k r).sq j = s.sq j := rfl
@[simp] theorem setCq_flag (s : State) (k j : Nat) (r : Cq) : (s.setCq k r).flag j = s.flag j := rfl
@[simp] theorem setCq_counter (s : State) (k j : Nat) (r : Cq) : (s.setCq k r).counter j = s.counter j := rfl
@[simp] theorem setCq_wire (s : State) (k j : Nat) (r : Cq) : (s.setCq k r).wire j = s.wire j := rfl
@[simp] theorem setCq_log (s : State) (k j : Nat) (r : Cq) : (s.setCq k r).log j = s.log j := rfl
@[simp] theorem setCq_arb (s : State) (k j : Nat) (r : Cq) : (s.setCq k r).arb j = s.arb j := rfl
@[simp] theorem setCq_arbiter (s : State) (k j : Nat) (r : Cq) : (s.setCq k r).arbiter j = s.arbiter j := rfl
@[simp] theorem setCq_domain (s : State) (k j : Nat) (r : Cq) : (s.setCq k r).domain j = s.domain j := rfl
@[simp] theorem setCq_cel (s : State) (k j : Nat) (r : Cq) : (s.setCq k r).cel j = s.cel j := rfl
@[simp] theorem setCq_port (s : State) (k j : Nat) (r : Cq) : (s.setCq k r).port j = s.port j := rfl
@[simp] theorem setCq_ovfOf (s : State) (k j : Nat) (r : Cq) : (s.setCq k r).ovfOf j = s.ovfOf j := rfl
@[simp] theorem setCq_now (s : State) (k : Nat) (r : Cq) : (s.setCq k r).now = s.now := rfl
theorem setCq_cq_ne (s : State) {k j : Nat} (r : Cq) (h : j ≠ k) : (s.setCq k r).cq j = s.cq j :=
  tget_tset_ne s.cqs {} r h
theorem setCq_cq_eq {s : State} (k : Nat) (r : Cq) (h : tableWf {} s.cqs = true) : (s.setCq k r).cq k = r :=
  tget_tset_eq k r h
theorem setCq_cq_of_ne (s : State) (k : Nat) {r : Cq} (h : r ≠ {}) : (s.setCq k r).cq k = r :=
  tget_tset_of_ne s.cqs k h
theorem setCq_wf {s : State} (k : Nat) (r : Cq) (h : tableWf {} s.cqs = true) : tableWf {} (s.setCq k r).cqs = true :=
  tableWf_tset k r h

/-! ### setFlag -/

@[simp] theorem setFlag_flags (s : State) (k : Nat) (r : Flag) : (s.setFlag k r).flags = tset s.flags {} k r := rfl
@[simp] theorem setFlag_pending (s : State) (k : Nat) (r : Flag) : (s.setFlag k r).pending = s.pending := rfl
@[simp] theorem setFlag_free (s : State) (k : Nat) (r : Flag) : (s.setFlag k r).free = s.free := rfl
@[simp] theorem setFlag_outputs (s : State) (k : Nat) (r : Flag) : (s.setFlag k r).outputs = s.outputs := rfl
@[simp] theorem setFlag_g (s : State) (k : Nat) (r : Flag) : (s.setFlag k r).g = s.g := rfl
@[simp] theorem setFlag_pins (s : State) (k : Nat) (r : Flag) : (s.setFlag k r).pins = s.pins := rfl
@[simp] theorem setFlag_pcie (s : State) (k : Nat) (r : Flag) : (s.setFlag k r).pcie = s.pcie := rfl
@[simp] theorem setFlag_msix (s : State) (k : Nat) (r : Flag) : (s.setFlag k r).msix = s.msix := rfl
@[simp] theorem setFlag_err (s : State) (k : Nat) (r : Flag) : (s.setFlag k r).err = s.err := rfl
@[simp] theorem setFlag_audit (s : State) (k : Nat) (r : Flag) : (s.setFlag k r).audit = s.audit := rfl
@[simp] theorem setFlag_logs (s : State) (k : Nat) (r : Flag) : (s.setFlag k r).logs = s.logs := rfl
@[simp] theorem setFlag_rooms (s : State) (k : Nat) (r : Flag) : (s.setFlag k r).rooms = s.rooms := rfl
@[simp] theorem setFlag_granules (s : State) (k : Nat) (r : Flag) : (s.setFlag k r).granules = s.granules := rfl
@[simp] theorem setFlag_chans (s : State) (k : Nat) (r : Flag) : (s.setFlag k r).chans = s.chans := rfl
@[simp] theorem setFlag_rotor (s : State) (k : Nat) (r : Flag) : (s.setFlag k r).rotor = s.rotor := rfl
@[simp] theorem setFlag_hostReads (s : State) (k : Nat) (r : Flag) : (s.setFlag k r).hostReads = s.hostReads := rfl
@[simp] theorem setFlag_proofs (s : State) (k : Nat) (r : Flag) : (s.setFlag k r).proofs = s.proofs := rfl
@[simp] theorem setFlag_peerReads (s : State) (k : Nat) (r : Flag) : (s.setFlag k r).peerReads = s.peerReads := rfl
@[simp] theorem setFlag_sqSignals (s : State) (k : Nat) (r : Flag) : (s.setFlag k r).sqSignals = s.sqSignals := rfl
@[simp] theorem setFlag_sqs (s : State) (k : Nat) (r : Flag) : (s.setFlag k r).sqs = s.sqs := rfl
@[simp] theorem setFlag_cqs (s : State) (k : Nat) (r : Flag) : (s.setFlag k r).cqs = s.cqs := rfl
@[simp] theorem setFlag_counters (s : State) (k : Nat) (r : Flag) : (s.setFlag k r).counters = s.counters := rfl
@[simp] theorem setFlag_wires (s : State) (k : Nat) (r : Flag) : (s.setFlag k r).wires = s.wires := rfl
@[simp] theorem setFlag_waiters (s : State) (k : Nat) (r : Flag) : (s.setFlag k r).waiters = s.waiters := rfl
@[simp] theorem setFlag_tags (s : State) (k : Nat) (r : Flag) : (s.setFlag k r).tags = s.tags := rfl
@[simp] theorem setFlag_dbgFeAddr (s : State) (k : Nat) (r : Flag) : (s.setFlag k r).dbgFeAddr = s.dbgFeAddr := rfl
@[simp] theorem setFlag_polls (s : State) (k : Nat) (r : Flag) : (s.setFlag k r).polls = s.polls := rfl
@[simp] theorem setFlag_arbs (s : State) (k : Nat) (r : Flag) : (s.setFlag k r).arbs = s.arbs := rfl
@[simp] theorem setFlag_arbiters (s : State) (k : Nat) (r : Flag) : (s.setFlag k r).arbiters = s.arbiters := rfl
@[simp] theorem setFlag_cad (s : State) (k : Nat) (r : Flag) : (s.setFlag k r).cad = s.cad := rfl
@[simp] theorem setFlag_nrg (s : State) (k : Nat) (r : Flag) : (s.setFlag k r).nrg = s.nrg := rfl
@[simp] theorem setFlag_domains (s : State) (k : Nat) (r : Flag) : (s.setFlag k r).domains = s.domains := rfl
@[simp] theorem setFlag_cellars (s : State) (k : Nat) (r : Flag) : (s.setFlag k r).cellars = s.cellars := rfl
@[simp] theorem setFlag_pantry (s : State) (k : Nat) (r : Flag) : (s.setFlag k r).pantry = s.pantry := rfl
@[simp] theorem setFlag_cellar (s : State) (k : Nat) (r : Flag) : (s.setFlag k r).cellar = s.cellar := rfl
@[simp] theorem setFlag_larder (s : State) (k : Nat) (r : Flag) : (s.setFlag k r).larder = s.larder := rfl
@[simp] theorem setFlag_host (s : State) (k : Nat) (r : Flag) : (s.setFlag k r).host = s.host := rfl
@[simp] theorem setFlag_pantryUe (s : State) (k : Nat) (r : Flag) : (s.setFlag k r).pantryUe = s.pantryUe := rfl
@[simp] theorem setFlag_cellarUe (s : State) (k : Nat) (r : Flag) : (s.setFlag k r).cellarUe = s.cellarUe := rfl
@[simp] theorem setFlag_larderUe (s : State) (k : Nat) (r : Flag) : (s.setFlag k r).larderUe = s.larderUe := rfl
@[simp] theorem setFlag_ports (s : State) (k : Nat) (r : Flag) : (s.setFlag k r).ports = s.ports := rfl
@[simp] theorem setFlag_loopback (s : State) (k : Nat) (r : Flag) : (s.setFlag k r).loopback = s.loopback := rfl
@[simp] theorem setFlag_ovf (s : State) (k : Nat) (r : Flag) : (s.setFlag k r).ovf = s.ovf := rfl
@[simp] theorem setFlag_house (s : State) (k : Nat) (r : Flag) : (s.setFlag k r).house = s.house := rfl
@[simp] theorem setFlag_fy (s : State) (k : Nat) (r : Flag) : (s.setFlag k r).fy = s.fy := rfl
@[simp] theorem setFlag_rings (s : State) (k : Nat) (r : Flag) : (s.setFlag k r).rings = s.rings := rfl
@[simp] theorem setFlag_reqSeq (s : State) (k : Nat) (r : Flag) : (s.setFlag k r).reqSeq = s.reqSeq := rfl
@[simp] theorem setFlag_groups (s : State) (k : Nat) (r : Flag) : (s.setFlag k r).groups = s.groups := rfl
@[simp] theorem setFlag_rdx (s : State) (k : Nat) (r : Flag) : (s.setFlag k r).rdx = s.rdx := rfl
@[simp] theorem setFlag_study (s : State) (k : Nat) (r : Flag) : (s.setFlag k r).study = s.study := rfl
@[simp] theorem setFlag_flash (s : State) (k : Nat) (r : Flag) : (s.setFlag k r).flash = s.flash := rfl
@[simp] theorem setFlag_bar2Cut (s : State) (k : Nat) (r : Flag) : (s.setFlag k r).bar2Cut = s.bar2Cut := rfl
@[simp] theorem setFlag_side (s : State) (k : Nat) (r : Flag) : (s.setFlag k r).side = s.side := rfl
@[simp] theorem setFlag_room (s : State) (k j : Nat) (r : Flag) : (s.setFlag k r).room j = s.room j := rfl
@[simp] theorem setFlag_chan (s : State) (k j : Nat) (r : Flag) : (s.setFlag k r).chan j = s.chan j := rfl
@[simp] theorem setFlag_sq (s : State) (k j : Nat) (r : Flag) : (s.setFlag k r).sq j = s.sq j := rfl
@[simp] theorem setFlag_cq (s : State) (k j : Nat) (r : Flag) : (s.setFlag k r).cq j = s.cq j := rfl
@[simp] theorem setFlag_counter (s : State) (k j : Nat) (r : Flag) : (s.setFlag k r).counter j = s.counter j := rfl
@[simp] theorem setFlag_wire (s : State) (k j : Nat) (r : Flag) : (s.setFlag k r).wire j = s.wire j := rfl
@[simp] theorem setFlag_log (s : State) (k j : Nat) (r : Flag) : (s.setFlag k r).log j = s.log j := rfl
@[simp] theorem setFlag_arb (s : State) (k j : Nat) (r : Flag) : (s.setFlag k r).arb j = s.arb j := rfl
@[simp] theorem setFlag_arbiter (s : State) (k j : Nat) (r : Flag) : (s.setFlag k r).arbiter j = s.arbiter j := rfl
@[simp] theorem setFlag_domain (s : State) (k j : Nat) (r : Flag) : (s.setFlag k r).domain j = s.domain j := rfl
@[simp] theorem setFlag_cel (s : State) (k j : Nat) (r : Flag) : (s.setFlag k r).cel j = s.cel j := rfl
@[simp] theorem setFlag_port (s : State) (k j : Nat) (r : Flag) : (s.setFlag k r).port j = s.port j := rfl
@[simp] theorem setFlag_ovfOf (s : State) (k j : Nat) (r : Flag) : (s.setFlag k r).ovfOf j = s.ovfOf j := rfl
@[simp] theorem setFlag_now (s : State) (k : Nat) (r : Flag) : (s.setFlag k r).now = s.now := rfl
theorem setFlag_flag_ne (s : State) {k j : Nat} (r : Flag) (h : j ≠ k) : (s.setFlag k r).flag j = s.flag j :=
  tget_tset_ne s.flags {} r h
theorem setFlag_flag_eq {s : State} (k : Nat) (r : Flag) (h : tableWf {} s.flags = true) : (s.setFlag k r).flag k = r :=
  tget_tset_eq k r h
theorem setFlag_flag_of_ne (s : State) (k : Nat) {r : Flag} (h : r ≠ {}) : (s.setFlag k r).flag k = r :=
  tget_tset_of_ne s.flags k h
theorem setFlag_wf {s : State} (k : Nat) (r : Flag) (h : tableWf {} s.flags = true) : tableWf {} (s.setFlag k r).flags = true :=
  tableWf_tset k r h

/-! ### setCounter -/

@[simp] theorem setCounter_counters (s : State) (k : Nat) (r : Counter) : (s.setCounter k r).counters = tset s.counters {} k r := rfl
@[simp] theorem setCounter_pending (s : State) (k : Nat) (r : Counter) : (s.setCounter k r).pending = s.pending := rfl
@[simp] theorem setCounter_free (s : State) (k : Nat) (r : Counter) : (s.setCounter k r).free = s.free := rfl
@[simp] theorem setCounter_outputs (s : State) (k : Nat) (r : Counter) : (s.setCounter k r).outputs = s.outputs := rfl
@[simp] theorem setCounter_g (s : State) (k : Nat) (r : Counter) : (s.setCounter k r).g = s.g := rfl
@[simp] theorem setCounter_pins (s : State) (k : Nat) (r : Counter) : (s.setCounter k r).pins = s.pins := rfl
@[simp] theorem setCounter_pcie (s : State) (k : Nat) (r : Counter) : (s.setCounter k r).pcie = s.pcie := rfl
@[simp] theorem setCounter_msix (s : State) (k : Nat) (r : Counter) : (s.setCounter k r).msix = s.msix := rfl
@[simp] theorem setCounter_err (s : State) (k : Nat) (r : Counter) : (s.setCounter k r).err = s.err := rfl
@[simp] theorem setCounter_audit (s : State) (k : Nat) (r : Counter) : (s.setCounter k r).audit = s.audit := rfl
@[simp] theorem setCounter_logs (s : State) (k : Nat) (r : Counter) : (s.setCounter k r).logs = s.logs := rfl
@[simp] theorem setCounter_rooms (s : State) (k : Nat) (r : Counter) : (s.setCounter k r).rooms = s.rooms := rfl
@[simp] theorem setCounter_granules (s : State) (k : Nat) (r : Counter) : (s.setCounter k r).granules = s.granules := rfl
@[simp] theorem setCounter_chans (s : State) (k : Nat) (r : Counter) : (s.setCounter k r).chans = s.chans := rfl
@[simp] theorem setCounter_rotor (s : State) (k : Nat) (r : Counter) : (s.setCounter k r).rotor = s.rotor := rfl
@[simp] theorem setCounter_hostReads (s : State) (k : Nat) (r : Counter) : (s.setCounter k r).hostReads = s.hostReads := rfl
@[simp] theorem setCounter_proofs (s : State) (k : Nat) (r : Counter) : (s.setCounter k r).proofs = s.proofs := rfl
@[simp] theorem setCounter_peerReads (s : State) (k : Nat) (r : Counter) : (s.setCounter k r).peerReads = s.peerReads := rfl
@[simp] theorem setCounter_sqSignals (s : State) (k : Nat) (r : Counter) : (s.setCounter k r).sqSignals = s.sqSignals := rfl
@[simp] theorem setCounter_sqs (s : State) (k : Nat) (r : Counter) : (s.setCounter k r).sqs = s.sqs := rfl
@[simp] theorem setCounter_cqs (s : State) (k : Nat) (r : Counter) : (s.setCounter k r).cqs = s.cqs := rfl
@[simp] theorem setCounter_flags (s : State) (k : Nat) (r : Counter) : (s.setCounter k r).flags = s.flags := rfl
@[simp] theorem setCounter_wires (s : State) (k : Nat) (r : Counter) : (s.setCounter k r).wires = s.wires := rfl
@[simp] theorem setCounter_waiters (s : State) (k : Nat) (r : Counter) : (s.setCounter k r).waiters = s.waiters := rfl
@[simp] theorem setCounter_tags (s : State) (k : Nat) (r : Counter) : (s.setCounter k r).tags = s.tags := rfl
@[simp] theorem setCounter_dbgFeAddr (s : State) (k : Nat) (r : Counter) : (s.setCounter k r).dbgFeAddr = s.dbgFeAddr := rfl
@[simp] theorem setCounter_polls (s : State) (k : Nat) (r : Counter) : (s.setCounter k r).polls = s.polls := rfl
@[simp] theorem setCounter_arbs (s : State) (k : Nat) (r : Counter) : (s.setCounter k r).arbs = s.arbs := rfl
@[simp] theorem setCounter_arbiters (s : State) (k : Nat) (r : Counter) : (s.setCounter k r).arbiters = s.arbiters := rfl
@[simp] theorem setCounter_cad (s : State) (k : Nat) (r : Counter) : (s.setCounter k r).cad = s.cad := rfl
@[simp] theorem setCounter_nrg (s : State) (k : Nat) (r : Counter) : (s.setCounter k r).nrg = s.nrg := rfl
@[simp] theorem setCounter_domains (s : State) (k : Nat) (r : Counter) : (s.setCounter k r).domains = s.domains := rfl
@[simp] theorem setCounter_cellars (s : State) (k : Nat) (r : Counter) : (s.setCounter k r).cellars = s.cellars := rfl
@[simp] theorem setCounter_pantry (s : State) (k : Nat) (r : Counter) : (s.setCounter k r).pantry = s.pantry := rfl
@[simp] theorem setCounter_cellar (s : State) (k : Nat) (r : Counter) : (s.setCounter k r).cellar = s.cellar := rfl
@[simp] theorem setCounter_larder (s : State) (k : Nat) (r : Counter) : (s.setCounter k r).larder = s.larder := rfl
@[simp] theorem setCounter_host (s : State) (k : Nat) (r : Counter) : (s.setCounter k r).host = s.host := rfl
@[simp] theorem setCounter_pantryUe (s : State) (k : Nat) (r : Counter) : (s.setCounter k r).pantryUe = s.pantryUe := rfl
@[simp] theorem setCounter_cellarUe (s : State) (k : Nat) (r : Counter) : (s.setCounter k r).cellarUe = s.cellarUe := rfl
@[simp] theorem setCounter_larderUe (s : State) (k : Nat) (r : Counter) : (s.setCounter k r).larderUe = s.larderUe := rfl
@[simp] theorem setCounter_ports (s : State) (k : Nat) (r : Counter) : (s.setCounter k r).ports = s.ports := rfl
@[simp] theorem setCounter_loopback (s : State) (k : Nat) (r : Counter) : (s.setCounter k r).loopback = s.loopback := rfl
@[simp] theorem setCounter_ovf (s : State) (k : Nat) (r : Counter) : (s.setCounter k r).ovf = s.ovf := rfl
@[simp] theorem setCounter_house (s : State) (k : Nat) (r : Counter) : (s.setCounter k r).house = s.house := rfl
@[simp] theorem setCounter_fy (s : State) (k : Nat) (r : Counter) : (s.setCounter k r).fy = s.fy := rfl
@[simp] theorem setCounter_rings (s : State) (k : Nat) (r : Counter) : (s.setCounter k r).rings = s.rings := rfl
@[simp] theorem setCounter_reqSeq (s : State) (k : Nat) (r : Counter) : (s.setCounter k r).reqSeq = s.reqSeq := rfl
@[simp] theorem setCounter_groups (s : State) (k : Nat) (r : Counter) : (s.setCounter k r).groups = s.groups := rfl
@[simp] theorem setCounter_rdx (s : State) (k : Nat) (r : Counter) : (s.setCounter k r).rdx = s.rdx := rfl
@[simp] theorem setCounter_study (s : State) (k : Nat) (r : Counter) : (s.setCounter k r).study = s.study := rfl
@[simp] theorem setCounter_flash (s : State) (k : Nat) (r : Counter) : (s.setCounter k r).flash = s.flash := rfl
@[simp] theorem setCounter_bar2Cut (s : State) (k : Nat) (r : Counter) : (s.setCounter k r).bar2Cut = s.bar2Cut := rfl
@[simp] theorem setCounter_side (s : State) (k : Nat) (r : Counter) : (s.setCounter k r).side = s.side := rfl
@[simp] theorem setCounter_room (s : State) (k j : Nat) (r : Counter) : (s.setCounter k r).room j = s.room j := rfl
@[simp] theorem setCounter_chan (s : State) (k j : Nat) (r : Counter) : (s.setCounter k r).chan j = s.chan j := rfl
@[simp] theorem setCounter_sq (s : State) (k j : Nat) (r : Counter) : (s.setCounter k r).sq j = s.sq j := rfl
@[simp] theorem setCounter_cq (s : State) (k j : Nat) (r : Counter) : (s.setCounter k r).cq j = s.cq j := rfl
@[simp] theorem setCounter_flag (s : State) (k j : Nat) (r : Counter) : (s.setCounter k r).flag j = s.flag j := rfl
@[simp] theorem setCounter_wire (s : State) (k j : Nat) (r : Counter) : (s.setCounter k r).wire j = s.wire j := rfl
@[simp] theorem setCounter_log (s : State) (k j : Nat) (r : Counter) : (s.setCounter k r).log j = s.log j := rfl
@[simp] theorem setCounter_arb (s : State) (k j : Nat) (r : Counter) : (s.setCounter k r).arb j = s.arb j := rfl
@[simp] theorem setCounter_arbiter (s : State) (k j : Nat) (r : Counter) : (s.setCounter k r).arbiter j = s.arbiter j := rfl
@[simp] theorem setCounter_domain (s : State) (k j : Nat) (r : Counter) : (s.setCounter k r).domain j = s.domain j := rfl
@[simp] theorem setCounter_cel (s : State) (k j : Nat) (r : Counter) : (s.setCounter k r).cel j = s.cel j := rfl
@[simp] theorem setCounter_port (s : State) (k j : Nat) (r : Counter) : (s.setCounter k r).port j = s.port j := rfl
@[simp] theorem setCounter_ovfOf (s : State) (k j : Nat) (r : Counter) : (s.setCounter k r).ovfOf j = s.ovfOf j := rfl
@[simp] theorem setCounter_now (s : State) (k : Nat) (r : Counter) : (s.setCounter k r).now = s.now := rfl
theorem setCounter_counter_ne (s : State) {k j : Nat} (r : Counter) (h : j ≠ k) : (s.setCounter k r).counter j = s.counter j :=
  tget_tset_ne s.counters {} r h
theorem setCounter_counter_eq {s : State} (k : Nat) (r : Counter) (h : tableWf {} s.counters = true) : (s.setCounter k r).counter k = r :=
  tget_tset_eq k r h
theorem setCounter_counter_of_ne (s : State) (k : Nat) {r : Counter} (h : r ≠ {}) : (s.setCounter k r).counter k = r :=
  tget_tset_of_ne s.counters k h
theorem setCounter_wf {s : State} (k : Nat) (r : Counter) (h : tableWf {} s.counters = true) : tableWf {} (s.setCounter k r).counters = true :=
  tableWf_tset k r h

/-! ### setWire -/

@[simp] theorem setWire_wires (s : State) (k : Nat) (r : Wire) : (s.setWire k r).wires = tset s.wires {} k r := rfl
@[simp] theorem setWire_pending (s : State) (k : Nat) (r : Wire) : (s.setWire k r).pending = s.pending := rfl
@[simp] theorem setWire_free (s : State) (k : Nat) (r : Wire) : (s.setWire k r).free = s.free := rfl
@[simp] theorem setWire_outputs (s : State) (k : Nat) (r : Wire) : (s.setWire k r).outputs = s.outputs := rfl
@[simp] theorem setWire_g (s : State) (k : Nat) (r : Wire) : (s.setWire k r).g = s.g := rfl
@[simp] theorem setWire_pins (s : State) (k : Nat) (r : Wire) : (s.setWire k r).pins = s.pins := rfl
@[simp] theorem setWire_pcie (s : State) (k : Nat) (r : Wire) : (s.setWire k r).pcie = s.pcie := rfl
@[simp] theorem setWire_msix (s : State) (k : Nat) (r : Wire) : (s.setWire k r).msix = s.msix := rfl
@[simp] theorem setWire_err (s : State) (k : Nat) (r : Wire) : (s.setWire k r).err = s.err := rfl
@[simp] theorem setWire_audit (s : State) (k : Nat) (r : Wire) : (s.setWire k r).audit = s.audit := rfl
@[simp] theorem setWire_logs (s : State) (k : Nat) (r : Wire) : (s.setWire k r).logs = s.logs := rfl
@[simp] theorem setWire_rooms (s : State) (k : Nat) (r : Wire) : (s.setWire k r).rooms = s.rooms := rfl
@[simp] theorem setWire_granules (s : State) (k : Nat) (r : Wire) : (s.setWire k r).granules = s.granules := rfl
@[simp] theorem setWire_chans (s : State) (k : Nat) (r : Wire) : (s.setWire k r).chans = s.chans := rfl
@[simp] theorem setWire_rotor (s : State) (k : Nat) (r : Wire) : (s.setWire k r).rotor = s.rotor := rfl
@[simp] theorem setWire_hostReads (s : State) (k : Nat) (r : Wire) : (s.setWire k r).hostReads = s.hostReads := rfl
@[simp] theorem setWire_proofs (s : State) (k : Nat) (r : Wire) : (s.setWire k r).proofs = s.proofs := rfl
@[simp] theorem setWire_peerReads (s : State) (k : Nat) (r : Wire) : (s.setWire k r).peerReads = s.peerReads := rfl
@[simp] theorem setWire_sqSignals (s : State) (k : Nat) (r : Wire) : (s.setWire k r).sqSignals = s.sqSignals := rfl
@[simp] theorem setWire_sqs (s : State) (k : Nat) (r : Wire) : (s.setWire k r).sqs = s.sqs := rfl
@[simp] theorem setWire_cqs (s : State) (k : Nat) (r : Wire) : (s.setWire k r).cqs = s.cqs := rfl
@[simp] theorem setWire_flags (s : State) (k : Nat) (r : Wire) : (s.setWire k r).flags = s.flags := rfl
@[simp] theorem setWire_counters (s : State) (k : Nat) (r : Wire) : (s.setWire k r).counters = s.counters := rfl
@[simp] theorem setWire_waiters (s : State) (k : Nat) (r : Wire) : (s.setWire k r).waiters = s.waiters := rfl
@[simp] theorem setWire_tags (s : State) (k : Nat) (r : Wire) : (s.setWire k r).tags = s.tags := rfl
@[simp] theorem setWire_dbgFeAddr (s : State) (k : Nat) (r : Wire) : (s.setWire k r).dbgFeAddr = s.dbgFeAddr := rfl
@[simp] theorem setWire_polls (s : State) (k : Nat) (r : Wire) : (s.setWire k r).polls = s.polls := rfl
@[simp] theorem setWire_arbs (s : State) (k : Nat) (r : Wire) : (s.setWire k r).arbs = s.arbs := rfl
@[simp] theorem setWire_arbiters (s : State) (k : Nat) (r : Wire) : (s.setWire k r).arbiters = s.arbiters := rfl
@[simp] theorem setWire_cad (s : State) (k : Nat) (r : Wire) : (s.setWire k r).cad = s.cad := rfl
@[simp] theorem setWire_nrg (s : State) (k : Nat) (r : Wire) : (s.setWire k r).nrg = s.nrg := rfl
@[simp] theorem setWire_domains (s : State) (k : Nat) (r : Wire) : (s.setWire k r).domains = s.domains := rfl
@[simp] theorem setWire_cellars (s : State) (k : Nat) (r : Wire) : (s.setWire k r).cellars = s.cellars := rfl
@[simp] theorem setWire_pantry (s : State) (k : Nat) (r : Wire) : (s.setWire k r).pantry = s.pantry := rfl
@[simp] theorem setWire_cellar (s : State) (k : Nat) (r : Wire) : (s.setWire k r).cellar = s.cellar := rfl
@[simp] theorem setWire_larder (s : State) (k : Nat) (r : Wire) : (s.setWire k r).larder = s.larder := rfl
@[simp] theorem setWire_host (s : State) (k : Nat) (r : Wire) : (s.setWire k r).host = s.host := rfl
@[simp] theorem setWire_pantryUe (s : State) (k : Nat) (r : Wire) : (s.setWire k r).pantryUe = s.pantryUe := rfl
@[simp] theorem setWire_cellarUe (s : State) (k : Nat) (r : Wire) : (s.setWire k r).cellarUe = s.cellarUe := rfl
@[simp] theorem setWire_larderUe (s : State) (k : Nat) (r : Wire) : (s.setWire k r).larderUe = s.larderUe := rfl
@[simp] theorem setWire_ports (s : State) (k : Nat) (r : Wire) : (s.setWire k r).ports = s.ports := rfl
@[simp] theorem setWire_loopback (s : State) (k : Nat) (r : Wire) : (s.setWire k r).loopback = s.loopback := rfl
@[simp] theorem setWire_ovf (s : State) (k : Nat) (r : Wire) : (s.setWire k r).ovf = s.ovf := rfl
@[simp] theorem setWire_house (s : State) (k : Nat) (r : Wire) : (s.setWire k r).house = s.house := rfl
@[simp] theorem setWire_fy (s : State) (k : Nat) (r : Wire) : (s.setWire k r).fy = s.fy := rfl
@[simp] theorem setWire_rings (s : State) (k : Nat) (r : Wire) : (s.setWire k r).rings = s.rings := rfl
@[simp] theorem setWire_reqSeq (s : State) (k : Nat) (r : Wire) : (s.setWire k r).reqSeq = s.reqSeq := rfl
@[simp] theorem setWire_groups (s : State) (k : Nat) (r : Wire) : (s.setWire k r).groups = s.groups := rfl
@[simp] theorem setWire_rdx (s : State) (k : Nat) (r : Wire) : (s.setWire k r).rdx = s.rdx := rfl
@[simp] theorem setWire_study (s : State) (k : Nat) (r : Wire) : (s.setWire k r).study = s.study := rfl
@[simp] theorem setWire_flash (s : State) (k : Nat) (r : Wire) : (s.setWire k r).flash = s.flash := rfl
@[simp] theorem setWire_bar2Cut (s : State) (k : Nat) (r : Wire) : (s.setWire k r).bar2Cut = s.bar2Cut := rfl
@[simp] theorem setWire_side (s : State) (k : Nat) (r : Wire) : (s.setWire k r).side = s.side := rfl
@[simp] theorem setWire_room (s : State) (k j : Nat) (r : Wire) : (s.setWire k r).room j = s.room j := rfl
@[simp] theorem setWire_chan (s : State) (k j : Nat) (r : Wire) : (s.setWire k r).chan j = s.chan j := rfl
@[simp] theorem setWire_sq (s : State) (k j : Nat) (r : Wire) : (s.setWire k r).sq j = s.sq j := rfl
@[simp] theorem setWire_cq (s : State) (k j : Nat) (r : Wire) : (s.setWire k r).cq j = s.cq j := rfl
@[simp] theorem setWire_flag (s : State) (k j : Nat) (r : Wire) : (s.setWire k r).flag j = s.flag j := rfl
@[simp] theorem setWire_counter (s : State) (k j : Nat) (r : Wire) : (s.setWire k r).counter j = s.counter j := rfl
@[simp] theorem setWire_log (s : State) (k j : Nat) (r : Wire) : (s.setWire k r).log j = s.log j := rfl
@[simp] theorem setWire_arb (s : State) (k j : Nat) (r : Wire) : (s.setWire k r).arb j = s.arb j := rfl
@[simp] theorem setWire_arbiter (s : State) (k j : Nat) (r : Wire) : (s.setWire k r).arbiter j = s.arbiter j := rfl
@[simp] theorem setWire_domain (s : State) (k j : Nat) (r : Wire) : (s.setWire k r).domain j = s.domain j := rfl
@[simp] theorem setWire_cel (s : State) (k j : Nat) (r : Wire) : (s.setWire k r).cel j = s.cel j := rfl
@[simp] theorem setWire_port (s : State) (k j : Nat) (r : Wire) : (s.setWire k r).port j = s.port j := rfl
@[simp] theorem setWire_ovfOf (s : State) (k j : Nat) (r : Wire) : (s.setWire k r).ovfOf j = s.ovfOf j := rfl
@[simp] theorem setWire_now (s : State) (k : Nat) (r : Wire) : (s.setWire k r).now = s.now := rfl
theorem setWire_wire_ne (s : State) {k j : Nat} (r : Wire) (h : j ≠ k) : (s.setWire k r).wire j = s.wire j :=
  tget_tset_ne s.wires {} r h
theorem setWire_wire_eq {s : State} (k : Nat) (r : Wire) (h : tableWf {} s.wires = true) : (s.setWire k r).wire k = r :=
  tget_tset_eq k r h
theorem setWire_wire_of_ne (s : State) (k : Nat) {r : Wire} (h : r ≠ {}) : (s.setWire k r).wire k = r :=
  tget_tset_of_ne s.wires k h
theorem setWire_wf {s : State} (k : Nat) (r : Wire) (h : tableWf {} s.wires = true) : tableWf {} (s.setWire k r).wires = true :=
  tableWf_tset k r h

/-! ### setLog -/

@[simp] theorem setLog_logs (s : State) (k : Nat) (r : LogRegs) : (s.setLog k r).logs = tset s.logs {} k r := rfl
@[simp] theorem setLog_pending (s : State) (k : Nat) (r : LogRegs) : (s.setLog k r).pending = s.pending := rfl
@[simp] theorem setLog_free (s : State) (k : Nat) (r : LogRegs) : (s.setLog k r).free = s.free := rfl
@[simp] theorem setLog_outputs (s : State) (k : Nat) (r : LogRegs) : (s.setLog k r).outputs = s.outputs := rfl
@[simp] theorem setLog_g (s : State) (k : Nat) (r : LogRegs) : (s.setLog k r).g = s.g := rfl
@[simp] theorem setLog_pins (s : State) (k : Nat) (r : LogRegs) : (s.setLog k r).pins = s.pins := rfl
@[simp] theorem setLog_pcie (s : State) (k : Nat) (r : LogRegs) : (s.setLog k r).pcie = s.pcie := rfl
@[simp] theorem setLog_msix (s : State) (k : Nat) (r : LogRegs) : (s.setLog k r).msix = s.msix := rfl
@[simp] theorem setLog_err (s : State) (k : Nat) (r : LogRegs) : (s.setLog k r).err = s.err := rfl
@[simp] theorem setLog_audit (s : State) (k : Nat) (r : LogRegs) : (s.setLog k r).audit = s.audit := rfl
@[simp] theorem setLog_rooms (s : State) (k : Nat) (r : LogRegs) : (s.setLog k r).rooms = s.rooms := rfl
@[simp] theorem setLog_granules (s : State) (k : Nat) (r : LogRegs) : (s.setLog k r).granules = s.granules := rfl
@[simp] theorem setLog_chans (s : State) (k : Nat) (r : LogRegs) : (s.setLog k r).chans = s.chans := rfl
@[simp] theorem setLog_rotor (s : State) (k : Nat) (r : LogRegs) : (s.setLog k r).rotor = s.rotor := rfl
@[simp] theorem setLog_hostReads (s : State) (k : Nat) (r : LogRegs) : (s.setLog k r).hostReads = s.hostReads := rfl
@[simp] theorem setLog_proofs (s : State) (k : Nat) (r : LogRegs) : (s.setLog k r).proofs = s.proofs := rfl
@[simp] theorem setLog_peerReads (s : State) (k : Nat) (r : LogRegs) : (s.setLog k r).peerReads = s.peerReads := rfl
@[simp] theorem setLog_sqSignals (s : State) (k : Nat) (r : LogRegs) : (s.setLog k r).sqSignals = s.sqSignals := rfl
@[simp] theorem setLog_sqs (s : State) (k : Nat) (r : LogRegs) : (s.setLog k r).sqs = s.sqs := rfl
@[simp] theorem setLog_cqs (s : State) (k : Nat) (r : LogRegs) : (s.setLog k r).cqs = s.cqs := rfl
@[simp] theorem setLog_flags (s : State) (k : Nat) (r : LogRegs) : (s.setLog k r).flags = s.flags := rfl
@[simp] theorem setLog_counters (s : State) (k : Nat) (r : LogRegs) : (s.setLog k r).counters = s.counters := rfl
@[simp] theorem setLog_wires (s : State) (k : Nat) (r : LogRegs) : (s.setLog k r).wires = s.wires := rfl
@[simp] theorem setLog_waiters (s : State) (k : Nat) (r : LogRegs) : (s.setLog k r).waiters = s.waiters := rfl
@[simp] theorem setLog_tags (s : State) (k : Nat) (r : LogRegs) : (s.setLog k r).tags = s.tags := rfl
@[simp] theorem setLog_dbgFeAddr (s : State) (k : Nat) (r : LogRegs) : (s.setLog k r).dbgFeAddr = s.dbgFeAddr := rfl
@[simp] theorem setLog_polls (s : State) (k : Nat) (r : LogRegs) : (s.setLog k r).polls = s.polls := rfl
@[simp] theorem setLog_arbs (s : State) (k : Nat) (r : LogRegs) : (s.setLog k r).arbs = s.arbs := rfl
@[simp] theorem setLog_arbiters (s : State) (k : Nat) (r : LogRegs) : (s.setLog k r).arbiters = s.arbiters := rfl
@[simp] theorem setLog_cad (s : State) (k : Nat) (r : LogRegs) : (s.setLog k r).cad = s.cad := rfl
@[simp] theorem setLog_nrg (s : State) (k : Nat) (r : LogRegs) : (s.setLog k r).nrg = s.nrg := rfl
@[simp] theorem setLog_domains (s : State) (k : Nat) (r : LogRegs) : (s.setLog k r).domains = s.domains := rfl
@[simp] theorem setLog_cellars (s : State) (k : Nat) (r : LogRegs) : (s.setLog k r).cellars = s.cellars := rfl
@[simp] theorem setLog_pantry (s : State) (k : Nat) (r : LogRegs) : (s.setLog k r).pantry = s.pantry := rfl
@[simp] theorem setLog_cellar (s : State) (k : Nat) (r : LogRegs) : (s.setLog k r).cellar = s.cellar := rfl
@[simp] theorem setLog_larder (s : State) (k : Nat) (r : LogRegs) : (s.setLog k r).larder = s.larder := rfl
@[simp] theorem setLog_host (s : State) (k : Nat) (r : LogRegs) : (s.setLog k r).host = s.host := rfl
@[simp] theorem setLog_pantryUe (s : State) (k : Nat) (r : LogRegs) : (s.setLog k r).pantryUe = s.pantryUe := rfl
@[simp] theorem setLog_cellarUe (s : State) (k : Nat) (r : LogRegs) : (s.setLog k r).cellarUe = s.cellarUe := rfl
@[simp] theorem setLog_larderUe (s : State) (k : Nat) (r : LogRegs) : (s.setLog k r).larderUe = s.larderUe := rfl
@[simp] theorem setLog_ports (s : State) (k : Nat) (r : LogRegs) : (s.setLog k r).ports = s.ports := rfl
@[simp] theorem setLog_loopback (s : State) (k : Nat) (r : LogRegs) : (s.setLog k r).loopback = s.loopback := rfl
@[simp] theorem setLog_ovf (s : State) (k : Nat) (r : LogRegs) : (s.setLog k r).ovf = s.ovf := rfl
@[simp] theorem setLog_house (s : State) (k : Nat) (r : LogRegs) : (s.setLog k r).house = s.house := rfl
@[simp] theorem setLog_fy (s : State) (k : Nat) (r : LogRegs) : (s.setLog k r).fy = s.fy := rfl
@[simp] theorem setLog_rings (s : State) (k : Nat) (r : LogRegs) : (s.setLog k r).rings = s.rings := rfl
@[simp] theorem setLog_reqSeq (s : State) (k : Nat) (r : LogRegs) : (s.setLog k r).reqSeq = s.reqSeq := rfl
@[simp] theorem setLog_groups (s : State) (k : Nat) (r : LogRegs) : (s.setLog k r).groups = s.groups := rfl
@[simp] theorem setLog_rdx (s : State) (k : Nat) (r : LogRegs) : (s.setLog k r).rdx = s.rdx := rfl
@[simp] theorem setLog_study (s : State) (k : Nat) (r : LogRegs) : (s.setLog k r).study = s.study := rfl
@[simp] theorem setLog_flash (s : State) (k : Nat) (r : LogRegs) : (s.setLog k r).flash = s.flash := rfl
@[simp] theorem setLog_bar2Cut (s : State) (k : Nat) (r : LogRegs) : (s.setLog k r).bar2Cut = s.bar2Cut := rfl
@[simp] theorem setLog_side (s : State) (k : Nat) (r : LogRegs) : (s.setLog k r).side = s.side := rfl
@[simp] theorem setLog_room (s : State) (k j : Nat) (r : LogRegs) : (s.setLog k r).room j = s.room j := rfl
@[simp] theorem setLog_chan (s : State) (k j : Nat) (r : LogRegs) : (s.setLog k r).chan j = s.chan j := rfl
@[simp] theorem setLog_sq (s : State) (k j : Nat) (r : LogRegs) : (s.setLog k r).sq j = s.sq j := rfl
@[simp] theorem setLog_cq (s : State) (k j : Nat) (r : LogRegs) : (s.setLog k r).cq j = s.cq j := rfl
@[simp] theorem setLog_flag (s : State) (k j : Nat) (r : LogRegs) : (s.setLog k r).flag j = s.flag j := rfl
@[simp] theorem setLog_counter (s : State) (k j : Nat) (r : LogRegs) : (s.setLog k r).counter j = s.counter j := rfl
@[simp] theorem setLog_wire (s : State) (k j : Nat) (r : LogRegs) : (s.setLog k r).wire j = s.wire j := rfl
@[simp] theorem setLog_arb (s : State) (k j : Nat) (r : LogRegs) : (s.setLog k r).arb j = s.arb j := rfl
@[simp] theorem setLog_arbiter (s : State) (k j : Nat) (r : LogRegs) : (s.setLog k r).arbiter j = s.arbiter j := rfl
@[simp] theorem setLog_domain (s : State) (k j : Nat) (r : LogRegs) : (s.setLog k r).domain j = s.domain j := rfl
@[simp] theorem setLog_cel (s : State) (k j : Nat) (r : LogRegs) : (s.setLog k r).cel j = s.cel j := rfl
@[simp] theorem setLog_port (s : State) (k j : Nat) (r : LogRegs) : (s.setLog k r).port j = s.port j := rfl
@[simp] theorem setLog_ovfOf (s : State) (k j : Nat) (r : LogRegs) : (s.setLog k r).ovfOf j = s.ovfOf j := rfl
@[simp] theorem setLog_now (s : State) (k : Nat) (r : LogRegs) : (s.setLog k r).now = s.now := rfl
theorem setLog_log_ne (s : State) {k j : Nat} (r : LogRegs) (h : j ≠ k) : (s.setLog k r).log j = s.log j :=
  tget_tset_ne s.logs {} r h
theorem setLog_log_eq {s : State} (k : Nat) (r : LogRegs) (h : tableWf {} s.logs = true) : (s.setLog k r).log k = r :=
  tget_tset_eq k r h
theorem setLog_log_of_ne (s : State) (k : Nat) {r : LogRegs} (h : r ≠ {}) : (s.setLog k r).log k = r :=
  tget_tset_of_ne s.logs k h
theorem setLog_wf {s : State} (k : Nat) (r : LogRegs) (h : tableWf {} s.logs = true) : tableWf {} (s.setLog k r).logs = true :=
  tableWf_tset k r h

/-! ### setArb -/

@[simp] theorem setArb_arbs (s : State) (k : Nat) (r : ArbRegs) : (s.setArb k r).arbs = tset s.arbs {} k r := rfl
@[simp] theorem setArb_pending (s : State) (k : Nat) (r : ArbRegs) : (s.setArb k r).pending = s.pending := rfl
@[simp] theorem setArb_free (s : State) (k : Nat) (r : ArbRegs) : (s.setArb k r).free = s.free := rfl
@[simp] theorem setArb_outputs (s : State) (k : Nat) (r : ArbRegs) : (s.setArb k r).outputs = s.outputs := rfl
@[simp] theorem setArb_g (s : State) (k : Nat) (r : ArbRegs) : (s.setArb k r).g = s.g := rfl
@[simp] theorem setArb_pins (s : State) (k : Nat) (r : ArbRegs) : (s.setArb k r).pins = s.pins := rfl
@[simp] theorem setArb_pcie (s : State) (k : Nat) (r : ArbRegs) : (s.setArb k r).pcie = s.pcie := rfl
@[simp] theorem setArb_msix (s : State) (k : Nat) (r : ArbRegs) : (s.setArb k r).msix = s.msix := rfl
@[simp] theorem setArb_err (s : State) (k : Nat) (r : ArbRegs) : (s.setArb k r).err = s.err := rfl
@[simp] theorem setArb_audit (s : State) (k : Nat) (r : ArbRegs) : (s.setArb k r).audit = s.audit := rfl
@[simp] theorem setArb_logs (s : State) (k : Nat) (r : ArbRegs) : (s.setArb k r).logs = s.logs := rfl
@[simp] theorem setArb_rooms (s : State) (k : Nat) (r : ArbRegs) : (s.setArb k r).rooms = s.rooms := rfl
@[simp] theorem setArb_granules (s : State) (k : Nat) (r : ArbRegs) : (s.setArb k r).granules = s.granules := rfl
@[simp] theorem setArb_chans (s : State) (k : Nat) (r : ArbRegs) : (s.setArb k r).chans = s.chans := rfl
@[simp] theorem setArb_rotor (s : State) (k : Nat) (r : ArbRegs) : (s.setArb k r).rotor = s.rotor := rfl
@[simp] theorem setArb_hostReads (s : State) (k : Nat) (r : ArbRegs) : (s.setArb k r).hostReads = s.hostReads := rfl
@[simp] theorem setArb_proofs (s : State) (k : Nat) (r : ArbRegs) : (s.setArb k r).proofs = s.proofs := rfl
@[simp] theorem setArb_peerReads (s : State) (k : Nat) (r : ArbRegs) : (s.setArb k r).peerReads = s.peerReads := rfl
@[simp] theorem setArb_sqSignals (s : State) (k : Nat) (r : ArbRegs) : (s.setArb k r).sqSignals = s.sqSignals := rfl
@[simp] theorem setArb_sqs (s : State) (k : Nat) (r : ArbRegs) : (s.setArb k r).sqs = s.sqs := rfl
@[simp] theorem setArb_cqs (s : State) (k : Nat) (r : ArbRegs) : (s.setArb k r).cqs = s.cqs := rfl
@[simp] theorem setArb_flags (s : State) (k : Nat) (r : ArbRegs) : (s.setArb k r).flags = s.flags := rfl
@[simp] theorem setArb_counters (s : State) (k : Nat) (r : ArbRegs) : (s.setArb k r).counters = s.counters := rfl
@[simp] theorem setArb_wires (s : State) (k : Nat) (r : ArbRegs) : (s.setArb k r).wires = s.wires := rfl
@[simp] theorem setArb_waiters (s : State) (k : Nat) (r : ArbRegs) : (s.setArb k r).waiters = s.waiters := rfl
@[simp] theorem setArb_tags (s : State) (k : Nat) (r : ArbRegs) : (s.setArb k r).tags = s.tags := rfl
@[simp] theorem setArb_dbgFeAddr (s : State) (k : Nat) (r : ArbRegs) : (s.setArb k r).dbgFeAddr = s.dbgFeAddr := rfl
@[simp] theorem setArb_polls (s : State) (k : Nat) (r : ArbRegs) : (s.setArb k r).polls = s.polls := rfl
@[simp] theorem setArb_arbiters (s : State) (k : Nat) (r : ArbRegs) : (s.setArb k r).arbiters = s.arbiters := rfl
@[simp] theorem setArb_cad (s : State) (k : Nat) (r : ArbRegs) : (s.setArb k r).cad = s.cad := rfl
@[simp] theorem setArb_nrg (s : State) (k : Nat) (r : ArbRegs) : (s.setArb k r).nrg = s.nrg := rfl
@[simp] theorem setArb_domains (s : State) (k : Nat) (r : ArbRegs) : (s.setArb k r).domains = s.domains := rfl
@[simp] theorem setArb_cellars (s : State) (k : Nat) (r : ArbRegs) : (s.setArb k r).cellars = s.cellars := rfl
@[simp] theorem setArb_pantry (s : State) (k : Nat) (r : ArbRegs) : (s.setArb k r).pantry = s.pantry := rfl
@[simp] theorem setArb_cellar (s : State) (k : Nat) (r : ArbRegs) : (s.setArb k r).cellar = s.cellar := rfl
@[simp] theorem setArb_larder (s : State) (k : Nat) (r : ArbRegs) : (s.setArb k r).larder = s.larder := rfl
@[simp] theorem setArb_host (s : State) (k : Nat) (r : ArbRegs) : (s.setArb k r).host = s.host := rfl
@[simp] theorem setArb_pantryUe (s : State) (k : Nat) (r : ArbRegs) : (s.setArb k r).pantryUe = s.pantryUe := rfl
@[simp] theorem setArb_cellarUe (s : State) (k : Nat) (r : ArbRegs) : (s.setArb k r).cellarUe = s.cellarUe := rfl
@[simp] theorem setArb_larderUe (s : State) (k : Nat) (r : ArbRegs) : (s.setArb k r).larderUe = s.larderUe := rfl
@[simp] theorem setArb_ports (s : State) (k : Nat) (r : ArbRegs) : (s.setArb k r).ports = s.ports := rfl
@[simp] theorem setArb_loopback (s : State) (k : Nat) (r : ArbRegs) : (s.setArb k r).loopback = s.loopback := rfl
@[simp] theorem setArb_ovf (s : State) (k : Nat) (r : ArbRegs) : (s.setArb k r).ovf = s.ovf := rfl
@[simp] theorem setArb_house (s : State) (k : Nat) (r : ArbRegs) : (s.setArb k r).house = s.house := rfl
@[simp] theorem setArb_fy (s : State) (k : Nat) (r : ArbRegs) : (s.setArb k r).fy = s.fy := rfl
@[simp] theorem setArb_rings (s : State) (k : Nat) (r : ArbRegs) : (s.setArb k r).rings = s.rings := rfl
@[simp] theorem setArb_reqSeq (s : State) (k : Nat) (r : ArbRegs) : (s.setArb k r).reqSeq = s.reqSeq := rfl
@[simp] theorem setArb_groups (s : State) (k : Nat) (r : ArbRegs) : (s.setArb k r).groups = s.groups := rfl
@[simp] theorem setArb_rdx (s : State) (k : Nat) (r : ArbRegs) : (s.setArb k r).rdx = s.rdx := rfl
@[simp] theorem setArb_study (s : State) (k : Nat) (r : ArbRegs) : (s.setArb k r).study = s.study := rfl
@[simp] theorem setArb_flash (s : State) (k : Nat) (r : ArbRegs) : (s.setArb k r).flash = s.flash := rfl
@[simp] theorem setArb_bar2Cut (s : State) (k : Nat) (r : ArbRegs) : (s.setArb k r).bar2Cut = s.bar2Cut := rfl
@[simp] theorem setArb_side (s : State) (k : Nat) (r : ArbRegs) : (s.setArb k r).side = s.side := rfl
@[simp] theorem setArb_room (s : State) (k j : Nat) (r : ArbRegs) : (s.setArb k r).room j = s.room j := rfl
@[simp] theorem setArb_chan (s : State) (k j : Nat) (r : ArbRegs) : (s.setArb k r).chan j = s.chan j := rfl
@[simp] theorem setArb_sq (s : State) (k j : Nat) (r : ArbRegs) : (s.setArb k r).sq j = s.sq j := rfl
@[simp] theorem setArb_cq (s : State) (k j : Nat) (r : ArbRegs) : (s.setArb k r).cq j = s.cq j := rfl
@[simp] theorem setArb_flag (s : State) (k j : Nat) (r : ArbRegs) : (s.setArb k r).flag j = s.flag j := rfl
@[simp] theorem setArb_counter (s : State) (k j : Nat) (r : ArbRegs) : (s.setArb k r).counter j = s.counter j := rfl
@[simp] theorem setArb_wire (s : State) (k j : Nat) (r : ArbRegs) : (s.setArb k r).wire j = s.wire j := rfl
@[simp] theorem setArb_log (s : State) (k j : Nat) (r : ArbRegs) : (s.setArb k r).log j = s.log j := rfl
@[simp] theorem setArb_arbiter (s : State) (k j : Nat) (r : ArbRegs) : (s.setArb k r).arbiter j = s.arbiter j := rfl
@[simp] theorem setArb_domain (s : State) (k j : Nat) (r : ArbRegs) : (s.setArb k r).domain j = s.domain j := rfl
@[simp] theorem setArb_cel (s : State) (k j : Nat) (r : ArbRegs) : (s.setArb k r).cel j = s.cel j := rfl
@[simp] theorem setArb_port (s : State) (k j : Nat) (r : ArbRegs) : (s.setArb k r).port j = s.port j := rfl
@[simp] theorem setArb_ovfOf (s : State) (k j : Nat) (r : ArbRegs) : (s.setArb k r).ovfOf j = s.ovfOf j := rfl
@[simp] theorem setArb_now (s : State) (k : Nat) (r : ArbRegs) : (s.setArb k r).now = s.now := rfl
theorem setArb_arb_ne (s : State) {k j : Nat} (r : ArbRegs) (h : j ≠ k) : (s.setArb k r).arb j = s.arb j :=
  tget_tset_ne s.arbs {} r h
theorem setArb_arb_eq {s : State} (k : Nat) (r : ArbRegs) (h : tableWf {} s.arbs = true) : (s.setArb k r).arb k = r :=
  tget_tset_eq k r h
theorem setArb_arb_of_ne (s : State) (k : Nat) {r : ArbRegs} (h : r ≠ {}) : (s.setArb k r).arb k = r :=
  tget_tset_of_ne s.arbs k h
theorem setArb_wf {s : State} (k : Nat) (r : ArbRegs) (h : tableWf {} s.arbs = true) : tableWf {} (s.setArb k r).arbs = true :=
  tableWf_tset k r h

/-! ### setArbiter -/

@[simp] theorem setArbiter_arbiters (s : State) (k : Nat) (r : Arbiter) : (s.setArbiter k r).arbiters = tset s.arbiters {} k r := rfl
@[simp] theorem setArbiter_pending (s : State) (k : Nat) (r : Arbiter) : (s.setArbiter k r).pending = s.pending := rfl
@[simp] theorem setArbiter_free (s : State) (k : Nat) (r : Arbiter) : (s.setArbiter k r).free = s.free := rfl
@[simp] theorem setArbiter_outputs (s : State) (k : Nat) (r : Arbiter) : (s.setArbiter k r).outputs = s.outputs := rfl
@[simp] theorem setArbiter_g (s : State) (k : Nat) (r : Arbiter) : (s.setArbiter k r).g = s.g := rfl
@[simp] theorem setArbiter_pins (s : State) (k : Nat) (r : Arbiter) : (s.setArbiter k r).pins = s.pins := rfl
@[simp] theorem setArbiter_pcie (s : State) (k : Nat) (r : Arbiter) : (s.setArbiter k r).pcie = s.pcie := rfl
@[simp] theorem setArbiter_msix (s : State) (k : Nat) (r : Arbiter) : (s.setArbiter k r).msix = s.msix := rfl
@[simp] theorem setArbiter_err (s : State) (k : Nat) (r : Arbiter) : (s.setArbiter k r).err = s.err := rfl
@[simp] theorem setArbiter_audit (s : State) (k : Nat) (r : Arbiter) : (s.setArbiter k r).audit = s.audit := rfl
@[simp] theorem setArbiter_logs (s : State) (k : Nat) (r : Arbiter) : (s.setArbiter k r).logs = s.logs := rfl
@[simp] theorem setArbiter_rooms (s : State) (k : Nat) (r : Arbiter) : (s.setArbiter k r).rooms = s.rooms := rfl
@[simp] theorem setArbiter_granules (s : State) (k : Nat) (r : Arbiter) : (s.setArbiter k r).granules = s.granules := rfl
@[simp] theorem setArbiter_chans (s : State) (k : Nat) (r : Arbiter) : (s.setArbiter k r).chans = s.chans := rfl
@[simp] theorem setArbiter_rotor (s : State) (k : Nat) (r : Arbiter) : (s.setArbiter k r).rotor = s.rotor := rfl
@[simp] theorem setArbiter_hostReads (s : State) (k : Nat) (r : Arbiter) : (s.setArbiter k r).hostReads = s.hostReads := rfl
@[simp] theorem setArbiter_proofs (s : State) (k : Nat) (r : Arbiter) : (s.setArbiter k r).proofs = s.proofs := rfl
@[simp] theorem setArbiter_peerReads (s : State) (k : Nat) (r : Arbiter) : (s.setArbiter k r).peerReads = s.peerReads := rfl
@[simp] theorem setArbiter_sqSignals (s : State) (k : Nat) (r : Arbiter) : (s.setArbiter k r).sqSignals = s.sqSignals := rfl
@[simp] theorem setArbiter_sqs (s : State) (k : Nat) (r : Arbiter) : (s.setArbiter k r).sqs = s.sqs := rfl
@[simp] theorem setArbiter_cqs (s : State) (k : Nat) (r : Arbiter) : (s.setArbiter k r).cqs = s.cqs := rfl
@[simp] theorem setArbiter_flags (s : State) (k : Nat) (r : Arbiter) : (s.setArbiter k r).flags = s.flags := rfl
@[simp] theorem setArbiter_counters (s : State) (k : Nat) (r : Arbiter) : (s.setArbiter k r).counters = s.counters := rfl
@[simp] theorem setArbiter_wires (s : State) (k : Nat) (r : Arbiter) : (s.setArbiter k r).wires = s.wires := rfl
@[simp] theorem setArbiter_waiters (s : State) (k : Nat) (r : Arbiter) : (s.setArbiter k r).waiters = s.waiters := rfl
@[simp] theorem setArbiter_tags (s : State) (k : Nat) (r : Arbiter) : (s.setArbiter k r).tags = s.tags := rfl
@[simp] theorem setArbiter_dbgFeAddr (s : State) (k : Nat) (r : Arbiter) : (s.setArbiter k r).dbgFeAddr = s.dbgFeAddr := rfl
@[simp] theorem setArbiter_polls (s : State) (k : Nat) (r : Arbiter) : (s.setArbiter k r).polls = s.polls := rfl
@[simp] theorem setArbiter_arbs (s : State) (k : Nat) (r : Arbiter) : (s.setArbiter k r).arbs = s.arbs := rfl
@[simp] theorem setArbiter_cad (s : State) (k : Nat) (r : Arbiter) : (s.setArbiter k r).cad = s.cad := rfl
@[simp] theorem setArbiter_nrg (s : State) (k : Nat) (r : Arbiter) : (s.setArbiter k r).nrg = s.nrg := rfl
@[simp] theorem setArbiter_domains (s : State) (k : Nat) (r : Arbiter) : (s.setArbiter k r).domains = s.domains := rfl
@[simp] theorem setArbiter_cellars (s : State) (k : Nat) (r : Arbiter) : (s.setArbiter k r).cellars = s.cellars := rfl
@[simp] theorem setArbiter_pantry (s : State) (k : Nat) (r : Arbiter) : (s.setArbiter k r).pantry = s.pantry := rfl
@[simp] theorem setArbiter_cellar (s : State) (k : Nat) (r : Arbiter) : (s.setArbiter k r).cellar = s.cellar := rfl
@[simp] theorem setArbiter_larder (s : State) (k : Nat) (r : Arbiter) : (s.setArbiter k r).larder = s.larder := rfl
@[simp] theorem setArbiter_host (s : State) (k : Nat) (r : Arbiter) : (s.setArbiter k r).host = s.host := rfl
@[simp] theorem setArbiter_pantryUe (s : State) (k : Nat) (r : Arbiter) : (s.setArbiter k r).pantryUe = s.pantryUe := rfl
@[simp] theorem setArbiter_cellarUe (s : State) (k : Nat) (r : Arbiter) : (s.setArbiter k r).cellarUe = s.cellarUe := rfl
@[simp] theorem setArbiter_larderUe (s : State) (k : Nat) (r : Arbiter) : (s.setArbiter k r).larderUe = s.larderUe := rfl
@[simp] theorem setArbiter_ports (s : State) (k : Nat) (r : Arbiter) : (s.setArbiter k r).ports = s.ports := rfl
@[simp] theorem setArbiter_loopback (s : State) (k : Nat) (r : Arbiter) : (s.setArbiter k r).loopback = s.loopback := rfl
@[simp] theorem setArbiter_ovf (s : State) (k : Nat) (r : Arbiter) : (s.setArbiter k r).ovf = s.ovf := rfl
@[simp] theorem setArbiter_house (s : State) (k : Nat) (r : Arbiter) : (s.setArbiter k r).house = s.house := rfl
@[simp] theorem setArbiter_fy (s : State) (k : Nat) (r : Arbiter) : (s.setArbiter k r).fy = s.fy := rfl
@[simp] theorem setArbiter_rings (s : State) (k : Nat) (r : Arbiter) : (s.setArbiter k r).rings = s.rings := rfl
@[simp] theorem setArbiter_reqSeq (s : State) (k : Nat) (r : Arbiter) : (s.setArbiter k r).reqSeq = s.reqSeq := rfl
@[simp] theorem setArbiter_groups (s : State) (k : Nat) (r : Arbiter) : (s.setArbiter k r).groups = s.groups := rfl
@[simp] theorem setArbiter_rdx (s : State) (k : Nat) (r : Arbiter) : (s.setArbiter k r).rdx = s.rdx := rfl
@[simp] theorem setArbiter_study (s : State) (k : Nat) (r : Arbiter) : (s.setArbiter k r).study = s.study := rfl
@[simp] theorem setArbiter_flash (s : State) (k : Nat) (r : Arbiter) : (s.setArbiter k r).flash = s.flash := rfl
@[simp] theorem setArbiter_bar2Cut (s : State) (k : Nat) (r : Arbiter) : (s.setArbiter k r).bar2Cut = s.bar2Cut := rfl
@[simp] theorem setArbiter_side (s : State) (k : Nat) (r : Arbiter) : (s.setArbiter k r).side = s.side := rfl
@[simp] theorem setArbiter_room (s : State) (k j : Nat) (r : Arbiter) : (s.setArbiter k r).room j = s.room j := rfl
@[simp] theorem setArbiter_chan (s : State) (k j : Nat) (r : Arbiter) : (s.setArbiter k r).chan j = s.chan j := rfl
@[simp] theorem setArbiter_sq (s : State) (k j : Nat) (r : Arbiter) : (s.setArbiter k r).sq j = s.sq j := rfl
@[simp] theorem setArbiter_cq (s : State) (k j : Nat) (r : Arbiter) : (s.setArbiter k r).cq j = s.cq j := rfl
@[simp] theorem setArbiter_flag (s : State) (k j : Nat) (r : Arbiter) : (s.setArbiter k r).flag j = s.flag j := rfl
@[simp] theorem setArbiter_counter (s : State) (k j : Nat) (r : Arbiter) : (s.setArbiter k r).counter j = s.counter j := rfl
@[simp] theorem setArbiter_wire (s : State) (k j : Nat) (r : Arbiter) : (s.setArbiter k r).wire j = s.wire j := rfl
@[simp] theorem setArbiter_log (s : State) (k j : Nat) (r : Arbiter) : (s.setArbiter k r).log j = s.log j := rfl
@[simp] theorem setArbiter_arb (s : State) (k j : Nat) (r : Arbiter) : (s.setArbiter k r).arb j = s.arb j := rfl
@[simp] theorem setArbiter_domain (s : State) (k j : Nat) (r : Arbiter) : (s.setArbiter k r).domain j = s.domain j := rfl
@[simp] theorem setArbiter_cel (s : State) (k j : Nat) (r : Arbiter) : (s.setArbiter k r).cel j = s.cel j := rfl
@[simp] theorem setArbiter_port (s : State) (k j : Nat) (r : Arbiter) : (s.setArbiter k r).port j = s.port j := rfl
@[simp] theorem setArbiter_ovfOf (s : State) (k j : Nat) (r : Arbiter) : (s.setArbiter k r).ovfOf j = s.ovfOf j := rfl
@[simp] theorem setArbiter_now (s : State) (k : Nat) (r : Arbiter) : (s.setArbiter k r).now = s.now := rfl
theorem setArbiter_arbiter_ne (s : State) {k j : Nat} (r : Arbiter) (h : j ≠ k) : (s.setArbiter k r).arbiter j = s.arbiter j :=
  tget_tset_ne s.arbiters {} r h
theorem setArbiter_arbiter_eq {s : State} (k : Nat) (r : Arbiter) (h : tableWf {} s.arbiters = true) : (s.setArbiter k r).arbiter k = r :=
  tget_tset_eq k r h
theorem setArbiter_arbiter_of_ne (s : State) (k : Nat) {r : Arbiter} (h : r ≠ {}) : (s.setArbiter k r).arbiter k = r :=
  tget_tset_of_ne s.arbiters k h
theorem setArbiter_wf {s : State} (k : Nat) (r : Arbiter) (h : tableWf {} s.arbiters = true) : tableWf {} (s.setArbiter k r).arbiters = true :=
  tableWf_tset k r h

/-! ### setDomain -/

@[simp] theorem setDomain_domains (s : State) (k : Nat) (r : Domain) : (s.setDomain k r).domains = tset s.domains {} k r := rfl
@[simp] theorem setDomain_pending (s : State) (k : Nat) (r : Domain) : (s.setDomain k r).pending = s.pending := rfl
@[simp] theorem setDomain_free (s : State) (k : Nat) (r : Domain) : (s.setDomain k r).free = s.free := rfl
@[simp] theorem setDomain_outputs (s : State) (k : Nat) (r : Domain) : (s.setDomain k r).outputs = s.outputs := rfl
@[simp] theorem setDomain_g (s : State) (k : Nat) (r : Domain) : (s.setDomain k r).g = s.g := rfl
@[simp] theorem setDomain_pins (s : State) (k : Nat) (r : Domain) : (s.setDomain k r).pins = s.pins := rfl
@[simp] theorem setDomain_pcie (s : State) (k : Nat) (r : Domain) : (s.setDomain k r).pcie = s.pcie := rfl
@[simp] theorem setDomain_msix (s : State) (k : Nat) (r : Domain) : (s.setDomain k r).msix = s.msix := rfl
@[simp] theorem setDomain_err (s : State) (k : Nat) (r : Domain) : (s.setDomain k r).err = s.err := rfl
@[simp] theorem setDomain_audit (s : State) (k : Nat) (r : Domain) : (s.setDomain k r).audit = s.audit := rfl
@[simp] theorem setDomain_logs (s : State) (k : Nat) (r : Domain) : (s.setDomain k r).logs = s.logs := rfl
@[simp] theorem setDomain_rooms (s : State) (k : Nat) (r : Domain) : (s.setDomain k r).rooms = s.rooms := rfl
@[simp] theorem setDomain_granules (s : State) (k : Nat) (r : Domain) : (s.setDomain k r).granules = s.granules := rfl
@[simp] theorem setDomain_chans (s : State) (k : Nat) (r : Domain) : (s.setDomain k r).chans = s.chans := rfl
@[simp] theorem setDomain_rotor (s : State) (k : Nat) (r : Domain) : (s.setDomain k r).rotor = s.rotor := rfl
@[simp] theorem setDomain_hostReads (s : State) (k : Nat) (r : Domain) : (s.setDomain k r).hostReads = s.hostReads := rfl
@[simp] theorem setDomain_proofs (s : State) (k : Nat) (r : Domain) : (s.setDomain k r).proofs = s.proofs := rfl
@[simp] theorem setDomain_peerReads (s : State) (k : Nat) (r : Domain) : (s.setDomain k r).peerReads = s.peerReads := rfl
@[simp] theorem setDomain_sqSignals (s : State) (k : Nat) (r : Domain) : (s.setDomain k r).sqSignals = s.sqSignals := rfl
@[simp] theorem setDomain_sqs (s : State) (k : Nat) (r : Domain) : (s.setDomain k r).sqs = s.sqs := rfl
@[simp] theorem setDomain_cqs (s : State) (k : Nat) (r : Domain) : (s.setDomain k r).cqs = s.cqs := rfl
@[simp] theorem setDomain_flags (s : State) (k : Nat) (r : Domain) : (s.setDomain k r).flags = s.flags := rfl
@[simp] theorem setDomain_counters (s : State) (k : Nat) (r : Domain) : (s.setDomain k r).counters = s.counters := rfl
@[simp] theorem setDomain_wires (s : State) (k : Nat) (r : Domain) : (s.setDomain k r).wires = s.wires := rfl
@[simp] theorem setDomain_waiters (s : State) (k : Nat) (r : Domain) : (s.setDomain k r).waiters = s.waiters := rfl
@[simp] theorem setDomain_tags (s : State) (k : Nat) (r : Domain) : (s.setDomain k r).tags = s.tags := rfl
@[simp] theorem setDomain_dbgFeAddr (s : State) (k : Nat) (r : Domain) : (s.setDomain k r).dbgFeAddr = s.dbgFeAddr := rfl
@[simp] theorem setDomain_polls (s : State) (k : Nat) (r : Domain) : (s.setDomain k r).polls = s.polls := rfl
@[simp] theorem setDomain_arbs (s : State) (k : Nat) (r : Domain) : (s.setDomain k r).arbs = s.arbs := rfl
@[simp] theorem setDomain_arbiters (s : State) (k : Nat) (r : Domain) : (s.setDomain k r).arbiters = s.arbiters := rfl
@[simp] theorem setDomain_cad (s : State) (k : Nat) (r : Domain) : (s.setDomain k r).cad = s.cad := rfl
@[simp] theorem setDomain_nrg (s : State) (k : Nat) (r : Domain) : (s.setDomain k r).nrg = s.nrg := rfl
@[simp] theorem setDomain_cellars (s : State) (k : Nat) (r : Domain) : (s.setDomain k r).cellars = s.cellars := rfl
@[simp] theorem setDomain_pantry (s : State) (k : Nat) (r : Domain) : (s.setDomain k r).pantry = s.pantry := rfl
@[simp] theorem setDomain_cellar (s : State) (k : Nat) (r : Domain) : (s.setDomain k r).cellar = s.cellar := rfl
@[simp] theorem setDomain_larder (s : State) (k : Nat) (r : Domain) : (s.setDomain k r).larder = s.larder := rfl
@[simp] theorem setDomain_host (s : State) (k : Nat) (r : Domain) : (s.setDomain k r).host = s.host := rfl
@[simp] theorem setDomain_pantryUe (s : State) (k : Nat) (r : Domain) : (s.setDomain k r).pantryUe = s.pantryUe := rfl
@[simp] theorem setDomain_cellarUe (s : State) (k : Nat) (r : Domain) : (s.setDomain k r).cellarUe = s.cellarUe := rfl
@[simp] theorem setDomain_larderUe (s : State) (k : Nat) (r : Domain) : (s.setDomain k r).larderUe = s.larderUe := rfl
@[simp] theorem setDomain_ports (s : State) (k : Nat) (r : Domain) : (s.setDomain k r).ports = s.ports := rfl
@[simp] theorem setDomain_loopback (s : State) (k : Nat) (r : Domain) : (s.setDomain k r).loopback = s.loopback := rfl
@[simp] theorem setDomain_ovf (s : State) (k : Nat) (r : Domain) : (s.setDomain k r).ovf = s.ovf := rfl
@[simp] theorem setDomain_house (s : State) (k : Nat) (r : Domain) : (s.setDomain k r).house = s.house := rfl
@[simp] theorem setDomain_fy (s : State) (k : Nat) (r : Domain) : (s.setDomain k r).fy = s.fy := rfl
@[simp] theorem setDomain_rings (s : State) (k : Nat) (r : Domain) : (s.setDomain k r).rings = s.rings := rfl
@[simp] theorem setDomain_reqSeq (s : State) (k : Nat) (r : Domain) : (s.setDomain k r).reqSeq = s.reqSeq := rfl
@[simp] theorem setDomain_groups (s : State) (k : Nat) (r : Domain) : (s.setDomain k r).groups = s.groups := rfl
@[simp] theorem setDomain_rdx (s : State) (k : Nat) (r : Domain) : (s.setDomain k r).rdx = s.rdx := rfl
@[simp] theorem setDomain_study (s : State) (k : Nat) (r : Domain) : (s.setDomain k r).study = s.study := rfl
@[simp] theorem setDomain_flash (s : State) (k : Nat) (r : Domain) : (s.setDomain k r).flash = s.flash := rfl
@[simp] theorem setDomain_bar2Cut (s : State) (k : Nat) (r : Domain) : (s.setDomain k r).bar2Cut = s.bar2Cut := rfl
@[simp] theorem setDomain_side (s : State) (k : Nat) (r : Domain) : (s.setDomain k r).side = s.side := rfl
@[simp] theorem setDomain_room (s : State) (k j : Nat) (r : Domain) : (s.setDomain k r).room j = s.room j := rfl
@[simp] theorem setDomain_chan (s : State) (k j : Nat) (r : Domain) : (s.setDomain k r).chan j = s.chan j := rfl
@[simp] theorem setDomain_sq (s : State) (k j : Nat) (r : Domain) : (s.setDomain k r).sq j = s.sq j := rfl
@[simp] theorem setDomain_cq (s : State) (k j : Nat) (r : Domain) : (s.setDomain k r).cq j = s.cq j := rfl
@[simp] theorem setDomain_flag (s : State) (k j : Nat) (r : Domain) : (s.setDomain k r).flag j = s.flag j := rfl
@[simp] theorem setDomain_counter (s : State) (k j : Nat) (r : Domain) : (s.setDomain k r).counter j = s.counter j := rfl
@[simp] theorem setDomain_wire (s : State) (k j : Nat) (r : Domain) : (s.setDomain k r).wire j = s.wire j := rfl
@[simp] theorem setDomain_log (s : State) (k j : Nat) (r : Domain) : (s.setDomain k r).log j = s.log j := rfl
@[simp] theorem setDomain_arb (s : State) (k j : Nat) (r : Domain) : (s.setDomain k r).arb j = s.arb j := rfl
@[simp] theorem setDomain_arbiter (s : State) (k j : Nat) (r : Domain) : (s.setDomain k r).arbiter j = s.arbiter j := rfl
@[simp] theorem setDomain_cel (s : State) (k j : Nat) (r : Domain) : (s.setDomain k r).cel j = s.cel j := rfl
@[simp] theorem setDomain_port (s : State) (k j : Nat) (r : Domain) : (s.setDomain k r).port j = s.port j := rfl
@[simp] theorem setDomain_ovfOf (s : State) (k j : Nat) (r : Domain) : (s.setDomain k r).ovfOf j = s.ovfOf j := rfl
@[simp] theorem setDomain_now (s : State) (k : Nat) (r : Domain) : (s.setDomain k r).now = s.now := rfl
theorem setDomain_domain_ne (s : State) {k j : Nat} (r : Domain) (h : j ≠ k) : (s.setDomain k r).domain j = s.domain j :=
  tget_tset_ne s.domains {} r h
theorem setDomain_domain_eq {s : State} (k : Nat) (r : Domain) (h : tableWf {} s.domains = true) : (s.setDomain k r).domain k = r :=
  tget_tset_eq k r h
theorem setDomain_domain_of_ne (s : State) (k : Nat) {r : Domain} (h : r ≠ {}) : (s.setDomain k r).domain k = r :=
  tget_tset_of_ne s.domains k h
theorem setDomain_wf {s : State} (k : Nat) (r : Domain) (h : tableWf {} s.domains = true) : tableWf {} (s.setDomain k r).domains = true :=
  tableWf_tset k r h

/-! ### setCel -/

@[simp] theorem setCel_cellars (s : State) (k : Nat) (r : Cellar) : (s.setCel k r).cellars = tset s.cellars {} k r := rfl
@[simp] theorem setCel_pending (s : State) (k : Nat) (r : Cellar) : (s.setCel k r).pending = s.pending := rfl
@[simp] theorem setCel_free (s : State) (k : Nat) (r : Cellar) : (s.setCel k r).free = s.free := rfl
@[simp] theorem setCel_outputs (s : State) (k : Nat) (r : Cellar) : (s.setCel k r).outputs = s.outputs := rfl
@[simp] theorem setCel_g (s : State) (k : Nat) (r : Cellar) : (s.setCel k r).g = s.g := rfl
@[simp] theorem setCel_pins (s : State) (k : Nat) (r : Cellar) : (s.setCel k r).pins = s.pins := rfl
@[simp] theorem setCel_pcie (s : State) (k : Nat) (r : Cellar) : (s.setCel k r).pcie = s.pcie := rfl
@[simp] theorem setCel_msix (s : State) (k : Nat) (r : Cellar) : (s.setCel k r).msix = s.msix := rfl
@[simp] theorem setCel_err (s : State) (k : Nat) (r : Cellar) : (s.setCel k r).err = s.err := rfl
@[simp] theorem setCel_audit (s : State) (k : Nat) (r : Cellar) : (s.setCel k r).audit = s.audit := rfl
@[simp] theorem setCel_logs (s : State) (k : Nat) (r : Cellar) : (s.setCel k r).logs = s.logs := rfl
@[simp] theorem setCel_rooms (s : State) (k : Nat) (r : Cellar) : (s.setCel k r).rooms = s.rooms := rfl
@[simp] theorem setCel_granules (s : State) (k : Nat) (r : Cellar) : (s.setCel k r).granules = s.granules := rfl
@[simp] theorem setCel_chans (s : State) (k : Nat) (r : Cellar) : (s.setCel k r).chans = s.chans := rfl
@[simp] theorem setCel_rotor (s : State) (k : Nat) (r : Cellar) : (s.setCel k r).rotor = s.rotor := rfl
@[simp] theorem setCel_hostReads (s : State) (k : Nat) (r : Cellar) : (s.setCel k r).hostReads = s.hostReads := rfl
@[simp] theorem setCel_proofs (s : State) (k : Nat) (r : Cellar) : (s.setCel k r).proofs = s.proofs := rfl
@[simp] theorem setCel_peerReads (s : State) (k : Nat) (r : Cellar) : (s.setCel k r).peerReads = s.peerReads := rfl
@[simp] theorem setCel_sqSignals (s : State) (k : Nat) (r : Cellar) : (s.setCel k r).sqSignals = s.sqSignals := rfl
@[simp] theorem setCel_sqs (s : State) (k : Nat) (r : Cellar) : (s.setCel k r).sqs = s.sqs := rfl
@[simp] theorem setCel_cqs (s : State) (k : Nat) (r : Cellar) : (s.setCel k r).cqs = s.cqs := rfl
@[simp] theorem setCel_flags (s : State) (k : Nat) (r : Cellar) : (s.setCel k r).flags = s.flags := rfl
@[simp] theorem setCel_counters (s : State) (k : Nat) (r : Cellar) : (s.setCel k r).counters = s.counters := rfl
@[simp] theorem setCel_wires (s : State) (k : Nat) (r : Cellar) : (s.setCel k r).wires = s.wires := rfl
@[simp] theorem setCel_waiters (s : State) (k : Nat) (r : Cellar) : (s.setCel k r).waiters = s.waiters := rfl
@[simp] theorem setCel_tags (s : State) (k : Nat) (r : Cellar) : (s.setCel k r).tags = s.tags := rfl
@[simp] theorem setCel_dbgFeAddr (s : State) (k : Nat) (r : Cellar) : (s.setCel k r).dbgFeAddr = s.dbgFeAddr := rfl
@[simp] theorem setCel_polls (s : State) (k : Nat) (r : Cellar) : (s.setCel k r).polls = s.polls := rfl
@[simp] theorem setCel_arbs (s : State) (k : Nat) (r : Cellar) : (s.setCel k r).arbs = s.arbs := rfl
@[simp] theorem setCel_arbiters (s : State) (k : Nat) (r : Cellar) : (s.setCel k r).arbiters = s.arbiters := rfl
@[simp] theorem setCel_cad (s : State) (k : Nat) (r : Cellar) : (s.setCel k r).cad = s.cad := rfl
@[simp] theorem setCel_nrg (s : State) (k : Nat) (r : Cellar) : (s.setCel k r).nrg = s.nrg := rfl
@[simp] theorem setCel_domains (s : State) (k : Nat) (r : Cellar) : (s.setCel k r).domains = s.domains := rfl
@[simp] theorem setCel_pantry (s : State) (k : Nat) (r : Cellar) : (s.setCel k r).pantry = s.pantry := rfl
@[simp] theorem setCel_cellar (s : State) (k : Nat) (r : Cellar) : (s.setCel k r).cellar = s.cellar := rfl
@[simp] theorem setCel_larder (s : State) (k : Nat) (r : Cellar) : (s.setCel k r).larder = s.larder := rfl
@[simp] theorem setCel_host (s : State) (k : Nat) (r : Cellar) : (s.setCel k r).host = s.host := rfl
@[simp] theorem setCel_pantryUe (s : State) (k : Nat) (r : Cellar) : (s.setCel k r).pantryUe = s.pantryUe := rfl
@[simp] theorem setCel_cellarUe (s : State) (k : Nat) (r : Cellar) : (s.setCel k r).cellarUe = s.cellarUe := rfl
@[simp] theorem setCel_larderUe (s : State) (k : Nat) (r : Cellar) : (s.setCel k r).larderUe = s.larderUe := rfl
@[simp] theorem setCel_ports (s : State) (k : Nat) (r : Cellar) : (s.setCel k r).ports = s.ports := rfl
@[simp] theorem setCel_loopback (s : State) (k : Nat) (r : Cellar) : (s.setCel k r).loopback = s.loopback := rfl
@[simp] theorem setCel_ovf (s : State) (k : Nat) (r : Cellar) : (s.setCel k r).ovf = s.ovf := rfl
@[simp] theorem setCel_house (s : State) (k : Nat) (r : Cellar) : (s.setCel k r).house = s.house := rfl
@[simp] theorem setCel_fy (s : State) (k : Nat) (r : Cellar) : (s.setCel k r).fy = s.fy := rfl
@[simp] theorem setCel_rings (s : State) (k : Nat) (r : Cellar) : (s.setCel k r).rings = s.rings := rfl
@[simp] theorem setCel_reqSeq (s : State) (k : Nat) (r : Cellar) : (s.setCel k r).reqSeq = s.reqSeq := rfl
@[simp] theorem setCel_groups (s : State) (k : Nat) (r : Cellar) : (s.setCel k r).groups = s.groups := rfl
@[simp] theorem setCel_rdx (s : State) (k : Nat) (r : Cellar) : (s.setCel k r).rdx = s.rdx := rfl
@[simp] theorem setCel_study (s : State) (k : Nat) (r : Cellar) : (s.setCel k r).study = s.study := rfl
@[simp] theorem setCel_flash (s : State) (k : Nat) (r : Cellar) : (s.setCel k r).flash = s.flash := rfl
@[simp] theorem setCel_bar2Cut (s : State) (k : Nat) (r : Cellar) : (s.setCel k r).bar2Cut = s.bar2Cut := rfl
@[simp] theorem setCel_side (s : State) (k : Nat) (r : Cellar) : (s.setCel k r).side = s.side := rfl
@[simp] theorem setCel_room (s : State) (k j : Nat) (r : Cellar) : (s.setCel k r).room j = s.room j := rfl
@[simp] theorem setCel_chan (s : State) (k j : Nat) (r : Cellar) : (s.setCel k r).chan j = s.chan j := rfl
@[simp] theorem setCel_sq (s : State) (k j : Nat) (r : Cellar) : (s.setCel k r).sq j = s.sq j := rfl
@[simp] theorem setCel_cq (s : State) (k j : Nat) (r : Cellar) : (s.setCel k r).cq j = s.cq j := rfl
@[simp] theorem setCel_flag (s : State) (k j : Nat) (r : Cellar) : (s.setCel k r).flag j = s.flag j := rfl
@[simp] theorem setCel_counter (s : State) (k j : Nat) (r : Cellar) : (s.setCel k r).counter j = s.counter j := rfl
@[simp] theorem setCel_wire (s : State) (k j : Nat) (r : Cellar) : (s.setCel k r).wire j = s.wire j := rfl
@[simp] theorem setCel_log (s : State) (k j : Nat) (r : Cellar) : (s.setCel k r).log j = s.log j := rfl
@[simp] theorem setCel_arb (s : State) (k j : Nat) (r : Cellar) : (s.setCel k r).arb j = s.arb j := rfl
@[simp] theorem setCel_arbiter (s : State) (k j : Nat) (r : Cellar) : (s.setCel k r).arbiter j = s.arbiter j := rfl
@[simp] theorem setCel_domain (s : State) (k j : Nat) (r : Cellar) : (s.setCel k r).domain j = s.domain j := rfl
@[simp] theorem setCel_port (s : State) (k j : Nat) (r : Cellar) : (s.setCel k r).port j = s.port j := rfl
@[simp] theorem setCel_ovfOf (s : State) (k j : Nat) (r : Cellar) : (s.setCel k r).ovfOf j = s.ovfOf j := rfl
@[simp] theorem setCel_now (s : State) (k : Nat) (r : Cellar) : (s.setCel k r).now = s.now := rfl
theorem setCel_cel_ne (s : State) {k j : Nat} (r : Cellar) (h : j ≠ k) : (s.setCel k r).cel j = s.cel j :=
  tget_tset_ne s.cellars {} r h
theorem setCel_cel_eq {s : State} (k : Nat) (r : Cellar) (h : tableWf {} s.cellars = true) : (s.setCel k r).cel k = r :=
  tget_tset_eq k r h
theorem setCel_cel_of_ne (s : State) (k : Nat) {r : Cellar} (h : r ≠ {}) : (s.setCel k r).cel k = r :=
  tget_tset_of_ne s.cellars k h
theorem setCel_wf {s : State} (k : Nat) (r : Cellar) (h : tableWf {} s.cellars = true) : tableWf {} (s.setCel k r).cellars = true :=
  tableWf_tset k r h

/-! ### setPort -/

@[simp] theorem setPort_ports (s : State) (k : Nat) (r : Port) : (s.setPort k r).ports = tset s.ports {} k r := rfl
@[simp] theorem setPort_pending (s : State) (k : Nat) (r : Port) : (s.setPort k r).pending = s.pending := rfl
@[simp] theorem setPort_free (s : State) (k : Nat) (r : Port) : (s.setPort k r).free = s.free := rfl
@[simp] theorem setPort_outputs (s : State) (k : Nat) (r : Port) : (s.setPort k r).outputs = s.outputs := rfl
@[simp] theorem setPort_g (s : State) (k : Nat) (r : Port) : (s.setPort k r).g = s.g := rfl
@[simp] theorem setPort_pins (s : State) (k : Nat) (r : Port) : (s.setPort k r).pins = s.pins := rfl
@[simp] theorem setPort_pcie (s : State) (k : Nat) (r : Port) : (s.setPort k r).pcie = s.pcie := rfl
@[simp] theorem setPort_msix (s : State) (k : Nat) (r : Port) : (s.setPort k r).msix = s.msix := rfl
@[simp] theorem setPort_err (s : State) (k : Nat) (r : Port) : (s.setPort k r).err = s.err := rfl
@[simp] theorem setPort_audit (s : State) (k : Nat) (r : Port) : (s.setPort k r).audit = s.audit := rfl
@[simp] theorem setPort_logs (s : State) (k : Nat) (r : Port) : (s.setPort k r).logs = s.logs := rfl
@[simp] theorem setPort_rooms (s : State) (k : Nat) (r : Port) : (s.setPort k r).rooms = s.rooms := rfl
@[simp] theorem setPort_granules (s : State) (k : Nat) (r : Port) : (s.setPort k r).granules = s.granules := rfl
@[simp] theorem setPort_chans (s : State) (k : Nat) (r : Port) : (s.setPort k r).chans = s.chans := rfl
@[simp] theorem setPort_rotor (s : State) (k : Nat) (r : Port) : (s.setPort k r).rotor = s.rotor := rfl
@[simp] theorem setPort_hostReads (s : State) (k : Nat) (r : Port) : (s.setPort k r).hostReads = s.hostReads := rfl
@[simp] theorem setPort_proofs (s : State) (k : Nat) (r : Port) : (s.setPort k r).proofs = s.proofs := rfl
@[simp] theorem setPort_peerReads (s : State) (k : Nat) (r : Port) : (s.setPort k r).peerReads = s.peerReads := rfl
@[simp] theorem setPort_sqSignals (s : State) (k : Nat) (r : Port) : (s.setPort k r).sqSignals = s.sqSignals := rfl
@[simp] theorem setPort_sqs (s : State) (k : Nat) (r : Port) : (s.setPort k r).sqs = s.sqs := rfl
@[simp] theorem setPort_cqs (s : State) (k : Nat) (r : Port) : (s.setPort k r).cqs = s.cqs := rfl
@[simp] theorem setPort_flags (s : State) (k : Nat) (r : Port) : (s.setPort k r).flags = s.flags := rfl
@[simp] theorem setPort_counters (s : State) (k : Nat) (r : Port) : (s.setPort k r).counters = s.counters := rfl
@[simp] theorem setPort_wires (s : State) (k : Nat) (r : Port) : (s.setPort k r).wires = s.wires := rfl
@[simp] theorem setPort_waiters (s : State) (k : Nat) (r : Port) : (s.setPort k r).waiters = s.waiters := rfl
@[simp] theorem setPort_tags (s : State) (k : Nat) (r : Port) : (s.setPort k r).tags = s.tags := rfl
@[simp] theorem setPort_dbgFeAddr (s : State) (k : Nat) (r : Port) : (s.setPort k r).dbgFeAddr = s.dbgFeAddr := rfl
@[simp] theorem setPort_polls (s : State) (k : Nat) (r : Port) : (s.setPort k r).polls = s.polls := rfl
@[simp] theorem setPort_arbs (s : State) (k : Nat) (r : Port) : (s.setPort k r).arbs = s.arbs := rfl
@[simp] theorem setPort_arbiters (s : State) (k : Nat) (r : Port) : (s.setPort k r).arbiters = s.arbiters := rfl
@[simp] theorem setPort_cad (s : State) (k : Nat) (r : Port) : (s.setPort k r).cad = s.cad := rfl
@[simp] theorem setPort_nrg (s : State) (k : Nat) (r : Port) : (s.setPort k r).nrg = s.nrg := rfl
@[simp] theorem setPort_domains (s : State) (k : Nat) (r : Port) : (s.setPort k r).domains = s.domains := rfl
@[simp] theorem setPort_cellars (s : State) (k : Nat) (r : Port) : (s.setPort k r).cellars = s.cellars := rfl
@[simp] theorem setPort_pantry (s : State) (k : Nat) (r : Port) : (s.setPort k r).pantry = s.pantry := rfl
@[simp] theorem setPort_cellar (s : State) (k : Nat) (r : Port) : (s.setPort k r).cellar = s.cellar := rfl
@[simp] theorem setPort_larder (s : State) (k : Nat) (r : Port) : (s.setPort k r).larder = s.larder := rfl
@[simp] theorem setPort_host (s : State) (k : Nat) (r : Port) : (s.setPort k r).host = s.host := rfl
@[simp] theorem setPort_pantryUe (s : State) (k : Nat) (r : Port) : (s.setPort k r).pantryUe = s.pantryUe := rfl
@[simp] theorem setPort_cellarUe (s : State) (k : Nat) (r : Port) : (s.setPort k r).cellarUe = s.cellarUe := rfl
@[simp] theorem setPort_larderUe (s : State) (k : Nat) (r : Port) : (s.setPort k r).larderUe = s.larderUe := rfl
@[simp] theorem setPort_loopback (s : State) (k : Nat) (r : Port) : (s.setPort k r).loopback = s.loopback := rfl
@[simp] theorem setPort_ovf (s : State) (k : Nat) (r : Port) : (s.setPort k r).ovf = s.ovf := rfl
@[simp] theorem setPort_house (s : State) (k : Nat) (r : Port) : (s.setPort k r).house = s.house := rfl
@[simp] theorem setPort_fy (s : State) (k : Nat) (r : Port) : (s.setPort k r).fy = s.fy := rfl
@[simp] theorem setPort_rings (s : State) (k : Nat) (r : Port) : (s.setPort k r).rings = s.rings := rfl
@[simp] theorem setPort_reqSeq (s : State) (k : Nat) (r : Port) : (s.setPort k r).reqSeq = s.reqSeq := rfl
@[simp] theorem setPort_groups (s : State) (k : Nat) (r : Port) : (s.setPort k r).groups = s.groups := rfl
@[simp] theorem setPort_rdx (s : State) (k : Nat) (r : Port) : (s.setPort k r).rdx = s.rdx := rfl
@[simp] theorem setPort_study (s : State) (k : Nat) (r : Port) : (s.setPort k r).study = s.study := rfl
@[simp] theorem setPort_flash (s : State) (k : Nat) (r : Port) : (s.setPort k r).flash = s.flash := rfl
@[simp] theorem setPort_bar2Cut (s : State) (k : Nat) (r : Port) : (s.setPort k r).bar2Cut = s.bar2Cut := rfl
@[simp] theorem setPort_side (s : State) (k : Nat) (r : Port) : (s.setPort k r).side = s.side := rfl
@[simp] theorem setPort_room (s : State) (k j : Nat) (r : Port) : (s.setPort k r).room j = s.room j := rfl
@[simp] theorem setPort_chan (s : State) (k j : Nat) (r : Port) : (s.setPort k r).chan j = s.chan j := rfl
@[simp] theorem setPort_sq (s : State) (k j : Nat) (r : Port) : (s.setPort k r).sq j = s.sq j := rfl
@[simp] theorem setPort_cq (s : State) (k j : Nat) (r : Port) : (s.setPort k r).cq j = s.cq j := rfl
@[simp] theorem setPort_flag (s : State) (k j : Nat) (r : Port) : (s.setPort k r).flag j = s.flag j := rfl
@[simp] theorem setPort_counter (s : State) (k j : Nat) (r : Port) : (s.setPort k r).counter j = s.counter j := rfl
@[simp] theorem setPort_wire (s : State) (k j : Nat) (r : Port) : (s.setPort k r).wire j = s.wire j := rfl
@[simp] theorem setPort_log (s : State) (k j : Nat) (r : Port) : (s.setPort k r).log j = s.log j := rfl
@[simp] theorem setPort_arb (s : State) (k j : Nat) (r : Port) : (s.setPort k r).arb j = s.arb j := rfl
@[simp] theorem setPort_arbiter (s : State) (k j : Nat) (r : Port) : (s.setPort k r).arbiter j = s.arbiter j := rfl
@[simp] theorem setPort_domain (s : State) (k j : Nat) (r : Port) : (s.setPort k r).domain j = s.domain j := rfl
@[simp] theorem setPort_cel (s : State) (k j : Nat) (r : Port) : (s.setPort k r).cel j = s.cel j := rfl
@[simp] theorem setPort_ovfOf (s : State) (k j : Nat) (r : Port) : (s.setPort k r).ovfOf j = s.ovfOf j := rfl
@[simp] theorem setPort_now (s : State) (k : Nat) (r : Port) : (s.setPort k r).now = s.now := rfl
theorem setPort_port_ne (s : State) {k j : Nat} (r : Port) (h : j ≠ k) : (s.setPort k r).port j = s.port j :=
  tget_tset_ne s.ports {} r h
theorem setPort_port_eq {s : State} (k : Nat) (r : Port) (h : tableWf {} s.ports = true) : (s.setPort k r).port k = r :=
  tget_tset_eq k r h
theorem setPort_port_of_ne (s : State) (k : Nat) {r : Port} (h : r ≠ {}) : (s.setPort k r).port k = r :=
  tget_tset_of_ne s.ports k h
theorem setPort_wf {s : State} (k : Nat) (r : Port) (h : tableWf {} s.ports = true) : tableWf {} (s.setPort k r).ports = true :=
  tableWf_tset k r h

/-! ### setOvf -/

@[simp] theorem setOvf_ovf (s : State) (k : Nat) (r : Ovf) : (s.setOvf k r).ovf = tset s.ovf {} k r := rfl
@[simp] theorem setOvf_pending (s : State) (k : Nat) (r : Ovf) : (s.setOvf k r).pending = s.pending := rfl
@[simp] theorem setOvf_free (s : State) (k : Nat) (r : Ovf) : (s.setOvf k r).free = s.free := rfl
@[simp] theorem setOvf_outputs (s : State) (k : Nat) (r : Ovf) : (s.setOvf k r).outputs = s.outputs := rfl
@[simp] theorem setOvf_g (s : State) (k : Nat) (r : Ovf) : (s.setOvf k r).g = s.g := rfl
@[simp] theorem setOvf_pins (s : State) (k : Nat) (r : Ovf) : (s.setOvf k r).pins = s.pins := rfl
@[simp] theorem setOvf_pcie (s : State) (k : Nat) (r : Ovf) : (s.setOvf k r).pcie = s.pcie := rfl
@[simp] theorem setOvf_msix (s : State) (k : Nat) (r : Ovf) : (s.setOvf k r).msix = s.msix := rfl
@[simp] theorem setOvf_err (s : State) (k : Nat) (r : Ovf) : (s.setOvf k r).err = s.err := rfl
@[simp] theorem setOvf_audit (s : State) (k : Nat) (r : Ovf) : (s.setOvf k r).audit = s.audit := rfl
@[simp] theorem setOvf_logs (s : State) (k : Nat) (r : Ovf) : (s.setOvf k r).logs = s.logs := rfl
@[simp] theorem setOvf_rooms (s : State) (k : Nat) (r : Ovf) : (s.setOvf k r).rooms = s.rooms := rfl
@[simp] theorem setOvf_granules (s : State) (k : Nat) (r : Ovf) : (s.setOvf k r).granules = s.granules := rfl
@[simp] theorem setOvf_chans (s : State) (k : Nat) (r : Ovf) : (s.setOvf k r).chans = s.chans := rfl
@[simp] theorem setOvf_rotor (s : State) (k : Nat) (r : Ovf) : (s.setOvf k r).rotor = s.rotor := rfl
@[simp] theorem setOvf_hostReads (s : State) (k : Nat) (r : Ovf) : (s.setOvf k r).hostReads = s.hostReads := rfl
@[simp] theorem setOvf_proofs (s : State) (k : Nat) (r : Ovf) : (s.setOvf k r).proofs = s.proofs := rfl
@[simp] theorem setOvf_peerReads (s : State) (k : Nat) (r : Ovf) : (s.setOvf k r).peerReads = s.peerReads := rfl
@[simp] theorem setOvf_sqSignals (s : State) (k : Nat) (r : Ovf) : (s.setOvf k r).sqSignals = s.sqSignals := rfl
@[simp] theorem setOvf_sqs (s : State) (k : Nat) (r : Ovf) : (s.setOvf k r).sqs = s.sqs := rfl
@[simp] theorem setOvf_cqs (s : State) (k : Nat) (r : Ovf) : (s.setOvf k r).cqs = s.cqs := rfl
@[simp] theorem setOvf_flags (s : State) (k : Nat) (r : Ovf) : (s.setOvf k r).flags = s.flags := rfl
@[simp] theorem setOvf_counters (s : State) (k : Nat) (r : Ovf) : (s.setOvf k r).counters = s.counters := rfl
@[simp] theorem setOvf_wires (s : State) (k : Nat) (r : Ovf) : (s.setOvf k r).wires = s.wires := rfl
@[simp] theorem setOvf_waiters (s : State) (k : Nat) (r : Ovf) : (s.setOvf k r).waiters = s.waiters := rfl
@[simp] theorem setOvf_tags (s : State) (k : Nat) (r : Ovf) : (s.setOvf k r).tags = s.tags := rfl
@[simp] theorem setOvf_dbgFeAddr (s : State) (k : Nat) (r : Ovf) : (s.setOvf k r).dbgFeAddr = s.dbgFeAddr := rfl
@[simp] theorem setOvf_polls (s : State) (k : Nat) (r : Ovf) : (s.setOvf k r).polls = s.polls := rfl
@[simp] theorem setOvf_arbs (s : State) (k : Nat) (r : Ovf) : (s.setOvf k r).arbs = s.arbs := rfl
@[simp] theorem setOvf_arbiters (s : State) (k : Nat) (r : Ovf) : (s.setOvf k r).arbiters = s.arbiters := rfl
@[simp] theorem setOvf_cad (s : State) (k : Nat) (r : Ovf) : (s.setOvf k r).cad = s.cad := rfl
@[simp] theorem setOvf_nrg (s : State) (k : Nat) (r : Ovf) : (s.setOvf k r).nrg = s.nrg := rfl
@[simp] theorem setOvf_domains (s : State) (k : Nat) (r : Ovf) : (s.setOvf k r).domains = s.domains := rfl
@[simp] theorem setOvf_cellars (s : State) (k : Nat) (r : Ovf) : (s.setOvf k r).cellars = s.cellars := rfl
@[simp] theorem setOvf_pantry (s : State) (k : Nat) (r : Ovf) : (s.setOvf k r).pantry = s.pantry := rfl
@[simp] theorem setOvf_cellar (s : State) (k : Nat) (r : Ovf) : (s.setOvf k r).cellar = s.cellar := rfl
@[simp] theorem setOvf_larder (s : State) (k : Nat) (r : Ovf) : (s.setOvf k r).larder = s.larder := rfl
@[simp] theorem setOvf_host (s : State) (k : Nat) (r : Ovf) : (s.setOvf k r).host = s.host := rfl
@[simp] theorem setOvf_pantryUe (s : State) (k : Nat) (r : Ovf) : (s.setOvf k r).pantryUe = s.pantryUe := rfl
@[simp] theorem setOvf_cellarUe (s : State) (k : Nat) (r : Ovf) : (s.setOvf k r).cellarUe = s.cellarUe := rfl
@[simp] theorem setOvf_larderUe (s : State) (k : Nat) (r : Ovf) : (s.setOvf k r).larderUe = s.larderUe := rfl
@[simp] theorem setOvf_ports (s : State) (k : Nat) (r : Ovf) : (s.setOvf k r).ports = s.ports := rfl
@[simp] theorem setOvf_loopback (s : State) (k : Nat) (r : Ovf) : (s.setOvf k r).loopback = s.loopback := rfl
@[simp] theorem setOvf_house (s : State) (k : Nat) (r : Ovf) : (s.setOvf k r).house = s.house := rfl
@[simp] theorem setOvf_fy (s : State) (k : Nat) (r : Ovf) : (s.setOvf k r).fy = s.fy := rfl
@[simp] theorem setOvf_rings (s : State) (k : Nat) (r : Ovf) : (s.setOvf k r).rings = s.rings := rfl
@[simp] theorem setOvf_reqSeq (s : State) (k : Nat) (r : Ovf) : (s.setOvf k r).reqSeq = s.reqSeq := rfl
@[simp] theorem setOvf_groups (s : State) (k : Nat) (r : Ovf) : (s.setOvf k r).groups = s.groups := rfl
@[simp] theorem setOvf_rdx (s : State) (k : Nat) (r : Ovf) : (s.setOvf k r).rdx = s.rdx := rfl
@[simp] theorem setOvf_study (s : State) (k : Nat) (r : Ovf) : (s.setOvf k r).study = s.study := rfl
@[simp] theorem setOvf_flash (s : State) (k : Nat) (r : Ovf) : (s.setOvf k r).flash = s.flash := rfl
@[simp] theorem setOvf_bar2Cut (s : State) (k : Nat) (r : Ovf) : (s.setOvf k r).bar2Cut = s.bar2Cut := rfl
@[simp] theorem setOvf_side (s : State) (k : Nat) (r : Ovf) : (s.setOvf k r).side = s.side := rfl
@[simp] theorem setOvf_room (s : State) (k j : Nat) (r : Ovf) : (s.setOvf k r).room j = s.room j := rfl
@[simp] theorem setOvf_chan (s : State) (k j : Nat) (r : Ovf) : (s.setOvf k r).chan j = s.chan j := rfl
@[simp] theorem setOvf_sq (s : State) (k j : Nat) (r : Ovf) : (s.setOvf k r).sq j = s.sq j := rfl
@[simp] theorem setOvf_cq (s : State) (k j : Nat) (r : Ovf) : (s.setOvf k r).cq j = s.cq j := rfl
@[simp] theorem setOvf_flag (s : State) (k j : Nat) (r : Ovf) : (s.setOvf k r).flag j = s.flag j := rfl
@[simp] theorem setOvf_counter (s : State) (k j : Nat) (r : Ovf) : (s.setOvf k r).counter j = s.counter j := rfl
@[simp] theorem setOvf_wire (s : State) (k j : Nat) (r : Ovf) : (s.setOvf k r).wire j = s.wire j := rfl
@[simp] theorem setOvf_log (s : State) (k j : Nat) (r : Ovf) : (s.setOvf k r).log j = s.log j := rfl
@[simp] theorem setOvf_arb (s : State) (k j : Nat) (r : Ovf) : (s.setOvf k r).arb j = s.arb j := rfl
@[simp] theorem setOvf_arbiter (s : State) (k j : Nat) (r : Ovf) : (s.setOvf k r).arbiter j = s.arbiter j := rfl
@[simp] theorem setOvf_domain (s : State) (k j : Nat) (r : Ovf) : (s.setOvf k r).domain j = s.domain j := rfl
@[simp] theorem setOvf_cel (s : State) (k j : Nat) (r : Ovf) : (s.setOvf k r).cel j = s.cel j := rfl
@[simp] theorem setOvf_port (s : State) (k j : Nat) (r : Ovf) : (s.setOvf k r).port j = s.port j := rfl
@[simp] theorem setOvf_now (s : State) (k : Nat) (r : Ovf) : (s.setOvf k r).now = s.now := rfl
theorem setOvf_ovfOf_ne (s : State) {k j : Nat} (r : Ovf) (h : j ≠ k) : (s.setOvf k r).ovfOf j = s.ovfOf j :=
  tget_tset_ne s.ovf {} r h
theorem setOvf_ovfOf_eq {s : State} (k : Nat) (r : Ovf) (h : tableWf {} s.ovf = true) : (s.setOvf k r).ovfOf k = r :=
  tget_tset_eq k r h
theorem setOvf_ovfOf_of_ne (s : State) (k : Nat) {r : Ovf} (h : r ≠ {}) : (s.setOvf k r).ovfOf k = r :=
  tget_tset_of_ne s.ovf k h
theorem setOvf_wf {s : State} (k : Nat) (r : Ovf) (h : tableWf {} s.ovf = true) : tableWf {} (s.setOvf k r).ovf = true :=
  tableWf_tset k r h

/-! ### emit -/

@[simp] theorem emit_outputs (s : State) (o : Output) : (s.emit o).outputs = o :: s.outputs := rfl
@[simp] theorem emit_pending (s : State) (o : Output) : (s.emit o).pending = s.pending := rfl
@[simp] theorem emit_free (s : State) (o : Output) : (s.emit o).free = s.free := rfl
@[simp] theorem emit_g (s : State) (o : Output) : (s.emit o).g = s.g := rfl
@[simp] theorem emit_pins (s : State) (o : Output) : (s.emit o).pins = s.pins := rfl
@[simp] theorem emit_pcie (s : State) (o : Output) : (s.emit o).pcie = s.pcie := rfl
@[simp] theorem emit_msix (s : State) (o : Output) : (s.emit o).msix = s.msix := rfl
@[simp] theorem emit_err (s : State) (o : Output) : (s.emit o).err = s.err := rfl
@[simp] theorem emit_audit (s : State) (o : Output) : (s.emit o).audit = s.audit := rfl
@[simp] theorem emit_logs (s : State) (o : Output) : (s.emit o).logs = s.logs := rfl
@[simp] theorem emit_rooms (s : State) (o : Output) : (s.emit o).rooms = s.rooms := rfl
@[simp] theorem emit_granules (s : State) (o : Output) : (s.emit o).granules = s.granules := rfl
@[simp] theorem emit_chans (s : State) (o : Output) : (s.emit o).chans = s.chans := rfl
@[simp] theorem emit_rotor (s : State) (o : Output) : (s.emit o).rotor = s.rotor := rfl
@[simp] theorem emit_hostReads (s : State) (o : Output) : (s.emit o).hostReads = s.hostReads := rfl
@[simp] theorem emit_proofs (s : State) (o : Output) : (s.emit o).proofs = s.proofs := rfl
@[simp] theorem emit_peerReads (s : State) (o : Output) : (s.emit o).peerReads = s.peerReads := rfl
@[simp] theorem emit_sqSignals (s : State) (o : Output) : (s.emit o).sqSignals = s.sqSignals := rfl
@[simp] theorem emit_sqs (s : State) (o : Output) : (s.emit o).sqs = s.sqs := rfl
@[simp] theorem emit_cqs (s : State) (o : Output) : (s.emit o).cqs = s.cqs := rfl
@[simp] theorem emit_flags (s : State) (o : Output) : (s.emit o).flags = s.flags := rfl
@[simp] theorem emit_counters (s : State) (o : Output) : (s.emit o).counters = s.counters := rfl
@[simp] theorem emit_wires (s : State) (o : Output) : (s.emit o).wires = s.wires := rfl
@[simp] theorem emit_waiters (s : State) (o : Output) : (s.emit o).waiters = s.waiters := rfl
@[simp] theorem emit_tags (s : State) (o : Output) : (s.emit o).tags = s.tags := rfl
@[simp] theorem emit_dbgFeAddr (s : State) (o : Output) : (s.emit o).dbgFeAddr = s.dbgFeAddr := rfl
@[simp] theorem emit_polls (s : State) (o : Output) : (s.emit o).polls = s.polls := rfl
@[simp] theorem emit_arbs (s : State) (o : Output) : (s.emit o).arbs = s.arbs := rfl
@[simp] theorem emit_arbiters (s : State) (o : Output) : (s.emit o).arbiters = s.arbiters := rfl
@[simp] theorem emit_cad (s : State) (o : Output) : (s.emit o).cad = s.cad := rfl
@[simp] theorem emit_nrg (s : State) (o : Output) : (s.emit o).nrg = s.nrg := rfl
@[simp] theorem emit_domains (s : State) (o : Output) : (s.emit o).domains = s.domains := rfl
@[simp] theorem emit_cellars (s : State) (o : Output) : (s.emit o).cellars = s.cellars := rfl
@[simp] theorem emit_pantry (s : State) (o : Output) : (s.emit o).pantry = s.pantry := rfl
@[simp] theorem emit_cellar (s : State) (o : Output) : (s.emit o).cellar = s.cellar := rfl
@[simp] theorem emit_larder (s : State) (o : Output) : (s.emit o).larder = s.larder := rfl
@[simp] theorem emit_host (s : State) (o : Output) : (s.emit o).host = s.host := rfl
@[simp] theorem emit_pantryUe (s : State) (o : Output) : (s.emit o).pantryUe = s.pantryUe := rfl
@[simp] theorem emit_cellarUe (s : State) (o : Output) : (s.emit o).cellarUe = s.cellarUe := rfl
@[simp] theorem emit_larderUe (s : State) (o : Output) : (s.emit o).larderUe = s.larderUe := rfl
@[simp] theorem emit_ports (s : State) (o : Output) : (s.emit o).ports = s.ports := rfl
@[simp] theorem emit_loopback (s : State) (o : Output) : (s.emit o).loopback = s.loopback := rfl
@[simp] theorem emit_ovf (s : State) (o : Output) : (s.emit o).ovf = s.ovf := rfl
@[simp] theorem emit_house (s : State) (o : Output) : (s.emit o).house = s.house := rfl
@[simp] theorem emit_fy (s : State) (o : Output) : (s.emit o).fy = s.fy := rfl
@[simp] theorem emit_rings (s : State) (o : Output) : (s.emit o).rings = s.rings := rfl
@[simp] theorem emit_reqSeq (s : State) (o : Output) : (s.emit o).reqSeq = s.reqSeq := rfl
@[simp] theorem emit_groups (s : State) (o : Output) : (s.emit o).groups = s.groups := rfl
@[simp] theorem emit_rdx (s : State) (o : Output) : (s.emit o).rdx = s.rdx := rfl
@[simp] theorem emit_study (s : State) (o : Output) : (s.emit o).study = s.study := rfl
@[simp] theorem emit_flash (s : State) (o : Output) : (s.emit o).flash = s.flash := rfl
@[simp] theorem emit_bar2Cut (s : State) (o : Output) : (s.emit o).bar2Cut = s.bar2Cut := rfl
@[simp] theorem emit_side (s : State) (o : Output) : (s.emit o).side = s.side := rfl
@[simp] theorem emit_room (s : State) (o : Output) (j : Nat) : (s.emit o).room j = s.room j := rfl
@[simp] theorem emit_chan (s : State) (o : Output) (j : Nat) : (s.emit o).chan j = s.chan j := rfl
@[simp] theorem emit_sq (s : State) (o : Output) (j : Nat) : (s.emit o).sq j = s.sq j := rfl
@[simp] theorem emit_cq (s : State) (o : Output) (j : Nat) : (s.emit o).cq j = s.cq j := rfl
@[simp] theorem emit_flag (s : State) (o : Output) (j : Nat) : (s.emit o).flag j = s.flag j := rfl
@[simp] theorem emit_counter (s : State) (o : Output) (j : Nat) : (s.emit o).counter j = s.counter j := rfl
@[simp] theorem emit_wire (s : State) (o : Output) (j : Nat) : (s.emit o).wire j = s.wire j := rfl
@[simp] theorem emit_log (s : State) (o : Output) (j : Nat) : (s.emit o).log j = s.log j := rfl
@[simp] theorem emit_arb (s : State) (o : Output) (j : Nat) : (s.emit o).arb j = s.arb j := rfl
@[simp] theorem emit_arbiter (s : State) (o : Output) (j : Nat) : (s.emit o).arbiter j = s.arbiter j := rfl
@[simp] theorem emit_domain (s : State) (o : Output) (j : Nat) : (s.emit o).domain j = s.domain j := rfl
@[simp] theorem emit_cel (s : State) (o : Output) (j : Nat) : (s.emit o).cel j = s.cel j := rfl
@[simp] theorem emit_port (s : State) (o : Output) (j : Nat) : (s.emit o).port j = s.port j := rfl
@[simp] theorem emit_ovfOf (s : State) (o : Output) (j : Nat) : (s.emit o).ovfOf j = s.ovfOf j := rfl

end State
end Sys2Proof.Machine
end

