-- ==== Sys2Proof/Laws/Canonical.lean ====
section
/-! SUPPORT. The canonical form of a state: its parts, and that the accessors' updates keep it. -/
namespace Sys2Proof.Machine

/-- The parts of State.wf, by name. -/
structure Canonical (s : State) : Prop where
  pantry : Memory.wf s.pantry = true
  cellar : Memory.wf s.cellar = true
  larder : Memory.wf s.larder = true
  host : Memory.wf s.host = true
  flash : Memory.wf s.flash = true
  msix : tableWf {} s.msix = true
  logs : tableWf {} s.logs = true
  rooms : tableWf {} s.rooms = true
  chans : tableWf {} s.chans = true
  sqs : tableWf {} s.sqs = true
  cqs : tableWf {} s.cqs = true
  flags : tableWf {} s.flags = true
  counters : tableWf {} s.counters = true
  wires : tableWf {} s.wires = true
  arbs : tableWf {} s.arbs = true
  arbiters : tableWf {} s.arbiters = true
  domains : tableWf {} s.domains = true
  cellars : tableWf {} s.cellars = true
  ports : tableWf {} s.ports = true
  ovf : tableWf {} s.ovf = true
  rings : tableWf {} s.rings = true
  slots : tableWf {} s.fy.slots = true
  rotor : s.rotor.length = 2

theorem wf_iff (s : State) : s.wf = true ↔ Canonical s := by
  constructor
  · intro h
    simp only [State.wf, memoriesWf, tablesWf, Bool.and_eq_true, decide_eq_true_eq] at h
    constructor <;> tauto
  · intro h
    simp only [State.wf, memoriesWf, tablesWf, Bool.and_eq_true, decide_eq_true_eq]
    exact ⟨⟨⟨⟨⟨⟨h.pantry, h.cellar⟩, h.larder⟩, h.host⟩, h.flash⟩, ⟨⟨⟨⟨⟨⟨⟨⟨⟨⟨⟨⟨⟨⟨⟨⟨h.msix, h.logs⟩, h.rooms⟩, h.chans⟩, h.sqs⟩, h.cqs⟩, h.flags⟩, h.counters⟩, h.wires⟩, h.arbs⟩, h.arbiters⟩, h.domains⟩, h.cellars⟩, h.ports⟩, h.ovf⟩, h.rings⟩, h.slots⟩⟩, h.rotor⟩

namespace State

theorem wf_setRoom {s : State} (k : Nat) (r : Room) (h : s.wf = true) : (s.setRoom k r).wf = true := by
  rw [wf_iff] at h ⊢
  exact { h with rooms := tableWf_tset k r h.rooms }

theorem wf_setChan {s : State} (k : Nat) (r : Chan) (h : s.wf = true) : (s.setChan k r).wf = true := by
  rw [wf_iff] at h ⊢
  exact { h with chans := tableWf_tset k r h.chans }

theorem wf_setSq {s : State} (k : Nat) (r : Sq) (h : s.wf = true) : (s.setSq k r).wf = true := by
  rw [wf_iff] at h ⊢
  exact { h with sqs := tableWf_tset k r h.sqs }

theorem wf_setCq {s : State} (k : Nat) (r : Cq) (h : s.wf = true) : (s.setCq k r).wf = true := by
  rw [wf_iff] at h ⊢
  exact { h with cqs := tableWf_tset k r h.cqs }

theorem wf_setFlag {s : State} (k : Nat) (r : Flag) (h : s.wf = true) : (s.setFlag k r).wf = true := by
  rw [wf_iff] at h ⊢
  exact { h with flags := tableWf_tset k r h.flags }

theorem wf_setCounter {s : State} (k : Nat) (r : Counter) (h : s.wf = true) : (s.setCounter k r).wf = true := by
  rw [wf_iff] at h ⊢
  exact { h with counters := tableWf_tset k r h.counters }

theorem wf_setWire {s : State} (k : Nat) (r : Wire) (h : s.wf = true) : (s.setWire k r).wf = true := by
  rw [wf_iff] at h ⊢
  exact { h with wires := tableWf_tset k r h.wires }

theorem wf_setLog {s : State} (k : Nat) (r : LogRegs) (h : s.wf = true) : (s.setLog k r).wf = true := by
  rw [wf_iff] at h ⊢
  exact { h with logs := tableWf_tset k r h.logs }

theorem wf_setArb {s : State} (k : Nat) (r : ArbRegs) (h : s.wf = true) : (s.setArb k r).wf = true := by
  rw [wf_iff] at h ⊢
  exact { h with arbs := tableWf_tset k r h.arbs }

theorem wf_setArbiter {s : State} (k : Nat) (r : Arbiter) (h : s.wf = true) : (s.setArbiter k r).wf = true := by
  rw [wf_iff] at h ⊢
  exact { h with arbiters := tableWf_tset k r h.arbiters }

theorem wf_setDomain {s : State} (k : Nat) (r : Domain) (h : s.wf = true) : (s.setDomain k r).wf = true := by
  rw [wf_iff] at h ⊢
  exact { h with domains := tableWf_tset k r h.domains }

theorem wf_setCel {s : State} (k : Nat) (r : Cellar) (h : s.wf = true) : (s.setCel k r).wf = true := by
  rw [wf_iff] at h ⊢
  exact { h with cellars := tableWf_tset k r h.cellars }

theorem wf_setPort {s : State} (k : Nat) (r : Port) (h : s.wf = true) : (s.setPort k r).wf = true := by
  rw [wf_iff] at h ⊢
  exact { h with ports := tableWf_tset k r h.ports }

theorem wf_setOvf {s : State} (k : Nat) (r : Ovf) (h : s.wf = true) : (s.setOvf k r).wf = true := by
  rw [wf_iff] at h ⊢
  exact { h with ovf := tableWf_tset k r h.ovf }

theorem wf_setRing {s : State} (k : Nat) (r : Ring) (h : s.wf = true) : (s.setRing k r).wf = true := by
  rw [wf_iff] at h ⊢
  exact { h with rings := tableWf_tset k r h.rings }

theorem wf_emit {s : State} (x : Output) (h : s.wf = true) : (s.emit x).wf = true := h

/-- The records of a canonical state that an accessor's update put there are read back. -/
theorem wf_tables {s : State} (h : s.wf = true) : tableWf {} s.rooms = true ∧ tableWf {} s.chans = true
    ∧ tableWf {} s.sqs = true ∧ tableWf {} s.cqs = true ∧ tableWf {} s.flags = true ∧ tableWf {} s.counters = true
    ∧ tableWf {} s.ports = true ∧ tableWf {} s.rings = true :=
  have c := (wf_iff s).1 h
  ⟨c.rooms, c.chans, c.sqs, c.cqs, c.flags, c.counters, c.ports, c.rings⟩

end State
end Sys2Proof.Machine
end

