-- ==== Sys2Proof/Laws/Frames.lean ====
section
/-! SUPPORT. What a received frame of one message does: the checks pass, the message's own rules apply, and the frame is
accepted. -/
namespace Sys2Proof.Machine

/-! ### What a frame's acknowledgement leaves -/

/-- t has the node, the House state, the links and the Foyer state of s. -/
abbrev SameNode (s t : State) : Prop :=
  t.house.node = s.house.node ∧ t.house.nodeValid = s.house.nodeValid ∧ t.house.hstate = s.house.hstate ∧ t.fy = s.fy
    ∧ t.house.viaPort = s.house.viaPort ∧ t.house.links = s.house.links

theorem sameNode_trans {s t u : State} (h : SameNode s t) (g : SameNode t u) : SameNode s u :=
  ⟨g.1.trans h.1, g.2.1.trans h.2.1, g.2.2.1.trans h.2.2.1, g.2.2.2.1.trans h.2.2.2.1, g.2.2.2.2.1.trans h.2.2.2.2.1,
    g.2.2.2.2.2.trans h.2.2.2.2.2⟩

/-- What no update of another field changes. -/
theorem sameNode_of {s t : State} (h : t.house = s.house) (g : t.fy = s.fy) : SameNode s t := by
  simp [SameNode, h, g]

theorem sameNode_foldl {α : Type} {g : State → α → State} (l : List α) (hg : ∀ s x, SameNode s (g s x)) (s : State) :
    SameNode s (l.foldl g s) := by
  induction l generalizing s with
  | nil => exact ⟨rfl, rfl, rfl, rfl, rfl, rfl⟩
  | cons x r ih => exact sameNode_trans (hg s x) (ih _)

theorem sameNode_sendMgmt (p : Nat) (w : BitVec 512) (s : State) : SameNode s (sendMgmt p w s) := by
  unfold sendMgmt; split <;> exact ⟨rfl, rfl, rfl, rfl, rfl, rfl⟩

theorem sameNode_loadKey (p dir : Nat) (k : KeySlot) (x : Word) (s : State) : SameNode s ((loadKey p dir k x s).getD s) := by
  unfold loadKey
  dsimp only
  split
  · exact ⟨rfl, rfl, rfl, rfl, rfl, rfl⟩
  · cases (if dir = 0 then loadTx k (s.port p) else loadRx k (s.port p)) <;> exact ⟨rfl, rfl, rfl, rfl, rfl, rfl⟩

theorem sameNode_deliverKey (n p dir : Nat) (k : KeySlot) (s : State) : SameNode s (deliverKey n p dir k s).1 := by
  unfold deliverKey
  split
  · exact sameNode_loadKey ..
  · split
    · exact sameNode_sendMgmt ..
    · exact ⟨rfl, rfl, rfl, rfl, rfl, rfl⟩

theorem sameNode_keyAccepted (p : Nat) (c : List Byte) (s : State) : SameNode s (keyAccepted p c s) := by
  unfold keyAccepted
  exact sameNode_trans (t := { s with house := { s.house with heldKeys := _ } }) ⟨rfl, rfl, rfl, rfl, rfl, rfl⟩
    (sameNode_foldl _ (fun t h => sameNode_deliverKey ..) _)

theorem sameNode_applyAck (p : Nat) (ack : BitVec 16) (s : State) : SameNode s (applyAck p ack s) := by
  have item (i : TxItem) (t : State) : SameNode t (match i with | .mgmt b => keyAccepted p b t | _ => t) := by
    cases i <;> first | exact sameNode_keyAccepted .. | exact ⟨rfl, rfl, rfl, rfl, rfl, rfl⟩
  unfold applyAck
  dsimp only
  split
  · exact ⟨rfl, rfl, rfl, rfl, rfl, rfl⟩
  · exact sameNode_trans (t := releaseHeld (s.setPort p _)) (sameNode_of rfl rfl) (sameNode_foldl _ (fun t i => item i t) _)

/-- ACK, CREDIT and the key in use change no identity and no state of the House or the Foyer. -/
theorem sameNode_noteFrame (p : Nat) (f : FrameIn) (s : State) : SameNode s (noteFrame p f s) := by
  unfold noteFrame
  dsimp only
  split
  · exact ⟨rfl, rfl, rfl, rfl, rfl, rfl⟩
  · exact sameNode_trans (t := s.setPort p _) ⟨rfl, rfl, rfl, rfl, rfl, rfl⟩ (sameNode_applyAck ..)

theorem ownNode_noteFrame (p : Nat) (f : FrameIn) (s : State) : ownNode (noteFrame p f s) = ownNode s := by
  obtain ⟨h1, h2, -⟩ := sameNode_noteFrame p f s
  simp [ownNode, h1, h2]

/-! ### One message -/

/-- A MSG frame of one message for this node: the message's rules apply after the frame's ACK and CREDIT, and the frame is
accepted (R500, R514). -/
theorem msgRow_of {s : State} {p t : Nat} {f : FrameIn} {m : Msg} (body : Msg → State → State) (h : OnlyMessage s p f m)
    (ht : m.mtype.toNat = t) : msgRow t p f 0 body s = acceptSeq p (some f) (body m (noteFrame p f s)) := by
  obtain ⟨c, ⟨ty, hj⟩, hl, hm, ha, hd⟩ := h
  have e : (fun c => if (s.port p).msgAt = 0 && fType f.raw = 3 then msgVerdict s p c else none) = msgVerdict s p := by
    funext c; simp [ha, ty]
  unfold msgRow
  rw [if_neg (by simp [forRow, ty])]
  dsimp only
  rw [e, hj]
  simp [hm, ha, hl, ht, hd, ty, ownNode_noteFrame]

/-- A DATA frame of an open stream: its bytes go there after the frame's ACK and CREDIT, and it is accepted (R500, R518). -/
theorem dataFrame_of {s : State} {p : Fin 16} {f : FrameIn} {c : List Byte}
    (h : Received s p f 2 (fun _ => if streamOpen s p (fStream f.raw) then none else some Nak.unexpected) c) :
    execDataFrame p f s = .next (acceptSeq p (some f) (dataHere p f c (noteFrame p f s))) := by
  obtain ⟨ty, hj⟩ := h
  have e : (fun _ => if fType f.raw = 0 || streamOpen s p (fStream f.raw) then none else some Nak.unexpected)
      = fun _ : List Byte => if streamOpen s p (fStream f.raw) then none else some Nak.unexpected := by simp [ty]
  unfold execDataFrame
  rw [if_neg (by simp [forRow, ty]), e, hj]
  simp [ty]

/-- A MGMT frame of one message that this node takes now: the message's rules apply, and the frame is accepted (R544). -/
theorem mgmtRow_of {s : State} {p t : Nat} {f : FrameIn} {w : BitVec 512} (body : BitVec 512 → State → State)
    (h : OnlyMgmt s p f w) (ht : mgN w 0 1 = t) :
    mgmtRow t p f body s = acceptSeq p (some f) (body w (noteFrame p f s)) := by
  obtain ⟨c, ⟨ty, hj⟩, hl, hm, hs, hf, ha, hk, hd⟩ := h
  obtain ⟨h1, h2, h3, h4, h5, h6⟩ := sameNode_noteFrame p f s
  have e : (fun c => if (s.port p).msgAt = 0 && fType f.raw = 4 then mgVerdict s p c else none) = mgVerdict s p := by
    funext c; simp [ha, ty]
  have l : (ofOwnHouse t && !houseLink (noteFrame p f s) p) = false := by
    have : houseLink (noteFrame p f s) p = houseLink s p := by
      simp only [houseLink, linksOf, ownNode_noteFrame, h5, h6]
    rw [this, ← ht]
    cases hb : ofOwnHouse (mgN w 0 1)
    · rfl
    · simp [hk hb]
  unfold mgmtRow
  rw [if_neg (by simp [forRow, ty])]
  dsimp only
  rw [e, hj]
  have hd' : isFlooded t = true ∨ 0x8000 ≤ mgN w 6 2 ∨ mgN w 6 2 = ownNode (noteFrame p f s) := by
    rw [ownNode_noteFrame]; exact ht ▸ hd
  have b : mgmtHere t p body (noteFrame p f s) w = body w (noteFrame p f s) := by
    unfold mgmtHere
    dsimp only
    rw [if_neg (by rw [h3]; exact hs), if_neg (by simp [l]), if_pos (by simpa [or_assoc] using hd')]
    simp [orPark, h4, hf]
  have run : ([w].takeWhile fun w => decide (mgN w 0 1 = t)) = [w] := by
    simp only [List.takeWhile, ht, decide_true]
  simp only [hl, ha, show (64 : Nat) / 64 = 1 from rfl, List.range_succ, List.range_zero, List.nil_append, List.drop_zero,
    List.map_cons, List.map_nil, hm, run, ty, b, List.foldl_cons, List.foldl_nil, List.length_singleton, if_true]
  simp

end Sys2Proof.Machine
end

