-- ==== Sys2Proof/Laws/Ops.lean ====
section
/-! SUPPORT. What the shared operations can do: interrupts, records, accesses through a BAR, replies, and the issue of a
channel instruction. -/
namespace Sys2Proof.Machine

/-! ### Accesses through a BAR -/

/-- An access through a BAR is unsupported, ignored, or made. -/
theorem throughBar_cases (fn : Nat) (f : State → State) (s : State) :
    (fnOpen s fn = false ∧ throughBar fn f s = s.emit .unsupported)
      ∨ (fnOpen s fn = true ∧ fn ≠ 0 ∧ (s.room fn).state = .none ∧ throughBar fn f s = s)
      ∨ (fnOpen s fn = true ∧ (fn = 0 ∨ (s.room fn).state ≠ .none) ∧ throughBar fn f s = f s) := by
  unfold throughBar
  cases h : fnOpen s fn
  · simp
  · by_cases h0 : fn = 0
    · simp [h0]
    · by_cases h1 : (s.room fn).state = .none <;> simp [h0, h1]

theorem throughBar_pf (f : State → State) {s : State} (h : fnOpen s 0 = true) : throughBar 0 f s = f s := by
  simp [throughBar, h]

theorem throughBar_room {fn : Nat} (f : State → State) {s : State} (h : fnOpen s fn = true)
    (hr : fn = 0 ∨ (s.room fn).state ≠ .none) : throughBar fn f s = f s := by
  rcases throughBar_cases fn f s with ⟨h1, -⟩ | ⟨-, h2, h3, -⟩ | ⟨-, -, h4⟩
  · simp [h] at h1
  · exact absurd hr (by simp [h2, h3])
  · exact h4

/-! ### Host memory -/

theorem hostPut_reach {s : State} {fn : Nat} (a : Nat) (bs : List Byte) (h : hostReach s fn = true) :
    hostPut s fn a bs = (hostWriteOut fn a bs.length { s with host := mwrite s.host (hostKey fn a) bs }, true) := by
  simp [hostPut, h]

/-- Write requests are outputs and nothing else (R33). -/
theorem hostWriteOut_frame (fn a n : Nat) (s : State) : { hostWriteOut fn a n s with outputs := s.outputs } = s := rfl

@[simp] theorem hostWriteOut_host (fn a n : Nat) (s : State) : (hostWriteOut fn a n s).host = s.host := rfl
@[simp] theorem hostWriteOut_rings (fn a n : Nat) (s : State) : (hostWriteOut fn a n s).rings = s.rings := rfl
@[simp] theorem hostWriteOut_fy (fn a n : Nat) (s : State) : (hostWriteOut fn a n s).fy = s.fy := rfl
@[simp] theorem hostWriteOut_audit (fn a n : Nat) (s : State) : (hostWriteOut fn a n s).audit = s.audit := rfl
@[simp] theorem hostWriteOut_logs (fn a n : Nat) (s : State) : (hostWriteOut fn a n s).logs = s.logs := rfl
@[simp] theorem hostWriteOut_outputs (fn a n : Nat) (s : State) : (hostWriteOut fn a n s).outputs =
    (payloadParts s.pcie.mps a n).foldl (fun l x => .hostWrite fn x.1 x.2 (isTranslated s fn x.1) :: l) s.outputs := rfl

theorem hostPut_unreached {s : State} {fn : Nat} (a : Nat) (bs : List Byte) (h : hostReach s fn = false) :
    hostPut s fn a bs = (s, false) := by
  simp [hostPut, h]

theorem hostGet_reach {s : State} {fn : Nat} (a n : Nat) (h : hostReach s fn = true) :
    hostGet s fn a n = some (mread s.host (hostKey fn a) n) := by
  simp [hostGet, h]

/-! ### Records -/

theorem recorded_refl (s : State) : Recorded s s := rfl

theorem recorded_trans {s t u : State} (h1 : Recorded s t) (h2 : Recorded t u) : Recorded s u := by
  unfold Recorded at *
  have := congrArg (fun x : State => { x with
    host := s.host, audit := s.audit, logs := s.logs, outputs := s.outputs, msix := s.msix
    g := { x.g with irqStatus := s.g.irqStatus } }) h2
  exact this.trans h1

/-- A message is sent, or is held pending by its mask; nothing else changes. -/
theorem recorded_sendMsix (fn vec : Nat) (s : State) : Recorded s (sendMsix fn vec s) := by
  unfold Recorded sendMsix
  dsimp only
  split <;> rfl

theorem recorded_pfCause (bit : Nat) (vec : Byte) (s : State) : Recorded s (pfCause bit vec s) := by
  unfold pfCause
  dsimp only
  split
  · rfl
  · exact recorded_trans (t := { s with g := { s.g with irqStatus := s.g.irqStatus ||| (1#64 <<< bit) } }) rfl
      (recorded_sendMsix _ _ _)

theorem recorded_hostPut (s : State) (fn a : Nat) (bs : List Byte) : Recorded s (hostPut s fn a bs).1 := by
  unfold hostPut
  split <;> rfl

theorem recorded_audit (s : State) (l : LogRegs) : Recorded s { s with audit := l } := rfl

/-- A record of the audit log changes Host memory, the log and the interrupts only. -/
theorem recorded_auditRec (r : ErrRec) (s : State) : Recorded s (auditRec r s) := by
  unfold auditRec
  dsimp only
  split
  · exact recorded_audit _ _
  · have hp := recorded_hostPut s 0
      ((s.audit.base.toNat % 2 ^ 60) + (s.audit.tail.toNat % s.audit.size) * 64) (r.bytes s.stamp s.audit.seq)
    split
    all_goals
      rename_i s1 e
      rw [e] at hp
      have h1 : ∀ l, Recorded s { s1 with audit := l } := fun l => recorded_trans hp (recorded_audit s1 l)
      split
      · exact recorded_trans (h1 _) (recorded_pfCause _ _ _)
      · exact h1 _

theorem sendMsix_audit (fn vec : Nat) (s : State) : (sendMsix fn vec s).audit = s.audit := by
  unfold sendMsix
  dsimp only
  split <;> rfl

theorem pfCause_audit (bit : Nat) (vec : Byte) (s : State) : (pfCause bit vec s).audit = s.audit := by
  unfold pfCause
  dsimp only
  split
  · rfl
  · exact sendMsix_audit _ _ _

/-- Each record of the audit log takes one SEQ, written or lost. -/
theorem auditRec_seq (r : ErrRec) (s : State) : (auditRec r s).audit.seq = s.audit.seq + 1 := by
  unfold auditRec
  dsimp only
  split
  · rfl
  · split
    all_goals
      split
      · rw [pfCause_audit]; rfl
      · rfl

theorem recorded_setLog (s : State) (k : Nat) (l : LogRegs) : Recorded s (s.setLog k l) := rfl

theorem recorded_logIrq (k : Nat) (sev : BitVec 3) (s : State) : Recorded s (logIrq k sev s) := by
  unfold logIrq
  dsimp only
  split
  · split
    · exact recorded_setLog _ _ _
    · exact recorded_trans (recorded_setLog _ _ _) (recorded_sendMsix _ _ _)
  · exact recorded_refl _

/-- A record of a fault log changes Host memory, the logs and the interrupts only. -/
theorem recorded_faultLogRec (k : Nat) (r : ErrRec) (s : State) : Recorded s (faultLogRec k r s) := by
  unfold faultLogRec
  dsimp only
  split
  · exact recorded_setLog _ _ _
  · have hp := recorded_hostPut s k
      (((s.log k).base.toNat % 2 ^ 60) + ((s.log k).tail.toNat % (s.log k).size) * 64) (r.bytes s.stamp (s.log k).seq)
    split
    all_goals
      rename_i s1 e
      rw [e] at hp
      have h1 : ∀ l, Recorded s (s1.setLog k l) := fun l => recorded_trans hp (recorded_setLog s1 k l)
    · exact recorded_trans (h1 _) (recorded_logIrq _ _ _)
    · exact recorded_trans (h1 _) (recorded_auditRec _ _)

theorem recorded_roomRec (k : Nat) (r : ErrRec) (s : State) : Recorded s (roomRec k r s) := by
  unfold roomRec
  split
  · exact recorded_refl _
  · exact recorded_faultLogRec _ _ _

/-- A record of an access that a failed action made goes to the Room's log whatever the Room's state (R8, R628). -/
theorem recorded_actRec (k : Nat) (r : ErrRec) (s : State) : Recorded s (actRec k r s) := recorded_faultLogRec _ _ _

theorem recorded_deviceRec (k : Nat) (o : Word) (r : ErrRec) (s : State) : Recorded s (deviceRec k o r s) :=
  recorded_trans (recorded_auditRec _ _) (recorded_faultLogRec _ _ _)

/-- What a record leaves: every Room, channel, queue, sync object and port, and the three memories of the block. -/
theorem recorded_frame {s t : State} (h : Recorded s t) : t.rooms = s.rooms ∧ t.chans = s.chans ∧ t.sqs = s.sqs
    ∧ t.cqs = s.cqs ∧ t.flags = s.flags ∧ t.counters = s.counters ∧ t.wires = s.wires ∧ t.waiters = s.waiters
    ∧ t.ports = s.ports ∧ t.pantry = s.pantry ∧ t.cellar = s.cellar ∧ t.larder = s.larder ∧ t.pending = s.pending := by
  unfold Recorded at h
  exact ⟨(congrArg State.rooms h :), (congrArg State.chans h :), (congrArg State.sqs h :), (congrArg State.cqs h :),
    (congrArg State.flags h :), (congrArg State.counters h :), (congrArg State.wires h :), (congrArg State.waiters h :),
    (congrArg State.ports h :), (congrArg State.pantry h :), (congrArg State.cellar h :), (congrArg State.larder h :),
    (congrArg State.pending h :)⟩

/-! ### Records keep the canonical form -/

theorem wf_sendMsix (fn vec : Nat) {s : State} (h : s.wf = true) : (sendMsix fn vec s).wf = true := by
  unfold sendMsix
  dsimp only
  split
  · rw [wf_iff] at h ⊢
    exact { h with msix := tableWf_tset _ _ h.msix }
  · exact h

theorem wf_pfCause (bit : Nat) (vec : Byte) {s : State} (h : s.wf = true) : (pfCause bit vec s).wf = true := by
  unfold pfCause
  dsimp only
  split
  · exact h
  · exact wf_sendMsix _ _ (s := { s with g := { s.g with irqStatus := s.g.irqStatus ||| (1#64 <<< bit) } }) h

theorem wf_hostPut (fn a : Nat) (bs : List Byte) {s : State} (h : s.wf = true) : (hostPut s fn a bs).1.wf = true := by
  unfold hostPut
  split
  · rw [wf_iff] at h ⊢
    exact { h with host := wf_mwrite _ _ h.host }
  · exact h

theorem wf_audit (l : LogRegs) {s : State} (h : s.wf = true) : ({ s with audit := l } : State).wf = true := h

theorem wf_auditRec (r : ErrRec) {s : State} (h : s.wf = true) : (auditRec r s).wf = true := by
  unfold auditRec
  dsimp only
  split
  · exact wf_audit _ h
  · have hp := wf_hostPut 0 ((s.audit.base.toNat % 2 ^ 60) + (s.audit.tail.toNat % s.audit.size) * 64)
      (r.bytes s.stamp s.audit.seq) h
    split
    all_goals
      rename_i s1 e
      rw [e] at hp
      split
      · exact wf_pfCause _ _ (wf_audit _ hp)
      · exact wf_audit _ hp

theorem wf_logIrq (k : Nat) (sev : BitVec 3) {s : State} (h : s.wf = true) : (logIrq k sev s).wf = true := by
  unfold logIrq
  dsimp only
  split
  · split
    · exact State.wf_setLog _ _ h
    · exact wf_sendMsix _ _ (State.wf_setLog _ _ h)
  · exact h

theorem wf_faultLogRec (k : Nat) (r : ErrRec) {s : State} (h : s.wf = true) : (faultLogRec k r s).wf = true := by
  unfold faultLogRec
  dsimp only
  split
  · exact State.wf_setLog _ _ h
  · have hp := wf_hostPut k (((s.log k).base.toNat % 2 ^ 60) + ((s.log k).tail.toNat % (s.log k).size) * 64)
      (r.bytes s.stamp (s.log k).seq) h
    split
    all_goals
      rename_i s1 e
      rw [e] at hp
    · exact wf_logIrq _ _ (State.wf_setLog _ _ hp)
    · exact wf_auditRec _ (State.wf_setLog _ _ hp)

theorem wf_roomRec (k : Nat) (r : ErrRec) {s : State} (h : s.wf = true) : (roomRec k r s).wf = true := by
  unfold roomRec
  split
  · exact h
  · exact wf_faultLogRec _ _ h

/-! ### Taking packets -/

/-- A packet that passes steps 1 to 3 of R270 has its command's effect, with LAST_OPCODE and the round noted. -/
theorem takePacket_of {o : BitVec 16} {k : Nat} {p : BitVec 512} {s : State} (body : State → State)
    (h : Accepted s k p o) :
    takePacket o k p body s = body (noteTaken k o s) := by
  obtain ⟨h1, h2, h3, h4, h5⟩ := h
  simp [takePacket, h1, h2, h3, h4, h5]

/-- A ring that may not take a packet takes none. -/
theorem takePacket_of_not (o : BitVec 16) {k : Nat} (p : BitVec 512) {s : State} (body : State → State)
    (h : canTake s k = false) : takePacket o k p body s = s := by
  simp [takePacket, h]

/-- A packet of another row's opcode is not taken (log entry 11). -/
theorem takePacket_other {o : BitVec 16} (k : Nat) {p : BitVec 512} (s : State) (body : State → State)
    (h : pktOpcode p ≠ o) (hk : cmdOpcodes.contains (pktOpcode p).toNat = true) : takePacket o k p body s = s := by
  rw [takePacket, if_pos (by rw [hk]; simp [h])]

theorem takeLong_of {o : BitVec 16} {k : Nat} {p : BitVec 512} {s : State} (body : State → State)
    (hl : longFree s = true) (h : Accepted s k p o) :
    takeLong o k p body s = body (noteTaken k o s) := by
  rw [takeLong, if_pos hl, takePacket_of body h]

/-! ### Issuing an instruction -/

/-- A channel that may issue the word w runs the instruction's own rules on it. -/
theorem issueAs_of {s s1 : State} {c : Nat} {o : Byte} {w : BitVec 256} (body : BitVec 256 → State → State)
    (h : MayIssue s c o w s1) : issueAs o c body s = body w (atIssue c w s1) := by
  obtain ⟨h1, h2, h3, h4, h5, h6, h7, h8⟩ := h
  have e : (fetchDomains s (s.chan c)).all (pdUp s) = true := by
    rw [List.all_eq_true]
    exact h2
  unfold issueAs
  simp only [h1, e, h3, h4, Bool.not_true, Bool.false_eq_true, if_false, h5, ne_eq, not_true_eq_false, withTrigger, atIssue]
  simp only [h6, h7, triggerReady] at h8 ⊢
  by_cases a : flTrigger (wFlags w) <;> by_cases b : ((pdTouch (pdMover c) s1).chan c).trigTaken <;> simp_all

/-- A channel with something in progress, or that does not run, issues nothing. -/
theorem issueAs_of_not {s : State} {c : Nat} (o : Byte) (body : BitVec 256 → State → State)
    (h : issueReady (s.chan c) = false) : issueAs o c body s = s := by
  simp [issueAs, h]

end Sys2Proof.Machine
end

