-- ==== Sys2Proof/Laws/PerInstr.lean ====
section
/-! SUPPORT. Per command: a row of a command packet has an opcode of the opcode list (R278); no other row makes a check
of a packet. -/
namespace Sys2Proof.Laws.PacketOpcode

/-- The row's opcode, where it is a packet's, is one of the opcode list; a row of no packet passes the packet checks. -/
def Statement (i : Instr) : Prop :=
  match i.opcodeOf with
  | some (o, _) => o.toNat ∈ cmdOpcodes
  | none => i.packetOk = true ∧ i.subOk = true

theorem move (c : Fin 128) : Statement (.move c) := ⟨rfl, rfl⟩
theorem moveList (c : Fin 128) : Statement (.moveList c) := ⟨rfl, rfl⟩
theorem moveTile (c : Fin 128) : Statement (.moveTile c) := ⟨rfl, rfl⟩
theorem fill (c : Fin 128) : Statement (.fill c) := ⟨rfl, rfl⟩
theorem moveCoords (c : Fin 128) : Statement (.moveCoords c) := ⟨rfl, rfl⟩
theorem loop (c : Fin 128) : Statement (.loop c) := ⟨rfl, rfl⟩
theorem stop (c : Fin 128) : Statement (.stop c) := ⟨rfl, rfl⟩
theorem waitFlag (c : Fin 128) : Statement (.waitFlag c) := ⟨rfl, rfl⟩
theorem waitFull (c : Fin 128) : Statement (.waitFull c) := ⟨rfl, rfl⟩
theorem waitPhase (c : Fin 128) : Statement (.waitPhase c) := ⟨rfl, rfl⟩
theorem waitCount (c : Fin 128) : Statement (.waitCount c) := ⟨rfl, rfl⟩
theorem waitBarrier (c : Fin 128) : Statement (.waitBarrier c) := ⟨rfl, rfl⟩
theorem signalFlag (c : Fin 128) : Statement (.signalFlag c) := ⟨rfl, rfl⟩
theorem signalCount (c : Fin 128) : Statement (.signalCount c) := ⟨rfl, rfl⟩
theorem arrive (c : Fin 128) : Statement (.arrive c) := ⟨rfl, rfl⟩
theorem fence (c : Fin 128) : Statement (.fence c) := ⟨rfl, rfl⟩
theorem notify (c : Fin 128) : Statement (.notify c) := ⟨rfl, rfl⟩
theorem reduceSend (c : Fin 128) : Statement (.reduceSend c) := ⟨rfl, rfl⟩
theorem reduceStore (c : Fin 128) : Statement (.reduceStore c) := ⟨rfl, rfl⟩
theorem moverBurst (m : Fin 2) : Statement (.moverBurst m) := ⟨rfl, rfl⟩
theorem halfEvent (c : Fin 128) : Statement (.halfEvent c) := ⟨rfl, rfl⟩
theorem fullEvent (c : Fin 128) : Statement (.fullEvent c) := ⟨rfl, rfl⟩
theorem timerTrigger (c : Fin 128) : Statement (.timerTrigger c) := ⟨rfl, rfl⟩
theorem chRun (c : Fin 128) : Statement (.chRun c) := ⟨rfl, rfl⟩
theorem chPause (c : Fin 128) (pause : Bool) : Statement (.chPause c pause) := ⟨rfl, rfl⟩
theorem chReset (c : Fin 128) : Statement (.chReset c) := ⟨rfl, rfl⟩
theorem channelPaused (c : Fin 128) : Statement (.channelPaused c) := ⟨rfl, rfl⟩
theorem phaseWake (c : Fin 128) : Statement (.phaseWake c) := ⟨rfl, rfl⟩
theorem waitTimeoutExpiry (u : WaitUnit) : Statement (.waitTimeoutExpiry u) := ⟨rfl, rfl⟩
theorem runProgram (q : Fin 1024) : Statement (.runProgram q) := ⟨rfl, rfl⟩
theorem copy (q : Fin 1024) : Statement (.copy q) := ⟨rfl, rfl⟩
theorem tile (q : Fin 1024) : Statement (.tile q) := ⟨rfl, rfl⟩
theorem fillEntry (q : Fin 1024) : Statement (.fillEntry q) := ⟨rfl, rfl⟩
theorem tokenize (q : Fin 1024) : Statement (.tokenize q) := ⟨rfl, rfl⟩
theorem detokenize (q : Fin 1024) : Statement (.detokenize q) := ⟨rfl, rfl⟩
theorem collective (q : Fin 1024) : Statement (.collective q) := ⟨rfl, rfl⟩
theorem signalEntry (q : Fin 1024) : Statement (.signalEntry q) := ⟨rfl, rfl⟩
theorem waitEntry (q : Fin 1024) : Statement (.waitEntry q) := ⟨rfl, rfl⟩
theorem nop (q : Fin 1024) : Statement (.nop q) := ⟨rfl, rfl⟩
theorem dbSq (page : Page) : Statement (.dbSq page) := ⟨rfl, rfl⟩
theorem dbSqInval (page : Page) : Statement (.dbSqInval page) := ⟨rfl, rfl⟩
theorem dbCqArm (page : Page) : Statement (.dbCqArm page) := ⟨rfl, rfl⟩
theorem sqScan (q : Fin 1024) : Statement (.sqScan q) := ⟨rfl, rfl⟩
theorem sqDispatch (q : Fin 1024) : Statement (.sqDispatch q) := ⟨rfl, rfl⟩
theorem deadlineDrop (q : Fin 1024) : Statement (.deadlineDrop q) := ⟨rfl, rfl⟩
theorem completionWrite (q : Fin 1024) : Statement (.completionWrite q) := ⟨rfl, rfl⟩
theorem cqIrqDelay (q : Fin 1024) : Statement (.cqIrqDelay q) := ⟨rfl, rfl⟩
theorem cqHeadReread (q : Fin 1024) : Statement (.cqHeadReread q) := ⟨rfl, rfl⟩
theorem sqOverload (q : Fin 1024) : Statement (.sqOverload q) := ⟨rfl, rfl⟩
theorem identify (k : Fin 64) (pkt : BitVec 512) : Statement (.identify k pkt) := by show _ ∈ cmdOpcodes; decide
theorem roomCreate (k : Fin 64) (pkt : BitVec 512) : Statement (.roomCreate k pkt) := by show _ ∈ cmdOpcodes; decide
theorem roomDestroy (k : Fin 64) (pkt : BitVec 512) : Statement (.roomDestroy k pkt) := by show _ ∈ cmdOpcodes; decide
theorem roomReset (k : Fin 64) (pkt : BitVec 512) : Statement (.roomReset k pkt) := by show _ ∈ cmdOpcodes; decide
theorem roomResetEnd (k : Fin 64) : Statement (.roomResetEnd k) := ⟨rfl, rfl⟩
theorem roomWindowSet (k : Fin 64) (pkt : BitVec 512) : Statement (.roomWindowSet k pkt) := by show _ ∈ cmdOpcodes; decide
theorem roomShareSet (k : Fin 64) (pkt : BitVec 512) : Statement (.roomShareSet k pkt) := by show _ ∈ cmdOpcodes; decide
theorem sqCreate (k : Fin 64) (pkt : BitVec 512) : Statement (.sqCreate k pkt) := by show _ ∈ cmdOpcodes; decide
theorem sqDestroy (k : Fin 64) (pkt : BitVec 512) : Statement (.sqDestroy k pkt) := by show _ ∈ cmdOpcodes; decide
theorem cqCreate (k : Fin 64) (pkt : BitVec 512) : Statement (.cqCreate k pkt) := by show _ ∈ cmdOpcodes; decide
theorem cqDestroy (k : Fin 64) (pkt : BitVec 512) : Statement (.cqDestroy k pkt) := by show _ ∈ cmdOpcodes; decide
theorem sqResume (k : Fin 64) (pkt : BitVec 512) : Statement (.sqResume k pkt) := by show _ ∈ cmdOpcodes; decide
theorem channelAssign (k : Fin 64) (pkt : BitVec 512) : Statement (.channelAssign k pkt) := by show _ ∈ cmdOpcodes; decide
theorem channelRelease (k : Fin 64) (pkt : BitVec 512) : Statement (.channelRelease k pkt) := by show _ ∈ cmdOpcodes; decide
theorem bufAlloc (k : Fin 64) (pkt : BitVec 512) : Statement (.bufAlloc k pkt) := by show _ ∈ cmdOpcodes; decide
theorem bufFree (k : Fin 64) (pkt : BitVec 512) : Statement (.bufFree k pkt) := by show _ ∈ cmdOpcodes; decide
theorem bufQuery (k : Fin 64) (pkt : BitVec 512) : Statement (.bufQuery k pkt) := by show _ ∈ cmdOpcodes; decide
theorem bufReclaim (k : Fin 64) (pkt : BitVec 512) : Statement (.bufReclaim k pkt) := by show _ ∈ cmdOpcodes; decide
theorem syncMap (k : Fin 64) (pkt : BitVec 512) : Statement (.syncMap k pkt) := by show _ ∈ cmdOpcodes; decide
theorem syncUnmap (k : Fin 64) (pkt : BitVec 512) : Statement (.syncUnmap k pkt) := by show _ ∈ cmdOpcodes; decide
theorem feRegionSet (k : Fin 64) (pkt : BitVec 512) : Statement (.feRegionSet k pkt) := by show _ ∈ cmdOpcodes; decide
theorem powerDomain (k : Fin 64) (pkt : BitVec 512) : Statement (.powerDomain k pkt) := by show _ ∈ cmdOpcodes; decide
theorem powerCapSet (k : Fin 64) (pkt : BitVec 512) : Statement (.powerCapSet k pkt) := by show _ ∈ cmdOpcodes; decide
theorem cadenceConfig (k : Fin 64) (pkt : BitVec 512) : Statement (.cadenceConfig k pkt) := by show _ ∈ cmdOpcodes; decide
theorem linkConfig (k : Fin 64) (pkt : BitVec 512) : Statement (.linkConfig k pkt) := by show _ ∈ cmdOpcodes; decide
theorem linkKeyLoad (k : Fin 64) (pkt : BitVec 512) : Statement (.linkKeyLoad k pkt) := by show _ ∈ cmdOpcodes; decide
theorem housePolicy (k : Fin 64) (pkt : BitVec 512) : Statement (.housePolicy k pkt) := by show _ ∈ cmdOpcodes; decide
theorem groupDefine (k : Fin 64) (pkt : BitVec 512) : Statement (.groupDefine k pkt) := by show _ ∈ cmdOpcodes; decide
theorem groupRelease (k : Fin 64) (pkt : BitVec 512) : Statement (.groupRelease k pkt) := by show _ ∈ cmdOpcodes; decide
theorem studyLoadTables (k : Fin 64) (pkt : BitVec 512) : Statement (.studyLoadTables k pkt) := by show _ ∈ cmdOpcodes; decide
theorem studyCacheFlush (k : Fin 64) (pkt : BitVec 512) : Statement (.studyCacheFlush k pkt) := by show _ ∈ cmdOpcodes; decide
theorem fwUpdate (k : Fin 64) (pkt : BitVec 512) : Statement (.fwUpdate k pkt) := by show _ ∈ cmdOpcodes; decide
theorem diagEcho (k : Fin 64) (pkt : BitVec 512) : Statement (.diagEcho k pkt) := by show _ ∈ cmdOpcodes; decide
theorem diagTemperature (k : Fin 64) (pkt : BitVec 512) : Statement (.diagTemperature k pkt) := by show _ ∈ cmdOpcodes; decide
theorem diagBuffers (k : Fin 64) (pkt : BitVec 512) : Statement (.diagBuffers k pkt) := by show _ ∈ cmdOpcodes; decide
theorem diagMisuse (k : Fin 64) (pkt : BitVec 512) : Statement (.diagMisuse k pkt) := by show _ ∈ cmdOpcodes; decide
theorem fyCmdDoorbell (k : Fin 64) (prod : BitVec 32) : Statement (.fyCmdDoorbell k prod) := ⟨rfl, rfl⟩
theorem fyCmdEnable (k : Fin 64) (size : BitVec 64) : Statement (.fyCmdEnable k size) := ⟨rfl, rfl⟩
theorem fyAuditEnable (size : BitVec 64) : Statement (.fyAuditEnable size) := ⟨rfl, rfl⟩
theorem fyAuditHeadWrite (head : BitVec 32) : Statement (.fyAuditHeadWrite head) := ⟨rfl, rfl⟩
theorem fltEnable (k : Fin 64) (size : BitVec 64) : Statement (.fltEnable k size) := ⟨rfl, rfl⟩
theorem fltHeadWrite (k : Fin 64) (head : BitVec 32) : Statement (.fltHeadWrite k head) := ⟨rfl, rfl⟩
theorem fltIrqCoalesce (k : Fin 64) : Statement (.fltIrqCoalesce k) := ⟨rfl, rfl⟩
theorem workRecordWindow : Statement (.workRecordWindow) := ⟨rfl, rfl⟩
theorem misuseWindow : Statement (.misuseWindow) := ⟨rfl, rfl⟩
theorem deviceResetRequest (data : BitVec 64) : Statement (.deviceResetRequest data) := ⟨rfl, rfl⟩
theorem foyerRestartRequest (data : BitVec 64) : Statement (.foyerRestartRequest data) := ⟨rfl, rfl⟩
theorem foyerReboot : Statement (.foyerReboot) := ⟨rfl, rfl⟩
theorem recoveryLoad (data : BitVec 64) : Statement (.recoveryLoad data) := ⟨rfl, rfl⟩
theorem vfFlr (k : Fin 64) : Statement (.vfFlr k) := ⟨rfl, rfl⟩
theorem vfBmeClear (k : Fin 64) : Statement (.vfBmeClear k) := ⟨rfl, rfl⟩
theorem vfMseClear (k : Fin 64) : Statement (.vfMseClear k) := ⟨rfl, rfl⟩
theorem vfDisable (numVfs : Fin 64) : Statement (.vfDisable numVfs) := ⟨rfl, rfl⟩
theorem atsInvalidation (r : AtsRange) : Statement (.atsInvalidation r) := ⟨rfl, rfl⟩
theorem vwFlagWrite (k : Fin 64) (id : BitVec 12) (v : Bool) : Statement (.vwFlagWrite k id v) := ⟨rfl, rfl⟩
theorem vwAddWrite (k : Fin 64) (id : BitVec 9) (half : RegHalf) (v : BitVec 64) : Statement (.vwAddWrite k id half v) := ⟨rfl, rfl⟩
theorem syValueWrite (f : BitVec 16) (v : Bool) : Statement (.syValueWrite f v) := ⟨rfl, rfl⟩
theorem ctAddWrite (t : BitVec 13) (half : RegHalf) (v : BitVec 64) : Statement (.ctAddWrite t half v) := ⟨rfl, rfl⟩
theorem bwMaskWrite (w : Fin 32) (hi : Bool) (half : RegHalf) (v : BitVec 64) : Statement (.bwMaskWrite w hi half v) := ⟨rfl, rfl⟩
theorem bwEnableClear (w : Fin 32) : Statement (.bwEnableClear w) := ⟨rfl, rfl⟩
theorem remotePoll (u : WaitUnit) : Statement (.remotePoll u) := ⟨rfl, rfl⟩
theorem malformedRegAccess (bar : Bar) (offset : BitVec 26) (len : Nat) (isWrite : Bool) : Statement (.malformedRegAccess bar offset len isWrite) := ⟨rfl, rfl⟩
theorem registerWrite (bar : Bar) (offset : BitVec 26) (half : RegHalf) (v : BitVec 64) : Statement (.registerWrite bar offset half v) := ⟨rfl, rfl⟩
theorem arbMapWrite (i : Fin 5) (half : RegHalf) (v : BitVec 64) : Statement (.arbMapWrite i half v) := ⟨rfl, rfl⟩
theorem arbStarvedClear (i : Fin 5) (bits : BitVec 16) : Statement (.arbStarvedClear i bits) := ⟨rfl, rfl⟩
theorem quarantineClear (p : Fin 16) : Statement (.quarantineClear p) := ⟨rfl, rfl⟩
theorem trippedClear : Statement (.trippedClear) := ⟨rfl, rfl⟩
theorem baseMwWrite (mw : BitVec 32) : Statement (.baseMwWrite mw) := ⟨rfl, rfl⟩
theorem portRetrain (p : Fin 16) : Statement (.portRetrain p) := ⟨rfl, rfl⟩
theorem irqMaskWrite (half : RegHalf) (v : BitVec 64) : Statement (.irqMaskWrite half v) := ⟨rfl, rfl⟩
theorem arbDecision (a : Fin 68) (requests : BitVec 16) (cycles : BitVec 32) : Statement (.arbDecision a requests cycles) := ⟨rfl, rfl⟩
theorem arbStarvation (a : Fin 68) (code : Fin 16) : Statement (.arbStarvation a code) := ⟨rfl, rfl⟩
theorem holdWatchdogCut (a : Fin 68) (unit : Fin 128) : Statement (.holdWatchdogCut a unit) := ⟨rfl, rfl⟩
theorem scrubBurst (corrected : BitVec 32) (upset : List Nat) : Statement (.scrubBurst corrected upset) := ⟨rfl, rfl⟩
theorem cellarRefresh (p : Fin 4) (streaming : Bool) : Statement (.cellarRefresh p streaming) := ⟨rfl, rfl⟩
theorem cellarTempSample (p : Fin 4) (mc : BitVec 32) : Statement (.cellarTempSample p mc) := ⟨rfl, rfl⟩
theorem cadReferenceEvent (level : Bool) : Statement (.cadReferenceEvent level) := ⟨rfl, rfl⟩
theorem cadMissedBoundary : Statement (.cadMissedBoundary) := ⟨rfl, rfl⟩
theorem cadAcquireTimeout : Statement (.cadAcquireTimeout) := ⟨rfl, rfl⟩
theorem slotEntry : Statement (.slotEntry) := ⟨rfl, rfl⟩
theorem nrgTempSample (mc : BitVec 32) : Statement (.nrgTempSample mc) := ⟨rfl, rfl⟩
theorem domainIdleRequest (d : Fin 17) : Statement (.domainIdleRequest d) := ⟨rfl, rfl⟩
theorem domainDrainStart (d : Fin 17) : Statement (.domainDrainStart d) := ⟨rfl, rfl⟩
theorem domainPowerDown (d : Fin 17) : Statement (.domainPowerDown d) := ⟨rfl, rfl⟩
theorem drainLimitCut (d : Fin 17) : Statement (.drainLimitCut d) := ⟨rfl, rfl⟩
theorem domainTransitionDone (d : Fin 17) : Statement (.domainTransitionDone d) := ⟨rfl, rfl⟩
theorem hello (p : Fin 16) (rec : BitVec 512) : Statement (.hello p rec) := ⟨rfl, rfl⟩
theorem trainingTimeout (p : Fin 16) : Statement (.trainingTimeout p) := ⟨rfl, rfl⟩
theorem retrainEnd (p : Fin 16) : Statement (.retrainEnd p) := ⟨rfl, rfl⟩
theorem laneLossOfLock (p : Fin 16) : Statement (.laneLossOfLock p) := ⟨rfl, rfl⟩
theorem dataFrame (p : Fin 16) (f : FrameIn) : Statement (.dataFrame p f) := ⟨rfl, rfl⟩
theorem ctrlFrame (p : Fin 16) (f : FrameIn) : Statement (.ctrlFrame p f) := ⟨rfl, rfl⟩
theorem nak (p : Fin 16) (rec : BitVec 128) : Statement (.nak p rec) := ⟨rfl, rfl⟩
theorem portSendFrame (p : Fin 16) : Statement (.portSendFrame p) := ⟨rfl, rfl⟩
theorem ackTimer (p : Fin 16) : Statement (.ackTimer p) := ⟨rfl, rfl⟩
theorem replayTimeout (p : Fin 16) : Statement (.replayTimeout p) := ⟨rfl, rfl⟩
theorem replayExhausted (p : Fin 16) : Statement (.replayExhausted p) := ⟨rfl, rfl⟩
theorem violationWindow : Statement (.violationWindow) := ⟨rfl, rfl⟩
theorem openMsg (p : Fin 16) (f : FrameIn) (i : Fin 8) : Statement (.openMsg p f i) := ⟨rfl, rfl⟩
theorem doneMsg (p : Fin 16) (f : FrameIn) (i : Fin 8) : Statement (.doneMsg p f i) := ⟨rfl, rfl⟩
theorem refuseMsg (p : Fin 16) (f : FrameIn) (i : Fin 8) : Statement (.refuseMsg p f i) := ⟨rfl, rfl⟩
theorem readMsg (p : Fin 16) (f : FrameIn) (i : Fin 8) : Statement (.readMsg p f i) := ⟨rfl, rfl⟩
theorem signalMsg (p : Fin 16) (f : FrameIn) (i : Fin 8) : Statement (.signalMsg p f i) := ⟨rfl, rfl⟩
theorem signalAck (p : Fin 16) (f : FrameIn) (i : Fin 8) : Statement (.signalAck p f i) := ⟨rfl, rfl⟩
theorem waitReg (p : Fin 16) (f : FrameIn) (i : Fin 8) : Statement (.waitReg p f i) := ⟨rfl, rfl⟩
theorem wake (p : Fin 16) (f : FrameIn) (i : Fin 8) : Statement (.wake p f i) := ⟨rfl, rfl⟩
theorem waitCancel (p : Fin 16) (f : FrameIn) (i : Fin 8) : Statement (.waitCancel p f i) := ⟨rfl, rfl⟩
theorem poll (p : Fin 16) (f : FrameIn) (i : Fin 8) : Statement (.poll p f i) := ⟨rfl, rfl⟩
theorem rdxReq (p : Fin 16) (f : FrameIn) (i : Fin 8) : Statement (.rdxReq p f i) := ⟨rfl, rfl⟩
theorem rdxGrant (p : Fin 16) (f : FrameIn) (i : Fin 8) : Statement (.rdxGrant p f i) := ⟨rfl, rfl⟩
theorem rdxOpen (p : Fin 16) (f : FrameIn) (i : Fin 8) : Statement (.rdxOpen p f i) := ⟨rfl, rfl⟩
theorem rdxAck (p : Fin 16) (f : FrameIn) (i : Fin 8) : Statement (.rdxAck p f i) := ⟨rfl, rfl⟩
theorem rdxRetry (p : Fin 16) (f : FrameIn) (i : Fin 8) : Statement (.rdxRetry p f i) := ⟨rfl, rfl⟩
theorem rdxFail (p : Fin 16) (f : FrameIn) (i : Fin 8) : Statement (.rdxFail p f i) := ⟨rfl, rfl⟩
theorem hbArrive (p : Fin 16) (f : FrameIn) (i : Fin 8) : Statement (.hbArrive p f i) := ⟨rfl, rfl⟩
theorem hbRelease (p : Fin 16) (f : FrameIn) (i : Fin 8) : Statement (.hbRelease p f i) := ⟨rfl, rfl⟩
theorem roomAbort (p : Fin 16) (f : FrameIn) (i : Fin 8) : Statement (.roomAbort p f i) := ⟨rfl, rfl⟩
theorem roomAbortAck (p : Fin 16) (f : FrameIn) (i : Fin 8) : Statement (.roomAbortAck p f i) := ⟨rfl, rfl⟩
theorem routeFail (p : Fin 16) (f : FrameIn) (i : Fin 8) : Statement (.routeFail p f i) := ⟨rfl, rfl⟩
theorem accumulatorReserve (g : BitVec 8) (chunk : BitVec 16) : Statement (.accumulatorReserve g chunk) := ⟨rfl, rfl⟩
theorem rdxGrantTimeout (c : Fin 128) : Statement (.rdxGrantTimeout c) := ⟨rfl, rfl⟩
theorem chunkComplete (g : BitVec 8) (chunk : BitVec 16) : Statement (.chunkComplete g chunk) := ⟨rfl, rfl⟩
theorem claim (p : Fin 16) (f : FrameIn) : Statement (.claim p f) := ⟨rfl, rfl⟩
theorem hallAnnounce (p : Fin 16) (f : FrameIn) : Statement (.hallAnnounce p f) := ⟨rfl, rfl⟩
theorem joinReq (p : Fin 16) (f : FrameIn) : Statement (.joinReq p f) := ⟨rfl, rfl⟩
theorem joinAck (p : Fin 16) (f : FrameIn) : Statement (.joinAck p f) := ⟨rfl, rfl⟩
theorem keyShare (p : Fin 16) (f : FrameIn) : Statement (.keyShare p f) := ⟨rfl, rfl⟩
theorem keyDeliver (p : Fin 16) (f : FrameIn) : Statement (.keyDeliver p f) := ⟨rfl, rfl⟩
theorem houseDissolve (p : Fin 16) (f : FrameIn) : Statement (.houseDissolve p f) := ⟨rfl, rfl⟩
theorem keyReq (p : Fin 16) (f : FrameIn) : Statement (.keyReq p f) := ⟨rfl, rfl⟩
theorem memberUpdate (p : Fin 16) (f : FrameIn) : Statement (.memberUpdate p f) := ⟨rfl, rfl⟩
theorem linkReport (p : Fin 16) (f : FrameIn) : Statement (.linkReport p f) := ⟨rfl, rfl⟩
theorem tick (p : Fin 16) (f : FrameIn) : Statement (.tick p f) := ⟨rfl, rfl⟩
theorem beacon (p : Fin 16) (f : FrameIn) : Statement (.beacon p f) := ⟨rfl, rfl⟩
theorem timePing (p : Fin 16) (f : FrameIn) : Statement (.timePing p f) := ⟨rfl, rfl⟩
theorem timePong (p : Fin 16) (f : FrameIn) : Statement (.timePong p f) := ⟨rfl, rfl⟩
theorem groupSet (p : Fin 16) (f : FrameIn) : Statement (.groupSet p f) := ⟨rfl, rfl⟩
theorem dupStop (p : Fin 16) (f : FrameIn) : Statement (.dupStop p f) := ⟨rfl, rfl⟩
theorem claimStart : Statement (.claimStart) := ⟨rfl, rfl⟩
theorem claimRepeat : Statement (.claimRepeat) := ⟨rfl, rfl⟩
theorem hallElected : Statement (.hallElected) := ⟨rfl, rfl⟩
theorem joinRetry : Statement (.joinRetry) := ⟨rfl, rfl⟩
theorem joinRefusedRetry : Statement (.joinRefusedRetry) := ⟨rfl, rfl⟩
theorem tickTimer : Statement (.tickTimer) := ⟨rfl, rfl⟩
theorem timePingTimer : Statement (.timePingTimer) := ⟨rfl, rfl⟩
theorem hallLost : Statement (.hallLost) := ⟨rfl, rfl⟩
theorem wingRemoval (n : BitVec 10) : Statement (.wingRemoval n) := ⟨rfl, rfl⟩
theorem groupDefineTimeout (g : BitVec 8) : Statement (.groupDefineTimeout g) := ⟨rfl, rfl⟩
theorem studyCacheFill (j : Fin 16) : Statement (.studyCacheFill j) := ⟨rfl, rfl⟩
theorem studyJobComplete (j : Fin 16) : Statement (.studyJobComplete j) := ⟨rfl, rfl⟩
theorem bar2Write (offset : BitVec 29) (data : List Byte) (enables : List Bool) : Statement (.bar2Write offset data enables) := ⟨rfl, rfl⟩
theorem bar2Read (offset : BitVec 29) (len : Nat) : Statement (.bar2Read offset len) := ⟨rfl, rfl⟩
theorem configRequest (k : Fin 64) (reg : BitVec 12) (isWrite : Bool) (v : BitVec 32) : Statement (.configRequest k reg isWrite v) := ⟨rfl, rfl⟩
theorem pwrgdRise : Statement (.pwrgdRise) := ⟨rfl, rfl⟩
theorem pwrgdFall : Statement (.pwrgdFall) := ⟨rfl, rfl⟩
theorem perstNAssert : Statement (.perstNAssert) := ⟨rfl, rfl⟩
theorem perstNDeassert : Statement (.perstNDeassert) := ⟨rfl, rfl⟩
theorem pcieHotReset : Statement (.pcieHotReset) := ⟨rfl, rfl⟩
theorem pfFlr : Statement (.pfFlr) := ⟨rfl, rfl⟩
theorem initComplete : Statement (.initComplete) := ⟨rfl, rfl⟩
theorem bootComplete (r0 r1 : Bool) : Statement (.bootComplete r0 r1) := ⟨rfl, rfl⟩
theorem refclkSysLoss : Statement (.refclkSysLoss) := ⟨rfl, rfl⟩
theorem refclkSysRestored : Statement (.refclkSysRestored) := ⟨rfl, rfl⟩
theorem refclkPcieLoss : Statement (.refclkPcieLoss) := ⟨rfl, rfl⟩
theorem mctpSetEndpointId (msg : List Byte) : Statement (.mctpSetEndpointId msg) := ⟨rfl, rfl⟩
theorem mctpGetEndpointId (msg : List Byte) : Statement (.mctpGetEndpointId msg) := ⟨rfl, rfl⟩
theorem mctpGetEndpointUuid (msg : List Byte) : Statement (.mctpGetEndpointUuid msg) := ⟨rfl, rfl⟩
theorem mctpGetVersionSupport (msg : List Byte) : Statement (.mctpGetVersionSupport msg) := ⟨rfl, rfl⟩
theorem mctpGetMessageTypeSupport (msg : List Byte) : Statement (.mctpGetMessageTypeSupport msg) := ⟨rfl, rfl⟩
theorem mctpUnsupportedCmd (msg : List Byte) : Statement (.mctpUnsupportedCmd msg) := ⟨rfl, rfl⟩
theorem jtagBypass (tdi : List Bool) : Statement (.jtagBypass tdi) := ⟨rfl, rfl⟩
theorem jtagIdcode (tdi : List Bool) : Statement (.jtagIdcode tdi) := ⟨rfl, rfl⟩
theorem jtagSamplePreload (tdi : List Bool) : Statement (.jtagSamplePreload tdi) := ⟨rfl, rfl⟩
theorem jtagExtest (tdi : List Bool) : Statement (.jtagExtest tdi) := ⟨rfl, rfl⟩
theorem laneLock (p : Fin 16) (lanes : BitVec 8) : Statement (.laneLock p lanes) := ⟨rfl, rfl⟩
theorem longCommandDone (k : Fin 64) : Statement (.longCommandDone k) := ⟨rfl, rfl⟩
theorem pcieCompletion (k : Fin 64) (addr : BitVec 60) (data : List Byte) (ok : Bool) : Statement (.pcieCompletion k addr data ok) := ⟨rfl, rfl⟩
theorem rcRegisterRead (bar : Bar) (offset : BitVec 26) (half : RegHalf) : Statement (.rcRegisterRead bar offset half) := ⟨rfl, rfl⟩
theorem dbgFeRead (tag : Bool) : Statement (.dbgFeRead tag) := ⟨rfl, rfl⟩

end Sys2Proof.Laws.PacketOpcode
end

