-- ==== Sys2Proof/Laws/Stream.lean ====
section
/-! SUPPORT. What one end of a link sends, the other end accepts: octets and numbers, sealed payloads, codewords, frames. -/
namespace Sys2Proof.Machine

/-! ### Octets -/

theorem leNat_lt (bs : List Byte) : leNat bs < 256 ^ bs.length := by
  induction bs with
  | nil => simp [leNat]
  | cons b r ih =>
    have := b.isLt
    simp only [leNat, List.length_cons, pow_succ]
    omega

theorem pow_256 {n m : Nat} (h : 8 * n = m) : (256 : Nat) ^ n = 2 ^ m := by
  rw [← h, pow_mul]
  norm_num

theorem leNat_append (as bs : List Byte) : leNat (as ++ bs) = leNat as + 256 ^ as.length * leNat bs := by
  induction as with
  | nil => simp [leNat]
  | cons a r ih =>
    simp only [List.cons_append, leNat, ih, List.length_cons, pow_succ]
    ring

@[simp] theorem leBytes_length (n v : Nat) : (leBytes n v).length = n := by
  induction n generalizing v with
  | zero => rfl
  | succ n ih => simp [leBytes, ih]

/-- The octets of a number give it back, up to their width. -/
theorem leNat_leBytes (n v : Nat) : leNat (leBytes n v) = v % 256 ^ n := by
  induction n generalizing v with
  | zero => simp [leBytes, leNat, Nat.mod_one]
  | succ n ih =>
    simp only [leBytes, leNat, ih, BitVec.toNat_ofNat]
    rw [show (2 : Nat) ^ 8 = 256 from rfl, pow_succ', Nat.mod_mul]

/-- The number that octets spell gives them back. -/
theorem leBytes_leNat (bs : List Byte) : leBytes bs.length (leNat bs) = bs := by
  induction bs with
  | nil => rfl
  | cons b r ih =>
    have hb := b.isLt
    simp only [List.length_cons, leBytes, leNat]
    rw [show (b.toNat + 256 * leNat r) / 256 = leNat r by omega, ih]
    congr 1
    apply BitVec.eq_of_toNat_eq
    simp only [BitVec.toNat_ofNat]
    omega

theorem leBytes_leNat_append (as bs : List Byte) : leBytes as.length (leNat (as ++ bs)) = as := by
  have h := leBytes_leNat as
  rw [leNat_append]
  have key : ∀ (n v w : Nat), leBytes n (v + 256 ^ n * w) = leBytes n v := by
    intro n
    induction n with
    | zero => intro v w; rfl
    | succ n ih =>
      intro v w
      simp only [leBytes]
      have e : (v + 256 ^ (n + 1) * w) / 256 = v / 256 + 256 ^ n * w := by
        rw [pow_succ, show v + 256 ^ n * 256 * w = v + 256 * (256 ^ n * w) by ring, Nat.add_mul_div_left _ _ (by norm_num)]
      rw [e, ih]
      congr 1
      apply BitVec.eq_of_toNat_eq
      simp only [BitVec.toNat_ofNat]
      rw [pow_succ, show v + 256 ^ n * 256 * w = v + 256 * (256 ^ n * w) by ring]
      omega
  rw [key, h]

/-! ### GCM (R507) -/

@[simp] theorem xorBytes_length (as bs : List Byte) : (xorBytes as bs).length = as.length := by
  induction as generalizing bs with
  | nil => simp [xorBytes]
  | cons a r ih => cases bs <;> simp [xorBytes, ih]

/-- A key stream taken off again. -/
theorem xorBytes_xorBytes (as bs : List Byte) : xorBytes (xorBytes as bs) bs = as := by
  induction as generalizing bs with
  | nil => simp [xorBytes]
  | cons a r ih =>
    cases bs with
    | nil => simp [xorBytes]
    | cons b s => simp [xorBytes, ih]

@[simp] theorem gcmTag_length (ks : List (List Byte)) (iv aad c : List Byte) : (gcmTag ks iv aad c).length = 12 := by
  simp [gcmTag]

@[simp] theorem gcmSeal_length (key : BitVec 256) (iv : BitVec 96) (aad bs : List Byte) :
    (gcmSeal key iv aad bs).length = bs.length + 12 := by
  simp [gcmSeal]

/-- What was sealed opens under the same key, IV and AAD. -/
theorem gcmOpen_gcmSeal (key : BitVec 256) (iv : BitVec 96) (aad bs : List Byte) :
    gcmOpen key iv aad (gcmSeal key iv aad bs) = some bs := by
  simp [gcmOpen, gcmSeal, xorBytes_xorBytes]

/-! ### Codewords (R490) -/

theorem append_low {a b : Nat} (x : BitVec a) (y : BitVec b) : (x ++ y).setWidth b = y := by
  apply BitVec.eq_of_getLsbD_eq
  intro i hi
  simp [BitVec.getLsbD_append, hi]

theorem append_high {a b : Nat} (x : BitVec a) (y : BitVec b) : (x ++ y).extractLsb' b a = x := by
  apply BitVec.eq_of_getLsbD_eq
  intro i hi
  simp [BitVec.getLsbD_append, hi]

/-- A codeword as it was encoded decodes to its message, with no symbol corrected. -/
theorem rsDecode_rsEncode (m : BitVec 5140) : rsDecode (rsEncode m) = some (m, 0) := by
  have h1 : (rsEncode m).setWidth 5140 = m := append_low ..
  have h2 : (rsEncode m).extractLsb' 5140 300 = rsParity m := append_high ..
  rw [rsDecode, rsValid, h1, h2, if_pos (by simp)]

/-! ### Frames (R493, R496, R507) -/

theorem mod_pow_div_pow (v lo len n : Nat) (h : lo + len ≤ n) : v % 2 ^ n / 2 ^ lo % 2 ^ len = v / 2 ^ lo % 2 ^ len := by
  obtain ⟨k, rfl⟩ := Nat.exists_eq_add_of_le h
  rw [show lo + len + k = lo + (len + k) by omega, pow_add, Nat.mod_mul_right_div_self, pow_add, Nat.mod_mul_right_mod]

/-- A field of a number. -/
theorem fld_ofNat {n : Nat} (v lo len : Nat) (h : lo + len ≤ n) :
    fld (BitVec.ofNat n v) lo len = BitVec.ofNat len (v / 2 ^ lo) := by
  apply BitVec.eq_of_toNat_eq
  simp only [BitVec.extractLsb'_toNat, BitVec.toNat_ofNat, Nat.shiftRight_eq_div_pow]
  exact mod_pow_div_pow v lo len n h

/-- A field of the header of a frame made of a header and a body. -/
theorem frameBytes_header {head : List Byte} (body : List Byte) (lo len : Nat) (hh : head.length = 16) (h : lo + len ≤ 128) :
    fld (frameBytes head body) lo len = BitVec.ofNat len (leNat head / 2 ^ lo) := by
  unfold frameBytes
  rw [fld_ofNat _ _ _ (by omega), List.append_assoc, leNat_append, hh]
  apply BitVec.eq_of_toNat_eq
  simp only [BitVec.toNat_ofNat]
  rw [← mod_pow_div_pow _ lo len 128 h, ← mod_pow_div_pow (leNat head) lo len 128 h,
    show (256 : Nat) ^ 16 = 2 ^ 128 from by norm_num, Nat.add_mul_mod_self_left]

/-- The body of a frame made of a header and a whole body. -/
theorem frameBytes_body {head body : List Byte} (hh : head.length = 16) (hb : body.length = 524) :
    leB 524 (fld (frameBytes head body) 128 4192) = body := by
  have e : (padTo 524 body).take 524 = body := by simp [padTo, hb]
  unfold frameBytes
  rw [fld_ofNat _ _ _ (by norm_num), e, List.append_assoc, leNat_append, hh, show (256 : Nat) ^ 16 = 2 ^ 128 from by norm_num,
    Nat.add_mul_div_left _ _ (by positivity),
    Nat.div_eq_of_lt (lt_of_lt_of_eq (leNat_lt head) (by rw [hh]; norm_num)), Nat.zero_add]
  have h : leNat (body ++ leB 4 (crc32c (head ++ body))) % 2 ^ 4192 = leNat body := by
    rw [leNat_append, hb, pow_256 (show 8 * 524 = 4192 from rfl), Nat.add_mul_mod_self_left,
      Nat.mod_eq_of_lt (lt_of_lt_of_eq (leNat_lt body) (by rw [hb, pow_256 (show 8 * 524 = 4192 from rfl)]))]
  rw [leB, BitVec.toNat_ofNat, h, ← hb, leBytes_leNat]

/-- The CRC that a frame is made with fits it (R496). -/
theorem crcOk_frameBytes {head : List Byte} (body : List Byte) (hh : head.length = 16) :
    crcOk (frameBytes head body) = true := by
  unfold frameBytes
  generalize hb : head ++ (padTo 524 body).take 524 = b
  have hl : b.length = 540 := by rw [← hb]; simp [padTo, hh]; omega
  have e : (256 : Nat) ^ 540 = 2 ^ 4320 := pow_256 rfl
  have h1 : leNat (b ++ leB 4 (crc32c b)) % 2 ^ 4320 = leNat b := by
    rw [leNat_append, hl, e, Nat.add_mul_mod_self_left, Nat.mod_eq_of_lt (lt_of_lt_of_eq (leNat_lt b) (by rw [hl, e]))]
  have h2 : leNat (b ++ leB 4 (crc32c b)) / 2 ^ 4320 = leNat (leB 4 (crc32c b)) := by
    rw [leNat_append, hl, e, Nat.add_mul_div_left _ _ (by positivity),
      Nat.div_eq_of_lt (lt_of_lt_of_eq (leNat_lt b) (by rw [hl, e])), Nat.zero_add]
  unfold crcOk
  dsimp only
  rw [fld_ofNat _ _ _ (by norm_num), fld_ofNat _ _ _ (by norm_num), h2, leB, pow_zero, Nat.div_one, BitVec.toNat_ofNat, h1, ← hl,
    leBytes_leNat, leB, leNat_leBytes]
  rw [show (256 : Nat) ^ 4 = 2 ^ 32 from by norm_num, Nat.mod_eq_of_lt (crc32c b).isLt, BitVec.ofNat_toNat]
  simp

/-- The 16 header bytes alone, as a frame's low bits. -/
def bareHeader (head : List Byte) : BitVec 4352 := BitVec.ofNat 4352 (leNat head)

theorem frameBytes_fld {head : List Byte} (body : List Byte) (lo len : Nat) (hh : head.length = 16) (h : lo + len ≤ 128) :
    fld (frameBytes head body) lo len = fld (bareHeader head) lo len := by
  rw [frameBytes_header body lo len hh h, bareHeader, fld_ofNat _ _ _ (by omega)]

theorem frameBytes_bit {head : List Byte} (body : List Byte) (i : Nat) (hh : head.length = 16) (h : i < 128) :
    (frameBytes head body).getLsbD i = (bareHeader head).getLsbD i := by
  have := congrArg (BitVec.getLsbD · 0) (frameBytes_fld body i 1 hh (by omega))
  simpa using this

/-- A frame that is not in clear has the header checks of its header alone. -/
theorem frameBytes_headerOk {head : List Byte} (body : List Byte) (hh : head.length = 16)
    (hc : fClear (bareHeader head) = false) : headerOk (frameBytes head body) = headerOk (bareHeader head) := by
  have hc' : fClear (frameBytes head body) = false := by rw [← hc]; exact frameBytes_bit body 6 hh (by norm_num)
  unfold headerOk
  rw [hc, hc']
  simp only [fType, fValid, fLast, fEpoch, fStream, fSeq, fAck, fCredit, fIvc,
    frameBytes_fld body _ _ hh (show 0 + 4 ≤ 128 by norm_num), frameBytes_fld body _ _ hh (show 16 + 10 ≤ 128 by norm_num),
    frameBytes_fld body _ _ hh (show 8 + 8 ≤ 128 by norm_num), frameBytes_fld body _ _ hh (show 26 + 6 ≤ 128 by norm_num),
    frameBytes_fld body _ _ hh (show 124 + 4 ≤ 128 by norm_num), frameBytes_fld body _ _ hh (show 112 + 12 ≤ 128 by norm_num),
    frameBytes_fld body _ _ hh (show 64 + 16 ≤ 128 by norm_num), frameBytes_fld body _ _ hh (show 80 + 16 ≤ 128 by norm_num),
    frameBytes_fld body _ _ hh (show 96 + 16 ≤ 128 by norm_num), frameBytes_bit body 7 hh (by norm_num),
    frameBytes_bit body 4 hh (by norm_num), Bool.not_false, Bool.true_or]

theorem leNat_zeros (n : Nat) : leNat (List.replicate n 0#8) = 0 := by
  induction n with
  | zero => rfl
  | succ n ih => simp [List.replicate_succ, leNat, ih]

/-- Content padded to the payload is read back (R493). -/
theorem contentOf_padTo {c : List Byte} (h : c.length ≤ 512) :
    contentOf c.length (BitVec.ofNat 4096 (leNat (padTo 512 c))) = some c := by
  have e : leNat (padTo 512 c) = leNat c := by
    rw [padTo, leNat_append]
    have z := leNat_zeros (512 - c.length)
    simp only [BitVec.ofNat_eq_ofNat] at z ⊢
    rw [z, Nat.mul_zero, Nat.add_zero]
  have l : leNat c < 2 ^ (8 * c.length) := lt_of_lt_of_eq (leNat_lt c) (pow_256 rfl)
  have b : leNat c % 2 ^ 4096 = leNat c :=
    Nat.mod_eq_of_lt (lt_of_lt_of_le l (Nat.pow_le_pow_right (by norm_num) (by omega)))
  unfold contentOf
  rw [BitVec.toNat_ofNat, e, b, if_pos l, leBytes_leNat]

/-- The payload of a frame sealed under the receiver's current key (R507, R508). -/
theorem framePayload_sealed {x : Port} {k : KeySlot} {head : List Byte} (plain : List Byte) (hh : head.length = 16)
    (hp : plain.length = 512) (hk : x.rxKey = some k) (hc : fClear (bareHeader head) = false)
    (he : k.epoch.getLsbD 0 = fEpoch (bareHeader head)) :
    framePayload x (frameBytes head (gcmSeal k.key (frameIv k (fIvc (bareHeader head)).toNat) head plain))
      = some (BitVec.ofNat 4096 (leNat plain)) := by
  generalize hb : gcmSeal k.key (frameIv k (fIvc (bareHeader head)).toNat) head plain = body
  have hl : body.length = 524 := by rw [← hb, gcmSeal_length, hp]
  have h0 : leB 16 (fld (frameBytes head body) 0 128 : BitVec 128) = head := by
    rw [frameBytes_header body 0 128 hh (by norm_num), leB, pow_zero, Nat.div_one, BitVec.toNat_ofNat,
      Nat.mod_eq_of_lt (lt_of_lt_of_eq (leNat_lt head) (by rw [hh]; norm_num)), ← hh, leBytes_leNat]
  unfold framePayload keyOf
  rw [show fClear (frameBytes head body) = false by rw [← hc]; exact frameBytes_bit body 6 hh (by norm_num),
    show fEpoch (frameBytes head body) = fEpoch (bareHeader head) from frameBytes_bit body 5 hh (by norm_num), hk]
  simp only [he, Bool.false_eq_true, if_false, if_true]
  rw [h0, frameBytes_body hh hl, show fIvc (frameBytes head body) = fIvc (bareHeader head) from
    frameBytes_fld body 32 32 hh (by norm_num), ← hb, gcmOpen_gcmSeal]
  rfl

/-- A frame with the header `head`, sealed under the key k with content c, and the codeword that brings it. -/
def sealedIn (k : KeySlot) (head c : List Byte) : FrameIn :=
  let raw := frameBytes head (gcmSeal k.key (frameIv k (fIvc (bareHeader head)).toNat) head (padTo 512 c))
  { raw := raw, word := some (rsEncode (raw.setWidth 5140)) }

/-- The header is one that the port takes next: sequenced, under its current key, in turn and within the limit granted
(R497, R499, R500, R508, R533). -/
def HeaderFits (x : Port) (k : KeySlot) (head c : List Byte) : Prop :=
  head.length = 16 ∧ fClear (bareHeader head) = false ∧ headerOk (bareHeader head) = true
    ∧ isSequenced (fType (bareHeader head)) = true ∧ k.epoch.getLsbD 0 = fEpoch (bareHeader head)
    ∧ fSeq (bareHeader head) = x.rxExpected ∧ seqDiff x.rxExpected x.rxLimit < 0 ∧ ackOk x (bareHeader head) = true
    ∧ fValid (bareHeader head) = c.length ∧ c.length ≤ 512

/-- A port that is SECURE accepts what its partner seals under the key they share, with the content that was sealed
(R490 to R493, R496, R497, R500, R507, R508). -/
theorem judge_sealed {s : State} {p : Nat} {k : KeySlot} {head c : List Byte} {extra : List Byte → Option Nat}
    (hs : (s.port p).state = .secure) (hr : (s.port p).rxHave = 0) (hb : (s.port p).rxBits = 0)
    (hk : (s.port p).rxKey = some k) (h : HeaderFits (s.port p) k head c) (he : extra c = none) :
    judge s p (sealedIn k head c) extra = .ok c := by
  obtain ⟨hh, hc, ho, hq, hp, hseq, hlim, ha, hv, hl⟩ := h
  generalize hx : s.port p = x at *
  generalize hbody : gcmSeal k.key (frameIv k (fIvc (bareHeader head)).toNat) head (padTo 512 c) = body
  have hpay := framePayload_sealed (x := x) (padTo 512 c) hh (by simp [padTo]; omega) hk hc hp
  have hf : sealedIn k head c = { raw := frameBytes head body, word := some (rsEncode ((frameBytes head body).setWidth 5140)) } := by
    rw [sealedIn, hbody]
  rw [hbody] at hpay
  have fT : fType (frameBytes head body) = fType (bareHeader head) :=
    congrArg BitVec.toNat (frameBytes_fld body 0 4 hh (by norm_num))
  have fS : fSeq (frameBytes head body) = fSeq (bareHeader head) := frameBytes_fld body 64 16 hh (by norm_num)
  have fA : fAck (frameBytes head body) = fAck (bareHeader head) := frameBytes_fld body 80 16 hh (by norm_num)
  have fC : fCredit (frameBytes head body) = fCredit (bareHeader head) := frameBytes_fld body 96 16 hh (by norm_num)
  have fV : fValid (frameBytes head body) = fValid (bareHeader head) :=
    congrArg BitVec.toNat (frameBytes_fld body 16 10 hh (by norm_num))
  have fL : fClear (frameBytes head body) = false := by rw [← hc]; exact frameBytes_bit body 6 hh (by norm_num)
  have hack : ackOk x (frameBytes head body) = true := by
    rw [← ha]; unfold ackOk; rw [fT, fA, fC]
  have hsee : ∃ r, fecSee x (sealedIn k head c) = some r ∧ r.bad = false := by
    unfold fecSee
    rw [hf]
    simp only [hr, hb, rsDecode_rsEncode]
    simp
  obtain ⟨r, hr1, hr2⟩ := hsee
  have htake : takesFrames x = true := by simp [takesFrames, hs, portUp]
  unfold judge
  simp only [hx, htake, hr1, hr2, Bool.not_true, Bool.false_eq_true, if_false]
  unfold judgeDecoded
  rw [hf]
  simp only [hs, crcOk_frameBytes body hh, frameBytes_headerOk body hh hc, ho, fT, hq, fS, hseq]
  rw [show seqDiff x.rxExpected x.rxExpected = 0 by simp [seqDiff]]
  simp only [reduceCtorEq, if_false, Bool.not_true, Bool.false_eq_true]
  rw [if_neg (by norm_num), if_neg (by norm_num), if_neg (by simpa using hlim), if_neg (by norm_num)]
  unfold judgeBody
  simp only [hs, hpay, fL, fV, hv, contentOf_padTo hl, hack, he]
  simp

/-- A field of a sealed frame's header. -/
theorem sealedIn_fld {k : KeySlot} {head c : List Byte} (lo len : Nat) (hh : head.length = 16) (h : lo + len ≤ 128) :
    fld (sealedIn k head c).raw lo len = fld (bareHeader head) lo len :=
  frameBytes_fld _ lo len hh h

theorem sealedIn_bit {k : KeySlot} {head c : List Byte} (i : Nat) (hh : head.length = 16) (h : i < 128) :
    (sealedIn k head c).raw.getLsbD i = (bareHeader head).getLsbD i :=
  frameBytes_bit _ i hh h

/-- What a frame brings with it depends on its header alone (R500, R501). -/
theorem noteFrame_sealedIn {p : Nat} {k : KeySlot} {head c : List Byte} (s : State) (hh : head.length = 16) :
    noteFrame p (sealedIn k head c) s = noteFrame p { raw := bareHeader head, word := none } s := by
  unfold noteFrame
  simp only [fType, fCredit, fAck, fIvc, fClear, sealedIn_fld (k := k) (c := c) _ _ hh (show 0 + 4 ≤ 128 by norm_num),
    sealedIn_fld (k := k) (c := c) _ _ hh (show 80 + 16 ≤ 128 by norm_num),
    sealedIn_fld (k := k) (c := c) _ _ hh (show 96 + 16 ≤ 128 by norm_num),
    sealedIn_fld (k := k) (c := c) _ _ hh (show 32 + 32 ≤ 128 by norm_num),
    sealedIn_bit (k := k) (c := c) 6 hh (by norm_num)]

theorem dataHere_sealedIn {p : Nat} {k : KeySlot} {head c b : List Byte} (s : State) (hh : head.length = 16) :
    dataHere p (sealedIn k head c) b s = dataHere p { raw := bareHeader head, word := none } b s := by
  unfold dataHere
  simp only [fStream, fLast, sealedIn_fld (k := k) (c := c) _ _ hh (show 112 + 12 ≤ 128 by norm_num),
    sealedIn_bit (k := k) (c := c) 4 hh (by norm_num)]

/-- A frame's bits leave the stream: its port alone changes, and of it what the decoder holds and counts (R491, R492). -/
theorem takeFrame_spec {s : State} {p : Nat} (f : FrameIn) (h : tableWf {} s.ports = true) :
    let t := takeFrame p f s
    (t.port p).rxExpected = (s.port p).rxExpected ∧ (t.port p).rxLimit = (s.port p).rxLimit ∧ (t.port p).rx = (s.port p).rx
      ∧ { t with ports := s.ports } = s ∧ tableWf {} t.ports = true := by
  unfold takeFrame
  dsimp only
  split
  · exact ⟨rfl, rfl, rfl, rfl, h⟩
  · rw [State.setPort_port_eq _ _ h]
    exact ⟨rfl, rfl, rfl, rfl, tableWf_tset _ _ h⟩

/-- A sequenced frame is accepted: the SEQ expected and the limit granted advance, and nothing but the port changes
(R500). -/
theorem acceptSeq_spec {s : State} {p : Nat} (f : Option FrameIn) (h : tableWf {} s.ports = true) :
    let t := acceptSeq p f s
    (t.port p).rxExpected = (s.port p).rxExpected + 1 ∧ (t.port p).rxLimit = (s.port p).rxLimit + 1
      ∧ (t.port p).rx = (s.port p).rx ∧ { t with ports := s.ports } = s := by
  have key : ∀ u : State, (u.port p).rxExpected = (s.port p).rxExpected → (u.port p).rxLimit = (s.port p).rxLimit →
      (u.port p).rx = (s.port p).rx → { u with ports := s.ports } = s → tableWf {} u.ports = true → ∀ y : Port,
      y.rxExpected = (u.port p).rxExpected + 1 → y.rxLimit = (u.port p).rxLimit + 1 → y.rx = (u.port p).rx →
      let t := u.setPort p y
      (t.port p).rxExpected = (s.port p).rxExpected + 1 ∧ (t.port p).rxLimit = (s.port p).rxLimit + 1
        ∧ (t.port p).rx = (s.port p).rx ∧ { t with ports := s.ports } = s := by
    intro u h1 h2 h3 h4 h5 y e1 e2 e3
    dsimp only
    rw [State.setPort_port_eq _ _ h5, e1, e2, e3, h1, h2, h3]
    exact ⟨rfl, rfl, rfl, h4⟩
  cases f with
  | none =>
    unfold acceptSeq
    exact key s rfl rfl rfl rfl h _ rfl rfl rfl
  | some f =>
    obtain ⟨h1, h2, h3, h4, h5⟩ := takeFrame_spec (p := p) f h
    unfold acceptSeq
    dsimp only
    split <;> exact key _ h1 h2 h3 h4 h5 _ rfl rfl rfl

end Sys2Proof.Machine

namespace Sys2Proof.Laws
open Sys2Proof.Machine

/-- Coefficients packed with 10 bits each, lowest first. -/
def packCoeffs : List Nat → Nat
  | [] => 0
  | c :: cs => c + 1024 * packCoeffs cs

/-- The rows of the encoder are the generator without its leading term, times α^0 to α^9 (R490). -/
theorem rsRows_generator :
    rsRows = (List.range 10).map fun i => packCoeffs ((rsGenerator.take 30).map (gfMul (gfPow 2 i))) := by
  decide +kernel

end Sys2Proof.Laws
end

