-- ==== Sys2Proof/Tests/Slice0.lean ====
section
/-! SUPPORT. The model's own tests: the checks of WellFormed refuse, and each statement's hypotheses are met somewhere,
with what it concludes there. -/
namespace Sys2Proof.Machine

-- The theorems below are checked one after another: their kernel evaluations at once need too much memory.
set_option Elab.async false

/-! ### WellFormed -/

theorem test_packetOk_refuses_another_rows_opcode : (Instr.identify 0 0x0010#512).packetOk = false := by decide +kernel
theorem test_packetOk_takes_an_unknown_opcode : (Instr.identify 0 0xFFFF#512).packetOk = true := by decide +kernel
theorem test_subOk_refuses_another_rows_subcode :
    (Instr.diagEcho 0 (0xF1#512 ||| (2#512 <<< 128))).subOk = false := by decide +kernel
theorem test_listsOk_refuses_missing_enables : (Instr.bar2Write 0 [1, 2] [true]).listsOk = false := by decide
theorem test_wf_takes_a_packet : (Instr.identify 0 0x0001#512).wf = true := by decide +kernel

/-! ### Small states -/

/-- A command's next state passes a test. -/
def after (i : Instr) (s : State) (p : State → Bool) : Bool :=
  match exec i s with
  | .next t => p t
  | _ => false

/-- A word from fields: value and lowest bit. -/
def wordOf (n : Nat) (fs : List (Nat × Nat)) : BitVec n := BitVec.ofNat n (fs.foldl (fun a f => a + f.2 * 2 ^ f.1) 0)

/-- A READY device: Rooms 0 and 1 are active, Room 1 has a Pantry granule, two flags and a counter; channel 3 of Room 1
runs at Pantry 0. -/
def dev : State := {
  g := { devState := .ready }, fy := { state := .ready }
  pcie := { vfEnable := true, numVfs := 2, bme := [0, 1], mse := [0, 1] }
  rooms := [(0, { state := .active, share := 1, misuseLimit := 256 }),
            (1, { state := .active, share := 1, misuseLimit := 256, maxSq := 8, maxCq := 8, maxCh := 4, maxFe := 4,
                  maxFlags := 16, maxCounters := 16, maxGranules := 64, maxHandles := 16,
                  windows := [(0, { valid := true, granules := 1, physGran := 1 })],
                  flagMap := [(0, 0), (1, 1)], counterMap := [(0, 0)] })]
  flags := [(0, { room := 1, mapped := true }), (1, { room := 1, mapped := true })]
  counters := [(0, { room := 1, mapped := true })]
  chans := [(3, { state := .running, assigned := true, room := 1 })] }

/-- The device with an instruction word where channel 3 is. -/
def at3 (w : BitVec 256) (s : State := dev) : State := { s with pantry := mwrite s.pantry 0x200000 (leBytes 32 w.toNat) }

/-- MayIssue of an instruction that `fetchInstr` finds. -/
def mayIssueNow (s : State) (c : Nat) (o : Byte) (w : BitVec 256) : Bool :=
  issueReady (s.chan c) && (fetchDomains s (s.chan c)).all (pdUp s) && pdUp s (pdMover c)
    && (match (fetchInstr c s).2 with | .ok v => v == w | .error _ => false) && fld w 0 8 == o && flagsOk o (wFlags w)
    && operandsReservedOk w && triggerReady ((pdTouch (pdMover c) (fetchInstr c s).1).chan c) w

theorem mayIssue_of {s : State} {c : Nat} {o : Byte} {w : BitVec 256} (h : mayIssueNow s c o w = true) :
    MayIssue s c o w (fetchInstr c s).1 := by
  simp only [mayIssueNow, Bool.and_eq_true, List.all_eq_true, beq_iff_eq] at h
  obtain ⟨⟨⟨⟨⟨⟨⟨h1, h2⟩, h3⟩, h4⟩, h5⟩, h6⟩, h7⟩, h8⟩ := h
  refine ⟨h1, h2, h3, ?_, h5, h6, h7, h8⟩
  revert h4
  generalize fetchInstr c s = x
  rcases x with ⟨a, e | v⟩ <;> simp

/-- The state in which the instruction's rules apply. -/
abbrev issued (s : State) (w : BitVec 256) : State := atIssue 3 w (fetchInstr 3 s).1

/-! ### Channel instructions -/

/-- t differs from s in channel c only, as far as a test can see. -/
def onlyChan (c : Nat) (s t : State) : Bool := { t with chans := s.chans } = s && tdel t.chans c = tdel s.chans c

/-- The four memories agree. -/
def sameMem (s t : State) : Bool := t.pantry = s.pantry && t.cellar = s.cellar && t.larder = s.larder && t.host = s.host

/-- Channel 3 with changes, in a state. -/
def chan3 (f : Chan → Chan) (s : State := dev) : State := s.setChan 3 (f (s.chan 3))

def loopWord (count target n : Nat) : BitVec 256 := wordOf 256 [(0, 8), (32, n), (64, count), (96, target), (128, 64), (160, 32)]

theorem test_loop_counts_and_ends :
    (let w := loopWord 3 0 0
     mayIssueNow (at3 w) 3 Op.loop w && after (.loop 3) (at3 w) (fun t => onlyChan 3 (issued (at3 w) w) t
      && loopGet (t.chan 3) 0 = 2 && (t.chan 3).srcOff = 64 && (t.chan 3).dstOff = 32 && (t.chan 3).pc = 0))
    && (let w := loopWord 4 0 3
     let s := chan3 (fun h => { h with loop3 := 1, srcOff := 192, dstOff := 96 }) (at3 w)
     mayIssueNow s 3 Op.loop w && after (.loop 3) s (fun t => onlyChan 3 (issued s w) t
      && loopGet (t.chan 3) 3 = 0 && (t.chan 3).srcOff = 0 && (t.chan 3).dstOff = 0 && (t.chan 3).pc = 32)) := by
  decide +kernel

theorem test_loop_malformed : [loopWord 0 0 1, loopWord 3 1 1, loopWord 3 0 4].all (fun w =>
    mayIssueNow (at3 w) 3 Op.loop w && after (.loop 3) (at3 w) fun t => (t.chan 3).badCount = 1
      && (t.chan 3).lastErr = 0x0810#64 && (t.chan 3).srcOff = 0) := by decide +kernel

def stopWord (fl : Nat) : BitVec 256 := wordOf 256 [(0, 0x0F), (16, fl), (64, 77)]
/-- The device with SQ 2 of Room 1, whose entry 5 channel 3 runs. -/
def entry3 (s : State := dev) : State :=
  chan3 (fun h => { h with entry := some { sq := 2, count := 5, barrier := false } })
    (s.setSq 2 { valid := true, room := 1, dispatched := [{ count := 5, tag := 9, opcode := 1, late := false, irq := true }] })

theorem test_stop_ends :
    (let w := stopWord 0
     let s := entry3 (at3 w)
     mayIssueNow s 3 Op.stop w && after (.stop 3) s (fun t => (t.chan 3).state = .idle && (t.chan 3).entry = none
      && (t.chan 3).irqPend = 4 && (t.sq 2).reports = [{ count := 5, tag := 9, irq := true, opcode := 1, result := 77, status := 0 }]
      && sameMem s t))
    && (let w := stopWord 1
     let s := chan3 (fun h => { h with flights := [{ kind := .host, pc := 0, opcode := 1 }] }) (at3 w)
     mayIssueNow s 3 Op.stop w && after (.stop 3) s (fun t => onlyChan 3 (issued s w) t && (t.chan 3).hold = .stop
      && (t.chan 3).ending = some (0, 77) && (t.chan 3).state = .running)) := by decide +kernel

def moveWord (fl len src dst : Nat) : BitVec 256 := wordOf 256 [(0, 1), (16, fl), (32, len), (64, src), (128, dst)]
def fillWord (fl len dst pat pb : Nat) : BitVec 256 :=
  wordOf 256 [(0, 4), (16, fl), (32, len), (64, dst), (128, pat), (192, pb)]

theorem test_move_and_fill_start :
    (let w := moveWord 0x100 8192 0x1000 0x4000
     let s := chan3 (fun h => { h with srcOff := 4096 }) (at3 w)
     mayIssueNow s 3 Op.move w && moveStatus (issued s w) 1 0x2000 0x4000 8192 0 = St.ok
      && after (.move 3) s (fun t => onlyChan 3 (issued s w) t && (t.chan 3).cur = some { opcode := 1, flags := 0x100#16, plan := .copy 0x2000 0x4000 8192 0, item := .move 0x2000 0x4000 8192, total := 8192, domains := issueDomains 3 (issued s w) [3] }))
    && (let w := fillWord 0 1 0x1FFFFF 0xAB 1
     mayIssueNow (at3 w) 3 Op.fill w && fillStatus (issued (at3 w) w) 1 0x1FFFFF 1 1 = St.ok
      && after (.fill 3) (at3 w) (fun t => (t.chan 3).cur = some { opcode := 4, flags := 0, plan := .fill 0x1FFFFF 1 0xAB 1, total := 1, domains := issueDomains 3 (issued (at3 w) w) [3] })) := by decide +kernel

/-- The device with bytes at a physical Pantry offset. -/
def poke (a n v : Nat) (s : State) : State := { s with pantry := mwrite s.pantry a (leBytes n v) }

def listWord (count mode cg : Nat) : BitVec 256 := wordOf 256 [(0, 2), (32, count), (64, 0x1000), (128, cg), (192, mode)]
/-- Two list entries: 8 bytes at 0x2000 and 16 at 0x3000. -/
def withList (w : BitVec 256) : State :=
  poke 0x201000 32 (0x2000 + 8 * 2 ^ 64 + 0x3000 * 2 ^ 128 + 16 * 2 ^ 192) (at3 w)

theorem test_move_list_starts :
    (let w := listWord 2 0 0x8000
     let s := withList w
     mayIssueNow s 3 Op.moveList w && tableStatus (issued s w) 1 0x1000 16 32 = St.ok
      && after (.moveList 3) s (fun t => onlyChan 3 (issued s w) t && (t.chan 3).cur = some { opcode := 2, flags := 0, plan := .list 0x1000 2 0 0x8000 0, total := 24, domains := [1, 3] }))
    && (let w := listWord 1 1 0x8000
     after (.moveList 3) (withList w) (fun t => (t.chan 3).cur.map (·.plan) = some (.list 0x1000 1 1 0x8000 0)))
    && (let w := listWord 1 2 0
     after (.moveList 3) (withList w) (fun t => (t.chan 3).cur.map (·.plan) = some (.list 0x1000 1 2 0 0))) := by
  decide +kernel

/-- A layout record of 16 words at base. -/
def flatRec (base : Nat) : Nat := 16 * 2 ^ 32 + base * 2 ^ 384
/-- A descriptor at 0x1000 that copies 8 words from 0x4000 to 0x5000, and its records. -/
def tiled (w : BitVec 256) (tr : Nat := 0) : State :=
  poke 0x201000 128 (0x1080 + 0x10C0 * 2 ^ 64 + 8 * 2 ^ 256 + tr * 2 ^ 512)
    (poke 0x201080 64 (flatRec 0x4000) (poke 0x2010C0 64 (flatRec 0x5000) (at3 w)))
def tileWord (fl : Nat) : BitVec 256 := wordOf 256 [(0, 3), (16, fl), (64, 0x1000)]
def coordsWord (count mode : Nat) : BitVec 256 :=
  wordOf 256 [(0, 5), (32, count), (64, 0x1200), (128, 0x1000), (192, mode)]

/-- Every domain of a list is ON. -/
def areOn (s : State) (ds : List Nat) : Bool := ds.all (pdOn s)
/-- A test of the state and the plan that the reads of a tile descriptor give. -/
def tileRead (desc : Word) (reduce : Option Layout) (s : State) (test : State → TilePlan → Bool) : Bool :=
  tableStatus s 1 desc 64 128 = St.ok && areOn s (issueDomains 3 s (spanDomains s 1 desc 128))
    && (match devWord 128 1 desc s with
      | (u, .ok d) => areOn u (issueDomains 3 u (((if reduce.isSome then [] else [fld d 0 64]) ++ [fld d 64 64] :
            List Word).flatMap fun a => spanDomains u 1 a 64))
        && (match readTile 1 d none none reduce u with | (t, .ok p) => test t p | _ => false)
      | _ => false)

/-- `tileRead` gives what TileRead states. -/
theorem tileRead_spec {desc : Word} {reduce : Option Layout} {s : State} {test : State → TilePlan → Bool}
    (hk : (s.chan 3).room = 1) (h : tileRead desc reduce s test = true) :
    ∃ t p, TileRead 3 desc none none reduce s t p ∧ test t p = true := by
  unfold tileRead at h
  simp only [Bool.and_eq_true, decide_eq_true_eq] at h
  obtain ⟨⟨h1, h2⟩, h3⟩ := h
  have k : (s.chan 3).room.toNat = 1 := by rw [hk]; rfl
  split at h3 <;> try exact absurd h3 Bool.false_ne_true
  simp only [Bool.and_eq_true] at h3
  rename_i u d hd
  obtain ⟨h3, h4⟩ := h3
  split at h4 <;> try exact absurd h4 Bool.false_ne_true
  rename_i t p hp
  refine ⟨t, p, ?_, h4⟩
  rw [TileRead, k]
  exact ⟨h1, List.all_eq_true.mp h2, u, d, hd, List.all_eq_true.mp h3, hp⟩

theorem test_move_tile_starts :
    (let w := tileWord 0
     let s := tiled w
     mayIssueNow s 3 Op.moveTile w && ((issued s w).chan 3).room = 1 && tileRead 0x1000 none (issued s w) fun s3 p =>
      let b : Block := (p, false, false)
      let ds := issueDomains 3 s3 (tileDomains s3 1 p [b])
      tileStatus s3 1 p 0 [b] = St.ok && areOn s3 ds && ds = [1, 3]
        && after (.moveTile 3) s (fun t => { t with chans := s3.chans } = s3
          && (t.chan 3).cur = some { opcode := 3, flags := 0, plan := .tile p, item := .block p false false, total := 32, domains := ds }
          && (t.chan 3).lfsr = 1))
    && (let w := tileWord 0
     let s := tiled w (2 * 2 ^ 8 + 0x1234 * 2 ^ 384)
     mayIssueNow s 3 Op.moveTile w && after (.moveTile 3) s (fun t => (t.chan 3).lfsr = 0x1234)) := by decide +kernel

theorem test_move_coords_starts :
    (let w := coordsWord 1 0
     let s := tiled w
     mayIssueNow s 3 Op.moveCoords w && tableStatus (issued s w) 1 0x1200 16 16 = St.ok
      && tileRead 0x1000 none (issued s w) fun s3 p =>
        let bs := coordBlocks 1 0x1200 0 p s3 1 0
        let ds := issueDomains 3 s3 (spanDomains s3 1 0x1200 16 ++ tileDomains s3 1 p bs)
        p.origin.all (· = 0) && tileStatus s3 1 p 0 bs = St.ok && areOn s3 ds
          && after (.moveCoords 3) s (fun t => { t with chans := s3.chans } = s3
            && (t.chan 3).cur = some { opcode := 5, flags := 0, plan := .coords 0x1200 1 0 p, total := 32, domains := ds }))
    && [1, 2].all (fun m => after (.moveCoords 3) (tiled (coordsWord 2 m)) fun t => (t.chan 3).cur.isSome) := by
  decide +kernel

/-! ### Mover bursts -/

/-- Channel 3 in the middle of a plan. -/
def moving (p : Plan) (len done : Nat) (it : Item := .none) (s : State := dev) : State :=
  chan3 (fun h => { h with cur := some { opcode := 1, flags := 0, plan := p, item := it, total := len, done := done, domains := [1, 3] } }) s
/-- The device with Room 1's window as a pool without buffers. -/
def pooled : State := dev.setRoom 1 { dev.room 1 with windows := [(0, { valid := true, pool := true, granules := 1, physGran := 1 })] }
/-- Every arbiter that channel 3 waits for in p has granted its request. -/
def grantMover (p s : State) : State := (wants p 3).foldl (fun t x => t.setArbiter x.1 { t.arbiter x.1 with owner := some x.2 }) s
def isGranted (s : State) : Bool := (wants s 3).all fun x => (s.arbiter x.1).owner = some x.2
/-- The state in which a turn of channel 3 looks for its grants. -/
def prepared (s : State) : State := prepare 3 (pdTouch (pdMover 3) s)

theorem test_burst_reads_up_to_the_boundary :
    (let s0 := moving (.copy 0xFFE 0x3000 5 0) 5 0 (.move 0xFFE 0x3000 5) (poke 0x200FFE 5 0x0504030201 dev)
     let s := grantMover (prepared s0) s0
     nextReady s 0 0 = some 3 && translate s 1 false 0xFFE = some 0x200FFE && poolOk s 1 0xFFE 2 && s.wf
      && isGranted (prepared s) && wants (prepared s) 3 ≠ []
      && after (.moverBurst 0) s (fun t => t.rotor = [4, 0] && sameMem s t
        && (t.chan 3).cur.map (fun x => (x.stage, x.toRead, x.done)) = some (.writing, [], 0)
        && (t.chan 3).cur.map (·.toWrite) = some [wholeRun 0x3000 [1, 2]])
      && after (.moverBurst 0) s0 (fun t => t.rotor = [0, 0] && sameMem s t
        && (t.chan 3).cur.map (fun x => (x.stage, x.toRead)) = some (.reading, [(0xFFE, 2)]))) := by decide +kernel

theorem test_burst_writes :
    (let s0 := chan3 (fun h => { h with cur := h.cur.map fun q => { q with stage := .writing, toWrite := [wholeRun 0x3000 [1, 2]] } })
      (moving (.copy 0xFFE 0x3000 5 0) 5 0 (.move 0xFFE 0x3000 5))
     let s := grantMover s0 s0
     nextReady s 0 0 = some 3 && translate s 1 false 0x3000 = some 0x203000 && poolOk s 1 0x3000 2 && s.wf
      && isGranted s && wants s 3 ≠ []
      && after (.moverBurst 0) s (fun t => t.rotor = [4, 0] && mread t.pantry 0x203000 3 = [1, 2, 0]
        && t.cellar = s.cellar && (t.chan 3).cur.map (fun x => (x.stage, x.done)) = some (.fresh, 2))
      && after (.moverBurst 0) s0 (fun t => t.rotor = s.rotor && sameMem s t
        && (t.chan 3).cur.map (fun x => (x.stage, x.toWrite)) = some (.writing, [wholeRun 0x3000 [1, 2]]))) := by
  decide +kernel

theorem test_burst_fills :
    (let s0 := moving (.fill 0x10 3 0xBBAA 2) 3 1
     let s := grantMover (prepared s0) s0
     nextReady s 0 0 = some 3 && poolOk s 1 0x11 2 && s.wf && isGranted (prepared s)
      && after (.moverBurst 0) s (fun t => mread t.pantry 0x200010 4 = [0, 0xBB, 0xAA, 0]))
    && (let s0 := moving (.fill 0x10 3 0xBBAA 2) 3 0 .none pooled
     let s := grantMover (prepared s0) s0
     nextReady s 0 0 = some 3 && poolOk s 1 0x10 3 = false && s.wf && isGranted (prepared s)
      && after (.moverBurst 0) s (fun t => (t.chan 3).badCount = 1 && (fld (t.chan 3).lastErr 0 8 : Byte) = St.bufStale
        && t.pantry = s.pantry)) := by decide +kernel

/-! ### Waits -/

def flagWord (mode id : Nat) : BitVec 256 := wordOf 256 [(0, 0x10), (32, mode), (64, 4 * 2 ^ 60 + id), (192, 100)]
def countWord (mode v : Nat) : BitVec 256 := wordOf 256 [(0, 0x13), (32, mode), (64, 4 * 2 ^ 60 + 4096), (128, v), (192, 100)]
def fullWord (mode : Nat) : BitVec 256 := wordOf 256 [(0, 0x11), (32, mode), (64, 0x1000), (192, 100)]
def withRegion (s : State) : State := s.setRoom 1 { s.room 1 with regions := [(0, { off := 0x1000, len := 8 })] }

theorem test_local_waits_sleep :
    (let w := flagWord 3 1
     let s := at3 w
     let s2 := issued s w
     mayIssueNow s 3 Op.waitFlag w && after (.waitFlag 3) s (fun t => t =
      addWaiter { chanWaiter 3 (.flag 1) w s2 with expect := true, consume := true } (sleepIn 3 w .nothing s2)
        && t.waiters.all (fun x => !condHolds t x)))
    && (let w := countWord 1 5
     let s := at3 w
     let s2 := issued s w
     mayIssueNow s 3 Op.waitCount w && after (.waitCount 3) s (fun t => t =
      addWaiter { chanWaiter 3 (.counter 0) w s2 with target := 5 } (sleepIn 3 w .nothing s2)))
    && (let w := fullWord 2
     let s := withRegion (at3 w)
     let s3 := pdTouch 3 (issued s w)
     mayIssueNow s 3 Op.waitFull w && inRegion s 1 0x1000 && after (.waitFull 3) s (fun t => t =
      addWaiter { chanWaiter 3 (.word 0x201000) w s3 with consume := true } (sleepIn 3 w .nothing s3))) := by decide +kernel

theorem test_local_waits_end_at_once :
    (let w := flagWord 2 0
     let s := at3 w
     mayIssueNow s 3 Op.waitFlag w && s.wf && after (.waitFlag 3) s (fun t => t.waiters = [] && (t.chan 3).pc = 32
      && (t.chan 3).state = .running && (t.flag 0).value && !(t.flag 1).value && sameMem (issued s w) t))
    && [(0, 0), (1, 5)].all (fun m =>
     let w := countWord m.1 0
     let s := chan3 (fun h => { h with consumed := 5 }) ((at3 w).setCounter 0 { room := 1, mapped := true, value := 5 })
     mayIssueNow s 3 Op.waitCount w && after (.waitCount 3) s (fun t => t.waiters = [] && (t.chan 3).pc = 32
      && (t.chan 3).consumed = 5 && onlyChan 3 (issued s w) t))
    && (let w := countWord 2 0
     let s := (at3 w).setCounter 0 { room := 1, mapped := true, value := 7 }
     mayIssueNow s 3 Op.waitCount w && after (.waitCount 3) s (fun t => (t.chan 3).consumed = 7 && (t.chan 3).pc = 32
      && onlyChan 3 (issued s w) t))
    && [0, 2].all (fun m =>
     let w := fullWord m
     let s : State := { withRegion (at3 w) with tags := [0x40200] }
     mayIssueNow s 3 Op.waitFull w && after (.waitFull 3) s (fun t => t.waiters = [] && (t.chan 3).pc = 32
      && t.tags = (if m = 0 then [0x40200] else []) && sameMem (issued s w) t)) := by decide +kernel

def phaseWord (mode p turn : Nat) : BitVec 256 := wordOf 256 [(0, 0x12), (32, mode), (64, p), (96, turn)]

theorem test_phase_waits :
    [(1, 0), (0, 10), (0, 0)].all (fun m =>
     let w := phaseWord m.1 m.2 m.1
     let s := at3 w
     let s2 := issued s w
     let turn : Half := if m.1 = 1 then 1 else if m.2 = 0 then 1 else 0
     mayIssueNow s 3 Op.waitPhase w && after (.waitPhase 3) s (fun t => t =
      addWaiter { unit := .chan 3, obj := .phase (m.1 = 1) turn (BitVec.ofNat 32 m.2), mode := BitVec.ofNat 8 m.1 }
        (setCur 3 (fun q => { q with domains := baseDomains 3 s2 }) (sleepIn 3 w .nothing s2))))
    && (let w := phaseWord 1 0 0
     let s : State := { at3 w with cad := { phase := 1 } }
     mayIssueNow s 3 Op.waitPhase w && after (.waitPhase 3) s (fun t => onlyChan 3 (issued s w) t && (t.chan 3).pc = 32
      && (t.chan 3).late))
    && (let x : Waiter := { unit := .chan 3, obj := .phase false 0 1 }
     let s := { chan3 (fun h => { h with state := .waiting, cur := some { opcode := 0x12, flags := 0, plan := .nothing } }) with
                waiters := [x], cad := { phase := 1 } }
     after (.phaseWake 3) s (fun t => t.waiters = [] && (t.chan 3).pc = 32 && (t.chan 3).state = .running
      && (t.chan 3).cur = none && ({ t with chans := s.chans, waiters := s.waiters } : State) = s)) := by decide +kernel

/-! ### Signals, barriers, fences -/

def sigFlagWord (v id : Nat) : BitVec 256 := wordOf 256 [(0, 0x18), (32, v), (64, 4 * 2 ^ 60 + id)]
def sigCountWord (n : Nat) : BitVec 256 := wordOf 256 [(0, 0x19), (64, 4 * 2 ^ 60 + 4096), (128, n)]

theorem test_signals_reach_local_objects :
    [0, 1].all (fun v =>
     let w := sigFlagWord v 1
     let s := at3 w
     let a := advance 3 (issued s w)
     mayIssueNow s 3 Op.signalFlag w && after (.signalFlag 3) s (fun t => t =
      a.setFlag 1 { a.flag 1 with value := v = 1, last := lastSignal s 1 3 0 }))
    && (let w := sigFlagWord 1 0
     let s := ((at3 w).setFlag 0 { room := 1, mapped := true, dbSq := some 2 }).setSq 2 { valid := true, room := 1 }
     let s2 := issued s w
     mayIssueNow s 3 Op.signalFlag w && s2.wf && after (.signalFlag 3) s (fun t => !(t.flag 0).value && (t.sq 2).dbPending
      && ({ t with chans := s2.chans, flags := s2.flags, sqs := s2.sqs } : State) =
          { s2 with waiters := t.waiters, msix := t.msix, outputs := t.outputs }))
    && (let w := sigCountWord 0xFFFFFFFF
     let s := at3 w
     let a := advance 3 (issued s w)
     mayIssueNow s 3 Op.signalCount w && after (.signalCount 3) s (fun t => t = a.setCounter 0 { a.counter 0 with
      value := 0xFFFFFFFF, last := lastSignal s 1 3 0 })) := by decide +kernel

def arriveWord (o i : Nat) : BitVec 256 := wordOf 256 [(0, o), (32, i), (192, if o = 0x14 then 9 else 0)]
/-- The device with wire 31, whose members are channel 3 and those of `more`, the assigned ones among them effective. -/
def wired (w : BitVec 256) (more : Nat) : State :=
  ((at3 w).setWire 31 { room := 1, enable := true, maskLo := BitVec.ofNat 64 (8 + more), gen := 4 }).setChan 5
    { state := .idle, assigned := true, room := 1 }

theorem test_barrier_wires :
    (let w := arriveWord 0x1A 31
     let s := wired w 32
     let a := advance 3 (issued s w)
     let v := (a.setChan 3 { a.chan 3 with arrivals := [(31, 4)] }).setWire 31 (setArrived (a.wire 31) 3 true)
     mayIssueNow s 3 Op.arrive w && barrierOf w = some (.inl 31) && mayArrive (issued s w) 3 31 && s.wf
      && wireReady v (v.wire 31) = false && after (.arrive 3) s (fun t => t = v))
    && (let w := arriveWord 0x1A 31
     let s := wired w 0x8000000000000000
     mayIssueNow s 3 Op.arrive w && after (.arrive 3) s (fun t => (t.wire 31).gen = 5 && (t.wire 31).arrivedLo = 0
      && (t.chan 3).arrivals = []))
    && (let w := arriveWord 0x14 31
     let s := chan3 (fun h => { h with arrivals := [(31, 4)] }) (wired w 32)
     let s2 := issued s w
     mayIssueNow s 3 Op.waitBarrier w && mayArrive s2 3 31 && after (.waitBarrier 3) s (fun t => t =
      addWaiter { chanWaiter 3 (.wire 31) w s2 with addr := 0, mode := 0, target := 4 } (sleepIn 3 w .nothing s2))) := by
  decide +kernel

def notifyWord (act v : Nat) : BitVec 256 := wordOf 256 [(0, 0x20), (32, v), (40, act), (64, if act = 2 then 0 else 0x1008), (128, 0x1122334455667788)]
def inFlight : Chan → Chan := fun h => { h with flights := [{ kind := .host, pc := 0, opcode := 1 }] }

theorem test_fence_and_notify :
    [id, inFlight].all (fun f =>
     let w := wordOf 256 [(0, 0x1C)]
     let s := chan3 f (at3 w)
     mayIssueNow s 3 Op.fence w && after (.fence 3) s (fun t => onlyChan 3 (issued s w) t && (t.chan 3).pc = 32
      && (t.chan 3).flights = (s.chan 3).flights && (t.chan 3).hold = if (s.chan 3).flights = [] then .none else .fence))
    && (let w := notifyWord 2 31
     let s := chan3 inFlight (at3 w)
     mayIssueNow s 3 Op.notify w && notifyStatus (issued s w) 1 w = St.ok
      && after (.notify 3) s (fun t => t = (issued s w).setChan 3 { (issued s w).chan 3 with hold := .fence }))
    && (let w := notifyWord 2 31
     let s := at3 w
     after (.notify 3) s (fun t => (tget t.msix {} 287).pending && t.outputs = [] && (t.chan 3).pc = 32)
      && after (.notify 3) { s with msix := [(287, { masked := false })] } (fun t => t.outputs = [.msix 1 31]))
    && (let w := notifyWord 1 0
     let s := at3 w
     mayIssueNow s 3 Op.notify w && notifyStatus (issued s w) 1 w = St.ok && (issued s w).wf
      && after (.notify 3) s (fun t => mread t.pantry 0x201007 10 = [0, 0x88, 0x77, 0x66, 0x55, 0x44, 0x33, 0x22, 0x11, 0]
        && t.host = s.host)) := by decide +kernel

/-! ### Reductions -/

/-- The device with group 2 of Room 1 and its open instance: INT32, sum, chunk 0 of 4 elements with `done` contributions. -/
def grouped (done : Nat) (s : State := dev) : State := { s with groups := [(2, {
  slot := 0, room := 1, members := 2, rank := 0, kib := 64, inst := some {
    sq := 2, count := 0, format := 0, op := 0, contrib := 1, first := 0, range := 1, timeoutUs := 0, sends := 1, stores := 1
    chunks := [(0, { elements := 4, base := 0, committed := done })] } })] }
def sendWord (node : Nat) : BitVec 256 := wordOf 256 [(0, 0x28), (32, 4), (64, 0x1000), (128, 2), (160, node)]
def storeWord : BitVec 256 := wordOf 256 [(0, 0x29), (32, 4), (64, 0x1000), (128, 2)]
/-- The device as node 0 of a House with node 5 behind port 1. -/
def housed (s : State := dev) : State :=
  { s.setPort 1 { state := .secure, enable := true, txLimit := 224, rxLimit := 224 } with
    house := { hstate := .hall, isHall := true, nodeValid := true, members := [0, 5], routes := [(5, 1)] } }

theorem test_reduce_send :
    (let w := sendWord 0
     let s := grouped 0 (at3 w)
     let s2 := issued s w
     mayIssueNow s 3 Op.reduceSend w && (instanceFor s2 1 2 0 0).isSome && spanStatus s2 1 0x1000 16 = St.ok
      && after (.reduceSend 3) s (fun t => (t.chan 3).state = .running && t.waiters = [] && sameMem s2 t
        && (t.chan 3).cur.map (·.plan) = some (.reduceSend 0x1000 4 0 0 2 0 0)))
    && (let w := sendWord 5
     let s := housed (grouped 0 (at3 w))
     let s2 := issued s w
     mayIssueNow s 3 Op.reduceSend w && egress s2 5 = some 1 && (spanDomains s2 1 (BitVec.ofNat 64 (3 * 2 ^ 60 + 5 * 2 ^ 50)) 1).all (pdOn s2)
      && after (.reduceSend 3) s (fun t => (t.chan 3).state = .waiting && t.waiters.length = 1 && sameMem s2 t
        && (t.chan 3).cur.map (·.plan) = some (.reduceSend 0x1000 4 0 0 2 0 5)
        && (t.port 1).queue = [.msg (Msg.pack { mtype := 0x40, dst := 5, src := 0, room := 1, req := 3, arg0 := rdxArg 2 0 0 0 4 })])) := by
  decide +kernel

/-- What a REDUCE_STORE that starts leaves, where `done` contributions of the chunk's one are there. -/
def storeStarts (done : Nat) (plan : Plan) (it : Item) (s s3 : State) : Bool :=
  after (.reduceStore 3) s fun t => (t.chan 3).cur.map (fun q => (q.plan, q.item, q.total)) = some (plan, it, 16)
    && (t.chan 3).state = (if done = 1 then .running else .waiting) && t.waiters.length = 1 - done && sameMem s3 t

theorem test_reduce_store : [0, 1].all (fun done =>
    (let s := grouped done (at3 storeWord)
     let s2 := issued s storeWord
     mayIssueNow s 3 Op.reduceStore storeWord && areOn s2 (issueDomains 3 s2 (pdLarder :: spanDomains s2 1 0x1000 16))
      && storeStarts done (.reduceStore 0x1000 4 0 2 0 0 none) .none s s2)
    && (let w := storeWord ||| (1#256 <<< 140)
     let s := grouped done (poke 0x201000 128 (0x10C0 * 2 ^ 64 + 4 * 2 ^ 256)
      (poke 0x2010C0 64 (flatRec 0x5000) (at3 w)))
     mayIssueNow s 3 Op.reduceStore w && tileRead 0x1000 (some (accLayout 0 4)) (issued s w) fun s3 p =>
      let b : Block := (p, false, false)
      p.wr.format = 0 && p.wr.comp = 0 && p.wr.base = 0x5000 && tileOk p && !belowZero b
        && endStatus s3 1 0x5000 (writeSide b) = St.ok
        && areOn s3 (issueDomains 3 s3 (pdLarder :: endDomains s3 1 0x5000 (writeSide b)))
        && storeStarts done (.reduceStore 0x5000 4 0 2 0 0 (some p)) (.block p false false) s s3)) := by
  decide +kernel

theorem test_channel_events :
    (let s := chan3 fun h => { h with halfDue := 2, irqVector := 31 }
     s.wf && followers s 3 = [] && after (.halfEvent 3) s (fun t => (t.chan 3).halfDue = 1 && (t.chan 3).irqPend = 1
      && onlyChan 3 s t))
    && (let s : State := { chan3 fun h => { h with halfDue := 1, irqEn := 1, irqVector := 31 } with msix := [(287, { masked := false })] }
     after (.halfEvent 3) s (fun t => t.outputs = [.msix 1 31]))
    && (let s := chan3 fun h => { h with fullDue := 1 }
     s.wf && after (.fullEvent 3) s (fun t => (t.chan 3).fullDue = 0 && (t.chan 3).irqPend = 2 && onlyChan 3 s t))
    && [3, 15].all (fun n =>
     let s := chan3 fun h => { h with trigSrc := 1, trigPeriod := 100, trigPending := BitVec.ofNat 4 n }
     after (.timerTrigger 3) s (fun t => onlyChan 3 s t && (t.chan 3).trigNext = 100
      && (t.chan 3).trigPending = (if n = 15 then 15 else 4) && (t.chan 3).trigOverrun = decide (n = 15))) := by
  decide +kernel

theorem test_run_and_reset :
    (let s := chan3 fun h => { h with state := .idle, pc := 64, loop1 := 5, srcOff := 6, badCount := 7, oob := 8 }
     fnOpen s 0 && after (.chRun 3) s (fun t => onlyChan 3 s t && (t.chan 3).pc = 64 && (t.chan 3).progBase = 64
      && loopGet (t.chan 3) 1 = 0 && (t.chan 3).srcOff = 0 && (t.chan 3).badCount = 0 && (t.chan 3).oob = 8
      && (t.chan 3).state = .running))
    && after (.chRun 3) (chan3 fun h => { h with state := .idle, pauseBit := true }) (fun t => (t.chan 3).state = .paused)
    && after (.chRun 3) dev (fun t => t = dev)
    && (let s : State := { chan3 fun h => { h with state := .waiting, pc := 64, oob := 8, irqEn := 1 } with
                           waiters := [{ unit := .chan 3, obj := .flag 0 }] }
     fnOpen s 0 && s.wf && after (.chReset 3) s (fun t => t.waiters = [] && t.pantry = s.pantry
      && t.chan 3 = { state := .idle, assigned := true, room := 1 }))
    && after (.chReset 4) dev (fun t => (t.chan 4).state = .unassigned) := by decide +kernel

theorem test_pause :
    [(false, ChState.paused), (true, .pausing)].all (fun r =>
     let s := chan3 fun h => { h with cur := some { opcode := 1, flags := 0, plan := .copy 0 64 8 0, waitRead := r.1 } }
     fnOpen s 0 && underWay (s.chan 3) = r.1 && after (.chPause 3 true) s (fun t => t = s.setChan 3 { s.chan 3 with pauseBit := true, state := r.2 }))
    && (let s : State := { chan3 fun h => { h with state := .waiting } with waiters := [{ unit := .chan 3, obj := .flag 0, deadline := some 9 }] }
     after (.chPause 3 true) s (fun t => (t.chan 3).state = .paused && (t.chan 3).pauseBit && t.waiters.all (·.paused)
      && t.waiters.length = 1 && ({ t with chans := s.chans, waiters := s.waiters } : State) = s))
    && (let s := chan3 fun h => { h with state := .paused, pauseBit := true, pc := 32 }
     after (.chPause 3 false) s (fun t => onlyChan 3 s t && (t.chan 3).state = .running && !(t.chan 3).pauseBit && (t.chan 3).pc = 32))
    && (let s := chan3 fun h => { h with state := .pausing }
     underWay (s.chan 3) = false && after (.channelPaused 3) s (fun t => t = s.setChan 3 { s.chan 3 with state := .paused })) := by
  decide +kernel

theorem test_waits_time_out :
    (let x : Waiter := { unit := .chan 3, obj := .counter 0, target := 1, deadline := some 0 }
     let s : State := { chan3 fun h => { h with state := .waiting, cur := some { opcode := 0x13, flags := 0, plan := .nothing } } with waiters := [x] }
     condHolds s x = false && after (.waitTimeoutExpiry (.chan 3)) s (fun t => t.waiters = [] && (t.chan 3).badCount = 1
      && (fld (t.chan 3).lastErr 0 8 : Byte) = St.waitTimeout && (t.chan 3).pc = 32 && (t.chan 3).cur = none
      && t.counters = s.counters))
    && (let x : Waiter := { unit := .chan 3, obj := .grant 2 0, deadline := some 0 }
     let s : State := { chan3 fun h => { h with state := .waiting, cur := some { opcode := 0x28, flags := 0, plan := .reduceSend 0 4 0 0 2 0 0 } } with waiters := [x] }
     instOf s 2 = none && after (.rdxGrantTimeout 3) s (fun t => t.waiters = [] && (t.chan 3).badCount = 1
      && (fld (t.chan 3).lastErr 0 8 : Byte) = St.waitTimeout && (t.chan 3).pc = 32 && (t.chan 3).cur = none)) := by
  decide +kernel

/-! ### Work entries: the hypotheses; what follows rests on a free value (log entry 8) -/

theorem headReady_of {s : State} {g : Nat} {e : Cached} {rest : List Cached} {t : Target} {b : Int}
    (h : ((s.sq g).cache = e :: rest ∧ mayDispatch (s.sq g) = true ∧ entryStatus s (s.sq g).room.toNat e.word = St.ok
      ∧ (weDropLate e.word && entryLate s e) = false ∧ fenceOk (s.sq g) e = true
      ∧ targetOf s (s.sq g).room.toNat e.word = some t ∧ t ≠ .quota
      ∧ dispatchHeld s (s.sq g).room.toNat e.word t = [] ∧ outranked s g t = false ∧ energyBehind s g = false
      ∧ energyAdmits (s.room (s.sq g).room.toNat) (s.nrg.classes.getD (weClass e.word).toNat 0).toNat = some b)) :
    HeadReady s g e rest t b := h

/-- The device with SQ 2 of Room 1, whose head is the entry; channel 3 is IDLE and the Room has tokens. -/
def queued (w : BitVec 512) (s : State := dev) : State :=
  (chan3 (fun h => { h with state := .idle }) (s.setRoom 1 { s.room 1 with balance := some 6553600, carry := 6553600 })).setSq 2
    { valid := true, room := 1, log2 := 4, fetch := 1, cache := [{ count := 0, turn := 0, word := w }] }
def runEntry : BitVec 512 := wordOf 512 [(0, 1), (16, 1), (144, 255), (192, 0x1000), (256, 1), (320, 15), (328, 31)]
def copyEntry (o : Nat) : BitVec 512 :=
  wordOf 512 [(0, o), (16, 1), (144, 3), (160, if o = 3 then 0 else 8), (192, 0x1000), (256, if o = 3 then 0 else 0x2000),
    (320, if o = 4 then 1 else 0)]

theorem test_channel_entries_pass : HeadReady (queued runEntry) 2 { count := 0, turn := 0, word := runEntry } [] (.chan 3) 5505024
    ∧ weOpcode runEntry = 0x01 := ⟨headReady_of (by decide +kernel), by decide +kernel⟩
theorem test_implicit_entries_pass : ∀ o ∈ [2, 3, 4],
    HeadReady (queued (copyEntry o)) 2 { count := 0, turn := 0, word := copyEntry o } [] (.chan 3) 5505024 := by
  unfold HeadReady; decide +kernel

def studyEntry (o : Nat) : BitVec 512 := wordOf 512 [(0, o), (144, 1), (160, 1), (192, 0x1000), (256, 0x2000), (320, 0x3000), (384, 0x4000)]
def collEntry : BitVec 512 := wordOf 512 [(0, 0x10), (128, 2), (144, 2), (192, 1), (256, 1), (288, 1)]
def ungrouped : State := { dev with groups := [(2, { slot := 0, room := 1, members := 2, rank := 0, kib := 64 })] }

theorem test_study_entries_pass : ∀ o ∈ [8, 9],
    HeadReady (queued (studyEntry o)) 2 { count := 0, turn := 0, word := studyEntry o } [] (.study 0) 6553600 := by
  unfold HeadReady; decide +kernel
theorem test_collective_passes :
    HeadReady (queued collEntry ungrouped) 2 { count := 0, turn := 0, word := collEntry } [] (.group 2) 6553600
      ∧ (groupOf (queued collEntry ungrouped) 2).isSome ∧ weOpcode collEntry = 0x10 ∧ b32 collEntry 32 ≠ 0 := by
  unfold HeadReady; decide +kernel

def nopEntry : BitVec 512 := wordOf 512 [(0, 0x7E), (16, 7)]
def signalEntryWord : BitVec 512 := wordOf 512 [(0, 0x18), (128, 4 * 2 ^ 60 + 4096), (192, 3)]
def waitEntryWord : BitVec 512 := wordOf 512 [(0, 0x19), (128, 4 * 2 ^ 60 + 4096), (256, 1)]

theorem test_engine_entries_pass :
    HeadReady (queued signalEntryWord) 2 { count := 0, turn := 0, word := signalEntryWord } [] .engine 6553600
      ∧ syncTarget (queued signalEntryWord) 1 (b64 signalEntryWord 16) true = .ok (.localCounter 0)
      ∧ HeadReady (queued waitEntryWord) 2 { count := 0, turn := 0, word := waitEntryWord } [] .engine 6553600
      ∧ hasReached ((queued waitEntryWord).counter 0).value (b64 waitEntryWord 32) = false := by
  unfold HeadReady; decide +kernel
/-- A class estimate above the carry cap is admitted at a full balance, which it leaves negative (R455). -/
theorem test_nop_of_the_largest_class_passes : HeadReady (queued nopEntry) 2 { count := 0, turn := 0, word := nopEntry } [] .engine
    (6553600 - 65536 * 65536) ∧ weOpcode nopEntry = 0x7E := by unfold HeadReady; decide +kernel

/-! ### Doorbells, scans, completions, queue timers -/

/-- The device with SQ 2 and CQ 4 of Room 1 in Host memory, and interrupts of the CQ's vector unmasked. -/
def rings (s : State := dev) : State :=
  { (s.setSq 2 { valid := true, room := 1, log2 := 4, cq := 4, base := 0x2000000000001000, prodAddr := 0x2000000000002000 }).setCq 4
      { valid := true, room := 1, log2 := 4, base := 0x2000000000003000, headAddr := 0x2000000000004000
        tailAddr := 0x2000000000005000, irqEn := true, vector := 31, phaseMode := true } with msix := [(287, { masked := false })] }
def hostPoke (a n v : Nat) (s : State) : State := { s with host := mwrite s.host (hostKey 1 a) (leBytes n v) }

theorem test_doorbells : [Page.pf 2, .vf 1 0].all (fun page =>
     let s := (rings).setSq 2 { (rings).sq 2 with cache := [{ count := 0, turn := 0, word := 0 }], fetch := 1 }
     fnOpen s (pageFn page) && pageSq s page = some 2
      && after (.dbSq page) s (fun t => t = s.setSq 2 { s.sq 2 with dbPending := true })
      && after (.dbSqInval page) s (fun t => (t.sq 2).cache = [] && (t.sq 2).fetch = 0 && (t.sq 2).dbPending
        && ({ t with sqs := s.sqs, cqs := s.cqs } : State) = s))
    && [Page.pf 4, .vf 1 0].all (fun page => [0, 1].all fun n =>
     let s := hostPoke 0x4000 4 1 ((rings).setCq 4 { (rings).cq 4 with tail := 1 + BitVec.ofNat 32 n, times := List.replicate (1 + n) 0 })
     pageCq s page = some 4 && hostReach s 1 && after (.dbCqArm page) s (fun t => (t.cq 4).head = 1
      && (t.cq 4).times.length = n && (t.cq 4).armed = decide (n = 0) && t.outputs = (if n = 0 then [] else [.msix 1 31])
      && sameMem s t)) := by decide +kernel

/-- One NOP with a deadline of turn 0, phase 5, that is dropped when late. -/
def dropEntry : BitVec 512 := wordOf 512 [(0, 0x7E), (10, 1), (11, 1), (32, 5), (64, 0x77)]

theorem test_scan_and_drop :
    (let s := hostPoke 0x1000 64 dropEntry.toNat (hostPoke 0x2000 4 1 ((rings).setSq 2 { (rings).sq 2 with dbPending := true }))
     mayScan (s.sq 2) && cqFree (s.cq 4) = 16 && after (.sqScan 2) s (fun t => (t.sq 2).fetch = 1 && (t.sq 2).cons = 0
      && (t.sq 2).cache = [{ count := 0, turn := 0, word := dropEntry }] && !(t.sq 2).dbPending && !(t.sq 2).scanning
      && (t.cq 4).reserved = 1 && ({ t with sqs := s.sqs, cqs := s.cqs } : State) = s))
    && (let e : Cached := { count := 0, turn := 0, word := dropEntry }
     let s : State := { queued dropEntry with cad := { phase := 6 } }
     entryStatus s 1 dropEntry = St.ok && entryLate s e && after (.deadlineDrop 2) s (fun t => (t.sq 2).cache = []
      && (t.sq 2).cons = 1 && (t.sq 2).reports = [{ count := 0, tag := 0x77, status := 1, result := 0, irq := false, opcode := 0x7E }]
      && ({ t with sqs := s.sqs, rooms := s.rooms } : State) = s)) := by decide +kernel

def report : Report := { count := 17, tag := 0x0102030405060708, status := 2, result := 9, irq := false }

theorem test_completion_write :
    [true, false].all (fun ph =>
     let s := ((rings).setSq 2 { (rings).sq 2 with reports := [report] }).setCq 4
      { (rings).cq 4 with tail := 15, head := 15, reserved := 1, phaseMode := ph }
     hostReach s 1 && s.wf && after (.completionWrite 2) s (fun t =>
      mread t.host (hostKey 1 0x31E0) 32 = [8, 7, 6, 5, 4, 3, 2, 1, 0, 0, 1, 0, 2, 1, 0, 0, 9, 0, 0, 0, 0, 0, 0, 0, 0, 0, 0, 0, 0, 0, 0, 0]
      && mread t.host (hostKey 1 0x5000) 4 = (if ph then [0, 0, 0, 0] else [16, 0, 0, 0]) && (t.sq 2).reports = []
      && (t.cq 4).tail = 16 && (t.cq 4).reserved = 0 && !(t.cq 4).phase
      && ({ t with sqs := s.sqs, cqs := s.cqs, host := s.host, outputs := s.outputs } : State) = s))
    && (let s := ((rings).setSq 2 { (rings).sq 2 with reports := [report] }).setCq 4 { (rings).cq 4 with error := true, reserved := 1 }
     after (.completionWrite 2) s (fun t => t = s)) := by decide +kernel

theorem test_queue_timers :
    (let s := (rings).setCq 4 { (rings).cq 4 with armed := true, delayUs := 1, irqCount := 9, times := [0] }
     let u (v : State) : State := { v with g := { v.g with houseTime := 1000 } }
     after (.cqIrqDelay 4) (u s) (fun t => !(t.cq 4).armed && t.outputs = [.msix 1 31]
      && ({ t with cqs := (u s).cqs, outputs := (u s).outputs } : State) = u s)
      && after (.cqIrqDelay 4) (u { s with msix := [] }) (fun t => (tget t.msix {} 287).pending && t.outputs = []))
    && (let s := hostPoke 0x4000 4 1 ((rings).setCq 4 { (rings).cq 4 with headDue := true, tail := 2, times := [0, 0] })
     after (.cqHeadReread 4) s (fun t => (t.cq 4).head = 1 && !(t.cq 4).headDue && (t.cq 4).times.length = 1
      && ({ t with cqs := s.cqs, outputs := s.outputs, msix := s.msix } : State) = s))
    && [(16, true), (17, false)].all (fun x =>
     let s := hostPoke 0x4000 4 1 (((rings).setSq 2 { (rings).sq 2 with scanning := true }).setCq 4
      { (rings).cq 4 with fullStall := true, tail := BitVec.ofNat 32 x.1, reserved := if x.2 then 1 else 0 })
     stalled s 4 && after (.cqHeadReread 4) s (fun t => (t.cq 4).head = 1 && (t.cq 4).fullStall = decide (16 - (x.1 - 1) - (if x.2 then 1 else 0) = 0)
      && ({ t with cqs := s.cqs } : State) = s))
    && (let s := (rings).setSq 2 { (rings).sq 2 with overloadTurns := 1, age := 257 }
     after (.sqOverload 2) s (fun t => t.sq 2 = { s.sq 2 with overloaded := true, overNow := true } && t.pantry = s.pantry)) := by
  decide +kernel

/-! ### Command packets -/

/-- The device with the rings of Rooms 0 and 1 enabled, one packet waiting in each, at house time 5 s. -/
def foyer (s : State := dev) : State :=
  let ring : Ring := { enable := true, prod := 16, cons := 15, replyBase := 0x2000000000006000 }
  { s with rings := [(0, ring), (1, ring)], g := { s.g with houseTime := 5000000000 } }
/-- A packet: opcode, Room, tag 7, and parameters by byte. -/
def packet (o room : Nat) (ps : List (Nat × Nat)) : BitVec 512 :=
  wordOf 512 ([(0, o), (32, room), (64, 7)] ++ ps.map fun x => (8 * x.1, x.2))
/-- A packet stands at CONS of ring k. -/
def post (k : Nat) (p : BitVec 512) (s : State := foyer) : State :=
  { s with host := mwrite s.host (hostKey k (packetSlot (s.ring k))) (leBytes 64 p.toNat) }
/-- The parts of Accepted. -/
def accepts (s : State) (k : Nat) (p : BitVec 512) (o : BitVec 16) : Bool :=
  canTake s k && hostReach s k && ringPacket s k = some p && pktOpcode p = o && pkCheck k p = (St.ok, 0)
theorem accepted_of {s : State} {k : Nat} {p : BitVec 512} {o : BitVec 16} (h : accepts s k p o = true) : Accepted s k p o := by
  simp only [accepts, Bool.and_eq_true, decide_eq_true_eq] at h
  exact ⟨h.1.1.1.1, h.1.1.1.2, h.1.1.2, h.1.2, h.2⟩
/-- The parts of Answers. -/
def answers (k : Nat) (p : BitVec 512) (st : Byte) (d : BitVec 16) (r0 r1 : Word) (s e t : State) : Bool :=
  t = withReply t e && mread t.host (hostKey k 0x61E0) 32 = replyBytes true p st d r0 r1 && (t.ring k).cons = 16
    && !(t.ring k).replyPhase && tdel t.rings k = tdel s.rings k && t.fy.lastOpcode = pktOpcode p
/-- A packet that stands at CONS is accepted and answered OK with results, leaving the effect e. -/
def takes (i : Instr) (k : Nat) (p : BitVec 512) (s : State) (r0 r1 : Word) (e : State) : Bool :=
  let s := post k p s
  accepts s k p (pktOpcode p) && s.wf && after i s (answers k p St.ok 0 r0 r1 s e)

theorem test_queries_answer :
    (let p := packet 1 1 []
     takes (.identify 1 p) 1 p (foyer) (foyer).fy.fwVersion 1 (foyer))
    && (let p := packet 0xF1 0 [(24, 99)]
     takes (.diagEcho 0 p) 0 p (foyer) 99 (fyStateReg { foyer with fy := { (foyer).fy with lastOpcode := 0xF1 } } 0) (foyer))
    && (let p := packet 0xF1 0 [(16, 1)]
     let s := foyer { dev with nrg := { tempMc := 0xFFFFFFFF, peakMc := 5 } }
     takes (.diagTemperature 0 p) 0 p s 0xFFFFFFFFFFFFFFFF 5 s)
    && (let p := packet 0xF1 0 [(16, 2)]
     takes (.diagBuffers 0 p) 0 p (foyer) (BitVec.ofNat 64 (liveBuffers (foyer)).length) (BitVec.ofNat 64 (freePool (foyer))) (foyer))
    && (let p := packet 0xF1 0 [(16, 3), (24, 65)]
     takes (.diagMisuse 0 p) 0 p (foyer) 0 0 (rollMisuse (foyer))) := by decide +kernel

theorem test_rooms_are_set_up :
    (let p := packet 0x10 2 [(16, 64), (17, 64), (18, 128), (19, 16), (20, 4096), (22, 512), (24, 7), (28, 65536)]
     takes (.roomCreate 0 p) 0 p (foyer) 0 0 ((foyer).setRoom 2 {
      state := .active, share := 1, misuseLimit := 256, maxSq := 64, maxCq := 64, maxCh := 128, maxFe := 16, maxFlags := 4096
      maxCounters := 512, maxGranules := 7, maxHandles := 65536 }))
    && (let p := packet 0x14 1 [(16, 65535)]
     takes (.roomShareSet 0 p) 0 p (foyer) 1 0 ((foyer).setRoom 1 { (foyer).room 1 with share := 65535 }))
    && (let p := packet 0x13 0 [(16, 15), (18, 3), (20, 1), (24, 0), (32, 127 * 2 ^ 21)]
     let s := post 0 p (poke 0xFE00000 2 0x0101 (poke 0xFFFFFFF 1 1 (foyer)))
     accepts s 0 p 0x13 && after (.roomWindowSet 0 p) s (fun t => mget t.pantry 0xFE00000 = 0 && mget t.pantry 0xFFFFFFF = 0
      && (t.room 0).windows = [(15, { valid := true, exported := true, pool := true, granules := 1, physGran := 127 })]
      && answers 0 p St.ok 0 0 0 s ((takeGranule 0 false s 127).setRoom 0 (t.room 0)) t)) := by decide +kernel

theorem test_room_reset_runs :
    [(0x12, false), (0x11, true)].all (fun x =>
     let p := packet x.1 1 []
     let i : Instr := if x.2 then .roomDestroy 0 p else .roomReset 0 p
     let s := post 0 p
     longFree s && accepts s 0 p (pktOpcode p) && s.wf && roomGroups s 1 = []
      && after i s (fun t => (t.room 1).state = (if x.2 then .destroying else .resetting) && (t.room 1).admClosed
        && (t.room 1).reset = some { start := 5000000000, destroy := x.2 } && (t.room 0).state = .active
        && t.fy.longs = [{ ring := 0, packet := p, start := 5000000000 }]))
    && [0, 200000].all (fun d =>
     let x : RoomReset := { start := 5000000000 - d, awaited := if d = 0 then [] else [5 * 256] }
     let s := ((foyer).setRoom 1 { (foyer).room 1 with state := .resetting, admClosed := true, reset := some x }).setSq 2
      { valid := true, room := 1, admClosed := true, dbPending := true }
     s.wf && after (.roomResetEnd 1) s (fun t => (t.room 1).state = .active && !(t.room 1).admClosed && (t.room 1).reset = none
      && (t.room 1).resetCount = 1 && (t.room 1).resetNs = BitVec.ofNat 32 d && (t.room 1).resetUnacked = (if d = 0 then 0 else 1)
      && !(t.sq 2).admClosed && !(t.sq 2).dbPending && t.pantry = s.pantry)) := by decide +kernel

/-- Room 1 with a CQ 0 whose local number is 63. -/
def withCq : State := (foyer).setCq 0 { valid := true, room := 1, loc := 63, log2 := 4 }

theorem test_queues_are_defined :
    (let p := packet 0x20 1 [(16, 63), (17, 4), (18, 6), (19, 63), (20, 1), (22, 15), (23, 9), (24, 0x2000000000001000), (32, 0x2000000000002000)]
     takes (.sqCreate 1 p) 1 p withCq 0 0 ((withCq.setSq 0 {
      valid := true, base := 0x2000000000001000, log2 := 4, haltPolicy := true, dbFlagEn := true, dbFlag := 1, cq := 0, room := 1
      loc := 63, overloadTurns := 9, prodAddr := 0x2000000000002000, prio := 15 }).setFlag 1 { withCq.flag 1 with dbSq := some 0 }))
    && (let p := packet 0x20 1 [(16, 0), (17, 16), (18, 1), (19, 63), (24, 0x2000000000400000)]
     after (.sqCreate 1 p) (post 1 p withCq) (fun t => (t.sq 0).valid && (t.sq 0).phaseMode && (t.sq 0).log2 = 16 && (t.sq 0).overloadTurns = 8))
    && (let p := packet 0x22 1 [(16, 0), (17, 16), (18, 3), (19, 31), (22, 500), (24, 0x2000000000400000), (32, 0x2000000000002000)]
     takes (.cqCreate 1 p) 1 p withCq 1 0 (withCq.setCq 1 {
      valid := true, base := 0x2000000000400000, log2 := 16, phaseMode := true, room := 1, loc := 0
      headAddr := 0x2000000000002000, vector := 31, irqEn := true, irqCount := 1, delayUs := 500 }))
    && (let p := packet 0x23 1 [(16, 63)]
     takes (.cqDestroy 1 p) 1 p withCq 0 0 (withCq.setCq 0 {})) := by decide +kernel

theorem test_queues_resume_and_go :
    (let p := packet 0x24 1 [(16, 0)]
     let s := withCq.setSq 2 { valid := true, room := 1, halted := true, latchedValid := true, cons := 9, fetch := 12 }
     takes (.sqResume 1 p) 1 p s 9 0 (invalidate 2 (s.setSq 2 { s.sq 2 with halted := false, latchedValid := false, waitCause := 0 }))
      && after (.sqResume 1 p) (post 1 p s) (fun t => (t.sq 2).fetch = 9 && (t.sq 2).cache = []))
    && (let p := packet 0x21 1 [(16, 0)]
     let s := withCq.setSq 2 { valid := true, room := 1, cache := [{ count := 0, turn := 0, word := 0 }] }
     longFree s && takes (.sqDestroy 1 p) 1 p s 1 0 ((discardCache 2 s).setSq 2 {}) && after (.sqDestroy 1 p) (post 1 p s) (fun t => t.sq 2 = {}))
    && (let p := packet 0x21 1 [(16, 0)]
     let s := post 1 p <| withCq.setSq 2 { valid := true, room := 1, dispatched := [{ count := 5, tag := 9, opcode := 1, late := false, irq := false }] }
     accepts s 1 p 0x21 && after (.sqDestroy 1 p) s (fun t => (t.sq 2).admClosed && (t.sq 2).destroying
      && (t.sq 2).dispatched.length = 1 && t.fy.longs.length = 1)) := by decide +kernel

theorem test_channels_are_assigned :
    (let p := packet 0x30 1 [(16, 127)]
     takes (.channelAssign 0 p) 0 p (foyer) 0 0 (evalWires ((foyer).setChan 127 { room := 1, assigned := true, state := .idle })))
    && (let p := packet 0x31 1 [(16, 3)]
     let s := foyer (chan3 fun h => { h with state := .idle })
     longFree s && takes (.channelRelease 0 p) 0 p s 0 0 (evalWires ((withdrawArrivals 3 s).setChan 3 {}))) := by decide +kernel

/-- Room 1's window is a pool, with a live buffer in slot 0 where asked. -/
def pool (live : Bool) : State :=
  let s := foyer { pooled with pantry := [(0x201000, 7)] }
  if live then setBufSlot 0 { live := some { room := 1, phys := 0x200000, off := 0, granules := 1 } } { s with fy := { s.fy with fresh := 1 } }
  else s

theorem test_buffers :
    (let p := packet 0x40 1 [(16, 1), (20, 255), (22, 1)]
     let s := pool true
     let b := setBufSlot 1 { live := some { room := 1, phys := 0x201000, off := 0x1000, granules := 1 } } { s with fy := { s.fy with fresh := 2 } }
     lowestPlace (places s 1 none 4096 4096) = some (0x1000, 0x201000)
      && takes (.bufAlloc 1 p) 1 p s (makeHandle 1 1 1 1) 0x1000 (scrubZero 0x201000 4096 b))
    && (let p := packet 0x40 1 [(16, 1), (20, 0), (21, 21)]
     after (.bufAlloc 1 p) (post 1 p (pool false)) (fun t => (bufSlot t 0).live = some { room := 1, phys := 0x200000, off := 0, granules := 1 }))
    && (let h := makeHandle 1 0 1 1
     let q := packet 0x42 1 [(16, h.toNat)]
     let f := packet 0x41 1 [(16, h.toNat)]
     let r := packet 0x43 0 [(16, h.toNat)]
     let s := pool true
     (currentBuf s h).isSome && takes (.bufQuery 1 q) 1 q s 0 (BitVec.ofNat 64 (1 + 2 ^ 32)) s
      && takes (.bufFree 1 f) 1 f s 0 0 (releaseSlot 0 s) && after (.bufFree 1 f) (post 1 f s) (fun t => currentBuf t h = none)
      && accepts (post 0 r s) 0 r 0x43 && after (.bufReclaim 0 r) (post 0 r s) (fun t => currentBuf t h = none && (t.ring 0).cons = 16
        && mread t.host (hostKey 0 0x61E0) 32 = replyBytes true r St.ok 0 0 1 && t.pantry = s.pantry)) := by decide +kernel

theorem test_sync_objects_are_mapped :
    (let p := packet 0x50 1 [(16, 1), (17, 1), (18, 510), (20, 2)]
     syncParams p = some (true, 510, 2, true) && lowestFree (usedCounters (foyer)) 0 3 2 = [1, 2]
      && takes (.syncMap 1 p) 1 p (foyer) 2 0 (mapCounters 1 true [(510, 1), (511, 2)] (foyer)))
    && (let p := packet 0x50 1 [(18, 4095), (20, 1)]
     takes (.syncMap 1 p) 1 p (foyer) 1 0 (mapFlags 1 false [(4095, 2)] (foyer)))
    && [0, 1].all (fun c =>
     let p := packet 0x51 1 [(16, c), (18, 0), (20, 2)]
     let s : State := { post 1 p with waiters := [{ unit := .chan 3, obj := if c = 1 then .counter 0 else .flag 1, target := 1 }] }
     accepts s 1 p 0x51 && s.wf && after (.syncUnmap 1 p) s (fun t => (if c = 1 then t.counter 0 = {} else t.flag 0 = {} && t.flag 1 = {})
      && t.waiters = [] && mread t.host (hostKey 1 0x61E0) 32 = replyBytes true p St.ok 0 (if c = 1 then 1 else 2) 1))
    && (let p := packet 0x52 1 [(16, 15), (17, 1), (20, 16), (24, 0x1FFFF0)]
     let new : FeRegion := { off := 0x1FFFF0, len := 16 }
     takes (.feRegionSet 0 p) 0 p (foyer) 0 0 (setTags (regionWords (foyer) 1 new) true
      ((foyer).setRoom 1 { (foyer).room 1 with regions := [(15, new)] }))
      && after (.feRegionSet 0 p) (post 0 p) (fun t => t.tags = [0x7FFFE, 0x7FFFF])) := by decide +kernel

/-- A key record in Room 0's Host memory: key 5, fixed 6, epoch 1, for any partner. -/
def withKey : State := { foyer with host := mwrite [] (hostKey 0 0x1000) (leBytes 64 (5 + 6 * 2 ^ 256 + 1 * 2 ^ 288)) }

theorem test_device_settings :
    [40000, 260000].all (fun cap =>
     let p := packet 0x61 0 [(16, cap)]
     let s := foyer { dev with nrg := { baseMw := 39999 } }
     takes (.powerCapSet 0 p) 0 p s 260000 0 { s with nrg := { s.nrg with capMw := BitVec.ofNat 32 cap } })
    && [(0, 5000000), (2, 25000000000)].all (fun x =>
     let p := packet 0x62 0 [(16, x.1), (17, 3), (24, x.2)]
     takes (.cadenceConfig 0 p) 0 p (foyer) 0 0 (cadConfig (BitVec.ofNat 2 x.1) true true (BitVec.ofNat 40 x.2) (foyer))
      && after (.cadenceConfig 0 p) (post 0 p) (fun t => t.cad.source.toNat = x.1 && t.cad.outEn && t.cad.fallingEdge
        && t.cad.nominalPs.toNat = x.2 && (x.1 ≠ 2 || (t.cad.state = .internal && t.cad.period = x.2 * 65536))))
    && (let p := packet 0x72 0 [(16, 3), (18, 0), (20, 7)]
     takes (.housePolicy 0 p) 0 p (foyer) 0 0 { foyer with house := { hallAllow := true, acceptJoin := true, maxNodes := 1024, settleUs := 7 } })
    && (let p := packet 0x70 0 [(16, 15), (17, 2), (18, 0), (20, 9)]
     takes (.linkConfig 0 p) 0 p (foyer) 0 0 ((foyer).setPort 15 { allow4 := true, attempts := 8, violLimit := 9 }))
    && (let p := packet 0x71 0 [(16, 15), (17, 1), (20, 1), (24, 0x2000000000001000)]
     match loadKey 15 1 { key := 5, fixed := 6, epoch := 1 } 0 { withKey with fy := { withKey.fy with lastOpcode := 0x71 } } with
      | some e => takes (.linkKeyLoad 0 p) 0 p withKey 0 0 e && (e.port 15).rxKey.isSome
      | none => false)
    && (let l (k n : Nat) : StudyLine := { room := k, set := n, gen := 0, addr := 0, data := 0 }
     let s : State := { foyer with study := { cache := [l 1 7, l 1 6, l 0 7] } }
     [(7, [l 1 6, l 0 7]), (255, [l 0 7])].all fun x =>
      let p := packet 0x81 1 [(16, x.1)]
      takes (.studyCacheFlush 0 p) 0 p s 0 0 { s with study := { cache := x.2 } }) := by decide +kernel

/-- The foyer of a House's Hall, with node 5 a member. -/
def hall : State := foyer (housed)

theorem test_long_commands_start :
    (let p := packet 0x60 0 [(16, 16)]
     longFree (foyer) && takes (.powerDomain 0 p) 0 p (foyer) 0 0 (foyer))
    && (let p := packet 0x60 0 [(16, 12), (17, 1)]
     let s := post 0 p
     accepts s 0 p 0x60 && after (.powerDomain 0 p) s (fun t => t.fy.longs = [{ ring := 0, packet := p, start := 5000000000 }]
      && t.domain 12 = { state := .closing, cause := 1, target := .off, requested := 5000000000 }
      && ({ t with domains := s.domains, fy := s.fy, rings := s.rings } : State) = s))
    && (let p := packet 0x73 1 [(16, 2), (18, 2), (20, 24576), (24, 0x2000000000001000)]
     let s := post 0 p { hall with host := mwrite [] (hostKey 0 0x1000) [5, 0, 6, 0], house := { hall.house with members := [0, 5, 6], routes := [(5, 1), (6, 1)] } }
     groupList s p = some [5, 6] && accepts s 0 p 0x73 && s.wf && after (.groupDefine 0 p) s (fun t =>
      t.fy.longs = [{ ring := 0, packet := p, start := 5000000000, awaits := [5, 6], members := [5, 6] }]
      && t.house.groupDefs = [] && (t.ring 0).cons = 15 && (t.ring 1).cons = 15 && sameMem s t))
    && (let p := packet 0x74 0 [(16, 2)]
     let s := post 0 p { hall with house := { hall.house with groupDefs := [(2, { room := 1, members := [5], kib := 1 })] } }
     accepts s 0 p 0x74 && s.wf && after (.groupRelease 0 p) s (fun t =>
      t.fy.longs = [{ ring := 0, packet := p, start := 5000000000, awaits := [5], members := [5] }]
      && t.house.groupDefs = [] && (t.ring 0).cons = 15 && (t.ring 1).cons = 15 && sameMem s t))
    && (let p := packet 0x80 1 [(16, 7), (20, 1), (24, 0), (32, 2 ^ 60), (40, 2 ^ 60), (48, 2 ^ 60)]
     let s := post 0 p
     accepts s 0 p 0x80 && after (.studyLoadTables 0 p) s (fun t => t = startLong 0 p (noteTaken 0 0x80 s)
      && t.fy.longs = [{ ring := 0, packet := p, start := 5000000000 }]))
    && (let p := packet 0xF0 0 [(16, 4096), (24, 0x2000000000001000)]
     let s := post 0 p
     accepts s 0 p 0xF0 && after (.fwUpdate 0 p) s (fun t => t.fy.state = .update
      && t.fy.longs = [{ ring := 0, packet := p, start := 5000000000 }] && (t.ring 0).cons = 15 && (t.ring 1).cons = 15
      && ({ t with fy := s.fy, rings := s.rings } : State) = s)) := by
  decide +kernel

theorem test_long_commands_end :
    (let l : LongCmd := { ring := 1, packet := packet 0x21 1 [(16, 0)], start := 0, awaits := [2], result0 := 3 }
     let s : State := { foyer with fy := { state := .ready, longs := [l] } }
     s.wf && hostReach s 1 && after (.longCommandDone 1) s (fun t => t.fy.longs = [] && (t.ring 1).cons = 16
      && mread t.host (hostKey 1 0x61E0) 32 = replyBytes true l.packet St.ok 0 3 0 && t.sqs = s.sqs && t.pantry = s.pantry))
    && (let l : LongCmd := { ring := 0, packet := packet 0xF0 0 [(16, 4096), (24, 0x2000000000001000)], start := 0 }
     let s : State := { foyer with fy := { state := .update, longs := [l] } }
     s.wf && (match hostGet s 0 0x1000 4096 with | some img => imgVerifies s img = false | none => false)
      && after (.longCommandDone 0) s (fun t => t.fy.longs = [] && t.fy.state = .ready && t.flash = s.flash
      && mread t.host (hostKey 0 0x61E0) 32 = replyBytes true l.packet St.malformed Dt.signature 0 0)) := by decide +kernel

theorem test_refused_packets :
    [(packet 0xFFFF 1 [], St.badOpcode, (0 : BitVec 16)), (packet 0x61 1 [], St.badOpcode, 1), (packet 1 1 [(63, 1)], St.malformed, 6),
     (packet 1 0 [], St.malformed, 1)].all fun x =>
     let i : Instr := if pktOpcode x.1 = 0x61 then .powerCapSet 1 x.1 else .identify 1 x.1
     let s := post 1 x.1
     canTake s 1 && hostReach s 1 && ringPacket s 1 = some x.1 && s.wf && pkCheck 1 x.1 = (x.2.1, x.2.2) && after i s (fun t =>
      mread t.host (hostKey 1 0x61E0) 32 = replyBytes true x.1 x.2.1 x.2.2 0 0 && (t.ring 1).cons = 16
      && (if x.2.2 = 1 && x.2.1 = St.badOpcode then (t.room 1).misuse = 1 else t.rooms = s.rooms)) := by decide +kernel

/-! ### Registers that act -/

theorem test_ring_registers :
    (let s := foyer
     fnOpen s 1 && s.wf && after (.fyCmdEnable 1 0x0100001C) s (fun t => !(t.ring 1).enable && (t.ring 1).irqEn
      && (t.ring 1).log2 = 4 && (t.ring 1).prod = 16 && (t.ring 1).cons = 15 && tdel t.rings 1 = tdel s.rings 1
      && ({ t with rings := s.rings, fy := { t.fy with longs := s.fy.longs } } : State) = s))
    && [(12, 12), (13, 5), (3, 5)].all (fun x =>
     let s := (foyer).setRing 1 { log2 := 5, prod := 3, cons := 2, ringError := true, replyPhase := false }
     after (.fyCmdEnable 1 (BitVec.ofNat 64 (0x100 + x.1))) s (fun t => t.ring 1 = { enable := true, log2 := BitVec.ofNat 4 x.2 }))
    && (let s : State := { foyer with fy := { (foyer).fy with longs := [{ ring := 1, packet := 0, start := 0 }] } }
     after (.fyCmdEnable 1 0) s (fun t => t.fy.longs.all (·.orphan)))
    && (let s := foyer
     after (.fyCmdDoorbell 1 32) s (fun t => (t.ring 1).badProd && (t.ring 1).prod = 16 && (t.ring 1).cons = 15)
      && (let u : State := { s with fy := { s.fy with state := .boot } }
      after (.fyCmdDoorbell 1 31) u (fun t => (t.ring 1).prod = 31 && ({ t with rings := u.rings } : State) = u))) := by decide +kernel

theorem test_log_registers :
    [(3, 4), (4, 4), (16, 16), (17, 4)].all (fun x =>
     let s : State := { foyer with audit := { irqSev := 3, tail := 3, head := 2, lost := 5, seq := 6, error := true } }
     fnOpen s 0 && s.wf && after (.fyAuditEnable (BitVec.ofNat 64 (0x100 + x.1))) s (fun t => ({ t with audit := s.audit } : State) = s
      && t.audit.enable && t.audit.log2.toNat = x.2 && t.audit.tail = 0 && t.audit.head = 0 && !t.audit.error
      && t.audit.lost = 5 && t.audit.seq = 6))
    && (let s : State := { foyer with audit := { irqSev := 3, tail := 16, full := true } }
     after (.fyAuditHeadWrite 0) s (fun t => t = s)
      && after (.fyAuditHeadWrite 1) s (fun t => t = { s with audit := { s.audit with head := 1, full := false } })
      && after (.fyAuditHeadWrite 17) s (fun t => t = { s with audit := { s.audit with badHead := true } }))
    && [(4, 4), (16, 16), (17, 4)].all (fun x =>
     let s := (foyer).setLog 1 { tail := 3, head := 2, error := true, vector := 7 }
     fnOpen s (fltBar s 1) && after (.fltEnable 1 (BitVec.ofNat 64 (0x20_1700 + x.1))) s (fun t => ({ t with logs := s.logs } : State) = s
      && (t.log 1).enable && (t.log 1).irqEn && (t.log 1).irqSev = 5 && (t.log 1).log2.toNat = x.2 && (t.log 1).vector = 7
      && (t.log 1).tail = 0 && !(t.log 1).error))
    && (let s := (foyer).setLog 1 { enable := true, tail := 16, full := true }
     after (.fltHeadWrite 1 1) s (fun t => t = s.setLog 1 { enable := true, tail := 16, head := 1 })
      && after (.fltHeadWrite 1 17) s (fun t => t = s.setLog 1 { enable := true, tail := 16, full := true, badHead := true }))
    && [false, true].all (fun m =>
     let s : State := { (foyer).setLog 1 { irqDue := true, vector := 31 } with msix := [(287, { masked := m, data := 1 })] }
     after (.fltIrqCoalesce 1) s (fun t => !(t.log 1).irqDue && (t.log 1).sentUs = 5000001 && (tget t.msix {} 287).pending = m
      && t.outputs = (if m then [] else [.msix 1 31]) && ({ t with logs := s.logs, outputs := s.outputs, msix := s.msix } : State) = s))
    && (let s := ((foyer).setLog 1 { workMs := 5000, workThisMs := 4 }).setLog 2 { workMs := 4999, workThisMs := 4 }
     after .workRecordWindow s (fun t => (t.log 1).workThisMs = 4 && (t.log 2).workThisMs = 0))
    && (let s := (foyer).setRoom 1 { (foyer).room 1 with misuse := 4 }
     after .misuseWindow s (fun t => (t.room 1).misuse = 0 && t.fy.misuseSec = 5)
      && (let u : State := { s with fy := { s.fy with misuseSec := 5 } }
      after .misuseWindow u (fun t => t = u))) := by decide +kernel

theorem test_register_accesses :
    (let s := dev
     regNow s .pf 0x58 = .reserved && fnOpen s 0 && after (.registerWrite .pf 0x58 .full 5) s (fun t => t = s)
      && after (.rcRegisterRead .pf 0x58 .low) s (fun t => t = s.emit (.readData 0)))
    && [0x18000, 0x30100, 0x30500, 0x700100, 0x800000, 0x801000, 0x900000, 0xF01000, 0x600060].all (fun o =>
     regNow dev .pf o ≠ .reserved && after (.registerWrite .pf (BitVec.ofNat 26 o) .full 0xFFFFFFFFFFFFFFFF) dev (fun t => t = dev))
    && (regNow dev .pf 0x40408 = .arb 4 1 && after (.registerWrite .pf 0x40408 .low 0x1_0000_0009) dev (fun t => t = dev.setArb 4 { starveLimit := 9 }))
    && (regNow dev .pf 0x208F8 = .slot 255 && after (.registerWrite .pf 0x208F8 .full 0x141) dev (fun t => t = { dev with cad := { weights := [(255, 0x41)] } }))
    && (let s : State := { dev with err := { pantryCorr := 3, pantryUncorr := 4 } }
     regNow s .pf 0x50010 = .err 2 && after (.rcRegisterRead .pf 0x50010 .full) s (fun t => t = ({ s with err := {} }).emit (.readData 0x4_0000_0003))
      && after (.rcRegisterRead .pf 0x50010 .low) s (fun t => t = ({ s with err := { pantryUncorr := 4 } }).emit (.readData 3)))
    && [(0, 2, true), (4, 8, false), (0, 16, false)].all (fun x =>
     accessOk x.1 x.2.1 = false && after (.malformedRegAccess .pf (BitVec.ofNat 26 x.1) x.2.1 x.2.2) dev (fun t => t.audit.seq = 1
      && t.outputs = (if x.2.2 then [] else [.readData 0]))
      && after (.malformedRegAccess .pf (BitVec.ofNat 26 (0x58 + x.1)) x.2.1 x.2.2) dev (fun t => t.audit.seq = 0))
    && (let s : State := { poke 0x200008 8 0x0807060504030201 dev with dbgFeAddr := 0x40001, tags := [0x40001] }
     quadOpen s (dbgAddr s) && after (.dbgFeRead false) s (fun t => t.outputs = [.readData 0x0807060504030201] && sameMem s t && t.tags = s.tags)
      && after (.dbgFeRead true) s (fun t => match t.outputs with | [.readData v] => v.getLsbD 0 | _ => false)) := by decide +kernel

theorem test_acting_registers :
    (let s : State := { dev with g := { dev.g with irqMask := 0x3, irqStatus := 0x5 }, msix := [(0, { masked := false })] }
     after (.irqMaskWrite .low 0xFFFF0E00) s (fun t => t.g.irqMask = 0xFFFF0000 && t.outputs = [.msix 0 0]))
    && (let s := dev.setPort 15 { state := .quarantined, violMs := 70 }
     after (.quarantineClear 15) s (fun t => (t.port 15).state = .clear && (t.port 15).violMs = 0)
      && after (.quarantineClear 14) s (fun t => t = s))
    && (let s (mc : BitVec 32) : State := { dev with nrg := { tripped := true, tempMc := mc } }
     after .trippedClear (s 99999) (fun t => !t.nrg.tripped) && after .trippedClear (s 100000) (fun t => t.nrg.tripped))
    && after (.baseMwWrite 259999) dev (fun t => t.nrg.baseMw.toNat = 259999)
    && after (.baseMwWrite 260000) dev (fun t => t.nrg.baseMw.toNat = 60000 && t.audit.seq = 1)
    && after (.portRetrain 0) dev (fun t => t = dev)
    && after (.portRetrain 0) (dev.setPort 0 { state := .secure, queue := [.ctrl []] }) (fun t => (t.port 0).state = .retrain
      && (t.port 0).queue = []) := by decide +kernel

theorem test_sync_views :
    (let s := dev
     s.wf && flagPhys s 1 1 = some 1 && after (.vwFlagWrite 1 1 true) s (fun t => t = s.setFlag 1 { s.flag 1 with value := true, last := lastSignal s 3 0 0 })
      && after (.vwAddWrite 1 0 .low 0x1_0000_0002) s (fun t => t = s.setCounter 0 { s.counter 0 with value := 2, last := lastSignal s 3 0 0 })
      && [(511, RegHalf.full, 1), (0, .full, 0), (0, .full, 0x1_0000_0001), (0, .high, 1)].all fun x =>
        after (.vwAddWrite 1 (BitVec.ofNat 9 x.1) x.2.1 (BitVec.ofNat 64 x.2.2)) s fun t => (t.log 1).seq = 1 && t.counters = s.counters)
    && after (.syValueWrite 9 true) dev (fun t => t = dev)
    && after (.syValueWrite 1 true) dev (fun t => t = dev.setFlag 1 { dev.flag 1 with value := true, last := lastSignal dev 5 0 0 })
    && after (.ctAddWrite 0 .full 0xFFFFFFFF) dev (fun t => t = dev.setCounter 0 { dev.counter 0 with value := 0xFFFFFFFF, last := lastSignal dev 5 0 0 })
    && after (.ctAddWrite 0 .full 0) dev (fun t => t.audit.seq = 1 && t.counters = dev.counters)
    && [false, true].all (fun hi =>
     let s := dev.setWire 31 { room := 1, enable := true, gen := 4, arrivedLo := 8 }
     after (.bwMaskWrite 31 hi .full 8) s (fun t => if hi then t = s.setWire 31 { s.wire 31 with maskHi := 8 }
      else t.wire 31 = { room := 1, enable := true, gen := 5, maskLo := 8 }))
    && (let s : State := { dev.setWire 31 { room := 1, enable := true, gen := 4, arrivedLo := 8, maskLo := 40 } with
                           waiters := [{ unit := .chan 3, obj := .wire 31, target := 4 }] }
     after (.bwEnableClear 31) s (fun t => !(t.wire 31).enable && (t.wire 31).arrivedLo = 0 && (t.wire 31).gen = 4 && t.waiters = []))
    && (let x : Waiter := { unit := .chan 3, obj := .remote 5 (4 * 2 ^ 60 + 1), addr := 4 * 2 ^ 60 + 1, polled := some 0 }
     let s : State := { housed with waiters := [x] }
     egress s 5 = some 1 && after (.remotePoll (.chan 3)) s (fun t => t.polls = 1 && t.waiters = [{ x with polled := some 8000 }]
      && (t.port 1).queue = [.msg (Msg.pack { waitMsg 0x0D 1 5 x with src := 0 })]
      && ({ t with ports := s.ports, waiters := s.waiters, polls := s.polls } : State) = s)) := by decide +kernel

/-! ### Resets, boot, functions -/

/-- What a device reset leaves, as far as a test can see it. -/
def resetBy (src : BitVec 3) (s t : State) : Bool :=
  t.g.lastReset = src && t.g.devResets = s.g.devResets + 1 && t.g.houseTime = s.g.houseTime && t.g.scratch = s.g.scratch
    && t.g.devState = .init && t.fy.state = .reset && t.rooms = [] && t.chans = [] && t.rings = [] && t.cad = {}
/-- The device at 9 ns, with a scratch value. -/
def aged : State := { dev with g := { dev.g with houseTime := 9, scratch := 7, devResets := 2 } }

theorem test_device_resets :
    fnOpen aged 0 && after (.deviceResetRequest 0xA501) aged (fun t => resetBy 4 aged t && t.pcie = { bme := [0], mse := [0] })
    && after (.deviceResetRequest 0xA401) aged (fun t => t.audit.seq = 1 && t.rooms = aged.rooms)
    && after .pcieHotReset aged (fun t => resetBy 2 aged t && t.pcie = {})
    && after .pfFlr aged (fun t => resetBy 3 aged t && t.pcie = {})
    && after .refclkPcieLoss aged (fun t => resetBy 2 aged t && !t.pcie.linkUp && !t.pins.refclkPcie)
    && after .perstNAssert aged (fun t => resetBy 1 aged t && !t.g.initStarted && !t.pcie.linkUp && !t.pins.perstN)
    && (let s : State := { aged with pins := { aged.pins with perstN := false, refclkPcie := false }, pcie := { linkUp := false } }
     after .perstNDeassert s (fun t => t.pins = {} && t.g.initStarted && t.pcie = {} && t.rooms = s.rooms)) := by decide +kernel

theorem test_power :
    (let s : State := { aged with pins := { aged.pins with pwrgd := false } }
     after .pwrgdRise s (fun t => t.pins = {} && t.g = {} && t.side = {} && t.rooms = []))
    && after .pwrgdFall aged (fun t => !t.pins.pwrgd && !t.g.powered && t.pcie = { linkUp := false } && t.rooms = [])
    && after .refclkSysLoss aged (fun t => !t.pins.refclkSys && !t.g.powered && alertLow t && t.rooms = [])
    && (let s : State := { aged with pins := { aged.pins with refclkSys := false } }
     after .refclkSysRestored s (fun t => t.pins = {} && t.g.powered && t.g.houseTime = 0)) := by decide +kernel

/-- The device in BOOT, with Room 0 not made yet. -/
def booting (sel : Bool) : State :=
  { dev with g := { dev.g with devState := .boot, bootSel := sel, rollback := 1 }, fy := { state := .boot }, rooms := [] }

/-- The first 272 bytes of an image of version 2 and UPDATE_SEQ 4 with a body of 4,096 zeros, signed with the private key 1,
worked out with another program. -/
def imageHead : List Byte := leBytes 272
  (0x51ff96429445c7abac2f4336fb2854c7b5d3fb3f3e9ae5c0000000040000100000020000000000000000000157464c4f
    + 0x9ba78b623b1d6e74ad20f31ec7b18e37058bbe22ca87aa0474d7a82acfae1e4a35566fa1f709685864fc4eef4f7c735f * 2 ^ 384
    + 0x149a28bd1df4f829dc9292bf989e5d6f2c26964ade1736b70a7672385e543a6c2955bf5df20255382a5482e041f75998 * 2 ^ 768
    + 0x74ad20f31ec7b18e37058bbe22ca87aa000000000000005f0eea907c1d437a9d817e1dceb1600ac0b8f0b51331dae97c * 2 ^ 1152
    + 0x59b733c28f9db728a07c2d82a6e61164b70a7672385e543a6c2955bf5df20255382a5482e041f759989ba78b623b1d6e * 2 ^ 1536
    + 0x17ef8d3d2333fab02075f556aef48a25207d082aa20d79df338f985474a88725 * 2 ^ 1920)
/-- The fused hash of its public key. -/
def imageKey : BitVec 384 :=
  0x1dd5e1afb0969cd83edacd4c19820fc9a05bb4f440a2f442388caffb48d02f21e50d135a70067686edf9b71224264f8c#384
def signedImage : List Byte := imageHead ++ List.replicate 7920 0

theorem image_body : imgBytes signedImage 24 48 = sha384 (signedImage.drop 4096) := by decide +kernel

theorem image_signature : (leNat (sha384 (imgBytes signedImage 72 97)) = imageKey.toNat
    && ecdsaOk (ecUncompress (imgBytes signedImage 72 97)) (sha384 (signedImage.take 20 ++ imgBytes signedImage 24 152))
      (beNat (imgBytes signedImage 176 48)) (beNat (imgBytes signedImage 224 48))) = true := by decide +kernel

theorem image_fields : (imgLenOk signedImage && imgN signedImage 0 4 = 0x57464C4F && imgN signedImage 4 2 = 1
    && imgZero signedImage 6 8 && imgZero signedImage 169 176 && imgZero signedImage 272 4096) = true := by decide +kernel

theorem image_verifies {s : State} (h1 : s.g.keyHashSet = true) (h2 : s.g.keyHash = imageKey) :
    imgVerifies s signedImage = true := by
  have f := image_fields
  simp only [imgVerifies, imgSigned, h1, h2, image_signature, ← image_body, Bool.true_and, Bool.and_true, decide_true]
  exact f

theorem mread_empty (a n : Nat) : mread [] a n = List.replicate n 0 := by
  induction n generalizing a with
  | zero => rfl
  | succ n ih => rw [mread, ih]; rfl

theorem mread_add (m : List Host.Cell) (a n k : Nat) : mread m a (n + k) = mread m a n ++ mread m (a + n) k := by
  induction n generalizing a with
  | zero => simp [mread]
  | succ n ih => rw [Nat.succ_add, mread, mread, ih, Nat.add_right_comm]; rfl

theorem image_stored : mread (mwrite [] 0 imageHead) 0 8192 = signedImage := by
  have l : imageHead.length = 272 := by decide +kernel
  have h := mread_mwrite (m := []) 0 imageHead rfl
  rw [l] at h
  rw [show 8192 = 272 + 7920 from rfl, mread_add, signedImage, h, mread_mwrite_out _ (.inr (by omega)), mread_empty]

theorem image_part (i n : Nat) (h : i + n ≤ 8192) :
    mread (mwrite [] 0 imageHead) i n = (signedImage.drop i).take n := by
  have e : 8192 = i + (n + (8192 - i - n)) := by omega
  rw [← image_stored, e, mread_add, mread_add, List.drop_left' (by simp), Nat.zero_add, List.take_left' (by simp)]

/-- A device whose loader finds a signed image in half 0 and in the Pantry, and nothing in half 1. -/
def signed (sel : Bool) : State :=
  { booting sel with flash := mwrite [] 0 imageHead, pantry := mwrite [] 0 imageHead
                     g := { (booting sel).g with keyHashSet := true, keyHash := imageKey } }

/-- The hypotheses of a boot from half 0 are met. -/
theorem test_boot_picks : (signed false).g.devState = .boot
    ∧ (signed false).g.bootSel = false ∧ (signed false).house.parked = []
    ∧ bootChoice (halfSeq (signed false) 0) (halfSeq (signed false) 1) (halfVerifies (signed false) 0 true)
        (halfVerifies (signed false) 1 true) = some false := by
  have f : (signed false).flash = mwrite [] 0 imageHead := by simp only [signed]
  have e : halfImage (signed false) 0 = signedImage := by
    have n : leNat ((signedImage.drop 16).take 4) = 4096 := by decide +kernel
    rw [halfImage, f, show halfAt 0 + 16 = 16 from rfl, image_part 16 4 (by decide), n,
      show 4096 + min 4096 16773120 = 8192 by decide, show halfAt 0 = 0 from rfl, image_stored]
  have v : halfVerifies (signed false) 0 true = true := by
    have r : decide ((signed false).g.rollback ≤ secVersion (imgVersion signedImage)) = true := by decide +kernel
    rw [halfVerifies, e, image_verifies rfl rfl, r]
    rfl
  have s0 : halfSeq (signed false) 0 = 4 := by
    have n : (BitVec.ofNat 32 (leNat ((signedImage.drop 20).take 4)) : Half) = 4 := by decide +kernel
    rw [halfSeq, f, show halfAt 0 + 20 = 20 from rfl, image_part 20 4 (by decide), n]
  have s1 : halfSeq (signed false) 1 = 0 := by
    rw [halfSeq, f, mread_mwrite_out [] (.inr (by decide +kernel)), mread_empty]
    rfl
  refine ⟨rfl, rfl, rfl, ?_⟩
  rw [s0, s1, v, bootChoice, show decide (0 < ((0 : Half) - 4).toInt) = false by decide]
  rfl

theorem test_recovery_load_runs : fnOpen (signed true) 0 = true ∧ (signed true).house.parked = []
    ∧ mailboxResult { signed true with g := { (signed true).g with scratch := 0xB000000000002000 } } 8192
      = (0x5C, imgVersion signedImage) := by
  refine ⟨by decide +kernel, rfl, ?_⟩
  have f : (imgLenOk signedImage && !decide (secVersion (imgVersion signedImage) < 1)) = true := by decide +kernel
  simp only [Bool.and_eq_true, Bool.not_eq_true'] at f
  have v := image_verifies (s := { signed true with g := { (signed true).g with scratch := 0xB000000000002000 } }) rfl rfl
  have p : { signed true with g := { (signed true).g with scratch := 0xB000000000002000 } }.pantry
    = mwrite [] 0 imageHead := by simp only [signed]
  have r : { signed true with g := { (signed true).g with scratch := 0xB000000000002000 } }.g.rollback = 1 := rfl
  rw [mailboxResult, p, image_stored, f.1, v, r]
  simp only [of_decide_eq_false f.2]
  rfl

theorem test_boot_choice : [(4, 5, true, true, some true), (5, 5, true, true, some false), (0, 0xFFFFFFFF, true, true, some false),
    (4, 5, true, false, some false), (5, 4, false, true, some true), (4, 5, false, false, none)].all (fun x =>
      bootChoice x.1 x.2.1 x.2.2.1 x.2.2.2.1 = x.2.2.2.2) := by decide

theorem test_boot :
    [0, 1].all (fun lr =>
     let s : State := { poke 0 1 5 State.reset with pins := { strapBootSel := true, strapClaimPrio := 9 }, g := { lastReset := lr } }
     after .initComplete s (fun t => t.g.devState = .boot && t.g.bootSel && t.g.claimPrio = 9 && t.fy.state = .boot
      && t.pantry = (if lr = 0 then [] else s.pantry)))
    && after .initComplete dev (fun t => t = dev) && after (.bootComplete true true) dev (fun t => t = dev)
    && (let s := booting false
     halfVerifies s 0 true = false && halfVerifies s 1 true = false && after (.bootComplete true true) s (fun t => t.g.devState = .foyerDown
      && t.fy.state = .bootFail && t.rooms = s.rooms && t.flash = s.flash))
    && (let s := booting true
     fnOpen s 0 && after (.recoveryLoad 0xB000000000001FFF) s (fun t => t.g.scratch = 0xE300000000001FFF
      && ({ t with g := { t.g with scratch := s.g.scratch } } : State) = s)
      && after (.recoveryLoad 5) s (fun t => t = { s with g := { s.g with scratch := 5 } }))
    && (let s : State := { dev with pcie := {} }
     after (.recoveryLoad 5) s (fun t => t = s.emit .unsupported)
      && after (.foyerRestartRequest 0xA502) s (fun t => t = s.emit .unsupported))
    && after (.foyerRestartRequest 0xA502) dev (fun t => t = { dev with fy := { dev.fy with restart := true }, g := { dev.g with foyerRestarts := 1 } })
    && after (.foyerRestartRequest 0xA502) (booting true) (fun t => t = booting true)
    && (let s : State := { dev with fy := { dev.fy with restart := true } }
     after .foyerReboot s (fun t => t.fy.state = .boot && !t.fy.restart && t.g.devState = .boot)
      && (let u : State := { s with fy := { s.fy with longs := [{ ring := 0, packet := 0, start := 0 }] } }
      after .foyerReboot u (fun t => t = u))) := by decide +kernel

theorem test_function_events :
    after (.vfBmeClear 1) dev (fun t => t = { dev with pcie := { dev.pcie with bme := [0] } })
    && after (.vfMseClear 1) dev (fun t => t = { dev with pcie := { dev.pcie with mse := [0] } })
    && (let s : State := { dev with pcie := { dev.pcie with ats := [hostPage 1 0x1000, hostPage 1 0x2000, hostPage 2 0x1000] } }
     after (.atsInvalidation ⟨1, 0x1FFF, 1⟩) s (fun t => t = { s with
      outputs := [.atsComplete 1], pcie := { s.pcie with ats := [hostPage 1 0x2000, hostPage 2 0x1000] } }))
    && fnExists dev 3 = false && after (.vfFlr 3) dev (fun t => t = dev)
    && (let s := foyer
     s.wf && fnExists s 1 && after (.vfFlr 1) s (fun t => (t.room 1).state = .resetting && (t.room 1).admClosed
      && (t.room 1).reset = some { start := 5000000000 } && t.ring 1 = {} && t.pcie = { s.pcie with bme := [0] }))
    && after (.vfDisable 2) dev (fun t => t = dev)
    && after (.vfDisable 0) dev (fun t => t.pcie.numVfs = 0 && !t.pcie.vfEnable && t.pcie.bme = [0] && t.pcie.mse = [0]
      && (t.room 1).state = .destroying)
    && (let s : State := { dev with pcie := { dev.pcie with linkUp := false } }
     after (.configRequest 0 4 false 0) s (fun t => t = s))
    && (let s : State := { dev with g := { dev.g with devState := .init } }
     after (.configRequest 0 4 false 0) s (fun t => t = s.emit .configRetry))
    && after (.configRequest 3 4 false 0) dev (fun t => t = dev.emit .unsupported)
    && fnExists dev 0 && fnExists dev 1 && after (.configRequest 1 4 false 0) dev (fun t => t.outputs.length = 1)
    && after (.configRequest 0 0x048 true 0x40) dev (fun t => t = { dev with pcie := { dev.pcie with mps := 512 } })
    && after (.configRequest 1 4 true 2) dev (fun t => t.pcie.mse = [0, 1] && t.pcie.bme = [0]
      && ({ t with pcie := dev.pcie } : State) = dev) := by decide +kernel

theorem high_half (a c : BitVec 32) : fld ((a &&& 0xFFFF#32) ||| c) 16 16 = fld c 16 16 := by
  apply BitVec.eq_of_getLsbD_eq
  intro i hi
  simp [fld, hi]
  intro h1 h2
  have h : ∀ j : Fin 16, (0xFFFF#32).getLsbD (16 + j) = false := by decide
  have := h ⟨i, hi⟩
  simp_all

/-- Device ID 0x0250 of the PF and 0x0251 of a VF (R18). -/
theorem test_device_ids : fld (configRead dev 0 0) 16 16 = 0x0250#16 ∧ fld (configRead dev 1 0) 16 16 = 0x0251#16 :=
  ⟨(high_half _ _).trans (by decide), (high_half _ _).trans (by decide)⟩

/-! ### The aperture and completions -/

theorem test_aperture :
    (let s := poke 0x3FFFFFC 4 0x55555555 dev
     fnOpen s 0 && s.wf && quadOpen s 0x3FFFFFC && after (.bar2Write 0x3FFFFFC [1, 2, 3, 4] [true, false, true, false]) s (fun t =>
      mread t.pantry 0x3FFFFFC 4 = [1, 0x55, 3, 0x55]
      && ({ t with pantry := s.pantry, tags := s.tags, domains := s.domains } : State) = s)
      && after (.bar2Write 0x3FFFFFC [1, 2, 3, 4] [true, true, true, true]) { s with bar2Cut := some 2 } (fun t =>
        mread t.pantry 0x3FFFFFC 4 = [1, 2, 0x55, 0x55] && t.bar2Cut = none))
    && (let s := poke 0xFFFFFFF 1 7 dev
     after (.bar2Read 0xFFFFFFF 1) s (fun t => t.outputs = [.bar2Data [7] false] && sameMem s t)
      && after (.bar2Read 0xFFFFFFF 2) s (fun t => t.outputs = [.bar2Data [0, 0] false] && t.audit.seq = 1)
      && (let u := s.setDomain 6 { state := .off }
      after (.bar2Read 0xFFFFFFF 1) u (fun t => t.outputs = [.completerAbort] && t.audit.seq = 1)))
    && (let s : State := { dev with larder := [(24 * 2 ^ 20 - 1, 9)] }
     after (.bar2Read 0x117FFFFF 1) s (fun t => t = s.emit (.bar2Data [9] false))
      && after (.bar2Read 0x11800000 1) s (fun t => t.outputs = [.bar2Data [0] false] && t.audit.seq = 1)) := by decide +kernel

theorem test_completions :
    (let r : HostRead := { room := 1, chan := 3, addr := 0x40, len := 4, pc := 0 }
     let m := moving (.copy (2 * 2 ^ 60 + 0x40) 0x1000 4 0) 4 0 (.move (2 * 2 ^ 60 + 0x40) 0x1000 4)
     let s : State := { chan3 (fun h => { h with cur := h.cur.map fun q => { q with stage := .reading, waitRead := true } }) m with hostReads := [r] }
     let h (n : Nat) (bs : List Byte) : State := { s with host := mwrite s.host (hostKey 1 0x40) bs, hostReads := if n = 0 then [] else [{ r with addr := 0x44 - n, len := n }] }
     after (.pcieCompletion 1 0x40 [1, 2, 3] true) s (fun t => t = setCur 3 (fun q => { q with staged := [(0x40, [1, 2, 3])] }) (h 1 [1, 2, 3]))
      && after (.pcieCompletion 1 0x40 [1, 2, 3, 4] true) s (fun t => t = readArrived 3 0x40 [1, 2, 3, 4] (h 0 [1, 2, 3, 4])
        && (t.chan 3).cur.map (fun q => (q.stage, q.waitRead)) = some (.writing, false)
        && (t.chan 3).cur.map (·.toWrite) = some [wholeRun 0x1000 [1, 2, 3, 4]])
      && after (.pcieCompletion 1 0x40 [0] false) s (fun t => t.hostReads = [] && (fld (t.chan 3).lastErr 0 8 : Byte) = St.busError
        && (t.chan 3).cur = none && (t.chan 3).badCount = 1 && t.larder = s.larder))
    && (let s : State := { chan3 inFlight with proofs := [(1, 3)] }
     after (.pcieCompletion 1 0 [] true) dev (fun t => t = dev)
      && after (.pcieCompletion 1 0 [] true) s (fun t => t = arrive1 3 .host { s with proofs := [] } && (t.chan 3).flights = [])
      && canTake s 1 = false && after (.pcieCompletion 1 0 [] false) s (fun t => t = failFlight 3 .host St.busError { s with proofs := [] }
        && (t.chan 3).badCount = 1))
    && (let s := post 1 (packet 1 1 [])
     canTake s 1 && packetSlot (s.ring 1) = 0x3C0 && after (.pcieCompletion 1 0x3C0 [] false) s (fun t => (t.ring 1).ringError
      && (t.ring 1).cons = 15 && (t.ring 1).prod = 16 && t.pantry = s.pantry && t.rooms = s.rooms)) := by decide +kernel

/-! ### Arbiters, upkeep, Cadence, domains -/

theorem test_arbiters :
    fnOpen dev 0 && dev.wf
    && after (.arbMapWrite 4 .full 0xF0123456789ABCDE) dev (fun t => t = dev.setArb 4 { map := 0xF0123456789ABCDE })
    && after (.arbMapWrite 4 .low 0x76543201) dev (fun t => t = dev.setArb 4 { map := 0xFEDCBA9876543201 })
    && after (.arbMapWrite 4 .high 0x0) dev (fun t => t.arbs = [] && t.audit.seq = 1)
    && (let s : State := { dev with arbs := [(0, { starved := 0x18 })], arbiters := [(63, { requests := 8, waits := [(3, 9), (4, 8)], flagged := [3, 4] })] }
     s.wf && after (.arbStarvedClear 0 8) s (fun t => (t.arb 0).starved = 0x10 && (t.arbiter 63).flagged = [4]
      && tget (t.arbiter 63).waits 0 3 = 0 && tget (t.arbiter 63).waits 0 4 = 8
      && ({ t with arbs := s.arbs, arbiters := s.arbiters } : State) = s)
      && after (.arbStarvedClear 0 0x20) s (fun t => t.arbiters = s.arbiters))
    && (let s : State := { dev with arbiters := [(2, { owner := some 3, requests := 0x18 })] }
     s.wf && after (.arbDecision 2 0x18 5) s (fun t => (t.arbiter 2).owner = some 3 && tget (t.arbiter 2).waits 0 4 = 5)
      && after (.arbDecision 2 0x2C00 5) s (fun t => (t.arbiter 2).owner = some 13)
      && after (.arbDecision 2 0x8008 5) s (fun t => (t.arbiter 2).owner = some 15 && (t.arb 0).preempts = 1)
      && after (.arbDecision 2 0 5) s (fun t => (t.arbiter 2).owner = none))
    && (let s := prepared (moving (.copy 0xFFE 0x3000 5 0) 5 0 (.move 0xFFE 0x3000 5))
     (wants s 3).all (fun x => moverRequests s x.1 = 1 <<< x.2 && after (.arbDecision (Fin.ofNat 68 x.1) 0 5) s fun t =>
      (t.arbiter x.1).owner = some x.2))
    && (let s : State := { dev with arbs := [(4, { starveLimit := 7 })], arbiters := [(67, { waits := [(12, 8)] })] }
     s.wf && after (.arbStarvation 67 12) s (fun t => (t.arb 4).starved = 0x1000 && (t.arb 4).starvedCode = 12 && (t.arb 4).starvedGroup = 0
       && (t.arbiter 67).flagged = [12] && t.audit.seq = 1)
      && after (.arbStarvation 67 11) s (fun t => t = s))
    && (let s : State := { dev with arbs := [(0, { holdEn := true })], arbiters := [(63, { owner := some 1, requests := 0x42, hold := 0x1E8481 })] }
     s.wf && holdWatched 63 1 0 s && after (.holdWatchdogCut 63 0) s (fun t => (t.arb 0).held = 2 && (t.arb 0).heldCode = 1
       && (t.arb 0).cuts = 1 && (t.arbiter 63).owner = some 6)) := by decide +kernel

theorem test_upkeep :
    (let s : State := { dev with g := { dev.g with houseTime := 100000 }, err := { scrubPos := [0, 16383, 0, 0] } }.setDomain 3 { state := .retain }
     after (.scrubBurst 2 [2097151, 5]) s (fun t => t.err.scrubPos = [0, 0, 1, 1] && t.err.pantryCorr = 2 && t.err.scrubLast = 100000
       && t.pantryUe = [2097151] && t.err.pantryUncorr = 1 && sameMem s { t with host := [] })
      && after (.scrubBurst 2 []) dev (fun t => t = dev))
    && (let s : State := dev.setCel 3 { postponed := 8 }
     after (.cellarRefresh 3 true) s (fun t => t = dev.setCel 3 { postponed := 8, forced := 1 })
      && after (.cellarRefresh 3 false) s (fun t => t = dev)
      && after (.cellarRefresh 2 true) s (fun t => t = s.setCel 2 { postponed := 1 })
      && after (.cellarTempSample 2 85001) s (fun t => t = s.setCel 2 { sampled := true, hot := true, tempMc := 85001, peakMc := 85001 })
      && after (.cellarTempSample 2 0xFFFFFC18) s (fun t => t = s.setCel 2 { sampled := true, tempMc := 0xFFFFFC18, peakMc := 0xFFFFFC18 }))
    && after (.nrgTempSample 109999) dev (fun t => t = { dev with nrg := { tempMc := 109999, peakMc := 109999, lastSample := 1 } })
    && after (.nrgTempSample 110000) dev (fun t => t.nrg = { tempMc := 110000, peakMc := 110000, lastSample := 1, tripped := true }
      && (List.range 17).all (fun d => pdOf t d = if d = 0 then .on else if 3 ≤ d && d ≤ 6 then .retain else .off)) := by decide +kernel

/-- A unit locked to CAD_IN on turns of 1 ms, at the start of turn 4, with its last event there. -/
def locked : Cad := {
  source := 0, state := .locked, period := 65536000000000, rate := 65536000000000, turn := 4
  lastAccepted := some (4000000 * nsUnits), nextBoundary := 5000000 * nsUnits, lastSlotTurn := 4, lastSlot := some 0 }
def cadAt (t : Nat) (c : Cad := locked) : State := { dev with g := { dev.g with houseTime := BitVec.ofNat 64 t }, cad := c }

theorem test_cadence :
    (let s := cadAt 4124999
     after (.cadReferenceEvent true) s (fun t => t.pins.cadIn && t.cad = { locked with rejects := 1 }))
    && after (.cadReferenceEvent false) (cadAt 5000000) (fun t => t = cadAt 5000000)
    && after (.cadReferenceEvent true) (cadAt 5016000 { locked with phase := 4294967295 }) (fun t => t.cad.state = .locked
       && t.cad.period = 65667072000000 && t.cad.turn = 4 && t.cad.lastAccepted = some (5016000 * nsUnits))
    && after (.cadReferenceEvent true) (cadAt 5031251) (fun t => t.cad = { locked with rejects := 1 })
    && (let c : Cad := { locked with state := .acquiring, lastAccepted := none }
     after (.cadReferenceEvent true) (cadAt 7 c) (fun t => t.cad = { c with lastAccepted := some (7 * nsUnits), stamp := 7 }))
    && after .cadMissedBoundary (cadAt 5031250) (fun t => t = cadAt 5031250)
    && after .cadMissedBoundary (cadAt 5031251) (fun t => t.cad = { locked with state := .coasting, coasted := 1, nextBoundary := 6000000 * nsUnits })
    && after .cadMissedBoundary (cadAt 5031251 { locked with state := .coasting, coasted := 63 }) (fun t => t.cad.state = .cadLost
      && t.cad.lost && t.cad.lostEvents = 1 && t.audit.seq = 1)
    && after .cadAcquireTimeout (cadAt 5 { locked with state := .acquiring, turn := 68, acquireTurns := 4 }) (fun t => t.cad.state = .cadLost
      && t.cad.period = 20000000000 * 65536 && t.audit.seq = 1)
    && after .slotEntry (cadAt 5 { locked with phase := 0xFFFFFF }) (fun t => t = cadAt 5 { locked with phase := 0xFFFFFF })
    && (let s : State := { cadAt 5 { locked with turn := 5, lastSlot := some 255 } with nrg := { tempMc := 95000 } }
     after .slotEntry s (fun t => t.cad.lastSlot = some 0 && t.cad.lastSlotTurn = 5 && t.nrg.factorQ8 = 192 && t.nrg.throttling
       && (t.room 1).balance = some 19200000 && (t.room 1).carry = 76800000)) := by decide +kernel

theorem test_domains :
    (let s : State := { cadAt 1000000 with domains := [(3, { autoEn := true })] }
     s.wf && after (.domainIdleRequest 3) s (fun t => t = { s with domains := [(3, { autoEn := true, state := .closing, cause := 2, target := .retain, requested := 1000000 })] }))
    && (let s : State := (moving (.copy (5 * 2 ^ 60) 0x1000 4 0) 4 0).setDomain 1 { state := .closing, target := .off }
     s.wf && (s.chan 3).cur.isSome && after (.domainDrainStart 1) s (fun t => (t.domain 1).state = .draining && sameMem s t)
      && after (.domainDrainStart 4) s (fun t => t = s))
    && (let s : State := { cadAt 70000 with domains := [(5, { state := .draining, target := .retain, drainStart := 5 }), (12, { state := .draining, target := .off })]
                                            study := { cache := [{ room := 1, set := 0, gen := 0, addr := 0, data := 0 }] } }
     s.wf && after (.domainPowerDown 12) s (fun t => (t.domain 12).state = .off && (t.domain 12).move = some { target := .off, started := 70000 }
       && t.study.cache = [])
      && after (.domainPowerDown 5) s (fun t => t = s.setDomain 5 { state := .retain, target := .retain, drainStart := 5, move := some { target := .retain, started := 70000 }, drainNs := 69995 })
      && after (.drainLimitCut 5) s (fun t => (t.domain 5).state = .retain && t.audit.seq = 0 && t.pantry = s.pantry))
    && (let s : State := chan3 (fun h => { h with state := .pausing }) { moving (.copy 0 0x1000 64 0) 64 0 with domains := [(3, { state := .draining, target := .retain })], g := { devState := .ready, houseTime := 50000 } }
     s.wf && after (.drainLimitCut 3) s (fun t => (t.domain 3).state = .retain && stillBusy s 3 = [3] && (t.chan 3).cur = none && t.audit.seq ≠ 0))
    && (let s : State := chan3 (fun h => { h with state := .held, heldBy := [4], touches := [4] }) { cadAt 9 with domains := [(4, { state := .retain, waking := true, move := some { target := .on, started := 0 } }), (5, { move := some { target := .off, started := 0 } })] }
     s.wf && after (.domainTransitionDone 4) s (fun t => t.domain 4 = { lastAccess := 9 } && (t.chan 3).state = .running && (t.chan 3).heldBy = [])
      && after (.domainTransitionDone 5) s (fun t => t = s.setDomain 5 { state := .off }))
    && (let s : State := chan3 (fun h => { h with state := .held, heldBy := [5], touches := [5] }) { cadAt 9 with domains := [(5, { state := .draining, cause := 2, move := some { target := .retain, started := 0 } })] }
     after (.domainTransitionDone 5) s (fun t => t = s.setDomain 5 { state := .retain, cause := 2, waking := true, move := some { target := .on, started := 9 } }))
    && (let s : State := chan3 (fun h => { h with cur := h.cur.map fun q => { q with flags := 8 } }) ((moving (.copy (5 * 2 ^ 60) 0x1000 4 0) 4 0).setDomain 1 { state := .closing, target := .off })
     heldOpen s 1 && after (.domainDrainStart 1) s (fun t => t = s)) := by decide +kernel

/-! ### Ports and frames -/

def k0 : KeySlot := { key := 1, fixed := 2, epoch := 0 }
/-- A SECURE port with both keys. -/
def secured : Port := { enable := true, state := .secure, txKey := some k0, rxKey := some k0, rxSecured := true, txLimit := 224, rxLimit := 224, seqCredit := 224 }
/-- The Hall's device, with port 1 towards node 5 SECURE. -/
def linked (s : State := dev) : State := (housed s).setPort 1 secured
/-- The device with one port, at a time. -/
def porting (x : Port) (t : Nat := 0) : State := (cadAt t {}).setPort 15 x
def helloWord (more : List (Nat × Nat)) : BitVec 512 := wordOf 512 ([(0, 2), (8, 1), (16, 8), (32, 16), (48, 0x8005), (64, 77)] ++ more)
def mgItem : TxItem := .mgmt (List.replicate 64 5)
def sent (seq at_ : Nat) : SentFrame := { seq := BitVec.ofNat 16 seq, raw := 0, items := [], sentAt := at_ }

theorem test_training :
    (let x : Port := { state := .training, allow4 := true }
     (porting x).wf && [(0xFF, false, false, true), (0x0F, true, false, true), (0xF7, true, true, true), (0x77, false, false, false)].all (fun l =>
      after (.laneLock 15 l.1) (porting x) (fun t => t = porting { x with lanesOk := l.1, width4 := l.2.1, laneGroup := l.2.2.1, locked := l.2.2.2 })))
    && (let x : Port := { state := .training, locked := true, trainFails := 3 }
     after (.hello 15 (helloWord [(24, 1)])) (porting x 9) (fun t => t = porting { state := .training, since := 9, trainFails := 4 } 9)
      && after (.hello 15 (helloWord [])) (porting x) (fun t => t = porting { x with helloSeen := true, partner := 77, partnerNode := 5, partnerNodeValid := true })
      && after (.hello 15 (helloWord [(128, 1)])) (porting x) (fun t => (t.port 15).state = .clear && (t.port 15).txLimit = 16
        && (t.port 15).rxLimit = 224 && sameMem (porting x) t)
      && after (.hello 15 (helloWord [(136, 1)])) (porting x) (fun t => t = porting x))
    && (let x : Port := { state := .training, since := 5 }
     after (.trainingTimeout 15) (porting x 100000004) (fun t => t = porting x 100000004)
      && after (.trainingTimeout 15) (porting x 100000005) (fun t => t = porting { state := .training, since := 100000005, trainFails := 1 } 100000005))
    && after (.retrainEnd 15) (porting { state := .retrain } 10000) (fun t => t = porting { state := .training, since := 10000 } 10000)
    && after (.laneLossOfLock 15) (porting { state := .clear, queue := [mgItem], replay := [sent 0 0] } 7) (fun t => t = porting { state := .retrain, since := 7 } 7)
    := by decide +kernel

theorem test_sending :
    (let raw := clearFrame 0 0 0 0 0 []
     let s := porting { state := .clear, txBits := 5, txHave := 787 }
     s.sendRaw 15 raw = (s.emit (.frame 15 raw)).setPort 15 { state := .clear, txBits := 5 + raw.toNat * 2 ^ 787, txHave := 5139 }
      && (let u := porting { state := .clear, txBits := 5, txHave := 788 }
      match (u.sendRaw 15 raw).outputs with
      | [.codeword 15 ls, .frame 15 r] => r = raw && ls.length = 8 && ls.all (·.2.length = 68)
      | _ => false))
    && (let s := porting { state := .training, locked := true }
     after (.portSendFrame 15) s (fun t => t = s.sendRaw 15 (clearFrame 1 64 0 0 0 (leB 64 (wordOf 512 [(0, 2), (8, 1), (16, 8), (32, 224), (64, 1)])))))
    && after (.portSendFrame 15) (porting { state := .clear }) (fun t => t = (porting { state := .clear }).sendRaw 15 (clearFrame 0 0 0 0 0 []))
    && (let x : Port := { state := .clear, txLimit := 9, txNext := 8, rxExpected := 3, queue := [mgItem], ackDue := some 0 }
     let raw := clearFrame 4 64 8 3 0 (List.replicate 64 5)
     mayNumber x && after (.portSendFrame 15) (porting x 5) (fun t => t = (porting { x with
       queue := [], ackDue := none, txNext := 9, replay := [{ seq := 8, raw := raw, items := [mgItem], sentAt := 5 }] } 5).sendRaw 15 raw))
    && (let x : Port := { state := .clear, ackDue := some 10, rxExpected := 4, rxLimit := 228 }
     after (.ackTimer 15) (porting x 73) (fun t => t = porting x 73)
      && after (.ackTimer 15) (porting x 74) (fun t => t = (porting { x with ackDue := none } 74).sendRaw 15 (clearFrame 1 0 0 4 228 [])))
    && (let x : Port := { state := .clear, replay := [sent 7 5] }
     after (.replayTimeout 15) (porting x 1004) (fun t => t = porting x 1004)
      && after (.replayTimeout 15) (porting x 1005) (fun t => t = porting { x with episode := some (1005, 1), episodes := 1, resend := [sent 7 5], maxAttempts := 1 } 1005)
      && after (.replayExhausted 15) (porting { x with episode := some (6, 2) } 4005) (fun t => (t.port 15).state = .clear)
      && after (.replayExhausted 15) (porting { x with episode := some (6, 2) } 4006) (fun t => (t.port 15).state = .retrain && (t.port 15).exhausted = 1
        && (t.port 15).replay = [] && t.audit.seq = 1))
    && (let x : Port := { state := .clear, violMs := 3, violTotal := 9, violMsNo := 0 }
     after .violationWindow (porting x 999999) (fun t => t = porting x 999999)
      && after .violationWindow (porting x 1000000) (fun t => t = porting { x with violMs := 0, violMsNo := 1 } 1000000)) := by decide +kernel

/-- The 16 header bytes of a sequenced frame as the partner seals it: type, bytes of content and stream. -/
def sealedHead (ty valid stream : Nat) : List Byte := frameHeader ty false false false valid 0 0 0 224 stream
/-- A frame as the partner of port 1 seals it, and its header alone. -/
def sealedTo1 (ty stream : Nat) (c : List Byte) : FrameIn := sealedIn k0 (sealedHead ty c.length stream) c
def headerTo1 (ty stream n : Nat) : FrameIn := { raw := bareHeader (sealedHead ty n stream), word := none }

/-- What a port accepts of a frame sealed by its partner: the parts of `judge_sealed`. -/
def fits (s : State) (ty stream : Nat) (c : List Byte) (extra : List Byte → Option Nat) : Bool :=
  let x := s.port 1
  let h := bareHeader (sealedHead ty c.length stream)
  x.state = .secure && x.rxHave = 0 && x.rxBits = 0 && x.rxKey = some k0 && !fClear h && headerOk h && isSequenced (fType h)
    && !fEpoch h && fSeq h = x.rxExpected && seqDiff x.rxExpected x.rxLimit < 0 && ackOk x h && fValid h = c.length
    && c.length ≤ 512 && fType h = ty && extra c = none

theorem sealedHead_length (ty valid stream : Nat) : (sealedHead ty valid stream).length = 16 := by
  simp [sealedHead, frameHeader, leB]

theorem received_of {s : State} {ty stream : Nat} {c : List Byte} {extra : List Byte → Option Nat}
    (h : fits s ty stream c extra = true) : Received s 1 (sealedTo1 ty stream c) ty extra c := by
  simp only [fits, Bool.and_eq_true, decide_eq_true_eq, Bool.not_eq_true'] at h
  obtain ⟨⟨⟨⟨⟨⟨⟨⟨⟨⟨⟨⟨⟨⟨h1, h2⟩, h3⟩, h4⟩, h5⟩, h6⟩, h7⟩, h8⟩, h9⟩, h10⟩, h11⟩, h12⟩, h13⟩, h14⟩, h15⟩ := h
  have e : fType (sealedTo1 ty stream c).raw = fType (bareHeader (sealedHead ty c.length stream)) :=
    congrArg BitVec.toNat (sealedIn_fld 0 4 (sealedHead_length ..) (by norm_num))
  exact ⟨e.trans h14, judge_sealed h1 h2 h3 h4 ⟨sealedHead_length .., h5, h6, h7, h8.symm, h9, h10, h11, h12, h13⟩ h15⟩

/-- Stream 5 of Room 1 is open on port 1. -/
def streaming (refused : Bool) : State :=
  let s := linked
  s.setPort 1 { s.port 1 with rxLimit := 9, rx := [{ id := 5, src := 5, room := 1, offset := 0x1000, stored := 8, wire := 0, store := 0, esize := 0, refused := refused, got := [1, 2] }] }

/-- A port that has a frame of its stream whole, and what is left when it has been taken. -/
def holding (x : Port) (raw : BitVec 4352) : Port := { x with rxBits := raw.toNat, rxHave := 4352 }

theorem test_frames :
    (let raw := wordOf 4352 [(0, 65), (80, 3), (96, 226), (4320, 0x2d63f113)]
     let f : FrameIn := { raw := raw, word := none }
     let x : Port := { state := .clear, txLimit := 224, txNext := 4, replay := [sent 2 0, sent 3 0] }
     judge (porting (holding x raw)) 15 f (fun _ => none) = .ok [] && after (.ctrlFrame 15 f) (porting (holding x raw)) (fun t =>
      t = porting { x with replay := [sent 3 0], txLimit := 226, txAcked := 3, acked := [sent 2 0] }))
    && (let raw := wordOf 4352 [(0, 1)]
     let f : FrameIn := { raw := raw, word := none }
     let x : Port := { state := .clear, rxExpected := 7, nakFor := some (6, 5) }
     judge (porting (holding x raw) 5000) 15 f (fun _ => none) = .linkError Nak.crcFail && after (.ctrlFrame 15 f) (porting (holding x raw) 5000) (fun t =>
      t = porting { x with crcFail := 1, nakFor := some (7, 5), queue := [.ctrl (nakBytes 2 7)] } 5000))
    && (let raw := wordOf 4352 [(0, 65), (16, 5), (4320, 0xf18a8302)]
     let f : FrameIn := { raw := raw, word := none }
     let x : Port := { state := .clear, violTotal := 7 }
     judge (porting (holding x raw)) 15 f (fun _ => none) = .violation Nak.malformedFrame && after (.ctrlFrame 15 f) (porting (holding x raw)) (fun t =>
      (t.port 15).violTotal = 8 && (t.port 15).violReason = 0x10 && t.audit.seq = 1))
    && (let raw := wordOf 4352 [(0, 2), (16, 4), (64, 65535), (96, 224), (112, 5), (4320, 0x29ae97db)]
     let f : FrameIn := { raw := raw, word := none }
     let s := streaming false
     let u := s.setPort 1 (holding (s.port 1) raw)
     judge u 1 f (fun _ => none) = .duplicate && after (.dataFrame 1 f) u (fun t => t = enqueue 1 (.ctrl []) s)) := by decide +kernel

/-- A codeword whose frame comes whole, the same with a symbol flipped, and one with 16. -/
def codeword : BitVec 5440 := rsEncode ((clearFrame 1 0 0 0 224 []).setWidth 5140)
def flipped (n : Nat) : BitVec 5440 := codeword ^^^ BitVec.ofNat 5440 ((List.range n).foldl (fun a i => a + 2 ^ (170 * i)) 0)

theorem test_codewords :
    [0, 1].all (fun n => after (.ctrlFrame 15 { raw := clearFrame 1 0 0 0 224 [], word := some (flipped n) }) (porting { state := .clear }) fun t =>
      t = porting { state := .clear, txLimit := 224, rxHave := 788, fecCorrected := BitVec.ofNat 32 n })
    && (let f : FrameIn := { raw := clearFrame 1 0 0 0 224 [], word := some (flipped 16) }
     rsDecode (flipped 16) = none && after (.ctrlFrame 15 f) (porting { state := .clear }) fun t =>
      (t.port 15).fecUncorrected = 1 && (t.port 15).rxBad && (t.port 15).rxHave = 788 && (t.port 15).crcFail = 0
        && (t.port 15).queue = [.ctrl (nakBytes Nak.fecFail 0)]) := by decide +kernel

theorem test_naks :
    (let x : Port := { state := .clear, replay := [sent 7 5] }
     [1, 4].all (fun r => after (.nak 15 (wordOf 128 [(0, 1), (8, r), (16, 8)])) (porting x) (fun t => t = porting x)
      && after (.nak 15 (wordOf 128 [(0, 1), (8, r), (16, 7)])) (porting x) (fun t => t = porting { x with
        episode := some (0, 1), episodes := 1, resend := [sent 7 5], maxAttempts := 1 }))
     && [0x10, 0x16].all (fun r => after (.nak 15 (wordOf 128 [(0, 1), (8, r), (16, 8)])) (porting x) (fun t => t = porting { x with naksRx := 1 })))
    := by decide +kernel

/-- What a DATA frame of 4 bytes comes to. -/
def dataTo (s : State) (q : State → Bool) : Prop :=
  ∃ t u, exec (.dataFrame 1 (sealedTo1 2 5 [1, 2, 3, 4])) s = .next t ∧ Advanced 1 s t ∧ { t with ports := u.ports } = u
    ∧ (t.port 1).rx = (u.port 1).rx ∧ q u = true
theorem dataTo_of {s : State} {q : State → Bool}
    (h : (let u := dataHere 1 (headerTo1 2 5 4) [1, 2, 3, 4] (noteFrame 1 (headerTo1 2 5 4) s)
      fits s 2 5 [1, 2, 3, 4] (fun _ => if streamOpen s 1 5 then none else some Nak.unexpected)
       && (u.port 1).rxExpected = (s.port 1).rxExpected && (u.port 1).rxLimit = (s.port 1).rxLimit && tableWf {} u.ports && q u) = true) :
    dataTo s q := by
  simp only [Bool.and_eq_true, decide_eq_true_eq] at h
  obtain ⟨⟨⟨⟨h1, h2⟩, h3⟩, h4⟩, h5⟩ := h
  have e : fStream (sealedTo1 2 5 [1, 2, 3, 4]).raw = 5 :=
    (congrArg BitVec.toNat (sealedIn_fld 112 12 (sealedHead_length ..) (by norm_num))).trans (by decide +kernel)
  have r := received_of h1
  obtain ⟨a1, a2, a3, a4⟩ := acceptSeq_spec (p := 1) (some (sealedTo1 2 5 [1, 2, 3, 4])) h4
  refine ⟨_, _, (dataFrame_of (by rw [e]; exact r)).trans ?_, ⟨a1.trans (by rw [h2]), a2.trans (by rw [h3])⟩, a4, a3, h5⟩
  rw [sealedTo1, noteFrame_sealedIn _ (sealedHead_length ..), dataHere_sealedIn _ (sealedHead_length ..)]
  rfl

theorem test_data : dataTo (streaming true) (fun t => t.pantry = dev.pantry && t.chans = dev.chans)
    ∧ dataTo (streaming false) (fun t => mread t.pantry 0x201002 4 = [1, 2, 3, 4] && (t.port 1).rx.map (·.got) = [[1, 2, 1, 2, 3, 4]]) :=
  ⟨dataTo_of (by decide +kernel), dataTo_of (by decide +kernel)⟩

/-! ### Messages -/

/-- A MSG frame of one message, sealed by the partner. -/
def msgFrame (m : Msg) : FrameIn := sealedTo1 3 0 (leB 64 m.pack)
/-- Port 1 takes the one message m. -/
def lone (s : State) (m : Msg) : Bool :=
  fits s 3 0 (leB 64 m.pack) (msgVerdict s 1) && Msg.unpack (msgAt (leB 64 m.pack) 0) = m && (s.port 1).msgAt = 0
    && m.dst.toNat = ownNode s
theorem only_message {s : State} {m : Msg} (h : lone s m = true) : OnlyMessage s 1 (msgFrame m) m := by
  simp only [lone, Bool.and_eq_true, decide_eq_true_eq] at h
  obtain ⟨⟨⟨h1, h2⟩, h3⟩, h4⟩ := h
  exact ⟨_, received_of h1, by simp [leB], h2, h3, h4⟩

/-- The row takes the message, and its effect passes a test. -/
def took (i : FrameIn → Instr) (m : Msg) (s : State) (q : State → Bool) : Prop :=
  s.wf = true ∧ OnlyMessage s 1 (msgFrame m) m ∧ ∃ u, Takes (i (msgFrame m)) 1 (msgFrame m) s u ∧ q u = true
theorem took_of {i : FrameIn → Instr} {m : Msg} {s : State} {q : State → Bool} (body : Msg → State → State)
    (hx : ∀ f, exec (i f) s = .next (msgRow m.mtype.toNat 1 f 0 body s))
    (h : (s.wf && lone s m && q (body m (noteFrame 1 (headerTo1 3 0 64) s))) = true) : took i m s q := by
  simp only [Bool.and_eq_true] at h
  have e : noteFrame 1 (msgFrame m) s = noteFrame 1 (headerTo1 3 0 64) s := by
    rw [msgFrame, sealedTo1, noteFrame_sealedIn _ (sealedHead_length ..), headerTo1, leB, leBytes_length]
  exact ⟨h.1.1, only_message h.1.2, _, (hx _).trans (by rw [msgRow_of body (only_message h.1.2) rfl, e]), h.2⟩

/-- The linked device, with Room 1's window exported. -/
def shared : State := linked (dev.setRoom 1 { dev.room 1 with windows := [(0, { valid := true, exported := true, granules := 1, physGran := 1 })] })

theorem test_open :
    (let m : Msg := { mtype := 1, stream := 7, src := 5, room := 1, addr := 0x1000, arg0 := 16 }
     took (.openMsg 1 · 0) m shared fun u => rangeCheck 1 0x1000 16 false shared = St.ok && u = shared.setPort 1 { secured with
      rx := [{ id := 7, src := 5, room := 1, offset := 0x1000, stored := 16, wire := 0, store := 0, esize := 0, refused := false }] })
    ∧ (let m : Msg := { mtype := 1, stream := 7, src := 5, room := 1, addr := 0x1FFFF0, arg0 := 17 }
     took (.openMsg 1 · 0) m shared fun u => u = shared.setPort 1 { secured with
      rx := [{ id := 7, src := 5, room := 1, offset := 0x1FFFF0, stored := 17, wire := 0, store := 0, esize := 0, refused := true, status := St.badWindow }]
      queue := [ownMsg shared { mtype := 3, stream := 7, dst := 5, room := 1, status := St.badWindow }] }) :=
  ⟨took_of _ (fun _ => rfl) (by decide +kernel), took_of _ (fun _ => rfl) (by decide +kernel)⟩

/-- Channel 3 has sent stream 5 through port 1. -/
def streamed : State :=
  (chan3 (fun h => { h with flights := [{ kind := .stream 1 5, pc := 0, opcode := 1 }] }) linked).setPort 1 { secured with tx := [{ id := 5, chan := some 3, room := 1, node := 5 }] }

theorem test_stream_ends :
    (took (.doneMsg 1 · 0) { mtype := 2, stream := 5, src := 5, room := 1 } streamed fun u => (u.port 1).tx = [] && (u.chan 3).flights = [])
    ∧ (took (.doneMsg 1 · 0) { mtype := 2, stream := 5, src := 5, room := 1, status := 9 } streamed fun u =>
      u = dropTx 1 5 (failFlight 3 (.stream 1 5) 9 streamed) && (u.chan 3).badCount = 1)
    ∧ (took (.refuseMsg 1 · 0) { mtype := 3, stream := 5, src := 5, room := 1, status := 9 } streamed fun u =>
      u = dropTx 1 5 (failFlight 3 (.stream 1 5) 9 streamed))
    ∧ (took (.routeFail 1 · 0) { mtype := 0x60, stream := 5, src := 5, room := 1, status := 9 } streamed fun u =>
      u = dropTx 1 5 (failFlight 3 (.stream 1 5) 9 streamed))
    ∧ (let s := chan3 (fun h => { h with flights := [{ kind := .signal 8, pc := 0, opcode := 1 }] }) linked
     (took (.refuseMsg 1 · 0) { mtype := 3, src := 5, req := 8, status := 9 } s fun u => u = failReq 8 9 s && (u.chan 3).badCount = 1)
     ∧ (took (.routeFail 1 · 0) { mtype := 0x60, src := 5, req := 8, status := 9 } s fun u => u = failReq 8 9 s)) :=
  ⟨took_of _ (fun _ => rfl) (by decide +kernel), took_of _ (fun _ => rfl) (by decide +kernel), took_of _ (fun _ => rfl) (by decide +kernel),
    took_of _ (fun _ => rfl) (by decide +kernel), took_of _ (fun _ => rfl) (by decide +kernel), took_of _ (fun _ => rfl) (by decide +kernel)⟩

theorem test_read :
    (took (.readMsg 1 · 0) { mtype := 4, src := 5, room := 1, addr := 0x1000, arg0 := 16, arg1 := 0x40, req := 8 } shared fun u =>
      (u.port 1).tx = [{ id := freeStream secured, chan := none, room := 1, node := 5 }] && sameMem shared u && (u.port 1).queue.length = 2)
    ∧ (took (.readMsg 1 · 0) { mtype := 4, src := 5, room := 1, addr := 0x200000, arg0 := 16, arg1 := 0x40, req := 8 } shared fun u =>
      u = shared.setPort 1 { secured with queue := [ownMsg shared { mtype := 3, dst := 5, room := 1, req := 8, status := St.badWindow }] }) :=
  ⟨took_of _ (fun _ => rfl) (by decide +kernel), took_of _ (fun _ => rfl) (by decide +kernel)⟩

/-- The linked device, whose flag 0 (ID 0 of Room 1) and counter 0 are exported. -/
def exporting : State := linked { dev with
  flags := [(0, { room := 1, mapped := true, exported := true }), (1, { room := 1, mapped := true })]
  counters := [(0, { room := 1, mapped := true, exported := true, value := 7 })] }
def back (s : State) (m : Msg) : State := s.setPort 1 { s.port 1 with queue := (s.port 1).queue ++ [ownMsg s { m with dst := 5, room := 1, req := 8 }] }

theorem test_remote_signal :
    (took (.signalMsg 1 · 0) { mtype := 8, mflags := 1, src := 5, room := 1, req := 8, arg0 := 1 } exporting fun u =>
      exportedObj exporting 1 0 = .ok (false, 0) && (u.flag 0).value && (u.flag 0).last.node = 5 && u.counters = exporting.counters && sameMem exporting u
       && (u.port 1).queue = [ownMsg exporting { mtype := 9, dst := 5, room := 1, req := 8, arg0 := 1 }])
    ∧ (took (.signalMsg 1 · 0) { mtype := 8, src := 5, room := 1, req := 8, addr := 0x1000, arg0 := 0xFFFFFFFFFFFFFFFF } exporting fun u =>
      (u.counter 0).value = 6 && u.flags = exporting.flags && (u.port 1).queue = [])
    ∧ (took (.signalMsg 1 · 0) { mtype := 8, src := 5, room := 1, req := 8, addr := 1, arg0 := 1 } exporting fun u =>
      u = back exporting { mtype := 9, status := St.syncUnmapped }) :=
  ⟨took_of _ (fun _ => rfl) (by decide +kernel), took_of _ (fun _ => rfl) (by decide +kernel), took_of _ (fun _ => rfl) (by decide +kernel)⟩

/-- SQ 2 waits for the answer of request 8, in the dispatched entry 17. -/
def asking : State := { (linked).setSq 2 { valid := true, room := 1, dispatched := [{ count := 17, tag := 9, opcode := 0x18, late := false, irq := true }] } with sqSignals := [{ req := 8, sq := 2, count := 17 }] }
theorem test_signal_ack :
    took (.signalAck 1 · 0) { mtype := 9, src := 5, room := 1, req := 8 } asking fun u => u.sqSignals = [] && (u.sq 2).reports.map (·.count) = [17] :=
  took_of _ (fun _ => rfl) (by decide +kernel)

theorem test_remote_waits :
    (let m : Msg := { mtype := 10, src := 5, room := 1, req := 8, arg0 := 1 }
     took (.waitReg 1 · 0) m exporting fun u => u = { exporting with waiters := [remoteWaiter m false 0] })
    ∧ (let m : Msg := { mtype := 10, src := 5, room := 1, req := 8, addr := 0x1000, arg0 := 7 }
     took (.waitReg 1 · 0) m exporting fun u => condHolds exporting (remoteWaiter m true 0) && u = back exporting { mtype := 11, arg0 := 7 })
    ∧ (took (.poll 1 · 0) { mtype := 13, src := 5, room := 1, req := 8, arg0 := 1 } exporting fun u => u = back exporting { mtype := 11, mflags := 2 })
    ∧ (took (.poll 1 · 0) { mtype := 13, src := 5, room := 1, req := 8, addr := 0x1000, arg0 := 7 } exporting fun u => u = back exporting { mtype := 11, arg0 := 7 })
    ∧ (let w : Waiter := { unit := .peer 5 8, obj := .flag 0 }
     took (.waitCancel 1 · 0) { mtype := 12, src := 5, room := 1, req := 8 } { exporting with waiters := [w, { w with unit := .peer 6 8 }] } fun u =>
      u = { exporting with waiters := [{ w with unit := .peer 6 8 }] }) :=
  ⟨took_of _ (fun _ => rfl) (by decide +kernel), took_of _ (fun _ => rfl) (by decide +kernel), took_of _ (fun _ => rfl) (by decide +kernel),
    took_of _ (fun _ => rfl) (by decide +kernel), took_of _ (fun _ => rfl) (by decide +kernel)⟩

/-- Channel 3 waits for flag 1 of node 5. -/
def far : Waiter := { unit := .chan 3, obj := .remote 5 1 }
def waitingFar : State := chan3 (fun h => { h with state := .waiting }) { linked with waiters := [far] }
theorem test_wake :
    (let m : Msg := { mtype := 11, src := 5, room := 1, req := BitVec.ofNat 32 (unitReq (.chan 3)) }
     (took (.wake 1 · 0) { m with status := St.quota } waitingFar fun u =>
       reqWait (unitReq (.chan 3)) far && u = { waitingFar with waiters := [{ far with polled := some 8000 }] })
     ∧ (took (.wake 1 · 0) { m with status := St.syncUnmapped } waitingFar fun u => u = endWait far St.syncUnmapped 0 waitingFar && u.waiters = [])
     ∧ (took (.wake 1 · 0) { m with arg0 := 1 } waitingFar fun u => u = endWait far St.ok 1 waitingFar && u.waiters = [])
     ∧ (took (.wake 1 · 0) { m with mflags := 2 } waitingFar fun u => u = waitingFar)) :=
  ⟨took_of _ (fun _ => rfl) (by decide +kernel), took_of _ (fun _ => rfl) (by decide +kernel), took_of _ (fun _ => rfl) (by decide +kernel),
    took_of _ (fun _ => rfl) (by decide +kernel)⟩

theorem test_house_barrier :
    (let s : State := { linked with house := { linked.house with groupDefs := [(2, { room := 1, members := [5, 6], kib := 1 })], barriers := [(2, { gen := 4, arrived := [6] })] } }
     (took (.hbArrive 1 · 0) { mtype := 0x48, src := 5, room := 1, arg0 := 2, arg1 := 3 } s fun u => tableWf {} s.house.barriers && u = s)
     ∧ (took (.hbArrive 1 · 0) { mtype := 0x48, src := 5, room := 1, arg0 := 2, arg1 := 4 } s fun u => u.house.barriers = [(2, { gen := 5 })]))
    ∧ (let x : Group := { slot := 0, room := 1, members := 2, rank := 1, kib := 64, arrived := true }
     let s : State := { linked with groups := [(2, x)] }
     (took (.hbRelease 1 · 0) { mtype := 0x49, src := 5, room := 1, arg0 := 2, arg1 := 9 } s fun u => groupOf u 2 = some { x with gen := 9, arrived := false }))
    ∧ (took (.roomAbort 1 · 0) { mtype := 0x50, src := 5, room := 1, req := 8, arg0 := 2 } linked fun u => u = back linked { mtype := 0x51 })
    ∧ (let s : State := linked.setRoom 1 { dev.room 1 with state := .resetting, reset := some { start := 0, awaited := [1282, 1283] } }
     took (.roomAbortAck 1 · 0) { mtype := 0x51, src := 5, room := 1, req := 2050 } s fun u => ((u.room 1).reset.map (·.awaited)) = some [1283]) :=
  ⟨⟨took_of _ (fun _ => rfl) (by decide +kernel), took_of _ (fun _ => rfl) (by decide +kernel)⟩, took_of _ (fun _ => rfl) (by decide +kernel),
    took_of _ (fun _ => rfl) (by decide +kernel), took_of _ (fun _ => rfl) (by decide +kernel)⟩

def rdxArg0 (chunk n : Nat) : Word := BitVec.ofNat 64 (2 + chunk * 2 ^ 16 + n * 2 ^ 32)
theorem test_rdx_request :
    (took (.rdxReq 1 · 0) { mtype := 0x40, src := 5, room := 1, req := 8, arg0 := rdxArg0 0 4 } linked fun u => u = back linked { mtype := 0x41, status := St.malformed })
    ∧ (let s := linked (grouped 0)
     (took (.rdxReq 1 · 0) { mtype := 0x40, src := 5, room := 1, req := 8, arg0 := rdxArg0 0 4 } s fun u => u = back s { mtype := 0x41 })
     ∧ (took (.rdxReq 1 · 0) { mtype := 0x40, src := 5, room := 1, req := 8, arg0 := rdxArg0 0 5 } s fun u => u = back s { mtype := 0x41, status := St.malformed }))
    ∧ (let s := (linked (grouped 0)).setRoom 1 { dev.room 1 with state := .resetting, reset := some { start := 0 } }
     took (.rdxReq 1 · 0) { mtype := 0x40, src := 5, room := 1, req := 8, arg0 := rdxArg0 0 4 } s fun u => u = back s { mtype := 0x41, status := St.roomReset })
    ∧ (let x : Group := { slot := 0, room := 1, members := 2, rank := 0, kib := 64 }
     let s : State := { linked with groups := [(2, x)] }
     took (.rdxReq 1 · 0) { mtype := 0x40, src := 5, room := 1, req := 8, arg0 := rdxArg0 0 4 } s fun u => u = { s with
      groups := [(2, { x with resv := [{ node := 5, room := 1, req := 8, chan := none, chunk := 0, elements := 4, format := 0, op := 0 }] })] }) :=
  ⟨took_of _ (fun _ => rfl) (by decide +kernel), ⟨took_of _ (fun _ => rfl) (by decide +kernel), took_of _ (fun _ => rfl) (by decide +kernel)⟩,
    took_of _ (fun _ => rfl) (by decide +kernel), took_of _ (fun _ => rfl) (by decide +kernel)⟩

/-- Channel 3 waits for the grant of chunk 0, or has sent its contribution as stream 5. -/
def granting : State := chan3 (fun h => { h with state := .waiting, cur := some { opcode := 0x28, flags := 0, plan := .nothing, total := 16, domains := [] } })
  { linked with waiters := [{ unit := .chan 3, obj := .grant 2 0 }] }
def theSend : RdxSend := { group := 2, chunk := 0, src := 0x1000, elements := 4, format := 0, op := 0 }
def contributed (src : Word := 0x1000) : State := (chan3 (fun h => { h with flights := [{ kind := .contribution 2 0, pc := 0, opcode := 0x28 }] }) linked).setPort 1 { secured with
  tx := [{ id := 5, chan := some 3, room := 1, node := 5, rdx := some { theSend with src := src } }] }
theorem test_rdx_answers :
    (let m : Msg := { mtype := 0x41, src := 5, room := 1, req := BitVec.ofNat 32 (unitReq (.chan 3)) }
     (took (.rdxGrant 1 · 0) m granting fun u => u.waiters = [] && (u.chan 3).state = .running && u.ports = granting.ports)
     ∧ (took (.rdxGrant 1 · 0) { m with status := St.malformed } granting fun u =>
      u = failWait St.malformed granting { unit := .chan 3, obj := .grant 2 0 } && u.waiters = []))
    ∧ (took (.rdxOpen 1 · 0) { mtype := 0x42, stream := 9, src := 5, room := 1, arg0 := rdxArg0 0 4 } (linked (grouped 0)) fun u =>
      (u.port 1).rx.map (fun x => (x.rdx, x.refused)) = [(some (2, 0), false)])
    ∧ (took (.rdxAck 1 · 0) { mtype := 0x43, stream := 5, src := 5, room := 1 } contributed fun u => (u.port 1).tx = [] && (u.chan 3).flights = [])
    ∧ (took (.rdxRetry 1 · 0) { mtype := 0x44, stream := 5, src := 5, room := 1 } contributed fun u => (u.port 1).tx.map (·.rdx) = [some theSend]
      && (u.port 1).queue.length = 2)
    ∧ (took (.rdxRetry 1 · 0) { mtype := 0x44, stream := 5, src := 5, room := 1 } (contributed 0x200000) fun u => (u.port 1).tx = [] && (u.chan 3).badCount = 1)
    ∧ (took (.rdxFail 1 · 0) { mtype := 0x45, src := 5, room := 1, status := 9, arg0 := 2 } (linked (grouped 0)) fun u => instOf u 2 = none) :=
  ⟨⟨took_of _ (fun _ => rfl) (by decide +kernel), took_of _ (fun _ => rfl) (by decide +kernel)⟩, took_of _ (fun _ => rfl) (by decide +kernel),
    took_of _ (fun _ => rfl) (by decide +kernel), took_of _ (fun _ => rfl) (by decide +kernel), took_of _ (fun _ => rfl) (by decide +kernel),
    took_of _ (fun _ => rfl) (by decide +kernel)⟩

theorem test_chunks :
    (let r : Reservation := { node := 5, room := 1, req := 8, chan := none, chunk := 1, elements := 4, format := 0, op := 0 }
     let i : Instance := { sq := 2, count := 0, format := 0, op := 0, contrib := 1, first := 0, range := 2, timeoutUs := 0, sends := 2, stores := 2 }
     let s : State := { linked with groups := [(2, { slot := 0, room := 1, members := 2, rank := 0, kib := 64, inst := some i, resv := [r] })] }
     s.wf && nextResv s 2 1 = some r && after (.accumulatorReserve 2 1) s (fun t => (t.port 1).queue = [ownMsg s { mtype := 0x41, dst := 5, room := 1, req := 8 }]
       && ((instOf t 2).bind (chunkOf · 1)).map (·.elements) = some 4)
      && after (.accumulatorReserve 2 0) s (fun t => t = s))
    && (let s : State := chan3 (fun h => { h with state := .waiting }) { grouped 1 with waiters := [{ unit := .chan 3, obj := .chunk 2 0 }] }
     s.wf && chunkReady s 2 0 && after (.chunkComplete 2 0) s (fun t => t = chan3 (fun h => { h with state := .running }) { s with waiters := [] }))
    && after (.chunkComplete 2 0) (grouped 0) (fun t => t = grouped 0) := by decide +kernel

/-! ### Management messages and the House's timers -/

/-- A MGMT frame of one message, sealed by the partner. -/
def mgFrame (w : BitVec 512) : FrameIn := sealedTo1 4 0 (leB 64 w)
def loneMgmt (s : State) (w : BitVec 512) : Bool :=
  fits s 4 0 (leB 64 w) (mgVerdict s 1) && msgAt (leB 64 w) 0 = w && s.house.hstate ≠ .stopped && s.fy.state = .ready
    && (s.port 1).msgAt = 0 && (!ofOwnHouse (mgN w 0 1) || houseLink s 1)
    && (isFlooded (mgN w 0 1) || 0x8000 ≤ mgN w 6 2 || mgN w 6 2 = ownNode s)
theorem only_mgmt {s : State} {w : BitVec 512} (h : loneMgmt s w = true) : OnlyMgmt s 1 (mgFrame w) w := by
  simp only [loneMgmt, Bool.and_eq_true, Bool.or_eq_true, Bool.not_eq_true', decide_eq_true_eq] at h
  obtain ⟨⟨⟨⟨⟨⟨h1, h2⟩, h3⟩, h4⟩, h5⟩, h6⟩, h7⟩ := h
  refine ⟨_, received_of h1, by simp [leB], h2, h3, h4, h5, fun k => ?_, or_assoc.mp h7⟩
  exact h6.resolve_left (by rw [k]; decide)

/-- The row takes the management message, and its effect passes a test. -/
def managed (i : FrameIn → Instr) (w : BitVec 512) (s : State) (q : State → Bool) : Prop :=
  s.wf = true ∧ OnlyMgmt s 1 (mgFrame w) w ∧ ∃ u, Takes (i (mgFrame w)) 1 (mgFrame w) s u ∧ q u = true
theorem managed_of {t : Nat} {i : FrameIn → Instr} {w : BitVec 512} {s : State} {q : State → Bool} (body : BitVec 512 → State → State)
    (hx : ∀ f s, exec (i f) s = .next (mgmtRow t 1 f body s))
    (h : (s.wf && loneMgmt s w && mgN w 0 1 = t && q (body w (noteFrame 1 (headerTo1 4 0 64) s))) = true) : managed i w s q := by
  simp only [Bool.and_eq_true, decide_eq_true_eq] at h
  obtain ⟨⟨⟨h1, h2⟩, h3⟩, h4⟩ := h
  have e : noteFrame 1 (mgFrame w) s = noteFrame 1 (headerTo1 4 0 64) s := by
    rw [mgFrame, sealedTo1, noteFrame_sealedIn _ (sealedHead_length ..), headerTo1, leB, leBytes_length]
  exact ⟨h1, only_mgmt h2, _, (hx _ _).trans (by rw [mgmtRow_of body (only_mgmt h2) h3, e]), h4⟩

/-- The device with port 1 SECURE and this House state. -/
def inState (h : House) : State := { linked with fy := { state := .ready }, house := h }
/-- A message from node 5: type, DST_NODE and body. -/
def from5 (t dst : Nat) (fs : List (Nat × Nat)) : BitVec 512 := mgMsg t 0 5 dst fs
/-- A Wing with ID 7, and the Hall. -/
def wing7 : House := { hstate := .wing, viaPort := 1, nodeValid := true, node := 7, members := [0, 7], routes := [(0, 1)], epoch := 3, mgen := 4, hall := some { prio := 2, serial := 50 } }
def hallOf : House := { hstate := .hall, isHall := true, nodeValid := true, members := [0, 5], routes := [(5, 1)], epoch := 3, hall := some { prio := 0, serial := 1 }, acceptJoin := true }

theorem test_claims :
    (managed (.claim 1) (from5 0x80 0x8000 [(8, 6), (12, 3), (16, 40)]) (inState { hstate := .claiming, best := some { prio := 2, serial := 3 } }) fun u =>
      u.house.topEpoch = 6 && u.house.best = some { epoch := 6, prio := 3, serial := 40 } && u.house.hstate = .candidate)
    ∧ (managed (.claim 1) (from5 0x80 0x8000 [(8, 6), (12, 0), (16, 2)]) (inState { hstate := .claiming, topEpoch := 9 }) fun u =>
      u.house.topEpoch = 9 && u.house.hstate = .candidate)
    ∧ (managed (.hallAnnounce 1) (from5 0x81 0x8000 [(8, 6), (12, 1), (16, 40), (28, 11)]) (inState { hstate := .claiming }) fun u =>
      u.house.hstate = .joining && u.house.hall = some { epoch := 6, prio := 1, serial := 40 } && u.house.viaPort = 1 && u.house.mgen = 11 && u.house.joinAt = 0)
    ∧ (managed (.hallAnnounce 1) (from5 0x81 0x8000 [(8, 6), (12, 1), (16, 40)]) (inState hallOf) fun u =>
      u.house.hstate = .joining && !u.house.isHall && u.house.hall = some { epoch := 6, prio := 1, serial := 40 }) :=
  ⟨managed_of _ (fun _ _ => rfl) (by decide +kernel), managed_of _ (fun _ _ => rfl) (by decide +kernel), managed_of _ (fun _ _ => rfl) (by decide +kernel),
    managed_of _ (fun _ _ => rfl) (by decide +kernel)⟩

theorem test_joining :
    (managed (.joinReq 1) (from5 0x82 0 [(12, 1), (16, 40), (28, 5)]) (inState hallOf) fun u => u = inState { hallOf with joins := [(5, from5 0x82 0 [(12, 1), (16, 40), (28, 5)])] })
    ∧ (managed (.joinReq 1) (from5 0x82 0 [(16, 40)]) (inState {}) fun u => u = inState {})
    ∧ (managed (.joinAck 1) (from5 0x83 0x8000 [(10, 7), (12, 3), (16, 1)]) (inState { hstate := .joining }) fun u =>
      u.house.node = 7 && u.house.epoch = 3 && u.house.hstate = .joining)
    ∧ (managed (.joinAck 1) (from5 0x83 0x8000 [(8, 9), (16, 1)]) (inState { hstate := .joining }) fun u => u.house.hstate = .candidate && u.house.refusedAt = some 0)
    ∧ (managed (.keyShare 1) (from5 0x84 0x8000 [(8, 99)]) (inState { hstate := .joining, node := 7, hall := some { serial := 50 } }) fun u =>
      u.house.hstate = .wing && u.house.nodeValid && u.house.node = 7 && u.house.houseKey.isSome)
    ∧ (managed (.dupStop 1) (from5 0x8F 0x8000 [(16, 1), (24, 77)]) (inState wing7) fun u => u.house.hstate = .stopped) :=
  ⟨managed_of _ (fun _ _ => rfl) (by decide +kernel), managed_of _ (fun _ _ => rfl) (by decide +kernel), managed_of _ (fun _ _ => rfl) (by decide +kernel),
    managed_of _ (fun _ _ => rfl) (by decide +kernel), managed_of _ (fun _ _ => rfl) (by decide +kernel), managed_of _ (fun _ _ => rfl) (by decide +kernel)⟩

/-- KEY 7 and FIXED 5 sealed under House key 3 for port 9 of node 7, receive side, epoch 2, with the tag (AES-256-GCM). -/
def sealedKey : Nat := 28846475288298911203746266256888999310781124043367622740967498297625346135788646961571252096664827556889157692746017
theorem test_house_keys :
    (managed (.keyDeliver 1) (from5 0x85 7 [(9, 1)]) (inState wing7) fun u => u = inState wing7)
    ∧ (managed (.keyDeliver 1) (from5 0x85 7 [(8, 9), (9, 1)]) (inState { wing7 with houseKey := some 3 }) fun u => u.audit.seq = 1 && (u.port 9).rxKey = none)
    ∧ (managed (.keyDeliver 1) (from5 0x85 7 [(8, 9), (9, 1), (12, 2), (16, sealedKey)]) (inState { wing7 with houseKey := some 3 }) fun u =>
      (u.port 9).rxKey.map (fun k => (k.epoch, k.key)) = some (2, 7))
    ∧ (managed (.keyReq 1) (from5 0x87 7 []) (inState wing7) fun u => u = inState wing7)
    ∧ (managed (.keyReq 1) (from5 0x87 0 [(8, 9)]) (inState { hallOf with links := [{ node := 5, port := 9, partner := 0, partnerPort := 1 }] }) fun u => u.free = 1) :=
  ⟨managed_of _ (fun _ _ => rfl) (by decide +kernel), managed_of _ (fun _ _ => rfl) (by decide +kernel), managed_of _ (fun _ _ => rfl) (by decide +kernel), managed_of _ (fun _ _ => rfl) (by decide +kernel),
    managed_of _ (fun _ _ => rfl) (by decide +kernel)⟩

theorem test_members :
    (managed (.houseDissolve 1) (from5 0x86 0x8000 [(8, 3)]) (inState wing7) fun u => u.house.hstate = .candidate && !u.house.nodeValid && u.house.members = [] && u.house.routes = [])
    ∧ (managed (.houseDissolve 1) (from5 0x86 0x8000 [(8, 2)]) (inState wing7) fun u => u = inState wing7)
    ∧ (managed (.memberUpdate 1) (from5 0x88 0 [(8, 5), (12, 9)]) { inState wing7 with fy := { state := .ready } } fun u => u.house.mgen = 5 && u.house.members = [0, 7, 9])
    ∧ (managed (.memberUpdate 1) (from5 0x88 0x8000 [(8, 5), (12, 7), (14, 1)]) (inState { wing7 with members := [0, 7, 9] }) fun u => u.house.members = [0, 9])
    ∧ (managed (.memberUpdate 1) (from5 0x88 0x8000 [(8, 4)]) (inState wing7) fun u => u = inState wing7)
    ∧ (managed (.linkReport 1) (from5 0x89 0 [(8, 9), (16, 77)]) (inState { hallOf with members := [] }) fun u => u.house.reports = [{ node := 5, port := 9, serial := 77 }])
    ∧ (managed (.linkReport 1) (from5 0x89 7 [(8, 9), (16, 77)]) (inState wing7) fun u => u = inState wing7) :=
  ⟨managed_of _ (fun _ _ => rfl) (by decide +kernel), managed_of _ (fun _ _ => rfl) (by decide +kernel), managed_of _ (fun _ _ => rfl) (by decide +kernel),
    managed_of _ (fun _ _ => rfl) (by decide +kernel), managed_of _ (fun _ _ => rfl) (by decide +kernel), managed_of _ (fun _ _ => rfl) (by decide +kernel),
    managed_of _ (fun _ _ => rfl) (by decide +kernel)⟩

/-- A GROUP_SET of the Hall. -/
def gset (fs : List (Nat × Nat)) : BitVec 512 := mgMsg 0x8E 0 0 7 fs
theorem test_ticks :
    (managed (.tick 1) (from5 0x8A 0x8000 [(8, 5000)]) (inState wing7) fun u => u.house.hallTime = 5000 && u.g.houseTime = 5000)
    ∧ (managed (.tick 1) (from5 0x8A 0x8000 [(8, 900)]) (inState wing7) fun u => u.house.hallTime = 900 && u.g.houseTime = 0 && u.house.slew = 900)
    ∧ (managed (.tick 1) (from5 0x8A 0x8000 [(8, 900)]) (inState { wing7 with hallTime := 900 }) fun u => u = inState { wing7 with hallTime := 900 })
    ∧ (managed (.beacon 1) (from5 0x8B 0x8000 [(8, 3), (25, 4)]) (inState wing7) fun u => u.house.lastBeacon = some 3 && u.cad.hallLost)
    ∧ (managed (.beacon 1) (from5 0x8B 0x8000 [(8, 3), (25, 4)]) (inState { wing7 with lastBeacon := some 3 }) fun u => !u.cad.hallLost)
    ∧ (managed (.timePing 1) (from5 0x8C 0x8000 [(8, 40)]) (inState wing7) fun u => u = (inState wing7).setPort 1 { secured with
      queue := [.mgmt (leB 64 (mgMsg 0x8D 0 7 0x8000 [(8, 40)]))] })
    ∧ (managed (.timePong 1) (from5 0x8D 0x8000 [(8, 40), (16, 50), (24, 60)]) { (inState wing7).setPort 1 { secured with pingT1 := some 40 } with g := { devState := .ready, houseTime := 90 } } fun u =>
      (u.port 1).pingT1 = none && (u.port 1).delay = 20) :=
  ⟨managed_of _ (fun _ _ => rfl) (by decide +kernel), managed_of _ (fun _ _ => rfl) (by decide +kernel), managed_of _ (fun _ _ => rfl) (by decide +kernel),
    managed_of _ (fun _ _ => rfl) (by decide +kernel), managed_of _ (fun _ _ => rfl) (by decide +kernel), managed_of _ (fun _ _ => rfl) (by decide +kernel),
    managed_of _ (fun _ _ => rfl) (by decide +kernel)⟩

theorem test_group_set :
    (managed (.groupSet 1) (gset [(8, 2), (9, 1), (10, 3), (12, 1), (16, 64)]) (inState wing7) fun u =>
      groupOf u 2 = some { slot := 0, room := 1, members := 3, rank := 1, kib := 64 })
    ∧ (managed (.groupSet 1) (gset [(8, 2), (9, 1), (10, 3), (12, 1), (16, 24577)]) (inState wing7) fun u => u.groups = [])
    ∧ (let s : State := { inState wing7 with groups := [(2, { slot := 0, room := 1, members := 3, rank := 1, kib := 64 })] }
     (managed (.groupSet 1) (gset [(8, 2), (20, 1)]) s fun u => groupOf u 2 = none) ∧ (managed (.groupSet 1) (gset [(8, 2), (20, 4)]) s fun u => groupOf u 2 = none)) :=
  ⟨managed_of _ (fun _ _ => rfl) (by decide +kernel), managed_of _ (fun _ _ => rfl) (by decide +kernel), managed_of _ (fun _ _ => rfl) (by decide +kernel),
    managed_of _ (fun _ _ => rfl) (by decide +kernel)⟩

/-- The up port's queue ends with a message. -/
def sends (w : BitVec 512) (t : State) : Bool := (t.port 1).queue = [.mgmt (leB 64 w)]
/-- A state of the House at a time. -/
def houseAt (t : Nat) (h : House) : State := { inState h with g := { dev.g with houseTime := BitVec.ofNat 64 t } }

theorem test_claiming_timers :
    (let h : House := { linkUpAt := some 5, hallAllow := true }
     let on (t : Nat) : State := { houseAt t h with g := { devState := .ready, houseTime := BitVec.ofNat 64 t, hallEligible := true } }
     after .claimStart (on 2000004) (fun t => t = on 2000004)
      && after .claimStart (on 2000005) (fun t => t.house.hstate = .claiming && t.house.lastClaim = 2000005 && t.house.best = some { serial := 1 } && t.house.bestSince = 2000005))
    && after .claimRepeat (houseAt 9000000 {}) (fun t => t = houseAt 9000000 {}) && after .hallElected (houseAt 9000000 {}) (fun t => t = houseAt 9000000 {})
    && (let h : House := { hstate := .claiming, best := some { serial := 1 }, bestSince := 4, topEpoch := 8 }
     after .claimRepeat (houseAt 1000000 h) (fun t => t.house = { h with lastClaim := 1000000 } && sends (mgMsg 0x80 0 0x8000 0x8000 [(16, 1)]) t)
      && after .hallElected (houseAt 5000004 h) (fun t => t.house.hstate = .hall && t.house.isHall && t.house.nodeValid && t.house.node = 0 && t.house.members = [0]
       && t.house.epoch = 9))
    && (let h : House := { hstate := .joining, joinAt := 5, viaPort := 3 }
     after .joinRetry (houseAt 10000004 h) (fun t => t = houseAt 10000004 h)
      && after .joinRetry (houseAt 10000005 h) (fun t => t.house = { h with joinAt := 10000005 }))
    && (let h : House := { hstate := .candidate, refusedAt := some 5, hall := some { serial := 50 }, viaPort := 3 }
     after .joinRefusedRetry (houseAt 100000004 h) (fun t => t = houseAt 100000004 h)
      && after .joinRefusedRetry (houseAt 100000005 h) (fun t => t.house.hstate = .joining && t.house.hall = some { serial := 50 } && t.house.keyPair = 0
       && t.house.refusedAt = none && t.house.viaPort = 3)) := by decide +kernel

theorem test_member_timers :
    after .tickTimer (houseAt 100000 hallOf) (fun t => t.house = { hallOf with lastTickSent := 100000 } && sends (tickMsg (inState hallOf) 100000 0) t)
    && after .tickTimer (houseAt 99999 hallOf) (fun t => t = houseAt 99999 hallOf)
    && after .timePingTimer (houseAt 100000000 wing7) (fun t => t.house = { wing7 with lastPing := 100000000 } && (t.port 1).pingT1 = some 100000000)
    && after .hallLost (houseAt 999999 wing7) (fun t => t = houseAt 999999 wing7)
    && after .hallLost (houseAt 1000000 wing7) (fun t => t.house.hstate = .candidate && !t.house.nodeValid && t.house.members = [] && t.groups = [])
    && (let h : House := { wing7 with lastTick := 1, noRoute := [(0, 0)] }
     unreached (houseAt 1000000 h) 0 && after .hallLost (houseAt 1000000 h) (fun t => t.house.hstate = .candidate))
    && (let h : House := { hallOf with noRoute := [(5, 0)], routes := [], mgen := 3, wings := [{ node := 5, serial := 50, nonce := 0 }, { node := 6, serial := 60, nonce := 0 }] }
     after (.wingRemoval 5) (houseAt 999999 h) (fun t => t = houseAt 999999 h)
      && after (.wingRemoval 5) (houseAt 1000000 h) (fun t => t.house.members = [0] && t.house.mgen = 4 && t.house.wings.map (·.node) = [6]))
    && (let l : LongCmd := { ring := 0, packet := packet 0x73 1 [(16, 2), (18, 2), (20, 24576), (24, 0x2000000000001000)], start := 0, awaits := [5], members := [5] }
     let on (t : Nat) : State := { foyer (housed) with fy := { state := .ready, longs := [l] }, g := { devState := .ready, houseTime := BitVec.ofNat 64 t } }
     let s := on 10000000
     s.wf && hostReach s 0 && (s.ring 0).enable && !(s.ring 0).ringError && after (.groupDefineTimeout 2) (on 9999999) (fun t => t = on 9999999)
      && after (.groupDefineTimeout 2) s (fun t => t.fy.longs = [] && t.house.groupDefs = []
       && mread t.host (hostKey 0 (replySlot (s.ring 0))) 32 = replyBytes (s.ring 0).replyPhase l.packet St.linkDown l.detail 0 0)) := by decide +kernel

/-! ### The Study and the sideband -/

/-- Job 4 of SQ 2 is entry 17, a TOKENIZE of one row; Room 1 has a Cellar granule at 2 MiB. -/
def studying (j : Job → Job) : State :=
  { (dev.setRoom 1 { dev.room 1 with windows := [(0, { valid := true, granules := 1, physGran := 1 }), (1, { valid := true, cellar := true, granules := 1, physGran := 1 })] }).setSq 2
      { valid := true, room := 1, dispatched := [{ count := 17, tag := 9, opcode := 8, late := false, irq := false }] } with
    cellar := mwrite [] 0x200000 [1]
    study := { jobs := [(4, j { room := 1, sq := 2, count := 17, set := { valid := true, pretokAddr := 2 ^ 60, vocabAddr := 2 ^ 60, mergeAddr := 2 ^ 60 }
                                word := wordOf 512 [(0, 8), (144, 1), (160, 4), (192, 0x1000), (256, 0x2000), (320, 0x3000), (384, 0x4000)] })] } }

theorem test_study_jobs :
    (let s := studying fun j => { j with table := some [0, 0], row := 1, positions := 3 }
     s.wf && s.study.jobs.all (fun x => jobHeld s x.2 = []) && after (.studyJobComplete 4) s (fun t => t.study.jobs = [] && sameMem s t
      && (t.sq 2).reports = [{ count := 17, tag := 9, status := St.ok, result := 3, irq := false, opcode := 8 }]))
    && (let s := studying fun j => { j with set := {} }
     s.study.jobs.all (fun x => jobHeld s x.2 = []) && [(.studyJobComplete 4 : Instr), .studyCacheFill 4].all fun i => after i s (fun t => t.study.jobs = [] && sameMem s t
      && (t.sq 2).reports = [{ count := 17, tag := 9, status := St.malformed, result := 0, irq := false, opcode := 8 }]))
    && (let s := studying fun j => { j with table := some [0, 0] }
     s.study.jobs.all (fun x => jobHeld s x.2 = []) && after (.studyCacheFill 4) s (fun t => t.study.jobs.map (·.2.seen) = [1] && t.study.misses = 1 && sameMem s t
      && t.study.cache = [{ room := 1, set := 0, gen := 0, addr := 0, data := 1 }])) := by decide +kernel

theorem test_sideband :
    (let s : State := { dev with side := { eid := 9 } }
     after (.mctpSetEndpointId [0, 0x80, 1, 0, 8]) s (fun t => t = { dev with side := { eid := 8 } }.emit (.mctp [0, 0, 1, 0, 0, 8, 0]))
      && after (.mctpSetEndpointId [0, 0x85, 1, 0]) s (fun t => t = s.emit (.mctp [0, 5, 1, 3]))
      && after (.mctpGetEndpointId [0, 0x80, 2]) s (fun t => t = s.emit (.mctp [0, 0, 2, 0, 9, 0, 0]))
      && after (.mctpGetEndpointUuid [0, 0x80, 3]) s (fun t => t.outputs.length = 1)
      && after (.mctpGetVersionSupport [0, 0x80, 4, 0]) s (fun t => t.outputs.length = 1)
      && after (.mctpGetMessageTypeSupport [0, 0x80, 5]) s (fun t => t = s.emit (.mctp [0, 0, 5, 0, 1, 0]))
      && after (.mctpUnsupportedCmd [0, 0x80, 6]) s (fun t => t = s.emit (.mctp [0, 0, 6, 5]))
      && after (.mctpUnsupportedCmd [0, 0, 6]) s (fun t => t = s))
    && (let s : State := { dev with side := { extest := true } }
     after (.jtagBypass [true, true]) s (fun t => t = dev.emit (.jtag [false, true]))
      && after (.jtagIdcode [true, true]) s (fun t => t.outputs.length = 1 && !t.side.extest)
      && after (.jtagSamplePreload [true]) s (fun t => !t.side.extest)
      && after (.jtagExtest [true, true]) s (fun t => t = dev.emit (.jtag [false, true]))) := by decide +kernel

/-! ### The step and the state after reset -/

theorem test_step : State.reset.wf && State.reset.pending = [] && dev.wf
    && (let s := State.reset
     (match step { s with pending := [.vfBmeClear 1, .pfFlr] } with | .next t => t = { s with pending := [.pfFlr] } | _ => false)
      && (match step s with | .next t => t.g.houseTime = 1 && t.wf | _ => false)) := by decide +kernel

end Sys2Proof.Machine
end

section
/-! PROOFS. What failures of work and the Room reset's steps leave unchanged: the functions, the Rooms' records, the rings,
the long commands (03 R142, 07 R346, R351, 08 R386, 12 R574). -/
namespace Sys2Proof.Machine

/-! ### The part of the state that no failure of work reaches -/

/-- GCTL but its interrupt status, and the PCIe functions but their ATS caches. -/
def busPart (s : State) : Gctl × Pcie := ({ s.g with irqStatus := 0 }, { s.pcie with ats := [] })

/-- What a failure of a channel's, a queue's or a group's work never changes: the bus part, the Rooms' records, the command
rings and the long commands. -/
def steadyPart (s : State) : (Gctl × Pcie) × Table Room × Table Ring × List LongCmd :=
  (busPart s, s.rooms, s.rings, s.fy.longs)

theorem steadyPart_bus {s t : State} (h : steadyPart t = steadyPart s) : busPart t = busPart s := congrArg (·.1) h
theorem steadyPart_rings {s t : State} (h : steadyPart t = steadyPart s) : t.rings = s.rings := congrArg (·.2.2.1) h
theorem steadyPart_longs {s t : State} (h : steadyPart t = steadyPart s) : t.fy.longs = s.fy.longs := congrArg (·.2.2.2) h

theorem busPart_now {s t : State} (h : busPart t = busPart s) : t.now = s.now :=
  congrArg (fun x : Gctl × Pcie => x.1.houseTime.toNat) h

/-- The functions' enables and their number are in the bus part. -/
theorem busPart_pcie {s t : State} (h : busPart t = busPart s) : t.pcie = { s.pcie with ats := t.pcie.ats } := by
  have e : ({ t.pcie with ats := [] } : Pcie) = { s.pcie with ats := [] } := congrArg Prod.snd h
  exact (congrArg (fun x : Pcie => { x with ats := t.pcie.ats }) e :)

theorem steadyPart_foldl {α : Type} {f : State → α → State} (h : ∀ t a, steadyPart (f t a) = steadyPart t) (l : List α)
    (s : State) : steadyPart (l.foldl f s) = steadyPart s := by
  induction l generalizing s with
  | nil => rfl
  | cons a r ih => exact (ih _).trans (h s a)

/-! ### Updates of one field -/

@[simp] theorem steadyPart_setChan (s : State) (c : Nat) (r : Chan) : steadyPart (s.setChan c r) = steadyPart s := rfl
@[simp] theorem steadyPart_setSq (s : State) (g : Nat) (r : Sq) : steadyPart (s.setSq g r) = steadyPart s := rfl
@[simp] theorem steadyPart_setCq (s : State) (g : Nat) (r : Cq) : steadyPart (s.setCq g r) = steadyPart s := rfl
@[simp] theorem steadyPart_setFlag (s : State) (p : Nat) (r : Flag) : steadyPart (s.setFlag p r) = steadyPart s := rfl
@[simp] theorem steadyPart_setCounter (s : State) (p : Nat) (r : Counter) :
    steadyPart (s.setCounter p r) = steadyPart s := rfl
@[simp] theorem steadyPart_setWire (s : State) (w : Nat) (r : Wire) : steadyPart (s.setWire w r) = steadyPart s := rfl
@[simp] theorem steadyPart_setPort (s : State) (p : Nat) (r : Port) : steadyPart (s.setPort p r) = steadyPart s := rfl
@[simp] theorem steadyPart_setGroup (s : State) (g : Nat) (x : Group) : steadyPart (setGroup g x s) = steadyPart s := rfl
@[simp] theorem steadyPart_dropWaiter (s : State) (w : Waiter) : steadyPart (dropWaiter w s) = steadyPart s := rfl
@[simp] theorem steadyPart_hostReads (s : State) (x : List HostRead) :
    steadyPart { s with hostReads := x } = steadyPart s := rfl
@[simp] theorem steadyPart_tags (s : State) (x : List Nat) : steadyPart { s with tags := x } = steadyPart s := rfl
@[simp] theorem steadyPart_house (s : State) (x : House) : steadyPart { s with house := x } = steadyPart s := rfl
@[simp] theorem steadyPart_peerReads (s : State) (x : List PeerRead) :
    steadyPart { s with peerReads := x } = steadyPart s := rfl
@[simp] theorem steadyPart_sqSignals (s : State) (x : List SqSignal) :
    steadyPart { s with sqSignals := x } = steadyPart s := rfl

/-! ### Records, interrupts and Host requests -/

theorem steadyPart_of_recorded {s t : State} (h : Recorded s t) : steadyPart t = steadyPart s := by
  unfold Recorded at h
  exact (congrArg steadyPart h :)

@[simp] theorem steadyPart_sendMsix (fn vec : Nat) (s : State) : steadyPart (sendMsix fn vec s) = steadyPart s :=
  steadyPart_of_recorded (recorded_sendMsix ..)
@[simp] theorem steadyPart_auditRec (r : ErrRec) (s : State) : steadyPart (auditRec r s) = steadyPart s :=
  steadyPart_of_recorded (recorded_auditRec ..)
@[simp] theorem steadyPart_roomRec (k : Nat) (r : ErrRec) (s : State) : steadyPart (roomRec k r s) = steadyPart s :=
  steadyPart_of_recorded (recorded_roomRec ..)

/-- A read request may leave a translation in the ATS cache, and nothing else of the functions (log entry 78). -/
@[simp] theorem steadyPart_hostReadOut (fn a n : Nat) (s : State) : steadyPart (hostReadOut fn a n s) = steadyPart s := by
  unfold hostReadOut
  dsimp only
  split <;> rfl

@[simp] theorem steadyPart_enqueue (p : Nat) (i : TxItem) (s : State) : steadyPart (enqueue p i s) = steadyPart s := rfl

@[simp] theorem steadyPart_sendMsg (m : Msg) (s : State) : steadyPart (sendMsg m s) = steadyPart s := by
  unfold sendMsg
  split <;> rfl

/-! ### The end of an instruction, a program, a flight -/

@[simp] theorem steadyPart_completeEntry (g : Nat) (n : Half) (st : Byte) (r : Word) (s : State) :
    steadyPart (completeEntry g n st r s) = steadyPart s := by
  unfold completeEntry
  dsimp only
  split <;> rfl

@[simp] theorem steadyPart_triggerEvent (c : Nat) (s : State) : steadyPart (triggerEvent c s) = steadyPart s := by
  unfold triggerEvent
  dsimp only
  split
  · rfl
  · split <;> rfl

@[simp] theorem steadyPart_raiseEvent (c bit : Nat) (s : State) : steadyPart (raiseEvent c bit s) = steadyPart s := by
  have e (t : State) : steadyPart ((followers t c).foldl (fun t d => triggerEvent d t) t) = steadyPart t :=
    steadyPart_foldl (fun t d => steadyPart_triggerEvent d t) _ t
  unfold raiseEvent
  dsimp only
  split <;> split <;> simp [e]

@[simp] theorem steadyPart_finishProgram (c : Nat) (st : Byte) (r : Word) (s : State) :
    steadyPart (finishProgram c st r s) = steadyPart s := by
  unfold finishProgram
  dsimp only
  split
  · split
    · exact steadyPart_completeEntry ..
    · rfl
  · rw [steadyPart_raiseEvent]
    split
    · exact steadyPart_completeEntry ..
    · rfl

@[simp] theorem steadyPart_endProgram (c : Nat) (st : Byte) (r : Word) (s : State) :
    steadyPart (endProgram c st r s) = steadyPart s := by
  unfold endProgram
  dsimp only
  split
  · split <;> simp
  · simp

@[simp] theorem steadyPart_advance (c : Nat) (s : State) : steadyPart (advance c s) = steadyPart s := by
  unfold advance
  dsimp only
  split <;> simp

@[simp] theorem steadyPart_pokeByte (k : Nat) (a : Word) (b : Byte) (s : State) :
    steadyPart (pokeByte k a b s) = steadyPart s := by
  unfold pokeByte
  split
  · split
    · split <;> rfl
    · rfl
  · split <;> rfl
  · rfl

@[simp] theorem steadyPart_badReport (c : Nat) (i : Bool) (pc : Word) (st : Byte) (r : ErrRec) (s : State) :
    steadyPart (badReport c i pc st r s) = steadyPart s := by
  unfold badReport
  cases i <;> simp

@[simp] theorem steadyPart_badSteps (c : Nat) (pc : Word) (o : Byte) (e : Nat) (st : Byte) (r : ErrRec) (s : State) :
    steadyPart (badSteps c pc o e st r s) = steadyPart s := by
  simp [badSteps]

@[simp] theorem steadyPart_proveWrites (c : Nat) (s : State) : steadyPart (proveWrites c s) = steadyPart s := by
  unfold proveWrites
  dsimp only
  split
  · exact steadyPart_hostReadOut ..
  · rfl

@[simp] theorem steadyPart_markBadRec (c : Nat) (o : Byte) (f : BitVec 16) (e : Nat) (st : Byte) (r : ErrRec) (s : State) :
    steadyPart (markBadRec c o f e st r s) = steadyPart s := by
  unfold markBadRec
  dsimp only
  split
  · simp
  · split <;> simp

@[simp] theorem steadyPart_afterArrival (c : Nat) (s : State) : steadyPart (afterArrival c s) = steadyPart s := by
  unfold afterArrival
  dsimp only
  split
  · split <;> simp
  · split
    · split <;> simp
    · split <;> simp
    · rfl

@[simp] theorem steadyPart_failFlight (c : Nat) (k : FlightKind) (st : Byte) (s : State) :
    steadyPart (failFlight c k st s) = steadyPart s := by
  unfold failFlight
  dsimp only
  split
  · rfl
  · split
    · simp
    · split
      · simp
      · split
        · split <;> simp
        · split <;> simp

@[simp] theorem steadyPart_failCur (c : Nat) (st : Byte) (s : State) : steadyPart (failCur c st s) = steadyPart s := by
  unfold failCur
  split <;> simp

/-! ### The end of a wait -/

@[simp] theorem steadyPart_endWait (w : Waiter) (st : Byte) (v : Word) (s : State) :
    steadyPart (endWait w st v s) = steadyPart s := by
  unfold endWait
  dsimp only
  split
  · split <;> simp
  · rw [steadyPart_completeEntry, steadyPart_setSq]
    split <;> simp
  · simp

@[simp] theorem steadyPart_clearArrivals (i : Nat) (s : State) : steadyPart (clearArrivals i s) = steadyPart s := rfl

@[simp] theorem steadyPart_evalWire (i : Nat) (s : State) : steadyPart (evalWire i s) = steadyPart s := by
  unfold evalWire
  split <;> simp

@[simp] theorem steadyPart_arriveWire (c i : Nat) (s : State) : steadyPart (arriveWire c i s) = steadyPart s := by
  simp [arriveWire]

@[simp] theorem steadyPart_consumeObj (w : Waiter) (s : State) : steadyPart (consumeObj w s) = steadyPart s := by
  unfold consumeObj
  split
  · split <;> simp
  · split <;> simp
  · split <;> simp
  · rfl

@[simp] theorem steadyPart_meetWait (w : Waiter) (s : State) : steadyPart (meetWait w s) = steadyPart s := by
  unfold meetWait
  split <;> simp

@[simp] theorem steadyPart_settle (s : State) : steadyPart (settle s) = steadyPart s := by
  suffices ∀ n t, steadyPart (settleN n t) = steadyPart t from this _ s
  intro n
  induction n with
  | zero => exact fun _ => rfl
  | succ n ih =>
    intro t
    rw [settleN]
    split
    · rfl
    · rw [ih, steadyPart_meetWait]

@[simp] theorem steadyPart_releaseWaits (p : Waiter → Bool) (st : Byte) (s : State) :
    steadyPart (releaseWaits p st s) = steadyPart s := by
  suffices ∀ n t, steadyPart (releaseN p st n t) = steadyPart t from this _ s
  intro n
  induction n with
  | zero => exact fun _ => rfl
  | succ n ih =>
    intro t
    rw [releaseN]
    split
    · rfl
    · rw [ih, steadyPart_endWait]

@[simp] theorem steadyPart_evalWires (s : State) : steadyPart (evalWires s) = steadyPart s :=
  (steadyPart_settle _).trans (steadyPart_foldl (fun t i => steadyPart_evalWire i t) _ s)

/-! ### A group's instances end -/

@[simp] theorem steadyPart_failPending (g : Nat) (st : Byte) (s : State) (c : Nat) :
    steadyPart (failPending g st s c) = steadyPart s := by
  unfold failPending
  dsimp only
  generalize hu : List.foldl _ s (s.chan c).flights = u
  have flights : steadyPart u = steadyPart s := by
    rw [← hu]
    refine steadyPart_foldl (fun t f => ?_) _ s
    split
    · split <;> simp
    · rfl
  split
  · split
    · rw [steadyPart_failCur]
      split <;> simp [flights]
    · split <;> simp [flights]
  · split <;> simp [flights]

@[simp] theorem steadyPart_endInstance (g : Nat) (st : Byte) (tell : Bool) (s : State) :
    steadyPart (endInstance g st tell s) = steadyPart s := by
  have pend (l : List Nat) (t : State) : steadyPart (l.foldl (failPending g st) t) = steadyPart t :=
    steadyPart_foldl (steadyPart_failPending g st) l t
  have told (l : List Nat) (m : Nat → Msg) (t : State) : steadyPart (l.foldl (fun t n => sendMsg (m n) t) t)
      = steadyPart t := steadyPart_foldl (fun t n => steadyPart_sendMsg (m n) t) l t
  unfold endInstance
  split
  · rfl
  · split
    · rfl
    · dsimp only
      split <;> simp [pend, told]

@[simp] theorem steadyPart_answerGrant (g : Nat) (r : Reservation) (st : Byte) (s : State) :
    steadyPart (answerGrant g r st s) = steadyPart s := by
  unfold answerGrant
  split
  · simp
  · split
    · split
      · rfl
      · simp
    · rfl

@[simp] theorem steadyPart_reduceFails (k g : Nat) (st : Byte) (s : State) :
    steadyPart (reduceFails k g st s) = steadyPart s := by
  unfold reduceFails
  split
  · split <;> simp
  · rfl

/-! ### The Room reset's own steps -/

@[simp] theorem steadyPart_pauseWaits (c : Nat) (s : State) : steadyPart (pauseWaits c s) = steadyPart s := rfl

@[simp] theorem steadyPart_haltChannel (s : State) (c : Nat) : steadyPart (haltChannel s c) = steadyPart s := by
  unfold haltChannel
  dsimp only
  split <;> simp

@[simp] theorem steadyPart_cancelRemote (w : Waiter) (s : State) : steadyPart (cancelRemote w s) = steadyPart s := by
  unfold cancelRemote
  split <;> simp

@[simp] theorem steadyPart_dropSqItems (g : Nat) (keep : Bool) (s : State) :
    steadyPart (dropSqItems g keep s) = steadyPart s :=
  steadyPart_foldl (fun t w => steadyPart_cancelRemote w t) _ s

@[simp] theorem steadyPart_resetStart (k : Nat) (s : State) : steadyPart (resetStart k s) = steadyPart s :=
  (steadyPart_foldl steadyPart_haltChannel _ _).trans
    (steadyPart_foldl (fun _ g => (steadyPart_dropSqItems g false _).trans (steadyPart_setSq ..)) _ _)

@[simp] theorem steadyPart_withdrawArrivals (c : Nat) (s : State) : steadyPart (withdrawArrivals c s) = steadyPart s :=
  steadyPart_foldl (fun _ _ => steadyPart_setWire ..) _ s

@[simp] theorem steadyPart_dropChannelWork (c : Nat) (s : State) : steadyPart (dropChannelWork c s) = steadyPart s :=
  steadyPart_foldl (fun t w => steadyPart_cancelRemote w t) _ s

@[simp] theorem steadyPart_stopChannel (s : State) (c : Nat) : steadyPart (stopChannel s c) = steadyPart s := by
  unfold stopChannel silentReset
  dsimp only
  split <;> simp

@[simp] theorem steadyPart_abortGroup (s : State) (g : Nat) : steadyPart (abortGroup s g) = steadyPart s := by
  have refused (l : List Reservation) (t : State) :
      steadyPart (l.foldl (fun t r => answerGrant g r St.roomReset t) t) = steadyPart t :=
    steadyPart_foldl (fun t r => steadyPart_answerGrant g r St.roomReset t) l t
  unfold abortGroup
  dsimp only
  split
  · rw [steadyPart_setGroup, steadyPart_endInstance]
    split
    · exact refused ..
    · rfl
  · rw [steadyPart_endInstance]
    split
    · exact refused ..
    · rfl

@[simp] theorem steadyPart_setTags (ws : List Nat) (full : Bool) (s : State) :
    steadyPart (setTags ws full s) = steadyPart s := rfl

@[simp] theorem steadyPart_releaseSlot (i : Nat) (s : State) : steadyPart (releaseSlot i s) = steadyPart s := rfl

@[simp] theorem steadyPart_freeRoomBufs (k : Nat) (s : State) : steadyPart (freeRoomBufs k s) = steadyPart s :=
  steadyPart_foldl (fun t i => steadyPart_releaseSlot i t) _ s

@[simp] theorem steadyPart_finishDestroy (g : Nat) (s : State) : steadyPart (finishDestroy g s) = steadyPart s := by
  unfold finishDestroy
  dsimp only
  split
  · rw [steadyPart_setSq]
    split
    · split <;> simp
    · rfl
  · rfl

@[simp] theorem steadyPart_resetSq (k : Nat) (s : State) (g : Nat) : steadyPart (resetSq k s g) = steadyPart s := by
  unfold resetSq
  dsimp only
  split <;> simp

/-! ### Steps 3 to 7 of a Room reset (R346) -/

/-- The bus part and the Rooms' records. -/
def keptPart (s : State) : (Gctl × Pcie) × Table Room := (busPart s, s.rooms)

theorem keptPart_of_steady {s t : State} (h : steadyPart t = steadyPart s) : keptPart t = keptPart s :=
  congrArg (fun x => (x.1, x.2.1)) h

/-- The reset of Room k waits for no burst any more. -/
def holdOver (k : Nat) (s : State) : State :=
  match (s.room k).reset with
  | some x => s.setRoom k { s.room k with reset := some { x with stopping := false } }
  | none => s

/-- What is left of the steps once the Room's queues are reinitialised: its long commands end, its ring's waiting packets
go, and its energy starts again. -/
def resetTail (k : Nat) (s : State) : State :=
  let s := endLongs (fun l => l.ring = k) St.roomReset 0 (fun _ => (0, 0)) s
  let r := s.ring k
  let s := s.setRing k { r with cons := r.prod, replyPhase := r.prod.toNat / r.size % 2 = 0 }
  let s := s.setOvf k { s.ovfOf k with next := 0 }
  evalWires (s.setRoom k { s.room k with balance := (s.room k).balance.map fun _ => 0, deferred := false })

theorem resetSteps_eq_tail (k : Nat) (s : State) :
    ∃ p, resetSteps k s = resetTail k p ∧ steadyPart p = steadyPart (holdOver k s) := by
  refine ⟨_, rfl, ?_⟩
  refine (steadyPart_foldl (fun _ _ => steadyPart_setCq ..) _ _).trans ?_
  refine (steadyPart_foldl (steadyPart_resetSq k) _ _).trans ?_
  refine (steadyPart_freeRoomBufs ..).trans ?_
  refine (steadyPart_foldl (fun t i => by split <;> rfl) _ _).trans ?_
  refine (steadyPart_releaseWaits ..).trans ?_
  refine (steadyPart_foldl (fun _ _ => steadyPart_setTags ..) _ _).trans ?_
  refine (steadyPart_foldl (fun _ _ => steadyPart_setCounter ..) _ _).trans ?_
  refine (steadyPart_foldl (fun _ _ => steadyPart_setFlag ..) _ _).trans ?_
  refine (steadyPart_foldl (fun t g => steadyPart_foldl (fun _ _ => steadyPart_sendMsg ..) _ t) _ _).trans ?_
  refine (steadyPart_foldl steadyPart_abortGroup _ _).trans ?_
  exact steadyPart_foldl steadyPart_stopChannel _ _

/-! ### Replies (R260, R346 step 6) -/

theorem keptPart_foldl {α : Type} {f : State → α → State} (h : ∀ t a, keptPart (f t a) = keptPart t) (l : List α)
    (s : State) : keptPart (l.foldl f s) = keptPart s := by
  induction l generalizing s with
  | nil => rfl
  | cons a r ih => exact (ih _).trans (h s a)

@[simp] theorem keptPart_setRing (s : State) (k : Nat) (r : Ring) : keptPart (s.setRing k r) = keptPart s := rfl
@[simp] theorem keptPart_sendMsix (fn vec : Nat) (s : State) : keptPart (sendMsix fn vec s) = keptPart s :=
  keptPart_of_steady (steadyPart_sendMsix ..)
@[simp] theorem keptPart_auditRec (r : ErrRec) (s : State) : keptPart (auditRec r s) = keptPart s :=
  keptPart_of_steady (steadyPart_auditRec ..)
@[simp] theorem keptPart_roomRec (k : Nat) (r : ErrRec) (s : State) : keptPart (roomRec k r s) = keptPart s :=
  keptPart_of_steady (steadyPart_roomRec ..)

@[simp] theorem keptPart_ringFails (k : Nat) (a : Word) (s : State) : keptPart (ringFails k a s) = keptPart s := by
  unfold ringFails ringRec
  dsimp only
  split <;> simp

/-- A reply changes its ring, and of the bus part and the Rooms nothing. -/
@[simp] theorem keptPart_writeReply (k : Nat) (p : BitVec 512) (st : Byte) (dt : BitVec 16) (r0 r1 : Word) (s : State) :
    keptPart (writeReply k p st dt r0 r1 s) = keptPart s := by
  unfold writeReply
  dsimp only
  split
  · rfl
  · have put := keptPart_of_steady (steadyPart_of_recorded (recorded_hostPut s k (replySlot (s.ring k))
      (replyBytes (s.ring k).replyPhase p st dt r0 r1)))
    split
    all_goals
      rename_i s1 e
      rw [e] at put
    · split <;> simp [put]
    · simp [put]

@[simp] theorem steadyPart_auditPacket (k : Nat) (p : BitVec 512) (st : Byte) (dt : BitVec 16) (r0 r1 : Word) (s : State) :
    steadyPart (auditPacket k p st dt r0 r1 s) = steadyPart s := by
  unfold auditPacket
  dsimp only
  split <;> simp

@[simp] theorem keptPart_endLong (l : LongCmd) (st : Byte) (dt : BitVec 16) (r0 r1 : Word) (s : State) :
    keptPart (endLong l st dt r0 r1 s) = keptPart s := by
  have record (t : State) : keptPart (auditPacket l.ring l.packet st dt r0 r1 t) = keptPart t :=
    keptPart_of_steady (steadyPart_auditPacket ..)
  unfold endLong
  dsimp only
  split
  · exact record _
  · exact (keptPart_writeReply ..).trans (record _)

@[simp] theorem keptPart_endLongs (sel : LongCmd → Bool) (st : Byte) (dt : BitVec 16) (res : LongCmd → Word × Word)
    (s : State) : keptPart (endLongs sel st dt res s) = keptPart s :=
  keptPart_foldl (fun _ l => keptPart_endLong l ..) _ s

/-- A long command whose ring has been disabled ends without a reply (R264). -/
theorem endLong_rings {l : LongCmd} (h : l.orphan = true) (st : Byte) (dt : BitVec 16) (r0 r1 : Word) (s : State) :
    (endLong l st dt r0 r1 s).rings = s.rings := by
  rw [endLong, if_pos h]
  exact (steadyPart_rings (steadyPart_auditPacket ..) :)

theorem endLongs_rings {sel : LongCmd → Bool} {s : State} (h : ∀ l ∈ s.fy.longs, sel l = true → l.orphan = true)
    (st : Byte) (dt : BitVec 16) (res : LongCmd → Word × Word) : (endLongs sel st dt res s).rings = s.rings := by
  have orphans : ∀ l ∈ s.fy.longs.filter sel, l.orphan = true := fun l hl =>
    h l (List.mem_of_mem_filter hl) (List.of_mem_filter hl)
  refine List.foldlRecOn (motive := fun t : State => t.rings = s.rings) _ _ rfl fun t ht l hl => ?_
  exact (endLong_rings (orphans l hl) ..).trans ht

/-! ### What a Room reset changes of the Rooms (R346) -/

/-- The Room's energy starts again (R346 step 7). -/
def calmRoom (r : Room) : Room := { r with balance := r.balance.map fun _ => 0, deferred := false }

theorem resetTail_eq_calm (k : Nat) (s : State) :
    ∃ u, resetTail k s = evalWires (u.setRoom k (calmRoom (u.room k))) ∧ keptPart u = keptPart s :=
  ⟨_, rfl, keptPart_endLongs ..⟩

theorem keptPart_room {s t : State} (h : keptPart t = keptPart s) (j : Nat) : t.room j = s.room j :=
  congrArg (fun x : (Gctl × Pcie) × Table Room => tget x.2 {} j) h

theorem keptPart_bus {s t : State} (h : keptPart t = keptPart s) : busPart t = busPart s := congrArg (·.1) h

theorem holdOver_room {k : Nat} {s : State} {x : RoomReset} (h : (s.room k).reset = some x) :
    (holdOver k s).room k = { s.room k with reset := some { x with stopping := false } } := by
  simp only [holdOver, h]
  exact State.setRoom_room_of_ne s k fun e => by simpa using congrArg Room.reset e

theorem holdOver_room_ne (s : State) {k j : Nat} (h : j ≠ k) : (holdOver k s).room j = s.room j := by
  unfold holdOver
  split
  · exact State.setRoom_room_ne s _ h
  · rfl

theorem holdOver_bus (k : Nat) (s : State) : busPart (holdOver k s) = busPart s := by
  unfold holdOver
  split <;> rfl

theorem holdOver_rings (k : Nat) (s : State) : (holdOver k s).rings = s.rings := by
  unfold holdOver
  split <;> rfl

theorem holdOver_longs (k : Nat) (s : State) : (holdOver k s).fy.longs = s.fy.longs := by
  unfold holdOver
  split <;> rfl

theorem resetSteps_bus (k : Nat) (s : State) : busPart (resetSteps k s) = busPart s := by
  obtain ⟨p, hp, hs⟩ := resetSteps_eq_tail k s
  obtain ⟨u, hu, hk⟩ := resetTail_eq_calm k p
  calc busPart (resetSteps k s)
    _ = busPart (u.setRoom k (calmRoom (u.room k))) := by rw [hp, hu, steadyPart_bus (steadyPart_evalWires _)]
    _ = busPart u := rfl
    _ = busPart p := keptPart_bus hk
    _ = busPart s := (steadyPart_bus hs).trans (holdOver_bus k s)

theorem resetSteps_room_ne (s : State) {k j : Nat} (h : j ≠ k) : (resetSteps k s).room j = s.room j := by
  obtain ⟨p, hp, hs⟩ := resetSteps_eq_tail k s
  obtain ⟨u, hu, hk⟩ := resetTail_eq_calm k p
  rw [hp, hu, keptPart_room (keptPart_of_steady (steadyPart_evalWires _)), State.setRoom_room_ne _ _ h,
    keptPart_room hk, keptPart_room (keptPart_of_steady hs), holdOver_room_ne s h]

theorem resetSteps_room {k : Nat} {s : State} {x : RoomReset} (h : (s.room k).reset = some x) :
    (resetSteps k s).room k = calmRoom { s.room k with reset := some { x with stopping := false } } := by
  obtain ⟨p, hp, hs⟩ := resetSteps_eq_tail k s
  obtain ⟨u, hu, hk⟩ := resetTail_eq_calm k p
  have hr : u.room k = { s.room k with reset := some { x with stopping := false } } := by
    rw [keptPart_room hk, keptPart_room (keptPart_of_steady hs), holdOver_room h]
  rw [hp, hu, keptPart_room (keptPart_of_steady (steadyPart_evalWires _)), hr]
  exact State.setRoom_room_of_ne u k fun e => by simpa [calmRoom] using congrArg Room.reset e

theorem goOnReset_bus (k : Nat) (s : State) : busPart (goOnReset k s) = busPart s := by
  unfold goOnReset
  split
  · split
    · exact resetSteps_bus k s
    · rfl
  · rfl

theorem goOnReset_room_ne (s : State) {k j : Nat} (h : j ≠ k) : (goOnReset k s).room j = s.room j := by
  unfold goOnReset
  split
  · split
    · exact resetSteps_room_ne s h
    · rfl
  · rfl

/-- The Room's record where the sequence goes on or waits: the hold ends with the Room's last burst. -/
theorem goOnReset_room {k : Nat} {s : State} {x : RoomReset} (h : (s.room k).reset = some x) :
    ∃ b d, (goOnReset k s).room k = { s.room k with
      reset := some { x with stopping := x.stopping && roomBurst s k }, balance := b, deferred := d } := by
  unfold goOnReset
  rw [h]
  dsimp only
  split
  · rename_i hb
    simp only [Bool.and_eq_true, Bool.not_eq_true'] at hb
    exact ⟨_, _, by rw [resetSteps_room h, hb.2, Bool.and_false]; rfl⟩
  · rename_i hb
    have hx : (x.stopping && roomBurst s k) = x.stopping := by
      cases hs : x.stopping <;> simp_all
    exact ⟨(s.room k).balance, (s.room k).deferred, by rw [hx, ← h]⟩

/-! ### The start of a Room reset (R346, R351) -/

/-- A record other than the default is listed. -/
theorem mem_of_tget_ne {α : Type} {t : Table α} {d : α} {k : Nat} (h : tget t d k ≠ d) : (k, tget t d k) ∈ t := by
  induction t with
  | nil => exact absurd rfl h
  | cons p r ih =>
    obtain ⟨i, a⟩ := p
    simp only [tget] at h ⊢
    split
    · rename_i e
      simp [e]
    · rename_i e
      rw [if_neg e] at h
      exact List.mem_cons_of_mem _ (ih h)

/-- The Room's channels are those assigned to it. -/
theorem mem_roomChans {s : State} (h : tableWf {} s.chans = true) {k c : Nat} :
    c ∈ roomChans s k ↔ (s.chan c).assigned = true ∧ (s.chan c).room.toNat = k := by
  simp only [roomChans, List.mem_map, List.mem_filter, Bool.and_eq_true, decide_eq_true_eq]
  constructor
  · rintro ⟨p, ⟨hp, ha⟩, rfl⟩
    rwa [State.chan, tget_of_mem h hp]
  · intro ha
    have listed : s.chan c ≠ {} := fun e => by simp [e] at ha
    exact ⟨(c, s.chan c), ⟨mem_of_tget_ne listed, ha⟩, rfl⟩

/-- What the halt of step 2 leaves of every channel: its assignment and the instruction in progress. -/
def SameWork (s t : State) : Prop :=
  tableWf {} t.chans = true ∧ ∀ c, (t.chan c).assigned = (s.chan c).assigned ∧ (t.chan c).room = (s.chan c).room
    ∧ (t.chan c).cur = (s.chan c).cur

theorem roomBurst_of_sameWork {s t : State} (hs : tableWf {} s.chans = true) (h : SameWork s t) (k : Nat) :
    roomBurst t k = roomBurst s k := by
  obtain ⟨ht, hc⟩ := h
  rw [Bool.eq_iff_iff]
  simp only [roomBurst, List.any_eq_true, mem_roomChans hs, mem_roomChans ht]
  refine exists_congr fun c => ?_
  obtain ⟨ha, hr, hq⟩ := hc c
  simp [ha, hr, hq, burstHeld]

theorem sameWork_setChan {s t : State} {c : Nat} {h : Chan} (hst : SameWork s t) (ha : h.assigned = (t.chan c).assigned)
    (hr : h.room = (t.chan c).room) (hq : h.cur = (t.chan c).cur) : SameWork s (t.setChan c h) := by
  obtain ⟨ht, hc⟩ := hst
  refine ⟨State.setChan_wf c h ht, fun d => ?_⟩
  by_cases e : d = c
  · subst e
    rw [State.setChan_chan_eq d h ht, ha, hr, hq]
    exact hc d
  · rw [State.setChan_chan_ne t h e]
    exact hc d

theorem sameWork_haltChannel {s t : State} (h : SameWork s t) (c : Nat) : SameWork s (haltChannel t c) := by
  unfold haltChannel
  dsimp only
  split <;> exact sameWork_setChan h rfl rfl rfl

theorem cancelRemote_chans (w : Waiter) (s : State) : (cancelRemote w s).chans = s.chans := by
  unfold cancelRemote sendMsg
  split
  · split <;> rfl
  · rfl

theorem dropSqItems_chans (g : Nat) (keep : Bool) (s : State) : (dropSqItems g keep s).chans = s.chans :=
  List.foldlRecOn (motive := fun t : State => t.chans = s.chans) _ _ rfl fun t ht w _ => (cancelRemote_chans w t).trans ht

theorem sameWork_of_chans {s t : State} (h : tableWf {} s.chans = true) (e : t.chans = s.chans) : SameWork s t := by
  unfold SameWork State.chan
  rw [e]
  exact ⟨h, fun c => ⟨rfl, rfl, rfl⟩⟩

theorem sameWork_resetStart {s : State} (h : tableWf {} s.chans = true) (k : Nat) : SameWork s (resetStart k s) :=
  List.foldlRecOn (motive := SameWork s) _ haltChannel
    (sameWork_of_chans h (List.foldlRecOn (motive := fun t : State => t.chans = s.chans) _ _ rfl
      fun _ ht _ _ => (dropSqItems_chans ..).trans ht))
    fun _ ht c _ => sameWork_haltChannel ht c

/-- A reset of Room k that starts now: its record in the Room, and what it awaits. -/
def openReset (k : Nat) (destroy : Bool) (s : State) : State :=
  s.setRoom k { s.room k with
    state := if destroy then .destroying else .resetting, admClosed := true
    reset := some { start := s.now, awaited := (roomGroups s k).flatMap fun g => (groupPeers s g).map fun n => n * 256 + g
                    destroy := destroy, stopping := true } }

theorem startReset_eq_open {k : Nat} {s : State} (h : (s.room k).reset = none) (destroy : Bool) :
    startReset k destroy s = goOnReset k (resetStart k (openReset k destroy s)) := by
  unfold startReset
  dsimp only
  rw [h]
  rfl

theorem startReset_joined {k : Nat} {s : State} {x : RoomReset} (h : (s.room k).reset = some x) (destroy : Bool) :
    startReset k destroy s = if destroy then
      s.setRoom k { s.room k with state := .destroying, reset := some { x with destroy := true } } else s := by
  unfold startReset
  dsimp only
  rw [h]

theorem openReset_room (k : Nat) (destroy : Bool) (s : State) : (openReset k destroy s).room k = { s.room k with
    state := if destroy then .destroying else .resetting, admClosed := true
    reset := some { start := s.now, awaited := (roomGroups s k).flatMap fun g => (groupPeers s g).map fun n => n * 256 + g
                    destroy := destroy, stopping := true } } :=
  State.setRoom_room_of_ne s k fun e => by simpa using congrArg Room.admClosed e

theorem startReset_bus (k : Nat) (destroy : Bool) (s : State) : busPart (startReset k destroy s) = busPart s := by
  cases h : (s.room k).reset with
  | none =>
    rw [startReset_eq_open h, goOnReset_bus, steadyPart_bus (steadyPart_resetStart ..)]
    rfl
  | some x =>
    rw [startReset_joined h]
    split <;> rfl

/-- A reset of one Room changes no other Room's record. -/
theorem startReset_room_ne (destroy : Bool) (s : State) {k j : Nat} (h : j ≠ k) :
    (startReset k destroy s).room j = s.room j := by
  cases hr : (s.room k).reset with
  | none =>
    rw [startReset_eq_open hr, goOnReset_room_ne _ h, keptPart_room (keptPart_of_steady (steadyPart_resetStart ..))]
    exact State.setRoom_room_ne s _ h
  | some x =>
    rw [startReset_joined hr]
    split
    · exact State.setRoom_room_ne s _ h
    · rfl

/-- The Room's record after the start: the sequence has begun, and holds while a burst of the Room is under way. -/
theorem startReset_room {k : Nat} {s : State} (hw : tableWf {} s.chans = true) (h : (s.room k).reset = none)
    (destroy : Bool) : ∃ b d, (startReset k destroy s).room k = { s.room k with
      state := if destroy then .destroying else .resetting, admClosed := true, balance := b, deferred := d
      reset := some { start := s.now
                      awaited := (roomGroups s k).flatMap fun g => (groupPeers s g).map fun n => n * 256 + g
                      destroy := destroy, stopping := roomBurst s k } } := by
  have hr := openReset_room k destroy s
  rw [← keptPart_room (keptPart_of_steady (steadyPart_resetStart k (openReset k destroy s))) k] at hr
  have burst : roomBurst (resetStart k (openReset k destroy s)) k = roomBurst s k :=
    roomBurst_of_sameWork hw (sameWork_resetStart (s := openReset k destroy s) hw k) k
  obtain ⟨b, d, ht⟩ := goOnReset_room (congrArg Room.reset hr)
  refine ⟨b, d, ?_⟩
  rw [startReset_eq_open h, ht, hr, burst, Bool.true_and]

/-- A destroyed Room is DESTROYING from then on, whatever reset it is in. -/
theorem startReset_destroying (k : Nat) (s : State) : ((startReset k true s).room k).state = .destroying := by
  cases h : (s.room k).reset with
  | none =>
    have hr := openReset_room k true s
    rw [← keptPart_room (keptPart_of_steady (steadyPart_resetStart k (openReset k true s))) k] at hr
    obtain ⟨b, d, ht⟩ := goOnReset_room (congrArg Room.reset hr)
    rw [startReset_eq_open h, ht, hr]
    rfl
  | some x =>
    rw [startReset_joined h, if_pos rfl, State.setRoom_room_of_ne s k fun e => by simpa using congrArg Room.reset e]

theorem ring_congr {s t : State} (h : t.rings = s.rings) (k : Nat) : t.ring k = s.ring k :=
  congrArg (fun x : Table Ring => tget x {} k) h

/-- Packets that wait in a cleared ring are none, and its long commands get no reply. -/
theorem resetTail_ring {k : Nat} {s : State} (hw : tableWf {} s.rings = true) (hk : s.ring k = {})
    (hl : ∀ l ∈ s.fy.longs, l.ring = k → l.orphan = true) : (resetTail k s).ring k = {} := by
  have rings := endLongs_rings (sel := fun l => l.ring = k) (fun l m e => hl l m (of_decide_eq_true e)) St.roomReset 0
    fun _ => (0, 0)
  have cleared : (endLongs (fun l => l.ring = k) St.roomReset 0 (fun _ => (0, 0)) s).ring k = {} :=
    (ring_congr rings k).trans hk
  have e : (resetTail k s).rings = tset s.rings {} k {} := by
    unfold resetTail
    dsimp only
    rw [steadyPart_rings (steadyPart_evalWires _), cleared, State.setRoom_rings, State.setOvf_rings, State.setRing, rings]
    rfl
  rw [State.ring, e]
  exact tget_tset_eq k {} hw

/-- A ring that is disabled and cleared stays so through its Room's reset. -/
theorem startReset_ring {k : Nat} {s : State} (hw : tableWf {} s.rings = true) (h : (s.room k).reset = none)
    (hk : s.ring k = {}) (hl : ∀ l ∈ s.fy.longs, l.ring = k → l.orphan = true) (destroy : Bool) :
    (startReset k destroy s).ring k = {} := by
  have opened : steadyPart (resetStart k (openReset k destroy s)) = steadyPart (openReset k destroy s) :=
    steadyPart_resetStart ..
  have hr : (resetStart k (openReset k destroy s)).rings = s.rings := (steadyPart_rings opened :)
  have hf : (resetStart k (openReset k destroy s)).fy.longs = s.fy.longs := (steadyPart_longs opened :)
  rw [startReset_eq_open h]
  generalize resetStart k (openReset k destroy s) = t at hr hf
  unfold goOnReset
  split
  · split
    · obtain ⟨p, hp, hs⟩ := resetSteps_eq_tail k t
      have pr : p.rings = s.rings := (steadyPart_rings hs).trans ((holdOver_rings k t).trans hr)
      have pf : p.fy.longs = s.fy.longs := (steadyPart_longs hs).trans ((holdOver_longs k t).trans hf)
      rw [hp]
      exact resetTail_ring (pr ▸ hw) ((ring_congr pr k).trans hk) (pf ▸ hl)
    · exact (ring_congr hr k).trans hk
  · exact (ring_congr hr k).trans hk

end Sys2Proof.Machine
end

section
/-! PROOFS. O45: the events of the PCIe functions (00 R18, R33, 07 R320, R322, R323, R351, 14 R632, R660). -/
namespace Sys2Proof.Machine

/-! ### Function-level reset of a VF (R323, R351, R632) -/

/-- What a VF's function-level reset clears before its Room's reset: translations, the fault log's registers, the ring, Bus
Master Enable, the MSI-X table; its long commands get no reply. -/
def clearFunction (k : Fin 64) (s : State) : State :=
  let s := dropTranslations (fun p => p / 2 ^ 48 = k) s
  { s.setLog k {} with
    rings := tset s.rings {} k {}, pcie := { s.pcie with bme := nremove s.pcie.bme k }
    msix := s.msix.filter fun e => e.1 / 256 ≠ k
    fy := { s.fy with longs := s.fy.longs.map fun l => if l.ring = k.val then { l with orphan := true } else l } }

theorem recorded_groups {s t : State} (h : Recorded s t) : t.groups = s.groups := by
  unfold Recorded at h
  exact (congrArg State.groups h :)

theorem roomBurst_congr {s t : State} (h : t.chans = s.chans) (k : Nat) : roomBurst t k = roomBurst s k := by
  simp only [roomBurst, roomChans, State.chan, h]

theorem exec_vfFlr_absent {k : Fin 64} {s : State} (h : fnExists s k = false) : exec (.vfFlr k) s = .next s := by
  show execVfFlr k s = _
  rw [execVfFlr, if_pos (by simp [h])]

theorem exec_vfFlr_room {k : Fin 64} {s : State} (h0 : k ≠ 0) (h : fnExists s k = true) (hr : (s.room k).state ≠ .none) :
    ∃ u, exec (.vfFlr k) s = .next (startReset k false u) ∧ Recorded (clearFunction k s) u := by
  refine ⟨_, ?_, recorded_auditRec { eventRec 0x0222 0 with room := BitVec.ofNat 6 k } _⟩
  show execVfFlr k s = _
  rw [execVfFlr, if_neg (by simp [h, h0])]
  exact if_pos (decide_eq_true hr)

theorem clearFunction_orphans (k : Fin 64) (s : State) :
    ∀ l ∈ (clearFunction k s).fy.longs, l.ring = k.val → l.orphan = true := by
  intro l hl hk
  obtain ⟨x, -, rfl⟩ := List.mem_map.1 hl
  split
  · rfl
  · rename_i hx
    rw [if_neg hx] at hk
    exact absurd hk hx

/-- The VF's Room resets, its ring is cleared, and of the enables Bus Master Enable goes. -/
theorem exec_vfFlr_resets {k : Fin 64} {s : State} (h0 : k ≠ 0) (hw : s.wf = true) (hf : fnExists s k = true)
    (hr : (s.room k).state ≠ .none) (hn : (s.room k).reset = none) (hg : roomGroups s k = []) :
    ∃ t, exec (.vfFlr k) s = .next t ∧ (t.room k).state = .resetting ∧ (t.room k).admClosed = true
      ∧ (t.room k).reset = some { start := s.now, stopping := roomBurst s k } ∧ t.ring k = {}
      ∧ t.pcie.bme = nremove s.pcie.bme k ∧ t.pcie.mse = s.pcie.mse := by
  have cw := (wf_iff s).1 hw
  obtain ⟨u, hu, hrec⟩ := exec_vfFlr_room h0 hf hr
  have kept := steadyPart_of_recorded hrec
  have groups : u.groups = s.groups := (recorded_groups hrec :)
  have chans : u.chans = s.chans := ((recorded_frame hrec).2.1 :)
  refine ⟨_, hu, ?_⟩
  have room : u.room k = s.room k := keptPart_room (keptPart_of_steady kept) k
  have now : u.now = s.now := (busPart_now (steadyPart_bus kept) :)
  have noGroups : roomGroups u k = [] := by rw [roomGroups, groups]; exact hg
  have rings : u.rings = tset s.rings {} k {} := (steadyPart_rings kept :)
  have ring : u.ring k = {} := by
    rw [State.ring, rings]
    exact tget_tset_eq k.val {} cw.rings
  obtain ⟨b, d, started⟩ := startReset_room (chans ▸ cw.chans) (room ▸ hn) false
  have pcie := busPart_pcie ((startReset_bus k false u).trans (steadyPart_bus kept))
  rw [started, room, now, noGroups, roomBurst_congr chans]
  refine ⟨rfl, rfl, rfl, ?_, ?_, ?_⟩
  · refine startReset_ring (rings ▸ tableWf_tset _ _ cw.rings) (room ▸ hn) ring ?_ false
    rw [steadyPart_longs kept]
    exact clearFunction_orphans k s
  · rw [pcie]
    rfl
  · rw [pcie]
    rfl

/-! ### VFs that go (R323) -/

/-- A Room that a VF's end destroys: its event record, then the sequence. -/
def loseRoom (s : State) (k : Nat) : State :=
  startReset k true (auditRec { eventRec 0x0223 0 with room := BitVec.ofNat 6 k } s)

/-- The functions above n lose their enables and their translations. -/
def loseFunctions (n : Nat) (s : State) : State :=
  { s with pcie := { s.pcie with
    numVfs := n, vfEnable := n ≠ 0, bme := s.pcie.bme.filter (· ≤ n), mse := s.pcie.mse.filter (· ≤ n)
    ats := s.pcie.ats.filter (· / 2 ^ 48 ≤ n) } }

/-- Rooms above n that exist. -/
def roomsAbove (n : Nat) (s : State) : List Nat :=
  (s.rooms.filter fun r => n < r.1 && r.2.state ≠ .none).map (·.1)

theorem shrinkVfs_same {n : Nat} {s : State} (h : s.pcie.vfEnable = false ∨ s.pcie.numVfs ≤ n) : shrinkVfs n s = s :=
  if_pos (by simpa using h)

theorem shrinkVfs_less {n : Nat} {s : State} (he : s.pcie.vfEnable = true) (hn : n < s.pcie.numVfs) :
    shrinkVfs n s = (roomsAbove n s).foldl loseRoom (loseFunctions n s) :=
  if_neg (by simp [he, hn])

theorem mem_roomsAbove {n k : Nat} {s : State} (h : n < k) (hk : (s.room k).state ≠ .none) : k ∈ roomsAbove n s := by
  have listed : s.room k ≠ {} := fun e => hk (by rw [e])
  exact List.mem_map.2 ⟨(k, s.room k), List.mem_filter.2 ⟨mem_of_tget_ne listed, by simp [h, hk]⟩, rfl⟩

theorem loseRoom_bus (s : State) (k : Nat) : busPart (loseRoom s k) = busPart s :=
  (startReset_bus ..).trans (steadyPart_bus (steadyPart_auditRec ..))

theorem loseRoom_room_ne (s : State) {k j : Nat} (h : j ≠ k) : (loseRoom s k).room j = s.room j :=
  (startReset_room_ne true _ h).trans (keptPart_room (keptPart_auditRec ..) j)

theorem loseRooms_bus (l : List Nat) (s : State) : busPart (l.foldl loseRoom s) = busPart s :=
  List.foldlRecOn (motive := fun t => busPart t = busPart s) l _ rfl fun t ht k _ => (loseRoom_bus t k).trans ht

/-- Each Room of the list is DESTROYING at the end: no other Room's sequence touches its state. -/
theorem loseRooms_destroying {l : List Nat} {s : State} {k : Nat}
    (h : k ∈ l ∨ (s.room k).state = .destroying) : ((l.foldl loseRoom s).room k).state = .destroying := by
  induction l generalizing s with
  | nil => simpa using h
  | cons j r ih =>
    refine ih ?_
    by_cases e : k = j
    · exact .inr (e ▸ startReset_destroying ..)
    · rw [loseRoom_room_ne s e]
      exact h.imp_left fun m => (List.mem_cons.1 m).resolve_left e

theorem exec_vfDisable_less {n : Fin 64} {s : State} (he : s.pcie.vfEnable = true) (hn : n.val < s.pcie.numVfs) :
    ∃ t, exec (.vfDisable n) s = .next t ∧ t.pcie.numVfs = n ∧ t.pcie.vfEnable = decide (n ≠ 0)
      ∧ (∀ f ∈ t.pcie.bme, f ≤ n.val) ∧ (∀ f ∈ t.pcie.mse, f ≤ n.val)
      ∧ ∀ k, n.val < k → (s.room k).state ≠ .none → (t.room k).state = .destroying := by
  refine ⟨shrinkVfs n s, rfl, ?_⟩
  rw [shrinkVfs_less he hn]
  have pcie := busPart_pcie (loseRooms_bus (roomsAbove n s) (loseFunctions n s))
  refine ⟨?_, ?_, ?_, ?_, fun k hk hs => loseRooms_destroying (.inl (mem_roomsAbove hk hs))⟩
  · rw [pcie]
    rfl
  · rw [pcie]
    exact decide_eq_decide.2 (not_congr (Fin.ext_iff (b := 0)).symm)
  · intro f hf
    rw [pcie] at hf
    exact of_decide_eq_true (List.of_mem_filter (p := fun f => decide (f ≤ n.val)) hf)
  · intro f hf
    rw [pcie] at hf
    exact of_decide_eq_true (List.of_mem_filter (p := fun f => decide (f ≤ n.val)) hf)

/-! ### ATS invalidations (R322) -/

/-- An invalidation takes the pages of its range, and no other, out of the ATS cache. -/
theorem exec_atsInvalidation (k : Fin 64) (a : BitVec 60) (len : Nat) (s : State) :
    ∃ t, exec (.atsInvalidation ⟨k, a, len⟩) s = .next t
      ∧ t.outputs = .atsComplete k :: s.outputs ∧ { t with outputs := s.outputs, pcie := s.pcie } = s
      ∧ t.pcie = { s.pcie with ats := t.pcie.ats }
      ∧ ∀ p, p ∈ t.pcie.ats ↔ p ∈ s.pcie.ats ∧ ¬(hostPage k a.toNat ≤ p ∧ p * 4096 < hostKey k a.toNat + len) := by
  refine ⟨_, rfl, rfl, rfl, rfl, fun p => ?_⟩
  simp [dropTranslations, State.emit, imp_iff_not_or]

/-! ### Configuration requests (R18, R33, R320, R660) -/

section config
variable {k : Fin 64} {reg : BitVec 12} {v : BitVec 32} {s : State}

theorem exec_configRequest_unpowered (h : s.g.powered = false ∨ s.pcie.linkUp = false) (w : Bool) :
    exec (.configRequest k reg w v) s = .next s :=
  if_pos (by simpa using h)

variable (hp : s.g.powered = true) (hl : s.pcie.linkUp = true)
include hp hl

theorem exec_configRequest_retry (h : s.g.devState = .init) (w : Bool) :
    exec (.configRequest k reg w v) s = .next (s.emit .configRetry) := by
  show execConfigRequest k reg w v s = _
  simp [execConfigRequest, hp, hl, h]

theorem exec_configRequest_absent (h : s.g.devState ≠ .init) (hf : fnExists s k = false) (w : Bool) :
    exec (.configRequest k reg w v) s = .next (s.emit .unsupported) := by
  show execConfigRequest k reg w v s = _
  simp [execConfigRequest, hp, hl, h, hf]

theorem exec_configRequest_answers (h : s.g.devState ≠ .init) (hf : fnExists s k = true) (w : Bool) :
    exec (.configRequest k reg w v) s = .next (if w then configWrite k reg.toNat v s
      else s.emit (.configData (configRead s k reg.toNat))) := by
  show execConfigRequest k reg w v s = _
  cases w <;> simp [execConfigRequest, hp, hl, h, hf]

end config

/-- The Device ID of a function (R18). -/
theorem configRead_ids (s : State) (fn : Nat) : fld (configRead s fn 0x000) 16 16 = BitVec.ofNat 16 (deviceId fn) := by
  have low : (fld 0xFFFF#32 16 16 : BitVec 16) = 0#16 := by decide
  have high : (fld (BitVec.ofNat 32 (deviceId fn * 2 ^ 16)) 16 16 : BitVec 16) = BitVec.ofNat 16 (deviceId fn) := by
    unfold deviceId
    split <;> rfl
  show fld ((Config.configSpace 0 cfgIds &&& 0xFFFF#32) ||| BitVec.ofNat 32 (deviceId fn * 2 ^ 16)) 16 16 = _
  simp only [fld] at low high ⊢
  rw [BitVec.extractLsb'_or, BitVec.extractLsb'_and, low, high, BitVec.and_zero, BitVec.zero_or]

/-- The command register shows the enables that the model holds (R320). -/
theorem configRead_command (s : State) (fn : Nat) : (configRead s fn 0x004).getLsbD 1 = s.pcie.mse.contains fn
    ∧ (configRead s fn 0x004).getLsbD 2 = s.pcie.bme.contains fn := by
  have e : configRead s fn 0x004 = (Config.configSpace fn 0x004 &&& ~~~6#32)
      ||| BitVec.ofNat 32 (b1 (s.pcie.mse.contains fn) * 2 + b1 (s.pcie.bme.contains fn) * 4) := by
    have noBar : barOf 0x004 = none := by decide
    simp [configRead, noBar]
  rw [e]
  cases s.pcie.mse.contains fn <;> cases s.pcie.bme.contains fn <;> simp [b1]

/-- A payload code that the block accepts is taken (R33). -/
theorem configWrite_devCtl {v : BitVec 32} (h : (fld v 5 3 : BitVec 3).toNat ≤ 2) (s : State) :
    configWrite 0 0x048 v s = { s with pcie := { s.pcie with mps := 128 * 2 ^ (fld v 5 3 : BitVec 3).toNat } } := by
  have e : configWrite 0 0x048 v s
      = { s with pcie := { s.pcie with mps := (mpsOf (fld v 5 3 : BitVec 3).toNat).getD s.pcie.mps } } := rfl
  rw [e, mpsOf, if_pos h]
  rfl

theorem contains_ninsert (l : List Nat) (k : Nat) : (ninsert l k).contains k = true := by
  induction l with
  | nil => simp [ninsert]
  | cons i r ih =>
    simp only [ninsert]
    split
    · simp [*]
    · split
      · simp
      · rw [List.contains_cons, ih, Bool.or_true]

theorem contains_nremove (l : List Nat) (k : Nat) : (nremove l k).contains k = false := by
  simp [nremove]

/-- The command register takes the function's enables and changes nothing else (R320). -/
theorem configWrite_command (fn : Nat) (v : BitVec 32) (s : State) :
    { configWrite fn 0x004 v s with pcie := s.pcie } = s
      ∧ (configWrite fn 0x004 v s).pcie.mse.contains fn = v.getLsbD 1
      ∧ (configWrite fn 0x004 v s).pcie.bme.contains fn = v.getLsbD 2 := by
  have put (l : List Nat) (on : Bool) : (if on then ninsert l fn else nremove l fn).contains fn = on := by
    cases on
    · exact contains_nremove l fn
    · exact contains_ninsert l fn
  exact ⟨rfl, put .., put ..⟩

/-- Settles O45: every event is its shared operation (a Room's reset, the enables, the ATS cache, a configuration register),
and what that operation leaves alone is the steady part of the state. -/
theorem functionEventsAct : Obligations.FunctionEventsAct := by
  unfold Obligations.FunctionEventsAct
  refine ⟨fun k s h0 => ⟨?_, ?_, fun a len => exec_atsInvalidation k a len s, exec_vfFlr_absent,
    fun hw hf hr hn hg => exec_vfFlr_resets h0 hw hf hr hn hg⟩, fun n s _ => ⟨fun h => ?_, fun he hn => ?_⟩,
    fun k reg w v s => ⟨fun h => exec_configRequest_unpowered h w, fun hp hl =>
      ⟨fun h => exec_configRequest_retry hp hl h w, fun h hf => exec_configRequest_absent hp hl h hf w,
        fun h hf => ⟨?_, fun h0 hm => ?_, ?_⟩⟩⟩⟩
  · exact congrArg Host.Outcome.next (if_neg h0)
  · exact congrArg Host.Outcome.next (if_neg h0)
  · exact congrArg Host.Outcome.next (shrinkVfs_same h)
  · obtain ⟨t, ht, hnum, hen, hb, hm, hd⟩ := exec_vfDisable_less he hn
    exact ⟨t, ht, hnum, hen, hb, hm, fun j hj hs _ => hd j hj hs⟩
  · refine ⟨_, _, exec_configRequest_answers hp hl h hf false, rfl, ?_, ?_⟩
    · rintro rfl
      rw [show (0x000 : BitVec 12).toNat = 0x000 from rfl, configRead_ids, deviceId]
      split <;> rfl
    · rintro rfl
      exact configRead_command s k
  · rw [exec_configRequest_answers hp hl h hf true, h0]
    exact congrArg Host.Outcome.next (configWrite_devCtl hm s)
  · exact ⟨_, exec_configRequest_answers hp hl h hf true, configWrite_command k v s⟩

end Sys2Proof.Machine
end

section
/-! PROOFS. O41: register accesses (00 R4 to R9, 08 R403, 10 R452, R462, 11 R537, R539, 15 R653, R654, R668, R669). -/
namespace Sys2Proof.Machine

/-! ### What a lost port fails (R489, R505, R535, R557) -/

@[simp] theorem steadyPart_failTx (p : Nat) (st : Byte) (s : State) (x : TxStream) :
    steadyPart (failTx p st s x) = steadyPart s := by
  unfold failTx
  split
  · rfl
  · split <;> simp

@[simp] theorem steadyPart_failStream (p id : Nat) (st : Byte) (s : State) :
    steadyPart (failStream p id st s) = steadyPart s := by
  unfold failStream
  split
  · exact steadyPart_failTx ..
  · rfl

@[simp] theorem steadyPart_failWait (st : Byte) (s : State) (w : Waiter) : steadyPart (failWait st s w) = steadyPart s := by
  have ended : steadyPart (if s.waiters.contains w then endWait w st 0 s else s) = steadyPart s := by
    split <;> simp
  unfold failWait
  dsimp only
  split
  · exact (steadyPart_reduceFails ..).trans ended
  · exact (steadyPart_reduceFails ..).trans ended
  · exact ended

@[simp] theorem steadyPart_failReq (req : Nat) (st : Byte) (s : State) : steadyPart (failReq req st s) = steadyPart s := by
  unfold failReq
  split
  · split <;> simp
  · split
    · simp
    · split <;> simp

@[simp] theorem steadyPart_failItem (p : Nat) (st : Byte) (s : State) (i : TxItem) :
    steadyPart (failItem p st s i) = steadyPart s := by
  unfold failItem
  split
  · simp
  · dsimp only
    split
    · rfl
    · split <;> simp
  · rfl

@[simp] theorem steadyPart_failFwd (st : Byte) (s : State) (f : Fwd) : steadyPart (failFwd st s f) = steadyPart s := by
  have told (port dst stream req node room : Nat) :
      steadyPart (routeFail port dst stream req st node room s) = steadyPart s := by
    unfold routeFail
    split <;> simp
  unfold failFwd
  dsimp only
  split
  · exact told ..
  · exact told ..

theorem steadyPart_portFail (p : Nat) (st : Byte) (s : State) : steadyPart (portFail p st s) = steadyPart s := by
  unfold portFail
  dsimp only
  refine (steadyPart_foldl (steadyPart_failFwd st) _ _).trans ?_
  rw [steadyPart_house]
  refine (steadyPart_foldl (steadyPart_failWait st) _ _).trans ?_
  refine (steadyPart_foldl (fun t r => ?_) _ _).trans ?_
  · split <;> simp
  refine (steadyPart_foldl (steadyPart_failItem p st) _ _).trans ?_
  refine (steadyPart_foldl (fun t id => steadyPart_failReq id st t) _ _).trans ?_
  refine (steadyPart_foldl (steadyPart_failTx p st) _ _).trans ?_
  exact steadyPart_setPort ..

/-! ### A port that is down gets no management message (R485, R544) -/

/-- Port p is as it was, if it was down. -/
def DownKept (p : Nat) (s t : State) : Prop := portUp (s.port p) = false → t.port p = s.port p

theorem downKept_trans {p : Nat} {s t u : State} (h : DownKept p s t) (g : DownKept p t u) : DownKept p s u := by
  intro hd
  rw [g (h hd ▸ hd), h hd]

theorem downKept_of_ports {p : Nat} {s t : State} (h : t.ports = s.ports) : DownKept p s t :=
  fun _ => congrArg (fun x : Table Port => tget x {} p) h

theorem downKept_sendMgmt (p q : Nat) (w : BitVec 512) (s : State) : DownKept p s (sendMgmt q w s) := by
  intro hd
  unfold sendMgmt
  split
  · rename_i hu
    have hne : p ≠ q := fun e => by simp [← e, hd] at hu
    exact State.setPort_port_ne s _ hne
  · rfl

theorem downKept_flood (p : Nat) (w : BitVec 512) (s : State) : DownKept p s (flood w s) := by
  unfold flood floodBut
  split
  · exact fun _ => rfl
  · exact List.foldlRecOn (motive := DownKept p s) _ _ (fun _ => rfl)
      fun t ht q _ => downKept_trans ht (downKept_sendMgmt p q w t)

theorem pfCause_ports (bit : Nat) (vec : Byte) (s : State) : (pfCause bit vec s).ports = s.ports :=
  (recorded_frame (recorded_pfCause bit vec s)).2.2.2.2.2.2.2.2.1

theorem houseIrq_ports (bit : Nat) (s : State) : (houseIrq bit s).ports = s.ports := by
  unfold houseIrq
  split
  · exact pfCause_ports ..
  · rfl

theorem setHState_ports (h : HState) (s : State) : (setHState h s).ports = s.ports := by
  unfold setHState
  split
  · rfl
  · exact houseIrq_ports ..

theorem portIrq_ports (p bit : Nat) (s : State) : (portIrq p bit s).ports = s.ports := by
  unfold portIrq
  split
  · exact pfCause_ports ..
  · rfl

theorem applyChange_ports (c n q pn pq : Nat) (s : State) : (applyChange c n q pn pq s).ports = s.ports := rfl

theorem downKept_hallChange {p : Nat} {s t : State} (h : t.ports = s.ports) (c n q pn pq : Nat) :
    DownKept p s (hallChange c n q pn pq t) := by
  unfold hallChange
  refine downKept_trans ?_ (downKept_flood p _ _)
  exact downKept_of_ports ((applyChange_ports c n q pn pq { t with house := { t.house with mgen := _ } }).trans h)

/-- The report that a port is down changes no port that is down (R558). -/
theorem downKept_reportDown (p q : Nat) (s : State) : DownKept p s (reportPort q false s) := by
  unfold reportPort hallReport
  dsimp only
  split
  · rw [if_neg Bool.false_ne_true]
    split
    · refine downKept_hallChange ?_ 3 0 q _ _
      rfl
    · exact fun _ => rfl
  · split
    · split <;> exact downKept_sendMgmt p _ _ _
    · exact fun _ => rfl

theorem downKept_housePortDown (p q : Nat) (s : State) : DownKept p s (housePortDown q s) := by
  refine downKept_trans (downKept_reportDown p q s) ?_
  unfold housePortDown
  dsimp only
  split
  · split
    · exact fun _ => rfl
    · exact downKept_of_ports (setHState_ports ..)
  · exact fun _ => rfl

/-- A port that leaves its state for RETRAIN is quiet there (R485, R489). -/
theorem portDown_retrain (p : Nat) (st : Byte) (s : State) :
    ∃ x, (portDown p .retrain st s).port p = quiet x .retrain s.now := by
  have now : (portFail p st s).now = s.now := busPart_now (steadyPart_bus (steadyPart_portFail p st s))
  unfold portDown
  dsimp only
  rw [now]
  generalize (portFail p st s).port p = x
  have set : ((portFail p st s).setPort p (quiet x .retrain s.now)).port p = quiet x .retrain s.now :=
    State.setPort_port_of_ne _ p fun e => by simpa [quiet] using congrArg Port.state e
  refine ⟨x, ?_⟩
  split
  · have irq : (portIrq p irqDown ((portFail p st s).setPort p (quiet x .retrain s.now))).port p
        = quiet x .retrain s.now := (congrArg (fun t : Table Port => tget t {} p) (portIrq_ports ..)).trans set
    rw [downKept_housePortDown p p _ (by rw [irq]; rfl), irq]
  · exact set

/-! ### Accesses of the register map (R4 to R9, R653, R654) -/

section access
variable {b : Bar} {s : State} (ho : fnOpen s (barFn b) = true) (hr : barFn b ≠ 0 → (s.room (barFn b)).state ≠ .none)
include ho hr

theorem exec_registerWrite (o : BitVec 26) (half : RegHalf) (v : BitVec 64) :
    exec (.registerWrite b o half v) s = .next (writeReg (regNow s b (o.toNat / 8 * 8)) half v s) :=
  congrArg Host.Outcome.next (throughBar_room _ ho (or_iff_not_imp_left.2 hr))

theorem exec_rcRegisterRead (o : BitVec 26) (half : RegHalf) :
    exec (.rcRegisterRead b o half) s = .next ((takeReg (regNow s b (o.toNat / 8 * 8)) half s).1.emit
      (.readData (takeReg (regNow s b (o.toNat / 8 * 8)) half s).2)) := by
  have room : ¬ (barFn b ≠ 0 && (s.room (barFn b)).state = .none) = true := by simpa using hr
  show execRcRegisterRead b o half s = _
  unfold execRcRegisterRead
  dsimp only
  rw [ho, Bool.not_true, if_neg Bool.false_ne_true, if_neg room]

end access

/-- A part of 0 is 0. -/
theorem halfOf64_zero (half : RegHalf) : halfOf64 half 0 = 0 := by
  cases half <;> rfl

/-- Registers without a field that a write changes (R4). -/
theorem writeReg_readOnly {r : Reg} {k n : Nat} (h : r ∈ [.room k n, .share k, .pdStatus k, .rdxSlot k n, .study n,
    .studySet k n, .cel k n, .pba k n, .loop n]) (half : RegHalf) (v : Word) (s : State) : writeReg r half v s = s := by
  simp only [List.mem_cons, List.not_mem_nil, or_false] at h
  rcases h with rfl | rfl | rfl | rfl | rfl | rfl | rfl | rfl | rfl <;> rfl

theorem takeReg_err (n : Nat) (half : RegHalf) (s : State) :
    takeReg (.err n) half s = (clearRc (.err n) half s, halfOf64 half (readErr s n)) := rfl

/-! ### Accesses of a wrong width or alignment (R8) -/

section malformed
variable {o : BitVec 26} {len : Nat} {s : State} (ho : fnOpen s 0 = true) (hm : accessOk o.toNat len = false)
include ho hm

theorem exec_malformedRegAccess_pf (w : Bool) :
    exec (.malformedRegAccess .pf o len w) s =
      let u := if regNow s .pf (o.toNat / 8 * 8) = .reserved then s else malformedAccess 0 o.toNat s
      .next (if w then u else u.emit (.readData 0)) := by
  show execMalformedRegAccess .pf o len w s = _
  simp [execMalformedRegAccess, barFn, ho, hm]

theorem exec_malformedRegAccess_records (w : Bool) (h : regNow s .pf (o.toNat / 8 * 8) ≠ .reserved) :
    ∃ t, exec (.malformedRegAccess .pf o len w) s = .next t ∧ Recorded s t ∧ t.audit.seq = s.audit.seq + 1
      ∧ (w = false → t.outputs.head? = some (.readData 0)) := by
  refine ⟨_, exec_malformedRegAccess_pf ho hm w, ?_⟩
  rw [if_neg h]
  cases w
  · exact ⟨recorded_auditRec .., auditRec_seq .., fun _ => rfl⟩
  · exact ⟨recorded_auditRec .., auditRec_seq .., fun e => absurd e Bool.true_eq_false.mp⟩

end malformed

/-! ### The full/empty debug view (R403, R419) -/

/-- Input 15's burst touches the arbiters and nothing else. -/
theorem emergency_frame (a : Nat) (s : State) :
    { emergency a s with arbs := s.arbs, arbiters := s.arbiters } = s := by
  unfold emergency
  dsimp only
  split
  · split <;> rfl
  · rfl

theorem emergency_fields (a : Nat) (s : State) : SameMemory s (emergency a s) ∧ (emergency a s).tags = s.tags
    ∧ (emergency a s).outputs = s.outputs ∧ (emergency a s).pantryUe = s.pantryUe
    ∧ (emergency a s).dbgFeAddr = s.dbgFeAddr := by
  have h := emergency_frame a s
  exact ⟨⟨(congrArg State.pantry h :), (congrArg State.cellar h :), (congrArg State.larder h :),
      (congrArg State.host h :)⟩, (congrArg State.tags h :), (congrArg State.outputs h :),
    (congrArg State.pantryUe h :), (congrArg State.dbgFeAddr h :)⟩

theorem dbgValue_good {s : State} (h : s.pantryUe.contains (dbgAddr s / 64) = false) :
    dbgValue s = BitVec.ofNat 64 (leNat (mread s.pantry (dbgAddr s) 8)) := by
  rw [dbgValue, h, if_neg Bool.false_ne_true]

theorem getLsbD_zero_b1 {f : Bool} {n m : Nat} (h : n = b1 f + 2 * m) : (BitVec.ofNat 64 n).getLsbD 0 = f := by
  rw [h, BitVec.getLsbD_ofNat, Nat.testBit_zero]
  cases f <;> simp [b1]

/-- FULL is bit 0 of the tag's view (R403). -/
theorem dbgTag_full {s : State} (h : s.pantryUe.contains (dbgAddr s / 64) = false) :
    (dbgTag s).getLsbD 0 = tagFull s (dbgAddr s / 8) := by
  have bad : b1 false = 0 := rfl
  unfold dbgTag
  dsimp only
  rw [h, if_neg Bool.false_ne_true, bad]
  split
  · next k r _ _ => exact getLsbD_zero_b1 (m := 1 + k * 2 + r * 128) (by omega)
  · exact getLsbD_zero_b1 (m := 0) (by omega)

section debug
variable {s : State} (ho : fnOpen s 0 = true) (hl : s.g.debugLocked = false) (hq : quadOpen s (dbgAddr s) = true)
  (hu : s.pantryUe.contains (dbgAddr s / 64) = false)
include ho hl hq hu

/-- A read of a good line's view answers from the state behind the burst of input 15, and touches the quadrant's domain. -/
theorem exec_dbgFeRead_good (tag : Bool) :
    let e := emergency (bankGroup (dbgAddr s)) s
    exec (.dbgFeRead tag) s = .next ((pdTouch (pdPantry (dbgAddr s)) e).emit
      (.readData (if tag then dbgTag e else dbgValue e))) := by
  obtain ⟨-, -, -, ue, -⟩ := emergency_fields (bankGroup (dbgAddr s)) s
  refine congrArg Host.Outcome.next ((throughBar_pf _ ho).trans ?_)
  simp only [readDbg, hl, hq, ue, hu]
  rfl

theorem exec_dbgFeRead_value : ∃ t, exec (.dbgFeRead false) s = .next t ∧ SameMemory s t ∧ t.tags = s.tags ∧ t.outputs
    = .readData (BitVec.ofNat 64 (leNat (mread s.pantry (dbgAddr s) 8))) :: s.outputs := by
  refine ⟨_, exec_dbgFeRead_good ho hl hq hu false, ?_⟩
  obtain ⟨mem, tags, outs, ue, addr⟩ := emergency_fields (bankGroup (dbgAddr s)) s
  have at_ : dbgAddr (emergency (bankGroup (dbgAddr s)) s) = dbgAddr s := by rw [dbgAddr, addr, dbgAddr]
  have value := dbgValue_good (s := emergency (bankGroup (dbgAddr s)) s) (by rw [ue, at_]; exact hu)
  rw [at_, mem.1] at value
  refine ⟨mem, tags, ?_⟩
  rw [if_neg Bool.false_ne_true, value, ← outs]
  rfl

theorem exec_dbgFeRead_tag : ∃ v t, exec (.dbgFeRead true) s = .next t ∧ SameMemory s t ∧ t.tags = s.tags
    ∧ t.outputs = .readData v :: s.outputs ∧ v.getLsbD 0 = tagFull s (dbgAddr s / 8) := by
  refine ⟨dbgTag (emergency (bankGroup (dbgAddr s)) s), _, exec_dbgFeRead_good ho hl hq hu true, ?_⟩
  obtain ⟨mem, tags, outs, ue, addr⟩ := emergency_fields (bankGroup (dbgAddr s)) s
  have at_ : dbgAddr (emergency (bankGroup (dbgAddr s)) s) = dbgAddr s := by rw [dbgAddr, addr, dbgAddr]
  have full := dbgTag_full (s := emergency (bankGroup (dbgAddr s)) s) (by rw [ue, at_]; exact hu)
  rw [at_, tagFull, tags] at full
  exact ⟨mem, tags, congrArg _ outs, full⟩

end debug

/-! ### The interrupt mask (R669) -/

theorem sendMsix_masked (fn vec : Nat) (s : State) (i : Nat) :
    (tget (sendMsix fn vec s).msix {} i).masked = (tget s.msix {} i).masked := by
  unfold sendMsix
  dsimp only
  split
  · by_cases e : i = fn * 256 + vec
    · rw [e, tget_tset_of_ne _ _ fun h => by simpa using congrArg MsixEntry.pending h]
    · rw [tget_tset_ne _ _ _ e]
  · rfl

theorem sendMsix_frame (fn vec : Nat) (s : State) :
    { sendMsix fn vec s with outputs := s.outputs, msix := s.msix } = s := by
  unfold sendMsix
  dsimp only
  split <;> rfl

theorem sendMsix_sent {fn vec : Nat} {s : State} (h : (tget s.msix {} (fn * 256 + vec)).masked = false) :
    sendMsix fn vec s = s.emit (.msix fn vec) := by
  rw [sendMsix, h, if_neg Bool.false_ne_true]

theorem mem_outputs_sendMsix {x : Output} {s : State} (h : x ∈ s.outputs) (fn vec : Nat) :
    x ∈ (sendMsix fn vec s).outputs := by
  unfold sendMsix
  dsimp only
  split
  · exact h
  · exact List.mem_cons_of_mem _ h

/-- The messages of the causes c, each on its vector v: nothing but the outputs and the pending bits changes, and every
message that no mask bit holds is sent. -/
theorem sendMsix_foldl (c : Nat → Bool) (v : Nat → Nat) (l : List Nat) (s : State) :
    let t := l.foldl (fun t b => if c b then sendMsix 0 (v b) t else t) s
    { t with outputs := s.outputs, msix := s.msix } = s
      ∧ (∀ i, (tget t.msix {} i).masked = (tget s.msix {} i).masked) ∧ (∀ x ∈ s.outputs, x ∈ t.outputs)
      ∧ ∀ b ∈ l, c b = true → (tget s.msix {} (v b)).masked = false → .msix 0 (v b) ∈ t.outputs := by
  induction l generalizing s with
  | nil => exact ⟨rfl, fun _ => rfl, fun _ h => h, fun b h => absurd h List.not_mem_nil⟩
  | cons b r ih =>
    by_cases hb : c b = true
    · obtain ⟨frame, masks, outs, sent⟩ := ih (sendMsix 0 (v b) s)
      simp only [List.foldl_cons, if_pos hb]
      refine ⟨?_, fun i => (masks i).trans (sendMsix_masked ..), fun x hx => outs x (mem_outputs_sendMsix hx ..), ?_⟩
      · have h := congrArg (fun u : State => { u with outputs := s.outputs, msix := s.msix }) frame
        exact (h :).trans (sendMsix_frame ..)
      · intro d hd hc hm
        rcases List.mem_cons.1 hd with rfl | hd
        · refine outs _ ?_
          rw [sendMsix_sent (by simpa using hm)]
          exact List.mem_cons_self ..
        · exact sent d hd hc ((sendMsix_masked ..).trans hm)
    · obtain ⟨frame, masks, outs, sent⟩ := ih s
      simp only [List.foldl_cons, if_neg hb]
      refine ⟨frame, masks, outs, fun d hd hc hm => ?_⟩
      rcases List.mem_cons.1 hd with rfl | hd
      · exact absurd hc hb
      · exact sent d hd hc hm

/-- A mask bit that is cleared lets its group's message go. -/
theorem exec_irqMaskWrite (half : RegHalf) (v : BitVec 64) {s : State} (ho : fnOpen s 0 = true) :
    let m := mergeHalf s.g.irqMask v half &&& irqGroups
    ∃ t, exec (.irqMaskWrite half v) s = .next t ∧ t.g = { s.g with irqMask := m }
      ∧ { t with g := s.g, outputs := s.outputs, msix := s.msix } = s
      ∧ ∀ b, b < 32 → s.g.irqMask.getLsbD b = true → m.getLsbD b = false → s.g.irqStatus.getLsbD b = true →
        (tget s.msix {} (groupVector s b).toNat).masked = false →
        .msix 0 (groupVector s b).toNat ∈ t.outputs := by
  intro m
  obtain ⟨frame, -, -, sent⟩ := sendMsix_foldl
    (fun b => s.g.irqMask.getLsbD b && !m.getLsbD b && s.g.irqStatus.getLsbD b) (fun b => (groupVector s b).toNat)
    (List.range 32) { s with g := { s.g with irqMask := m } }
  refine ⟨_, congrArg Host.Outcome.next (throughBar_pf _ ho), congrArg State.g frame,
    (congrArg (fun u : State => { u with g := s.g }) frame :), fun b hb h1 h2 h3 hm => ?_⟩
  exact sent b (List.mem_range.2 hb) (by simp [h1, h2, h3]) hm

/-! ### Registers with an effect: QUARANTINED, RETRAIN, TRIPPED, BASE_MW (R452, R462, R537, R539) -/

/-- A port that leaves QUARANTINED is SECURE where it has its keys both ways (R485, R537). -/
theorem secureNow_clear (x : Port) :
    (secureNow { x with state := .clear, violMs := 0 }).state
        = (if x.txKey.isSome && x.rxKey.isSome then .secure else .clear)
      ∧ (secureNow { x with state := .clear, violMs := 0 }).violMs = 0 := by
  unfold secureNow
  by_cases h : (x.txKey.isSome && x.rxKey.isSome) = true
  · simp [h]
  · simp [h]

theorem exec_quarantineClear {p : Fin 16} {s : State} (ho : fnOpen s 0 = true) (hq : (s.port p).state = .quarantined) :
    ∃ t, exec (.quarantineClear p) s = .next t ∧ { t with ports := s.ports } = s
      ∧ (t.port p).state = (if (s.port p).txKey.isSome && (s.port p).rxKey.isSome then .secure else .clear)
      ∧ (t.port p).violMs = 0 ∧ ∀ j, j ≠ p.val → t.port j = s.port j := by
  obtain ⟨state, viol⟩ := secureNow_clear (s.port p)
  have kept : (s.setPort p (secureNow { s.port p with state := .clear, violMs := 0 })).port p
      = secureNow { s.port p with state := .clear, violMs := 0 } :=
    State.setPort_port_of_ne _ _ fun e => by
      rw [e] at state
      split at state <;> cases state
  refine ⟨s.setPort p (secureNow { s.port p with state := .clear, violMs := 0 }), ?_, rfl, ?_, ?_,
    fun j hj => State.setPort_port_ne _ _ hj⟩
  · exact congrArg Host.Outcome.next ((throughBar_pf _ ho).trans (if_pos hq))
  · rw [kept, state]
  · rw [kept, viol]

theorem exec_quarantineClear_other {p : Fin 16} {s : State} (ho : fnOpen s 0 = true)
    (hq : (s.port p).state ≠ .quarantined) : exec (.quarantineClear p) s = .next s :=
  congrArg Host.Outcome.next ((throughBar_pf _ ho).trans (if_neg hq))

theorem exec_trippedClear {s : State} (ho : fnOpen s 0 = true) : exec .trippedClear s = .next
    (if s.nrg.tempMc.toInt < 100000 then { s with nrg := { s.nrg with tripped := false } } else s) :=
  congrArg Host.Outcome.next (throughBar_pf _ ho)

theorem exec_baseMwWrite {s : State} (ho : fnOpen s 0 = true) (mw : Half) :
    exec (.baseMwWrite mw) s = .next (writeBase mw s) :=
  congrArg Host.Outcome.next (throughBar_pf _ ho)

theorem exec_portRetrain {s : State} (ho : fnOpen s 0 = true) (p : Fin 16) :
    exec (.portRetrain p) s = .next (retrainPort p s) :=
  congrArg Host.Outcome.next (throughBar_pf _ ho)

/-- A port that is up or trains starts its training anew, with nothing in progress (R489, R539). -/
theorem exec_portRetrain_quiet {p : Fin 16} {s : State} (ho : fnOpen s 0 = true) (hd : (s.port p).state ≠ .disabled)
    (hr : (s.port p).state ≠ .retrain) :
    ∃ t x, exec (.portRetrain p) s = .next t ∧ t.port p = quiet x .retrain s.now := by
  obtain ⟨x, hx⟩ := portDown_retrain p St.linkDown s
  refine ⟨_, x, (exec_portRetrain ho p).trans (congrArg _ (if_neg ?_)), hx⟩
  simp [hd, hr]

/-! ### O41 -/

section registers
variable {b : Bar} {s : State} (ho : fnOpen s (barFn b) = true) (hr : barFn b ≠ 0 → (s.room (barFn b)).state ≠ .none)
include ho hr

/-- An error register is read whole, and its counters with it (R6, R654). -/
theorem exec_rcRegisterRead_err {o : BitVec 26} {n : Nat} (h : regNow s b (o.toNat / 8 * 8) = .err n) (half : RegHalf) :
    exec (.rcRegisterRead b o half) s
      = .next ((clearRc (.err n) half s).emit (.readData (halfOf64 half (readErr s n)))) := by
  rw [exec_rcRegisterRead ho hr, h, takeReg_err]

/-- A reserved offset reads 0 and keeps nothing (R653). -/
theorem exec_register_reserved {o : BitVec 26} (h : regNow s b (o.toNat / 8 * 8) = .reserved) (half : RegHalf)
    (v : BitVec 64) : exec (.registerWrite b o half v) s = .next s
      ∧ exec (.rcRegisterRead b o half) s = .next (s.emit (.readData 0)) := by
  rw [exec_registerWrite ho hr, exec_rcRegisterRead ho hr, h]
  exact ⟨rfl, congrArg (fun w => Host.Outcome.next (s.emit (.readData w))) (halfOf64_zero half)⟩

end registers

/-- Settles O41: an open function's access reaches its register, and each register's own lemma says the rest. -/
theorem registerAccessesAct : Obligations.RegisterAccessesAct := by
  unfold Obligations.RegisterAccessesAct
  refine ⟨fun b o half v s ho hr => ?_, fun o len w s ho hm => ⟨fun h => ?_, ?_⟩, fun s ho hl hq hu => ?_,
    fun half v s ho => exec_irqMaskWrite half v ho, fun p mw s ho => ?_⟩
  · intro r
    have write {q : Reg} (h : r = q) : exec (.registerWrite b o half v) s = .next (writeReg q half v s) :=
      (exec_registerWrite ho hr o half v).trans (by rw [← h])
    refine ⟨fun h => exec_register_reserved ho hr h half v, fun k n h => (write rfl).trans ?_, fun i h => write h,
      fun n h => (write h).trans ?_, fun n _ h f => ?_, fun h => exec_rcRegisterRead_err ho hr h .low⟩
    · rw [writeReg_readOnly h]
    · rw [h]
      rfl
    · rw [f]
      exact exec_rcRegisterRead_err ho hr h .full
  · rw [exec_malformedRegAccess_pf ho hm]
    simp only [h, if_true]
  · exact exec_malformedRegAccess_records ho hm w
  · exact ⟨exec_dbgFeRead_value ho hl hq hu, exec_dbgFeRead_tag ho hl hq hu⟩
  · refine ⟨exec_quarantineClear ho, exec_quarantineClear_other ho, fun h => ?_, fun h => ?_, fun h => ?_, fun h => ?_,
      fun h => ?_, fun hd hr => ?_⟩
    · rw [exec_trippedClear ho, if_pos h]
    · rw [exec_trippedClear ho, if_neg (by omega)]
    · rw [exec_baseMwWrite ho, writeBase, if_pos h]
    · refine ⟨_, exec_baseMwWrite ho mw, ?_⟩
      rw [writeBase, if_neg (BitVec.not_lt.2 h)]
      exact ⟨recorded_auditRec .., auditRec_seq ..⟩
    · rw [exec_portRetrain ho, retrainPort, if_pos (by simpa using h)]
    · obtain ⟨t, x, run, port⟩ := exec_portRetrain_quiet ho hd hr
      refine ⟨t, run, ?_⟩
      rw [port]
      exact ⟨rfl, rfl, rfl, rfl, rfl, rfl⟩

end Sys2Proof.Machine
end

section
/-! PROOFS. O7: MOVE and FILL start (03 R110, R113, R131, R144, 10 R469, R470). -/
namespace Sys2Proof.Machine

/-- An instruction that a channel may issue has the opcode that its command names. -/
theorem mayIssue_opcode {s s1 : State} {c : Nat} {o : Byte} {w : BitVec 256} (h : MayIssue s c o w s1) : fld w 0 8 = o := by
  obtain ⟨-, -, -, -, ho, -⟩ := h
  exact ho

/-- Where every domain that it touches is ON, nothing holds the channel at issue. -/
theorem withDomains_on {c : Nat} {ds : List Nat} {s : State} (k : State → State) (h : allOn s (issueDomains c s ds)) :
    withDomains c ds k s = k s := by
  have down : ((issueDomains c s ds).filter fun d => !pdOn s d) = [] :=
    List.filter_eq_nil_iff.2 fun d hd => by simp [h d hd]
  exact if_pos down

/-- A plan of at least one byte stands in the channel, which does not complete the instruction yet. -/
theorem startPlan_moves (c : Nat) (w : BitVec 256) (plan : Plan) (item : Item) {n : Nat} (total : Nat) (ds : List Nat)
    (s : State) (h : 0 < n) : startPlan c w plan item total (n = 0) ds s = s.setChan c { s.chan c with
      cur := some { opcode := fld w 0 8, flags := wFlags w, plan := plan, item := item, total := total
                    domains := issueDomains c s ds } } :=
  if_neg (by simpa using h.ne')

/-- A MOVE that passes its checks starts its plan. -/
theorem issueMove_starts {c : Nat} {w : BitVec 256} {s : State} {src dst : Word} :
    let k := (s.chan c).room.toNat
    let len := (fld w 32 32).toNat
    let sw := flSwap (wFlags w)
    let ds := spanDomains s k src len ++ spanDomains s k dst len
    withOff (flOffSrc (wFlags w)) (fld w 64 64) (s.chan c).srcOff = some src →
    withOff (flOffDst (wFlags w)) (fld w 128 64) (s.chan c).dstOff = some dst →
    wireOk (wFlags w) dst = true → moveStatus s k src dst len sw = St.ok → allOn s (issueDomains c s ds) →
    issueMove c w s = startPlan c w (.copy src dst len sw) (.move src dst len) len (len = 0) ds s := by
  intro k len sw ds hs hd hw hm ho
  unfold issueMove
  simp only [hs, hd, hw, if_true]
  rw [if_neg (not_not_intro hm), withDomains_on _ ho]

/-- A FILL that passes its checks starts its plan. -/
theorem issueFill_starts {c : Nat} {w : BitVec 256} {s : State} {dst : Word} :
    let k := (s.chan c).room.toNat
    let len := (fld w 32 32).toNat
    let pb := (fld w 192 8).toNat
    let ds := spanDomains s k dst len
    withOff (flOffDst (wFlags w)) (fld w 64 64) (s.chan c).dstOff = some dst →
    fillStatus s k dst len pb = St.ok → allOn s (issueDomains c s ds) →
    issueFill c w s = startPlan c w (.fill dst len (fld w 128 64) pb) .none len (len = 0) ds s := by
  intro k len pb ds hd hf ho
  unfold issueFill
  simp only [hd]
  rw [if_neg (not_not_intro hf), withDomains_on _ ho]

/-- Settles O7: the issue runs the instruction's own rules; each check passes and no domain holds it, so its plan is put
into the channel. -/
theorem moveAndFillStart : Obligations.MoveAndFillStart := by
  unfold Obligations.MoveAndFillStart
  refine ⟨fun c w s s1 src dst hi => ?_, fun c w s s1 dst hi => ?_⟩
  · intro s2 k len ds hs hd hw hm ho hl
    have body : exec (.move c) s = .next (issueMove c w s2) := congrArg Host.Outcome.next (issueAs_of _ hi)
    rw [body, issueMove_starts hs hd hw hm ho, startPlan_moves _ _ _ _ _ _ _ hl, mayIssue_opcode hi]
  · intro s2 k len pb ds hd hf ho hl
    have body : exec (.fill c) s = .next (issueFill c w s2) := congrArg Host.Outcome.next (issueAs_of _ hi)
    rw [body, issueFill_starts hd hf ho, startPlan_moves _ _ _ _ _ _ _ hl, mayIssue_opcode hi]

end Sys2Proof.Machine
end

section
/-! SUPPORT. What the end of an instruction, a program or a wait leaves: memory, the rotation, the channels' error
registers, and the plan of an instruction that goes on (03 R139 to R141, R150, R153, 08 R383). -/
namespace Sys2Proof.Machine

/-! ### What bookkeeping keeps -/

/-- What no bookkeeping reaches: the memories, the bad Pantry lines, the places in the rotation. -/
def storePart (s : State) : (List Host.Cell × List Host.Cell × List Host.Cell × List Host.Cell) × List Nat × List Nat :=
  ((s.pantry, s.cellar, s.larder, s.host), s.pantryUe, s.rotor)

/-- A channel's error registers are as before, and what it moves, if anything, it moved before. -/
structure SameLedger (h h' : Chan) : Prop where
  badCount : h'.badCount = h.badCount
  lastErr : h'.lastErr = h.lastErr
  plan : ∀ q', h'.cur = some q' → ∃ q, h.cur = some q ∧ q'.plan = q.plan

/-- Every channel of a canonical table keeps its ledger, and the table stays canonical. -/
structure KeepsLedger (s t : State) : Prop where
  kept : tableWf {} s.chans = true → tableWf {} t.chans = true ∧ ∀ d, SameLedger (s.chan d) (t.chan d)

/-- t follows s by bookkeeping. -/
structure Quiet (s t : State) : Prop where
  store : storePart t = storePart s
  ledger : KeepsLedger s t

theorem SameLedger.refl (h : Chan) : SameLedger h h := ⟨rfl, rfl, fun q hq => ⟨q, hq, rfl⟩⟩

theorem SameLedger.trans {h h' h'' : Chan} (a : SameLedger h h') (b : SameLedger h' h'') : SameLedger h h'' := by
  refine ⟨b.badCount.trans a.badCount, b.lastErr.trans a.lastErr, fun q'' hq'' => ?_⟩
  obtain ⟨q', hq', e'⟩ := b.plan q'' hq''
  obtain ⟨q, hq, e⟩ := a.plan q' hq'
  exact ⟨q, hq, e'.trans e⟩

theorem KeepsLedger.trans {s t u : State} (a : KeepsLedger s t) (b : KeepsLedger t u) : KeepsLedger s u where
  kept hs :=
    have ⟨ht, la⟩ := a.kept hs
    have ⟨hu, lb⟩ := b.kept ht
    ⟨hu, fun d => (la d).trans (lb d)⟩

theorem keepsLedger_of_chans {s t : State} (h : t.chans = s.chans) : KeepsLedger s t where
  kept hs := by
    unfold State.chan
    rw [h]
    exact ⟨hs, fun d => .refl _⟩

theorem keepsLedger_setChan {s : State} {c : Nat} {h : Chan} (hl : SameLedger (s.chan c) h) :
    KeepsLedger s (s.setChan c h) where
  kept hs := by
    refine ⟨State.setChan_wf c h hs, fun d => ?_⟩
    by_cases e : d = c
    · subst e
      rwa [State.setChan_chan_eq d h hs]
    · rw [State.setChan_chan_ne s h e]
      exact .refl _

theorem Quiet.refl (s : State) : Quiet s s := ⟨rfl, keepsLedger_of_chans rfl⟩

theorem Quiet.trans {s t u : State} (a : Quiet s t) (b : Quiet t u) : Quiet s u :=
  ⟨b.store.trans a.store, a.ledger.trans b.ledger⟩

theorem quiet_of_chans {s t : State} (hc : t.chans = s.chans) (hs : storePart t = storePart s) : Quiet s t :=
  ⟨hs, keepsLedger_of_chans hc⟩

/-- A channel goes on with the work that it has. -/
theorem quiet_setChan {s : State} {c : Nat} {h : Chan} (hc : h.cur = (s.chan c).cur)
    (hb : h.badCount = (s.chan c).badCount := by rfl) (hl : h.lastErr = (s.chan c).lastErr := by rfl) :
    Quiet s (s.setChan c h) :=
  ⟨rfl, keepsLedger_setChan ⟨hb, hl, fun q hq => ⟨q, hc ▸ hq, rfl⟩⟩⟩

/-- A channel has no work any more. -/
theorem quiet_setChan_idle {s : State} {c : Nat} {h : Chan} (hc : h.cur = none)
    (hb : h.badCount = (s.chan c).badCount := by rfl) (hl : h.lastErr = (s.chan c).lastErr := by rfl) :
    Quiet s (s.setChan c h) :=
  ⟨rfl, keepsLedger_setChan ⟨hb, hl, fun q hq => by simp [hc] at hq⟩⟩

theorem Quiet.waiters {s t : State} (h : Quiet s t) (x : List Waiter) : Quiet s { t with waiters := x } :=
  h.trans (quiet_of_chans rfl rfl)

theorem Quiet.proofs {s t : State} (h : Quiet s t) (x : List (Nat × Nat)) : Quiet s { t with proofs := x } :=
  h.trans (quiet_of_chans rfl rfl)

theorem quiet_setCur {f : Cur → Cur} (hf : ∀ q, (f q).plan = q.plan) (c : Nat) (s : State) : Quiet s (setCur c f s) := by
  refine ⟨rfl, keepsLedger_setChan ⟨rfl, rfl, fun q' hq' => ?_⟩⟩
  obtain ⟨q, hq, rfl⟩ := Option.map_eq_some_iff.1 hq'
  exact ⟨q, hq, hf q⟩

theorem quiet_foldl {α : Type} {f : State → α → State} (h : ∀ t a, Quiet t (f t a)) (l : List α) (s : State) :
    Quiet s (l.foldl f s) := by
  induction l generalizing s with
  | nil => exact .refl s
  | cons a r ih => exact (h s a).trans (ih _)

/-! ### Interrupts, messages and completions -/

theorem quiet_sendMsix (fn vec : Nat) (s : State) : Quiet s (sendMsix fn vec s) := by
  unfold sendMsix
  dsimp only
  split <;> exact quiet_of_chans rfl rfl

theorem quiet_hostReadOut (fn a n : Nat) (s : State) : Quiet s (hostReadOut fn a n s) := by
  unfold hostReadOut
  dsimp only
  split <;> exact quiet_of_chans rfl rfl

theorem quiet_sendMsg (m : Msg) (s : State) : Quiet s (sendMsg m s) := by
  unfold sendMsg
  split <;> exact quiet_of_chans rfl rfl

theorem quiet_completeEntry (g : Nat) (n : Half) (st : Byte) (r : Word) (s : State) : Quiet s (completeEntry g n st r s) := by
  unfold completeEntry
  dsimp only
  split <;> exact quiet_of_chans rfl rfl

theorem quiet_triggerEvent (c : Nat) (s : State) : Quiet s (triggerEvent c s) := by
  unfold triggerEvent
  dsimp only
  split
  · exact quiet_setChan rfl
  · split
    · refine Quiet.waiters ?_ _
      exact quiet_setChan rfl
    · exact quiet_setChan rfl

theorem quiet_raiseEvent (c bit : Nat) (s : State) : Quiet s (raiseEvent c bit s) := by
  have follow (t : State) : Quiet t ((followers t c).foldl (fun t d => triggerEvent d t) t) :=
    quiet_foldl (fun t d => quiet_triggerEvent d t) _ t
  have pend : Quiet s (s.setChan c { s.chan c with irqPend := (s.chan c).irqPend ||| (1#4 <<< bit) }) :=
    quiet_setChan rfl
  unfold raiseEvent
  dsimp only
  refine pend.trans ?_
  generalize s.setChan c _ = t
  split
  · split
    · exact quiet_sendMsix ..
    · exact .refl _
  · split
    · exact (quiet_sendMsix ..).trans (follow _)
    · exact follow _

/-! ### The end of an instruction and of a program -/

theorem quiet_finishProgram (c : Nat) (st : Byte) (r : Word) (s : State) : Quiet s (finishProgram c st r s) := by
  have complete (e : Option EntryRef) (t : State) : Quiet t (match e with
      | some e => completeEntry e.sq (BitVec.ofNat 32 e.count) st r t
      | none => t) := by
    cases e
    · exact .refl t
    · exact quiet_completeEntry ..
  unfold finishProgram
  dsimp only
  split
  · refine .trans ?_ (complete ..)
    refine Quiet.waiters ?_ _
    exact quiet_setChan_idle rfl
  · refine .trans (.trans ?_ (complete ..)) (quiet_raiseEvent ..)
    refine Quiet.waiters ?_ _
    exact quiet_setChan_idle rfl

theorem quiet_endProgram (c : Nat) (st : Byte) (r : Word) (s : State) : Quiet s (endProgram c st r s) := by
  unfold endProgram
  dsimp only
  split
  · split
    · exact quiet_setChan_idle rfl
    · exact quiet_finishProgram ..
  · exact quiet_finishProgram ..

theorem quiet_advance (c : Nat) (s : State) : Quiet s (advance c s) := by
  unfold advance
  dsimp only
  split
  · exact quiet_endProgram ..
  · exact quiet_setChan_idle rfl

theorem quiet_proveWrites (c : Nat) (s : State) : Quiet s (proveWrites c s) := by
  unfold proveWrites
  dsimp only
  split
  · refine .trans ?_ (quiet_hostReadOut ..)
    refine Quiet.proofs ?_ _
    exact quiet_setChan rfl
  · exact .refl s

theorem quiet_eventOnArrival (c : Nat) (isHalf : Bool) (s : State) : Quiet s (eventOnArrival c isHalf s) := by
  unfold eventOnArrival
  dsimp only
  split
  · exact quiet_setChan rfl
  · split <;> exact quiet_setChan rfl

theorem quiet_fireHalf (c : Nat) (s : State) : Quiet s (fireHalf c s) :=
  ((quiet_setCur (f := fun q => { q with halfFired := true }) (fun _ => rfl) c s).trans
    (quiet_eventOnArrival ..)).trans (quiet_proveWrites ..)

theorem quiet_checkHalf (c : Nat) (s : State) : Quiet s (checkHalf c s) := by
  unfold checkHalf
  split
  · split
    · exact quiet_fireHalf ..
    · exact .refl s
  · exact .refl s

theorem quiet_completeInstr (c : Nat) (s : State) : Quiet s (completeInstr c s) := by
  have half (b : Bool) (t : State) : Quiet t (if b then fireHalf c t else t) := by
    cases b
    · exact .refl t
    · exact quiet_fireHalf ..
  have full (b : Bool) (t : State) : Quiet t (if b then eventOnArrival c false t else t) := by
    cases b
    · exact .refl t
    · exact quiet_eventOnArrival ..
  unfold completeInstr
  split
  · exact .refl s
  · dsimp only
    generalize hx : proveWrites c _ = x
    have raised : Quiet s x := by
      rw [← hx]
      refine .trans ?_ (quiet_proveWrites ..)
      refine .trans ?_ (full _ _)
      exact half _ s
    refine raised.trans ?_
    split
    · exact quiet_setChan_idle rfl
    · refine .trans ?_ (quiet_advance ..)
      exact quiet_setChan_idle rfl

theorem quiet_noteProgress (c : Nat) (s : State) : Quiet s (noteProgress c s) := by
  unfold noteProgress
  split
  · exact quiet_setChan rfl
  · exact .refl s

/-- MOVE and FILL: the plans whose bursts end with nothing but bookkeeping. -/
def Straight : Plan → Prop
  | .copy _ _ _ _ => True
  | .fill _ _ _ _ => True
  | _ => False

theorem quiet_workDone {c k : Nat} {s : State} (h : ∀ q, (s.chan c).cur = some q → Straight q.plan) :
    Quiet s (workDone c k s) := by
  have finish {b : Prop} [Decidable b] {t : State} (ht : Quiet s t) : Quiet s (if b then completeInstr c t else t) := by
    split
    · exact ht.trans (quiet_completeInstr ..)
    · exact ht
  unfold workDone
  split
  · exact .refl s
  · rename_i q hq
    have straight := h q hq
    cases hp : q.plan with
    | copy | fill =>
      refine finish ?_
      refine .trans ?_ (quiet_noteProgress ..)
      refine .trans ?_ (quiet_setCur ?_ ..)
      · exact quiet_setChan rfl
      · exact fun _ => rfl
    | _ => simp [hp, Straight] at straight

/-! ### Waits that end OK -/

theorem tget_tmap {α : Type} [DecidableEq α] {d : α} {t : Table α} (f : Nat → α → α) (h : tableWf d t = true) (k : Nat) :
    tget (tmap t d f) d k = if tget t d k = d then d else f k (tget t d k) := by
  suffices ∀ l acc : Table α, tableWf d l = true → tableWf d acc = true →
      tget (l.foldl (fun acc p => tset acc d p.1 (f p.1 p.2)) acc) d k
        = if tget l d k = d then tget acc d k else f k (tget l d k) by
    rw [tmap, this t t h h]
    split <;> simp [*]
  intro l
  induction l with
  | nil => exact fun acc _ _ => (if_pos rfl).symm
  | cons p r ih =>
    intro acc hl ha
    obtain ⟨hp, hlt, hr⟩ := (tableWf_cons d p r).1 hl
    rw [List.foldl_cons, ih _ hr (tableWf_tset _ _ ha)]
    by_cases e : p.1 = k
    · subst e
      simp [tget, tget_of_lt hlt, hp, tget_tset_eq _ _ ha]
    · simp [tget, e, tget_tset_ne acc d _ (Ne.symm e)]

theorem quiet_clearArrivals (i : Nat) (s : State) : Quiet s (clearArrivals i s) := by
  refine ⟨rfl, ⟨fun hs => ⟨tableWf_tmap (fun _ (h : Chan) => { h with arrivals := h.arrivals.filter (·.1 ≠ i) }) hs,
    fun d => ?_⟩⟩⟩
  have e := tget_tmap (fun _ (h : Chan) => { h with arrivals := h.arrivals.filter (·.1 ≠ i) }) hs d
  rw [show (clearArrivals i s).chan d = _ from e]
  split
  · rename_i h
    rw [show s.chan d = {} from h]
    exact .refl _
  · exact ⟨rfl, rfl, fun q hq => ⟨q, hq, rfl⟩⟩

theorem quiet_arriveWire (c i : Nat) (s : State) : Quiet s (arriveWire c i s) := by
  have wire (t : State) (r : Wire) : Quiet t (t.setWire i r) := quiet_of_chans rfl rfl
  unfold arriveWire evalWire
  dsimp only
  generalize hx : State.setWire _ i (setArrived _ c true) = x
  have arrived : Quiet s x := by
    rw [← hx]
    refine .trans ?_ (wire _ _)
    exact quiet_setChan rfl
  refine arrived.trans ?_
  split
  · exact (wire _ _).trans (quiet_clearArrivals ..)
  · exact .refl x

theorem quiet_consumeObj (w : Waiter) (s : State) : Quiet s (consumeObj w s) := by
  unfold consumeObj
  split
  · split
    · exact quiet_of_chans rfl rfl
    · exact .refl s
  · split
    · exact quiet_of_chans rfl rfl
    · exact .refl s
  · split
    · exact quiet_arriveWire ..
    · exact .refl s
  · exact .refl s

theorem quiet_endWait_ok (w : Waiter) (v : Word) (s : State) : Quiet s (endWait w St.ok v s) := by
  have drop : Quiet s (dropWaiter w s) := quiet_of_chans rfl rfl
  unfold endWait
  dsimp only
  split
  · rw [if_pos rfl]
    refine .trans (drop.trans ?_) (quiet_advance ..)
    exact quiet_setChan_idle rfl
  · rw [if_pos (by simp)]
    refine .trans (drop.trans ?_) (quiet_completeEntry ..)
    exact quiet_of_chans rfl rfl
  · exact drop.trans (quiet_sendMsg ..)

/-- With no bad line every wait that is met ends OK. -/
theorem quiet_meetWait (w : Waiter) {s : State} (h : s.pantryUe = []) : Quiet s (meetWait w s) := by
  have good : wordBad s w = false := by
    unfold wordBad
    split <;> simp [h]
  unfold meetWait
  rw [good]
  exact (quiet_consumeObj ..).trans (quiet_endWait_ok ..)

theorem storePart_pantryUe {s t : State} (h : storePart t = storePart s) : t.pantryUe = s.pantryUe := congrArg (·.2.1) h

theorem quiet_settle {s : State} (h : s.pantryUe = []) : Quiet s (settle s) := by
  suffices ∀ n t, t.pantryUe = [] → Quiet t (settleN n t) from this _ s h
  intro n
  induction n with
  | zero => exact fun t _ => .refl t
  | succ n ih =>
    intro t ht
    rw [settleN]
    split
    · exact .refl t
    · rename_i w _
      have met := quiet_meetWait w ht
      exact met.trans (ih _ ((storePart_pantryUe met.store).trans ht))

/-- A write that fills tagged words lets their waiters go on (R370). -/
theorem quiet_fillTags (lo : Nat) (en : List Bool) {s : State} (h : s.pantryUe = []) : Quiet s (fillTags lo en s) := by
  unfold fillTags
  dsimp only
  split
  · exact .refl s
  · refine .trans ?_ (quiet_settle ?_)
    · exact quiet_of_chans rfl rfl
    · exact h

/-- With no waiters the tags are all that changes. -/
theorem fillTags_no_waiters (lo : Nat) (en : List Bool) {s : State} (h : s.waiters = []) :
    ∃ ts, fillTags lo en s = { s with tags := ts } := by
  unfold fillTags
  dsimp only
  split
  · exact ⟨s.tags, rfl⟩
  · generalize List.foldl ninsert s.tags _ = ts
    refine ⟨ts, ?_⟩
    rw [settle, show ({ s with tags := ts } : State).waiters = [] from h]
    rfl

end Sys2Proof.Machine
end

section
/-! SUPPORT. One burst's access of the Pantry: a burst lies in one granule, a read gives its bytes, a write puts them
(01 R26, R41, R45, 03 R131, R133). -/
namespace Sys2Proof.Machine

/-! ### Bursts and granules (R26) -/

theorem burstLen_pos (a b : Nat) {left : Nat} (h : 0 < left) : 0 < burstLen a b left := by
  unfold burstLen
  omega

/-- A burst ends at the 4 KiB boundary of its source at the latest. -/
theorem burstLen_in_page_src (a b left : Nat) : a % 4096 + burstLen a b left ≤ 4096 := by
  unfold burstLen
  omega

theorem burstLen_in_page_dst (a b left : Nat) : b % 4096 + burstLen a b left ≤ 4096 := by
  unfold burstLen
  omega

/-- What lies in one 4 KiB page lies in one granule. -/
theorem granParts_page {o n : Nat} (h0 : 0 < n) (hp : o % 4096 + n ≤ 4096) : granParts o n = [(o, n)] := by
  have last : (o + n - 1) / granule = o / granule := by unfold granule; omega
  have front : max o (o / granule * granule) = o := Nat.max_eq_left (Nat.div_mul_le_self ..)
  have size : min (o + n) ((o / granule + 1) * granule) - o = n := by unfold granule; omega
  rw [granParts, if_neg h0.ne', last, Nat.sub_self]
  simp only [zero_add, List.range_one, List.map_cons, List.map_nil, add_zero, front, size]

/-! ### Pantry addresses (R41) -/

theorem offOf_eq (a : Word) : offOf a = a.toNat % 2 ^ 60 := by
  simp [offOf, fld, BitVec.extractLsb'_toNat]

/-- The addresses below 2 to the 60 are those of the Pantry. -/
theorem spaceOf_pantry_iff (a : Word) : spaceOf a = some .pantry ↔ a.toNat < 2 ^ 60 := by
  have top : (fld a 60 4).toNat = a.toNat / 2 ^ 60 := by
    have := a.isLt
    rw [BitVec.extractLsb'_toNat, Nat.shiftRight_eq_div_pow]
    omega
  have low : a.toNat / 2 ^ 60 = 0 ↔ a.toNat < 2 ^ 60 := by omega
  rw [spaceOf, top, ← low]
  split <;> simp_all

section
variable {base : Word} {o : Nat} (hs : spaceOf base = some .pantry) (ho : o < 2 ^ 60)
include hs ho

theorem toNat_atOff : (atOff base o).toNat = o := by
  have := (spaceOf_pantry_iff base).1 hs
  rw [atOff, BitVec.toNat_ofNat]
  omega

theorem spaceOf_atOff : spaceOf (atOff base o) = some .pantry :=
  (spaceOf_pantry_iff _).2 (by rwa [toNat_atOff hs ho])

theorem offOf_atOff : offOf (atOff base o) = o := by
  rw [offOf_eq, toNat_atOff hs ho, Nat.mod_eq_of_lt ho]

end

theorem not_remotePeer_of_pantry (s : State) {a : Word} (h : spaceOf a = some .pantry) : isRemotePeer s a = false := by
  simp [isRemotePeer, h]

/-! ### A read burst (R132) -/

theorem badLine_nil (lo n : Nat) : badLine [] lo n = none := by
  simp [badLine]

/-- A read of Pantry bytes of one page gives what memory holds, and changes nothing but the quadrant's last access. -/
theorem burstGet_pantry {k n p : Nat} {a : Word} {s : State} (hs : spaceOf a = some .pantry) (h0 : 0 < n)
    (hp : offOf a % 4096 + n ≤ 4096) (ht : translate s k false (offOf a) = some p)
    (hk : poolOk s k (offOf a) n = true) (hu : s.pantryUe = []) :
    burstGet k a n s = (pdTouch (pdPantry p) s, .ok (mread s.pantry p n)) := by
  have part (base : Word) : partGet k false base (offOf a, n) s
      = (pdTouch (pdPantry p) s, .ok (mread s.pantry p n)) := by
    simp [partGet, ht, hk, pantryGet, hu, badLine_nil]
  simp [burstGet, devGet, hs, granParts_page h0 hp, partsGet, part]

/-! ### A write burst (R131, R133) -/

theorem maskLines_nil (lo : Nat) (en : List Bool) : maskLines [] lo en = en := by
  refine List.ext_getElem (by simp [maskLines]) fun i h _ => ?_
  have hi : i < en.length := by simpa [maskLines] using h
  simp [maskLines, hi]

/-- A write with every enable set writes all its bytes. -/
theorem mwriteEn_all (m : List Host.Cell) (a : Nat) (bs : List Byte) :
    mwriteEn m a (bs.zip (bs.map fun _ => true)) = mwrite m a bs := by
  induction bs generalizing m a with
  | nil => rfl
  | cons b bs ih => exact ih ..

/-- A run of whole bytes leaves nothing of what memory held. -/
theorem mergeRun_whole {old bs : List Byte} (h : old.length = bs.length) :
    mergeRun old (bs.map fun b => (0xFF, b)) = bs := by
  refine List.ext_getElem (by simp [mergeRun, h]) fun i h1 h2 => ?_
  have whole (y : Byte) : y &&& 255#8 = y := BitVec.and_allOnes
  simp [mergeRun, whole]

@[simp] theorem rawBytes_length (s : State) (k : Nat) (cellar : Bool) (o n : Nat) : (rawBytes s k cellar o n).length = n := by
  simp [rawBytes]

/-- A write that lies in one granule is one access. -/
theorem partsPut_single (k : Nat) (cellar : Bool) (base : Word) (o : Nat) {bs : List Byte} {en whole : List Bool}
    (he : en.length = bs.length) (hw : whole.length = bs.length) (s : State) :
    partsPut k cellar base o bs en whole [(o, bs.length)] s = partPut k cellar base o bs en whole s := by
  have cut {α : Type} {l : List α} (hl : l.length = bs.length) : (l.drop (o - o)).take bs.length = l := by
    rw [Nat.sub_self, List.drop_zero, ← hl, List.take_length]
  rw [partsPut]
  dsimp only
  rw [cut rfl, cut he, cut hw]
  generalize partPut k cellar base o bs en whole s = x
  obtain ⟨t, st⟩ := x
  simpa [partsPut] using Eq.symm

/-! An access below matches on the space of an address that it has computed. Its definition is unfolded as a function
(`delta`) and the address is then taken as any word, so that the kernel never evaluates the address to decide the match. -/

theorem runPut_eq_putRun {base : Word} {run : BitRun} (h : spaceOf (atOff base run.1) = some .pantry) (c k wc el : Nat)
    (s : State) : runPut c k base run wc el s = putRun k (atOff base run.1) run s := by
  generalize hf : @runPut = f
  delta runPut at hf
  subst hf
  beta_reduce
  generalize atOff base run.1 = a at h ⊢
  simp only [h]

theorem putRun_eq_partsPut {base : Word} {run : BitRun} (h : spaceOf (atOff base run.1) = some .pantry) (k : Nat)
    (s : State) : putRun k base run s
      = partsPut k false (atOff base run.1) run.1 (mergeRun (rawBytes s k false run.1 run.2.length) run.2)
          (run.2.map fun _ => true) (run.2.map fun p => decide (p.1 = 0xFF)) (granParts run.1 run.2.length) s := by
  generalize hf : @putRun = f
  delta putRun at hf
  subst hf
  beta_reduce
  generalize atOff base run.1 = a at h ⊢
  simp only [h]

theorem runPut_eq_partsPut {base : Word} {run : BitRun} (hs : spaceOf base = some .pantry) (hr : run.1 < 2 ^ 60)
    (c k wc el : Nat) (s : State) : ∃ addr, runPut c k base run wc el s
      = partsPut k false addr run.1 (mergeRun (rawBytes s k false run.1 run.2.length) run.2)
          (run.2.map fun _ => true) (run.2.map fun p => decide (p.1 = 0xFF)) (granParts run.1 run.2.length) s :=
  have near := spaceOf_atOff hs hr
  have far := spaceOf_atOff near hr
  ⟨_, (runPut_eq_putRun near ..).trans (putRun_eq_partsPut far ..)⟩

section
variable {c k b p wc el : Nat} {base : Word} {bytes : List Byte} {s : State} (hs : spaceOf base = some .pantry)
  (hb : b < 2 ^ 60) (h0 : 0 < bytes.length) (hp : b % 4096 + bytes.length ≤ 4096)
include hs hb h0 hp

/-- A write of whole Pantry bytes of one page is one access of its granule. -/
theorem runPut_page : ∃ addr, runPut c k base (wholeRun b bytes) wc el s
    = partPut k false addr b bytes (bytes.map fun _ => true) (bytes.map fun _ => true) s := by
  obtain ⟨addr, run⟩ := runPut_eq_partsPut (run := wholeRun b bytes) hs hb c k wc el s
  have merged := mergeRun_whole (old := rawBytes s k false b bytes.length) (rawBytes_length ..)
  refine ⟨addr, run.trans ?_⟩
  simp only [wholeRun, List.length_map, merged, granParts_page h0 hp, List.map_map]
  exact partsPut_single k false addr b (by simp) (by simp) s

variable (ht : translate s k false b = some p)
include ht

/-- The bytes stand where the window places them; the words that they fill set their tags (R370). -/
theorem runPut_stores (hk : poolOk s k b bytes.length = true) (hu : s.pantryUe = []) :
    ∃ en, runPut c k base (wholeRun b bytes) wc el s
      = (fillTags p en (pdTouch (pdPantry p) { s with pantry := mwrite s.pantry p bytes }), St.ok) := by
  obtain ⟨addr, run⟩ := runPut_page (c := c) (k := k) (wc := wc) (el := el) (s := s) hs hb h0 hp
  have put := mwriteEn_all s.pantry p bytes
  refine ⟨(bytes.map fun _ => true).zipWith (· && ·) (bytes.map fun _ => true), run.trans ?_⟩
  simp only [partPut, ht, hk, pantryPutM, hu, healedLines, refusedLines, List.filter_nil, maskLines_nil, put]
  rfl

/-- Freed granules of a pool are not written (R308). -/
theorem runPut_stale (hk : poolOk s k b bytes.length = false) :
    runPut c k base (wholeRun b bytes) wc el s = (s, St.bufStale) := by
  obtain ⟨addr, run⟩ := runPut_page (c := c) (k := k) (wc := wc) (el := el) (s := s) hs hb h0 hp
  simp [run, partPut, ht, hk]

end

end Sys2Proof.Machine
end

section
/-! SUPPORT. A turn of a Mover: its work is laid out, its grants are taken, its burst is carried (01 R26, R38, 03 R131). -/
namespace Sys2Proof.Machine

/-! ### The work in hand -/

/-- Channel c with the work q in hand. -/
def withCur (c : Nat) (q : Cur) (s : State) : State := s.setChan c { s.chan c with cur := some q }

/-- A channel with work in hand is no default record, so it is read back whatever the table. -/
theorem setChan_cur {s : State} {c : Nat} {h : Chan} {q : Cur} (hq : h.cur = some q) :
    ((s.setChan c h).chan c).cur = some q := by
  rw [State.setChan_chan_of_ne s c fun e => by simp [e] at hq, hq]

@[simp] theorem withCur_chan (c : Nat) (q : Cur) (s : State) :
    (withCur c q s).chan c = { s.chan c with cur := some q } :=
  State.setChan_chan_of_ne s c fun e => by simpa using congrArg Chan.cur e

theorem setCur_eq_withCur {s : State} {c : Nat} {q : Cur} (hq : (s.chan c).cur = some q) (f : Cur → Cur) :
    setCur c f s = withCur c (f q) s := by
  rw [setCur, hq]
  rfl

/-! ### Grants (R38, R413) -/

/-- Of what the next burst wants, what has been granted. -/
def granted (s : State) (c : Nat) : List (Nat × Nat) :=
  (wants s c).filter fun x => (s.arbiter x.1).owner = some x.2

theorem setArbiter_foldl (l : List (Nat × Nat)) (s : State) :
    ∃ as, l.foldl (fun t x => t.setArbiter x.1 { t.arbiter x.1 with hold := 0 }) s = { s with arbiters := as } := by
  induction l generalizing s with
  | nil => exact ⟨s.arbiters, rfl⟩
  | cons x r ih => exact ih (s.setArbiter x.1 _)

section
variable {s : State} {c : Nat} {q : Cur} (hq : (s.chan c).cur = some q)
include hq

theorem serveGrants_eq : ∃ as, serveGrants c s
    = withCur c { q with served := q.served ++ (granted s c).map (·.1) } { s with arbiters := as } := by
  obtain ⟨as, h⟩ := setArbiter_foldl (granted s c) s
  have serve : serveGrants c s = setCur c (fun q => { q with served := q.served ++ (granted s c).map (·.1) })
      ((granted s c).foldl (fun t x => t.setArbiter x.1 { t.arbiter x.1 with hold := 0 }) s) := rfl
  refine ⟨as, ?_⟩
  rw [serve, h]
  exact setCur_eq_withCur (s := { s with arbiters := as }) hq _

theorem nextBurst_served (l : List Nat) (as : Table Arbiter) :
    nextBurst (withCur c { q with served := l } { s with arbiters := as }) c = nextBurst s c := by
  unfold nextBurst
  rw [withCur_chan, hq]
  rfl

/-- An arbiter that has moved its lines is wanted no more. -/
theorem wants_served (l : List Nat) (as : Table Arbiter) :
    wants (withCur c { q with served := q.served ++ l } { s with arbiters := as }) c
      = (wants s c).filter fun x => !l.contains x.1 := by
  unfold wants
  rw [nextBurst_served hq, withCur_chan, hq]
  cases nextBurst s c with
  | none => rfl
  | some x =>
    obtain ⟨a, n, code⟩ := x
    have path (k : Nat) : pathArbs (withCur c { q with served := q.served ++ l } { s with arbiters := as }) k a n
        = pathArbs s k a n := rfl
    dsimp only
    rw [path, List.filter_map, List.filter_filter]
    congr 2
    funext x
    simp [Bool.and_comm]

theorem wants_serveGrants : wants (serveGrants c s) c
    = (wants s c).filter fun x => !((granted s c).map (·.1)).contains x.1 := by
  obtain ⟨as, h⟩ := serveGrants_eq hq
  rw [h, wants_served hq]

end

/-- A burst asks all its arbiters under one code. -/
theorem wants_code {s : State} {c : Nat} {x y : Nat × Nat} (hx : x ∈ wants s c) (hy : y ∈ wants s c) : x.2 = y.2 := by
  unfold wants at hx hy
  split at hx
  · rename_i hb hc
    simp only [hb, hc, List.mem_map] at hy
    obtain ⟨_, -, rfl⟩ := List.mem_map.1 hx
    obtain ⟨_, -, rfl⟩ := hy
    rfl
  · simp at hx

/-! ### The turn (R26) -/

/-- v is s with the work q in hand at channel c, up to the turn's grants, accesses and place in the rotation. -/
structure WorkHeld (c : Nat) (q : Cur) (s v : State) : Prop where
  same : { v with chans := s.chans, arbiters := s.arbiters, domains := s.domains, rotor := s.rotor } = s
  chan : v.chan c = { s.chan c with cur := some q }
  wf : tableWf {} s.chans = true → tableWf {} v.chans = true

theorem workHeld_pdTouch {c : Nat} {q : Cur} {s : State} (hq : (s.chan c).cur = some q) (d : Nat) :
    WorkHeld c q s (pdTouch d s) :=
  ⟨rfl, by rw [← hq]; rfl, id⟩

theorem workHeld_withCur (c : Nat) (q : Cur) (d : Nat) (s : State) : WorkHeld c q s (withCur c q (pdTouch d s)) :=
  ⟨rfl, withCur_chan .., State.setChan_wf c _⟩

namespace WorkHeld
variable {c : Nat} {q : Cur} {s v : State} (h : WorkHeld c q s v)
include h

theorem cur : (v.chan c).cur = some q := (congrArg Chan.cur h.chan :)
theorem room : (v.chan c).room = (s.chan c).room := (congrArg Chan.room h.chan :)
theorem badCount : (v.chan c).badCount = (s.chan c).badCount := (congrArg Chan.badCount h.chan :)
theorem waiters : v.waiters = s.waiters := (congrArg State.waiters h.same :)
theorem pantryUe : v.pantryUe = s.pantryUe := (congrArg State.pantryUe h.same :)
theorem sameMemory : SameMemory s v :=
  ⟨(congrArg State.pantry h.same :), (congrArg State.cellar h.same :), (congrArg State.larder h.same :),
    (congrArg State.host h.same :)⟩

theorem rooms (k : Nat) : v.room k = s.room k := by
  rw [State.room, show v.rooms = s.rooms from (congrArg State.rooms h.same :), ← State.room]

theorem translate (k : Nat) (cellar : Bool) (o : Nat) : Machine.translate v k cellar o = Machine.translate s k cellar o := by
  unfold Machine.translate
  rw [h.rooms]

theorem poolOk (k lo n : Nat) : Machine.poolOk v k lo n = Machine.poolOk s k lo n := by
  unfold Machine.poolOk
  rw [h.rooms, show v.fy = s.fy from (congrArg State.fy h.same :)]

end WorkHeld

/-- The state in which a turn looks for its grants: the work that comes next is laid out where none is under way. -/
def turnStart (c : Nat) (s : State) : State :=
  if midWork ((pdTouch (pdMover c) s).chan c) then pdTouch (pdMover c) s else prepare c (pdTouch (pdMover c) s)

theorem moverTurn_eq (m : Nat) {c : Nat} {s u : State} (hu : turnStart c s = u) : moverTurn m c s =
    if wants (serveGrants c u) c = [] then
      carryBurst c { serveGrants c u with rotor := (serveGrants c u).rotor.set m ((c + 1) % 64) }
    else serveGrants c u := by
  subst hu
  rfl

section
variable {m c : Nat} {s u : State} {q : Cur} (hu : turnStart c s = u) (held : WorkHeld c q s u)
include hu held

/-- With every grant there, the burst is carried and the next turn is another channel's. -/
theorem moverTurn_carries (hr : u.rotor = s.rotor) (hg : Granted u c) : ∃ v l, moverTurn m c s = carryBurst c v
    ∧ WorkHeld c { q with served := l } s v ∧ v.rotor = s.rotor.set m ((c + 1) % 64) := by
  have served : wants (serveGrants c u) c = [] := by
    rw [wants_serveGrants held.cur, List.filter_eq_nil_iff]
    intro x hx
    have : x ∈ granted u c := List.mem_filter.2 ⟨hx, decide_eq_true (hg x hx)⟩
    simpa using ⟨x.2, this⟩
  obtain ⟨as, h⟩ := serveGrants_eq held.cur
  refine ⟨_, q.served ++ (granted u c).map (·.1), (moverTurn_eq m hu).trans (if_pos served), ?_, ?_⟩
  · rw [h]
    refine ⟨held.same, (withCur_chan ..).trans ?_, fun hw => State.setChan_wf c _ (held.wf hw)⟩
    rw [show ({ u with arbiters := as } : State).chan c = u.chan c from rfl, held.chan]
  · rw [h, ← hr]
    rfl

/-- With a grant missing, the turn stays with the channel and nothing is carried. -/
theorem moverTurn_waits {x : Nat × Nat} (hx : x ∈ wants u c) (hn : (u.arbiter x.1).owner ≠ some x.2) :
    ∃ l as, moverTurn m c s = withCur c { q with served := l } { u with arbiters := as } := by
  have waits : x ∈ wants (serveGrants c u) c := by
    rw [wants_serveGrants held.cur]
    refine List.mem_filter.2 ⟨hx, ?_⟩
    suffices x.1 ∉ (granted u c).map (·.1) by simpa using this
    intro hm
    obtain ⟨y, hy, e⟩ := List.mem_map.1 hm
    obtain ⟨hw, ho⟩ := List.mem_filter.1 hy
    refine hn ?_
    rw [← e, wants_code hx hw]
    exact of_decide_eq_true ho
  obtain ⟨as, h⟩ := serveGrants_eq held.cur
  exact ⟨_, as, ((moverTurn_eq m hu).trans (if_neg (List.ne_nil_of_mem waits))).trans h⟩

end

/-- The turn of a channel whose Room is not in a reset (R346). -/
theorem exec_moverBurst {m : Fin 2} {s : State} {c : Nat} (hn : nextReady s m (s.rotor.getD m 0) = some c)
    (hr : (s.room (s.chan c).room.toNat).reset = none) : exec (.moverBurst m) s = .next (moverTurn m c s) := by
  show execMoverBurst m s = _
  simp only [execMoverBurst, hn, hr, Option.isSome_none, Bool.false_eq_true, if_false]

theorem turnStart_fresh {s : State} {c : Nat} {q : Cur} (hq : (s.chan c).cur = some q) (hs : q.stage = .fresh) :
    turnStart c s = prepare c (pdTouch (pdMover c) s) :=
  if_neg (by simp [midWork, show (pdTouch (pdMover c) s).chan c = s.chan c from rfl, hq, hs])

theorem turnStart_busy {s : State} {c : Nat} {q : Cur} (hq : (s.chan c).cur = some q) (hs : q.stage ≠ .fresh) :
    turnStart c s = pdTouch (pdMover c) s :=
  if_pos (by simp [midWork, show (pdTouch (pdMover c) s).chan c = s.chan c from rfl, hq, hs])

end Sys2Proof.Machine
end

section
/-! PROOFS. O9: the bursts of MOVE and FILL from Pantry to Pantry (01 R26, R38, 03 R113, R131, R137, R142, 06 R308). -/
namespace Sys2Proof.Machine

/-! ### The work is laid out (R26, R113) -/

/-- Work that needs no accumulator is laid out in the channel. -/
theorem layOut_eq {c k : Nat} {s : State} {q q' : Cur} (hq : (s.chan c).cur = some q) (hc : storeChunk s q = none)
    (hl : ∀ acc, layWrites k (s.chan c) acc s q = .ok q') (hw : q'.toWrite ≠ []) : layOut c k s = withCur c q' s := by
  unfold layOut
  simp only [hq, hc, hl, setCur_eq_withCur hq]
  exact if_neg (by simp [hw])

section
variable {c k len : Nat} {s : State} {q : Cur} {src dst : Word} {sw : BitVec 2} (hq : (s.chan c).cur = some q)
  (hp : q.plan = .copy src dst len sw) (hi : q.item = .move src dst len)
include hq hp hi

/-- The next read burst of a MOVE. -/
theorem prepare_copy : prepare c s = withCur c { q with
    stage := .reading
    toRead := [(offOf src + q.done, burstLen (offOf src + q.done) (offOf dst + q.done) (len - q.done))] } s := by
  have item : loadItem c (s.chan c).room.toNat s = s := by simp [loadItem, hq, hi]
  have reads : unitReads q
      = [(offOf src + q.done, burstLen (offOf src + q.done) (offOf dst + q.done) (len - q.done))] := by
    simp [unitReads, hp, hi]
  unfold prepare
  simp only [item, hq, hp, reads, setCur_eq_withCur hq]
  simp

/-- The write burst of a MOVE carries the bytes of its read burst, swapped (R137). -/
theorem layOut_copy : layOut c k s = withCur c { q with
    stage := .writing, lfsr := (s.chan c).lfsr, drops := 0
    toWrite := [wholeRun (offOf dst + q.done) (swapBytes sw (q.staged.flatMap (·.2)))] } s :=
  layOut_eq hq (by simp [storeChunk, hp]) (fun acc => by simp [layWrites, hp, hi]) (by simp)

end

/-- The next write burst of a FILL. -/
theorem prepare_fill {c len pb : Nat} {s : State} {q : Cur} {dst pattern : Word} (hq : (s.chan c).cur = some q)
    (hp : q.plan = .fill dst len pattern pb) (hi : q.item = .none) : prepare c s = withCur c { q with
      stage := .writing, lfsr := (s.chan c).lfsr, drops := 0
      toWrite := [wholeRun (offOf dst + q.done)
        (fillBytes pattern pb q.done (burstLen 0 (offOf dst + q.done) (len - q.done)))] } s := by
  have item : loadItem c (s.chan c).room.toNat s = s := by simp [loadItem, hq, hi, hp]
  have reads : unitReads q = [] := by simp [unitReads, hp]
  unfold prepare
  simp only [item, hq, hp, reads]
  exact layOut_eq hq (by simp [storeChunk, hp]) (fun acc => by simp [layWrites, hp]) (by simp)

/-! ### A read burst is carried -/

theorem carryBurst_reading {c : Nat} {s : State} {q : Cur} {r : Nat × Nat} {rs : List (Nat × Nat)}
    (hq : (s.chan c).cur = some q) (hs : q.stage = .reading) (hr : q.toRead = r :: rs) :
    carryBurst c s = readBurst c (s.chan c).room.toNat q r s := by
  simp only [carryBurst, hq, hs, hr]

theorem carryBurst_writing {c : Nat} {s : State} {q : Cur} {w : BitRun} {ws : List BitRun}
    (hq : (s.chan c).cur = some q) (hs : q.stage = .writing) (hw : q.toWrite = w :: ws) :
    carryBurst c s = writeBurst c (s.chan c).room.toNat q w s := by
  simp only [carryBurst, hq, hs, hw]

/-- A read burst of the Pantry is made at once, and gives what memory holds. -/
theorem readBurst_pantry {c k p : Nat} {s : State} {q : Cur} {r : Nat × Nat} (hq : (s.chan c).cur = some q)
    (hm : spaceOf (readBase q) = some .pantry) (ha : r.1 < 2 ^ 60) (h0 : 0 < r.2) (hpage : r.1 % 4096 + r.2 ≤ 4096)
    (ht : translate s k false r.1 = some p) (hk : poolOk s k r.1 r.2 = true) (hu : s.pantryUe = []) :
    readBurst c k q r s = readArrived c r.1 (mread s.pantry p r.2)
      (pdTouch (pdPantry p) (withCur c { q with toRead := q.toRead.drop 1, served := [] } s)) := by
  have space := spaceOf_atOff hm ha
  have off := offOf_atOff hm ha
  generalize hf : @readBurst = f
  delta readBurst at hf
  subst hf
  beta_reduce
  generalize atOff (readBase q) r.1 = a at space off ⊢
  rw [← off] at hpage ht hk
  have got := burstGet_pantry (s := withCur c { q with toRead := q.toRead.drop 1, served := [] } s) space h0 hpage ht hk hu
  simp only [not_remotePeer_of_pantry _ space, space, setCur_eq_withCur hq, got]
  rfl

/-- The bytes of the only read burst of a MOVE are laid out as its write burst. -/
theorem readArrived_copy {c o len : Nat} {s : State} {q : Cur} {src dst : Word} {sw : BitVec 2} {bytes : List Byte}
    (hq : (s.chan c).cur = some q) (hp : q.plan = .copy src dst len sw) (hi : q.item = .move src dst len)
    (hr : q.toRead = []) (hs : q.staged = []) (hb : q.bad = none) :
    ∃ q' q'', readArrived c o bytes s = withCur c q'' (withCur c q' s)
      ∧ (q''.stage, q''.toRead, q''.toWrite, q''.done)
        = (.writing, [], [wholeRun (offOf dst + q.done) (swapBytes sw bytes)], q.done) := by
  have arrived : readArrived c o bytes s = layOut c (s.chan c).room.toNat
      (withCur c { q with waitRead := false, staged := [(o, bytes)] } s) := by
    unfold readArrived
    simp only [setCur_eq_withCur hq, withCur_chan, hb, hr, hs, if_true, List.nil_append]
  refine ⟨_, _, arrived.trans (layOut_copy (q := { q with waitRead := false, staged := [(o, bytes)] }) ?_ hp hi), ?_⟩
  · rw [withCur_chan]
  · simp [hr]

/-- A read burst of a MOVE from the Pantry: memory is as before, and the bytes that it holds are the next write burst. -/
theorem readBurst_copy {c k len p : Nat} {s : State} {q : Cur} {src dst : Word} {sw : BitVec 2} {a n : Nat}
    (hq : (s.chan c).cur = some q) (hp : q.plan = .copy src dst len sw) (hi : q.item = .move src dst len)
    (hr : q.toRead = [(a, n)]) (hs : q.staged = []) (hb : q.bad = none) (hm : spaceOf src = some .pantry)
    (ha : a < 2 ^ 60) (h0 : 0 < n) (hpage : a % 4096 + n ≤ 4096) (ht : translate s k false a = some p)
    (hk : poolOk s k a n = true) (hu : s.pantryUe = []) :
    storePart (readBurst c k q (a, n) s) = storePart s
      ∧ ((readBurst c k q (a, n) s).chan c).cur.map (fun x => (x.stage, x.toRead, x.toWrite, x.done))
        = some (.writing, [], [wholeRun (offOf dst + q.done) (swapBytes sw (mread s.pantry p n))], q.done) := by
  have space : spaceOf (readBase q) = some .pantry := by simpa [readBase, hi] using hm
  rw [readBurst_pantry (r := (a, n)) hq space ha h0 hpage ht hk hu]
  generalize hx : pdTouch (pdPantry p) (withCur c { q with toRead := q.toRead.drop 1, served := [] } s) = x
  have hqx : (x.chan c).cur = some { q with toRead := [], served := [] } := by
    rw [← hx]
    exact (congrArg Chan.cur (withCur_chan ..)).trans (by rw [hr]; rfl)
  have store : storePart x = storePart s := by rw [← hx]; rfl
  obtain ⟨q', q'', run, laid⟩ := readArrived_copy (o := a) (bytes := mread s.pantry p n) hqx hp hi rfl hs hb
  refine ⟨(congrArg storePart run).trans store, ?_⟩
  rw [run, withCur_chan]
  exact congrArg some laid

end Sys2Proof.Machine
end

section
/-! PROOFS. O9, continued: a write burst, its failure, and the turns (03 R131, R139, R142, R150, 06 R308). -/
namespace Sys2Proof.Machine

/-! ### A write burst is carried -/

/-- What follows n bytes of a write burst: half points, and the end of the work after the last burst (R139, R150). -/
def afterWrite (c k n : Nat) (s : State) : State :=
  let s := checkHalf c (setCur c (fun q => { q with written := q.written + n }) s)
  match (s.chan c).cur with
  | some q => if q.toWrite = [] then workDone c k s else s
  | none => s

theorem quiet_afterWrite {c k n : Nat} {s : State} (hw : tableWf {} s.chans = true)
    (h : ∀ q, (s.chan c).cur = some q → Straight q.plan) : Quiet s (afterWrite c k n s) := by
  have counted : Quiet s (checkHalf c (setCur c (fun q => { q with written := q.written + n }) s)) := by
    refine .trans (quiet_setCur ?_ ..) (quiet_checkHalf ..)
    exact fun _ => rfl
  unfold afterWrite
  dsimp only
  refine counted.trans ?_
  generalize checkHalf c _ = t at counted
  have straight (q : Cur) (hq : (t.chan c).cur = some q) : Straight q.plan := by
    obtain ⟨p, hp, e⟩ := ((counted.ledger.kept hw).2 c).plan q hq
    rw [e]
    exact h p hp
  split
  · split
    · exact quiet_workDone straight
    · exact .refl t
  · exact .refl t

section
variable {c k b p : Nat} {s : State} {q : Cur} (hq : (s.chan c).cur = some q) (hi : ∀ t x y, q.item ≠ .block t x y)
include hq hi

/-- Outside a tile or block a write burst is one run at the work's write end. -/
theorem writeBurst_run {run : BitRun} {t : State} {st : Byte}
    (h : runPut c k (writeEnd q) run (flWire q.flags).toNat (wireEl q)
      (withCur c { q with toWrite := q.toWrite.drop 1, served := [] } s) = (t, st)) :
    writeBurst c k q run s = if st ≠ St.ok then failWork c st t else afterWrite c k run.2.length t := by
  unfold writeBurst writeOne
  simp only [setCur_eq_withCur hq]
  generalize q.item = item at hi h ⊢
  cases item with
  | block t x y => exact absurd rfl (hi t x y)
  | _ =>
    simp only [h]
    rfl

variable {bytes : List Byte} (hs : spaceOf (writeEnd q) = some .pantry) (hb : b < 2 ^ 60) (h0 : 0 < bytes.length)
  (hp : b % 4096 + bytes.length ≤ 4096) (ht : translate s k false b = some p)
include hs hb h0 hp ht

/-- A write burst puts its bytes where the window places them. -/
theorem writeBurst_pantry (hk : poolOk s k b bytes.length = true) (hu : s.pantryUe = []) :
    ∃ en, writeBurst c k q (wholeRun b bytes) s = afterWrite c k bytes.length (fillTags p en (pdTouch (pdPantry p)
      { withCur c { q with toWrite := q.toWrite.drop 1, served := [] } s with pantry := mwrite s.pantry p bytes })) := by
  obtain ⟨en, put⟩ := runPut_stores (c := c) (k := k) (wc := (flWire q.flags).toNat) (el := wireEl q)
    (s := withCur c { q with toWrite := q.toWrite.drop 1, served := [] } s) hs hb h0 hp ht hk hu
  refine ⟨en, (writeBurst_run hq hi put).trans ?_⟩
  rw [if_neg (not_not_intro rfl), wholeRun, List.length_map]
  rfl

/-- A write burst to freed granules of a pool fails (R308). -/
theorem writeBurst_stale (hk : poolOk s k b bytes.length = false) : writeBurst c k q (wholeRun b bytes) s
    = failWork c St.bufStale (withCur c { q with toWrite := q.toWrite.drop 1, served := [] } s) :=
  (writeBurst_run hq hi (runPut_stale hs hb h0 hp ht hk)).trans (if_pos (by decide))

/-- A write burst of a MOVE or FILL changes the bytes that it writes, and no other byte of memory. -/
theorem writeBurst_store (hk : poolOk s k b bytes.length = true) (hu : s.pantryUe = []) (hw : tableWf {} s.chans = true)
    (hq' : Straight q.plan) : storePart (writeBurst c k q (wholeRun b bytes) s)
      = ((mwrite s.pantry p bytes, s.cellar, s.larder, s.host), s.pantryUe, s.rotor) := by
  obtain ⟨en, run⟩ := writeBurst_pantry hq hi hs hb h0 hp ht hk hu
  generalize hx : pdTouch (pdPantry p)
    { withCur c { q with toWrite := q.toWrite.drop 1, served := [] } s with pantry := mwrite s.pantry p bytes } = x at run
  have chans : tableWf {} x.chans = true := by
    rw [← hx]
    exact State.setChan_wf c _ hw
  have cur : (x.chan c).cur = some { q with toWrite := q.toWrite.drop 1, served := [] } := by
    rw [← hx]
    exact congrArg Chan.cur (withCur_chan ..)
  have filled : Quiet x (fillTags p en x) := quiet_fillTags p en (by rw [← hx]; exact hu)
  have straight (r : Cur) (hr : ((fillTags p en x).chan c).cur = some r) : Straight r.plan := by
    obtain ⟨r', hr', e⟩ := ((filled.ledger.kept chans).2 c).plan r hr
    obtain rfl := Option.some.inj (cur.symm.trans hr')
    rwa [e]
  rw [run, (quiet_afterWrite (filled.ledger.kept chans).1 straight).store, filled.store, ← hx]
  rfl

end

/-! ### The work goes on (R139, R150) -/

theorem hostReadOut_chan (fn a n d : Nat) (s : State) : (hostReadOut fn a n s).chan d = s.chan d := by
  unfold hostReadOut
  dsimp only
  split <;> rfl

section
variable {c : Nat} {s : State} {q : Cur} (hq : (s.chan c).cur = some q)
include hq

theorem proveWrites_cur : ((proveWrites c s).chan c).cur = some q := by
  unfold proveWrites
  dsimp only
  split
  · rw [hostReadOut_chan]
    exact setChan_cur hq
  · exact hq

theorem eventOnArrival_cur (isHalf : Bool) : ((eventOnArrival c isHalf s).chan c).cur = some q := by
  refine setChan_cur ?_
  split
  · exact hq
  · split <;> exact hq

theorem fireHalf_cur : ((fireHalf c s).chan c).cur = some { q with halfFired := true } :=
  proveWrites_cur (eventOnArrival_cur (setChan_cur (by rw [hq]; rfl)) true)

theorem checkHalf_cur : ∃ x, ((checkHalf c s).chan c).cur = some { q with halfFired := x } := by
  unfold checkHalf
  simp only [hq]
  split
  · exact ⟨true, fireHalf_cur hq⟩
  · exact ⟨q.halfFired, hq⟩

end

end Sys2Proof.Machine
end

section
/-! PROOFS. O9, continued: the work after a burst, and an instruction that fails (03 R139, R142). -/
namespace Sys2Proof.Machine

theorem noteProgress_cur {c : Nat} {s : State} {q : Cur} (hq : (s.chan c).cur = some q) :
    ((noteProgress c s).chan c).cur = some q := by
  unfold noteProgress
  split
  · exact setChan_cur hq
  · exact hq

/-- Short of its end, a MOVE stands between two bursts again, one burst further on. -/
theorem workDone_copy {c k len : Nat} {s : State} {q : Cur} {src dst : Word} {sw : BitVec 2}
    (hq : (s.chan c).cur = some q) (hp : q.plan = .copy src dst len sw) :
    let n := burstLen (offOf src + q.done) (offOf dst + q.done) (len - q.done)
    q.done + n < len →
    ((workDone c k s).chan c).cur.map (fun x => (x.stage, x.done)) = some (.fresh, q.done + n) := by
  intro n hn
  unfold workDone
  simp only [hq, hp]
  rw [if_neg (not_le.2 hn)]
  generalize hx : s.setChan c _ = x
  have cur : (x.chan c).cur = some q := by
    rw [← hx]
    exact setChan_cur rfl
  rw [setCur_eq_withCur cur, noteProgress_cur (congrArg Chan.cur (withCur_chan ..))]
  rfl

/-- After the only write burst of a MOVE's unit the next unit is to be laid out. -/
theorem afterWrite_copy {c k j len : Nat} {s : State} {q : Cur} {src dst : Word} {sw : BitVec 2}
    (hq : (s.chan c).cur = some q) (hp : q.plan = .copy src dst len sw) (hw : q.toWrite = []) :
    let n := burstLen (offOf src + q.done) (offOf dst + q.done) (len - q.done)
    q.done + n < len →
    ((afterWrite c k j s).chan c).cur.map (fun x => (x.stage, x.done)) = some (.fresh, q.done + n) := by
  intro n hn
  obtain ⟨x, hx⟩ := checkHalf_cur (s := withCur c { q with written := q.written + j } s) (congrArg Chan.cur (withCur_chan ..))
  unfold afterWrite
  simp only [setCur_eq_withCur hq]
  generalize checkHalf c _ = t at hx ⊢
  simp only [hx, hw, if_true]
  exact workDone_copy (q := { q with written := q.written + j, halfFired := x }) hx hp hn

/-! ### An instruction that fails (R142) -/

theorem keepsLedger_pokeByte (k : Nat) (a : Word) (b : Byte) (s : State) : KeepsLedger s (pokeByte k a b s) := by
  refine keepsLedger_of_chans ?_
  unfold pokeByte
  split
  · split
    · split <;> rfl
    · rfl
  · split <;> rfl
  · rfl

theorem keepsLedger_roomRec (k : Nat) (r : ErrRec) (s : State) : KeepsLedger s (roomRec k r s) :=
  keepsLedger_of_chans (recorded_frame (recorded_roomRec k r s)).2.1

theorem keepsLedger_badReport (c : Nat) (i : Bool) (pc : Word) (st : Byte) (r : ErrRec) (s : State) :
    KeepsLedger s (badReport c i pc st r s) := by
  unfold badReport
  refine .trans (.trans ?_ (keepsLedger_roomRec ..)) (quiet_raiseEvent ..).ledger
  cases i
  · exact keepsLedger_pokeByte ..
  · exact keepsLedger_of_chans rfl

/-- The lowest byte of CH_LAST_ERR is the status (R160). -/
theorem fld_status (i : Half) (e : BitVec 16) (o st : Byte) : (fld (i ++ e ++ o ++ st) 0 8 : Byte) = st := by
  refine BitVec.eq_of_getLsbD_eq fun j hj => ?_
  rw [BitVec.getLsbD_extractLsb', BitVec.getLsbD_append]
  simp [hj]

/-- A failed instruction counts in CH_BAD_COUNT, and CH_LAST_ERR holds its status (R142 step 3). -/
theorem markBadRec_counts {c e : Nat} {o st : Byte} {f : BitVec 16} {r : ErrRec} {s : State}
    (hw : tableWf {} s.chans = true) : ((markBadRec c o f e st r s).chan c).badCount = satInc (s.chan c).badCount
      ∧ (fld ((markBadRec c o f e st r s).chan c).lastErr 0 8 : Byte) = st := by
  obtain ⟨proved, same⟩ := (quiet_proveWrites c s).ledger.kept hw
  unfold markBadRec
  dsimp only
  generalize proveWrites c s = t at proved same
  generalize hx : badSteps c (s.chan c).pc o e st r t = x
  have marked : KeepsLedger (t.setChan c (badCounts (s.chan c).pc o e st (t.chan c))) x := by
    rw [← hx]
    exact keepsLedger_badReport ..
  suffices ∀ y, KeepsLedger (t.setChan c (badCounts (s.chan c).pc o e st (t.chan c))) y →
      (y.chan c).badCount = satInc (s.chan c).badCount ∧ (fld (y.chan c).lastErr 0 8 : Byte) = st by
    refine this _ (marked.trans ?_)
    split
    · exact (quiet_endProgram ..).ledger
    · split
      · exact (quiet_setChan_idle rfl).ledger
      · exact (quiet_advance ..).ledger
  intro y ends
  have counts := (ends.kept (State.setChan_wf c _ proved)).2 c
  rw [State.setChan_chan_eq c _ proved] at counts
  rw [counts.badCount, counts.lastErr]
  exact ⟨congrArg satInc (same c).badCount, fld_status ..⟩

/-- The failure of a MOVE's or FILL's burst marks the instruction bad. -/
theorem failWork_counts {c : Nat} {st : Byte} {s : State} {q : Cur} (hq : (s.chan c).cur = some q) (hp : Straight q.plan)
    (hb : q.bad = none) (hw : tableWf {} s.chans = true) :
    ((failWork c st s).chan c).badCount = satInc (s.chan c).badCount
      ∧ (fld ((failWork c st s).chan c).lastErr 0 8 : Byte) = st := by
  have alone : failWork c st s = failCur c st s := by
    unfold failWork
    simp only [hq]
    cases h : q.plan with
    | copy | fill => simp [planGroup]
    | _ => simp [h, Straight] at hp
  have fail : ∃ e f r h, failCur c st s = markBadRec c q.opcode f e st r h
      ∧ tableWf {} h.chans = true ∧ (h.chan c).badCount = (s.chan c).badCount := by
    unfold failCur
    simp only [hq, hb, Option.getD_none]
    refine ⟨_, _, _, _, rfl, State.setChan_wf c _ hw, ?_⟩
    rw [State.setChan_chan_eq c _ (by exact hw)]
  obtain ⟨e, f, r, h, run, wf, count⟩ := fail
  rw [alone, run, ← count]
  exact markBadRec_counts wf

end Sys2Proof.Machine
end

section
/-! PROOFS. O9: the turns of a Mover with a MOVE or FILL from Pantry to Pantry (01 R26, R38, 03 R113, R131, R137, R142,
06 R308). -/
namespace Sys2Proof.Machine

/-! ### What a frame says -/

/-- The memory after a write that a frame names: its bytes, and every other byte as before. -/
theorem storePart_written {s t : State} {p : Nat} {bytes : List Byte} {ue rotor : List Nat} (hw : Memory.wf s.pantry = true)
    (h : storePart t = ((mwrite s.pantry p bytes, s.cellar, s.larder, s.host), ue, rotor)) :
    (∀ i < bytes.length, mget t.pantry (p + i) = bytes.getD i 0)
      ∧ (∀ x, x < p ∨ p + bytes.length ≤ x → mget t.pantry x = mget s.pantry x)
      ∧ t.cellar = s.cellar ∧ t.larder = s.larder ∧ t.host = s.host := by
  simp only [storePart, Prod.mk.injEq] at h
  obtain ⟨⟨hp, hc, hl, hh⟩, -, -⟩ := h
  rw [hp]
  exact ⟨fun i hi => mget_mwrite_in p hw hi, fun x hx => mget_mwrite_out _ _ hx, hc, hl, hh⟩

theorem getD_rotor {l : List Nat} (m : Fin 2) (h : l.length = 2) (x : Nat) : (l.set m x).getD m 0 = x := by
  have := m.isLt
  rw [List.getD_eq_getElem?_getD, List.getElem?_set_self (by omega)]
  rfl

theorem fillBytes_length (pattern : Word) (pb start n : Nat) : (fillBytes pattern pb start n).length = n := by
  simp [fillBytes]

theorem fillBytes_getD {pattern : Word} {pb start n i : Nat} (h : i < n) :
    (fillBytes pattern pb start n).getD i 0 = fld pattern (8 * ((start + i) % pb)) 8 := by
  simp [fillBytes, List.getD_eq_getElem?_getD, h]

theorem storePart_rotor {s t : State} (h : storePart t = storePart s) : t.rotor = s.rotor := congrArg (·.2.2) h

theorem sameMemory_of_store {s t : State} (h : storePart t = storePart s) : SameMemory s t :=
  ⟨congrArg (·.1.1) h, congrArg (·.1.2.1) h, congrArg (·.1.2.2.1) h, congrArg (·.1.2.2.2) h⟩

/-! ### Read bursts -/

/-- A turn that reads changes no memory, and what memory holds is the next write burst, swapped (R131, R137). -/
theorem moverTurn_reads {m c len ps : Nat} {s : State} {sw : BitVec 2} {q : Cur} {src dst : Word}
    (hq : (s.chan c).cur = some q) (hp : q.plan = .copy src dst len sw)
    (hi : q.item = .move src dst len) (hs : q.stage = .fresh) (hst : q.staged = []) (hb : q.bad = none)
    (hd : q.done < len) :
    let k := (s.chan c).room.toNat
    let a := offOf src + q.done
    let b := offOf dst + q.done
    let n := burstLen a b (len - q.done)
    spaceOf src = some .pantry → a < 2 ^ 60 → translate s k false a = some ps →
    poolOk s k a n = true → s.pantryUe = [] → Granted (prepare c (pdTouch (pdMover c) s)) c →
    (moverTurn m c s).rotor = s.rotor.set m ((c + 1) % 64) ∧ SameMemory s (moverTurn m c s)
      ∧ ((moverTurn m c s).chan c).cur.map (fun x => (x.stage, x.toRead, x.toWrite, x.done)) =
          some (.writing, [], [wholeRun b (swapBytes sw (mread s.pantry ps n))], q.done) := by
  intro k a b n hm ha ht hk hu hg
  have laid := prepare_copy (s := pdTouch (pdMover c) s) hq hp hi
  rw [laid] at hg
  obtain ⟨v, l, turn, held, rotor⟩ := moverTurn_carries (m := m) ((turnStart_fresh hq hs).trans laid)
    (workHeld_withCur c _ (pdMover c) s) rfl hg
  have left : 0 < len - q.done := Nat.sub_pos_of_lt hd
  obtain ⟨store, next⟩ := readBurst_copy held.cur hp hi rfl hst hb hm ha (burstLen_pos a b left)
    (burstLen_in_page_src a b _) ((held.translate ..).trans ht) ((held.poolOk ..).trans hk) (held.pantryUe.trans hu)
  obtain ⟨hpan, -, -, -⟩ := held.sameMemory
  have run := turn.trans (carryBurst_reading held.cur rfl rfl)
  rw [held.room] at run
  rw [run]
  refine ⟨(storePart_rotor store).trans rotor, ?_, ?_⟩
  · obtain ⟨h1, h2, h3, h4⟩ := sameMemory_of_store store
    obtain ⟨g1, g2, g3, g4⟩ := held.sameMemory
    exact ⟨h1.trans g1, h2.trans g2, h3.trans g3, h4.trans g4⟩
  · rw [next, hpan]

/-! ### Write bursts -/

/-- In u, where channel c's turn of s looks for its grants, a MOVE or FILL has all of them, and its write burst of the
bytes at b of the Room's Pantry window, placed at p, is laid out. -/
structure WriteLaid (c b p : Nat) (bytes : List Byte) (q : Cur) (s u : State) : Prop where
  start : turnStart c s = u
  held : WorkHeld c q s u
  rotor : u.rotor = s.rotor
  grants : Granted u c
  stage : q.stage = .writing
  run : q.toWrite = [wholeRun b bytes]
  item : ∀ t x y, q.item ≠ .block t x y
  plan : Straight q.plan
  space : spaceOf (writeEnd q) = some .pantry
  low : b < 2 ^ 60
  length : 0 < bytes.length
  page : b % 4096 + bytes.length ≤ 4096
  place : translate s (s.chan c).room.toNat false b = some p
  wf : s.wf = true

namespace WriteLaid
variable {m c b p : Nat} {bytes : List Byte} {q : Cur} {s u : State} (h : WriteLaid c b p bytes q s u)
include h

/-- A turn that writes carries the write burst that is laid out. -/
theorem turn : ∃ v l,
    moverTurn m c s = writeBurst c (s.chan c).room.toNat { q with served := l } (wholeRun b bytes) v
      ∧ WorkHeld c { q with served := l } s v ∧ v.rotor = s.rotor.set m ((c + 1) % 64) := by
  obtain ⟨v, l, turn, held, rotor⟩ := moverTurn_carries (m := m) h.start h.held h.rotor h.grants
  refine ⟨v, l, turn.trans ?_, held, rotor⟩
  rw [← held.room]
  exact carryBurst_writing held.cur h.stage h.run

/-- A turn that writes changes the bytes of its burst, and no other byte of memory. -/
theorem store (hk : poolOk s (s.chan c).room.toNat b bytes.length = true) (hu : s.pantryUe = []) :
    storePart (moverTurn m c s)
      = ((mwrite s.pantry p bytes, s.cellar, s.larder, s.host), [], s.rotor.set m ((c + 1) % 64)) := by
  obtain ⟨v, l, turn, held, rotor⟩ := h.turn (m := m)
  obtain ⟨hpan, hcel, hlar, hhost⟩ := held.sameMemory
  rw [turn, writeBurst_store held.cur h.item h.space h.low h.length h.page ((held.translate ..).trans h.place)
    ((held.poolOk ..).trans hk) (held.pantryUe.trans hu) (held.wf ((wf_iff s).1 h.wf).chans) h.plan, hpan, hcel, hlar,
    hhost, rotor, held.pantryUe, hu]

/-- A turn that would write to freed granules of a pool marks the instruction bad. -/
theorem stale (hk : poolOk s (s.chan c).room.toNat b bytes.length = false) (hb : q.bad = none) :
    ((moverTurn m c s).chan c).badCount = satInc (s.chan c).badCount
      ∧ (fld ((moverTurn m c s).chan c).lastErr 0 8 : Byte) = St.bufStale := by
  obtain ⟨v, l, turn, held, -⟩ := h.turn (m := m)
  rw [turn, writeBurst_stale held.cur h.item h.space h.low h.length h.page ((held.translate ..).trans h.place)
    ((held.poolOk ..).trans hk), ← held.badCount]
  have tried (q' : Cur) : (v.chan c).badCount = ((withCur c q' v).chan c).badCount := by rw [withCur_chan]
  rw [tried]
  refine failWork_counts (congrArg Chan.cur (withCur_chan ..)) h.plan hb ?_
  exact State.setChan_wf c _ (held.wf ((wf_iff s).1 h.wf).chans)

/-- Short of the end of a MOVE, a turn that writes leaves the next unit to be laid out. -/
theorem goes_on {len : Nat} {src dst : Word} {sw : BitVec 2} (hp : q.plan = .copy src dst len sw)
    (hk : poolOk s (s.chan c).room.toNat b bytes.length = true) (hu : s.pantryUe = []) (hw : s.waiters = []) :
    let n := burstLen (offOf src + q.done) (offOf dst + q.done) (len - q.done)
    q.done + n < len →
    ((moverTurn m c s).chan c).cur.map (fun x => (x.stage, x.done)) = some (.fresh, q.done + n) := by
  intro n more
  obtain ⟨v, l, turn, held, -⟩ := h.turn (m := m)
  obtain ⟨en, run⟩ := writeBurst_pantry held.cur h.item h.space h.low h.length h.page ((held.translate ..).trans h.place)
    ((held.poolOk ..).trans hk) (held.pantryUe.trans hu)
  rw [turn, run]
  generalize hx : pdTouch (pdPantry p) { withCur c _ v with pantry := _ } = x
  obtain ⟨ts, tags⟩ := fillTags_no_waiters p en (s := x) (by rw [← hx]; exact held.waiters.trans hw)
  rw [tags]
  refine afterWrite_copy (q := { q with toWrite := [], served := [] }) ?_ hp rfl more
  rw [← hx]
  exact (congrArg Chan.cur (withCur_chan ..)).trans (by rw [h.run]; rfl)

end WriteLaid

/-- The write burst of a MOVE. -/
theorem writeLaid_copy {c len p : Nat} {s : State} {q : Cur} {src dst : Word} {sw : BitVec 2} {bytes : List Byte}
    (hq : (s.chan c).cur = some q) (hp : q.plan = .copy src dst len sw) (hi : q.item = .move src dst len)
    (hs : q.stage = .writing) :
    let b := offOf dst + q.done
    q.toWrite = [wholeRun b bytes] → bytes.length = burstLen (offOf src + q.done) b (len - q.done) →
    0 < bytes.length → spaceOf dst = some .pantry → b < 2 ^ 60 →
    translate s (s.chan c).room.toNat false b = some p → Granted s c → s.wf = true →
    WriteLaid c b p bytes q s (pdTouch (pdMover c) s) := by
  intro b hw hl h0 hm hb ht hg wf
  exact {
    start := turnStart_busy hq (by simp [hs])
    held := workHeld_pdTouch hq _
    rotor := rfl
    grants := hg
    stage := hs
    run := hw
    item := by simp [hi]
    plan := by simp [hp, Straight]
    space := by simpa [writeEnd, hi, hp] using hm
    low := hb
    length := h0
    page := hl ▸ burstLen_in_page_dst ..
    place := ht
    wf := wf }

/-- The write burst of a FILL. -/
theorem writeLaid_fill {c len pb p : Nat} {s : State} {q : Cur} {dst pattern : Word} (hq : (s.chan c).cur = some q)
    (hp : q.plan = .fill dst len pattern pb) (hi : q.item = .none) (hs : q.stage = .fresh) (hd : q.done < len) :
    let b := offOf dst + q.done
    let bytes := fillBytes pattern pb q.done (burstLen 0 b (len - q.done))
    spaceOf dst = some .pantry → b < 2 ^ 60 → translate s (s.chan c).room.toNat false b = some p →
    Granted (prepare c (pdTouch (pdMover c) s)) c → s.wf = true →
    WriteLaid c b p bytes { q with
      stage := .writing, lfsr := (s.chan c).lfsr, drops := 0, toWrite := [wholeRun b bytes] } s
      (prepare c (pdTouch (pdMover c) s)) := by
  intro b bytes hm hb ht hg wf
  have laid := prepare_fill (s := pdTouch (pdMover c) s) hq hp hi
  have count : bytes.length = burstLen 0 b (len - q.done) := fillBytes_length ..
  exact {
    start := turnStart_fresh hq hs
    held := laid ▸ workHeld_withCur c _ _ s
    rotor := by rw [laid]; rfl
    grants := hg
    stage := rfl
    run := rfl
    item := by simp [hi]
    plan := by simp [hp, Straight]
    space := by simpa [writeEnd, hi, hp] using hm
    low := hb
    length := by rw [count]; exact burstLen_pos _ _ (Nat.sub_pos_of_lt hd)
    page := by rw [count]; exact burstLen_in_page_dst ..
    place := ht
    wf := wf }

end Sys2Proof.Machine
end

section
/-! PROOFS. O9: the bursts of a Mover copy or fill the bytes of the plan and no other. -/
namespace Sys2Proof.Machine

/-- A turn that waits for a grant carries nothing (R38). -/
theorem moverTurn_waiting {m c : Nat} {s : State} {q : Cur} {x : Nat × Nat} (hq : (s.chan c).cur = some q)
    (hs : q.stage ≠ .fresh) (hx : x ∈ wants s c) (hn : (s.arbiter x.1).owner ≠ some x.2) :
    (moverTurn m c s).rotor = s.rotor ∧ SameMemory s (moverTurn m c s)
      ∧ ((moverTurn m c s).chan c).cur.map (fun y => (y.stage, y.toRead, y.staged, y.toWrite, y.done)) =
          some (q.stage, q.toRead, q.staged, q.toWrite, q.done) := by
  obtain ⟨l, as, turn⟩ := moverTurn_waits (m := m) (turnStart_busy hq hs) (workHeld_pdTouch hq (pdMover c)) hx hn
  rw [turn]
  refine ⟨rfl, ⟨rfl, rfl, rfl, rfl⟩, ?_⟩
  rw [withCur_chan]
  rfl

/-- Settles O9: a turn that has its grants carries the burst that is laid out, and one that has not carries nothing. -/
theorem moverBurstCopiesAndFills : Obligations.MoverBurstCopiesAndFills := by
  unfold Obligations.MoverBurstCopiesAndFills
  refine ⟨?read, ?write, ?fill, ?stale, ?wait⟩
  case read =>
    intro m s c len ps sw q src dst hn hq hp hi hs hst hb hd k a b n hr hm ha ht hk hu hg hrot
    obtain ⟨rotor, same, next⟩ := moverTurn_reads (m := m) hq hp hi hs hst hb hd hm ha ht hk hu hg
    exact ⟨_, exec_moverBurst hn hr, by rw [rotor, getD_rotor m hrot], same, next⟩
  case write =>
    intro m s c len pd sw q src dst bytes hn hq hp hi hs k b n hw hl h0 hr hm hb ht hk hu hg wf
    have laid := writeLaid_copy hq hp hi hs hw hl (hl ▸ h0) hm hb ht hg wf
    rw [← hl] at hk
    have store := laid.store (m := m) hk hu
    obtain ⟨inside, outside, cellar, larder, host⟩ := storePart_written ((wf_iff s).1 wf).pantry store
    rw [hl] at inside outside
    have rotor : (moverTurn m c s).rotor = s.rotor.set m ((c + 1) % 64) := congrArg (·.2.2) store
    exact ⟨_, exec_moverBurst hn hr, by rw [rotor, getD_rotor m ((wf_iff s).1 wf).rotor], inside, outside, cellar,
      larder, host, laid.goes_on hp hk hu⟩
  case fill =>
    intro m s c len pb pd q dst pattern hn hq hp hi hs _ hd k b n hr hm hb ht hk hu hg wf
    have store := (writeLaid_fill hq hp hi hs hd hm hb ht hg wf).store (m := m) (by rwa [fillBytes_length]) hu
    obtain ⟨inside, outside, others⟩ := storePart_written ((wf_iff s).1 wf).pantry store
    rw [fillBytes_length] at inside outside
    exact ⟨_, exec_moverBurst hn hr, fun i hi => (inside i hi).trans (fillBytes_getD hi), outside, others⟩
  case stale =>
    intro m s c len pd q dst pattern pb hn hq hp hi hs _ hbad hd k b n hr hm hb ht hk hg wf
    exact ⟨_, exec_moverBurst hn hr,
      (writeLaid_fill hq hp hi hs hd hm hb ht hg wf).stale (by rwa [fillBytes_length]) hbad⟩
  case wait =>
    intro m s c q x hn hq hs hr hx ho
    exact ⟨_, exec_moverBurst hn hr, moverTurn_waiting hq hs hx ho⟩

end Sys2Proof.Machine
end

section
/-! SUPPORT. Reads by device address, of instruction words, lists and descriptors, leave every channel as it is
(03 R99, R112, R114, 14 R639). -/
namespace Sys2Proof.Machine

theorem chans_of_recorded {s t : State} (h : Recorded s t) : t.chans = s.chans := by
  obtain ⟨-, hc, -⟩ := recorded_frame h
  exact hc

/-! ### Bytes of the Pantry, the Cellar and Host memory -/

theorem eccReport_chans (mem : Nat) (k : Option Nat) (o : Word) (p : Nat) (s : State) :
    (eccReport mem k o p s).chans = s.chans := by
  have cause (b : Bool) (v : Byte) (t : State) : (if b then pfCause 0 v t else t).chans = t.chans := by
    cases b
    · rfl
    · exact chans_of_recorded (recorded_pfCause ..)
  unfold eccReport
  dsimp only
  cases k
  · exact (chans_of_recorded (recorded_auditRec ..)).trans (cause ..)
  · exact (chans_of_recorded (recorded_deviceRec ..)).trans (cause ..)

theorem celCount_chans (lo n times : Nat) (s : State) : (celCount lo n times s).chans = s.chans := by
  unfold celCount
  split
  · rfl
  · exact List.foldlRecOn (motive := fun t : State => t.chans = s.chans) _ _ rfl fun _ ht _ _ => ht

theorem pantryGet_chans (k : Option Nat) (o : Word) (p n : Nat) (s : State) :
    (pantryGet k o p n s).1.chans = s.chans := by
  unfold pantryGet
  split
  · exact eccReport_chans ..
  · rfl

theorem cellarGet_chans (k : Option Nat) (o : Word) (p n : Nat) (s : State) :
    (cellarGet k o p n s).1.chans = s.chans := by
  unfold cellarGet
  split
  · exact (eccReport_chans ..).trans (celCount_chans ..)
  · exact celCount_chans ..

theorem partGet_chans (k : Nat) (cellar : Bool) (a : Word) (r : Nat × Nat) (s : State) :
    (partGet k cellar a r s).1.chans = s.chans := by
  unfold partGet
  split
  · rfl
  · rename_i p _
    have fromCellar := cellarGet_chans (some k) (atOff a r.1) p r.2 s
    have fromPantry := pantryGet_chans (some k) (atOff a r.1) p r.2 s
    generalize cellarGet (some k) (atOff a r.1) p r.2 s = x at fromCellar ⊢
    generalize pantryGet (some k) (atOff a r.1) p r.2 s = y at fromPantry ⊢
    split
    · obtain ⟨u, _ | b⟩ := x <;> exact fromCellar
    · split
      · rfl
      · obtain ⟨u, _ | b⟩ := y <;> exact fromPantry

theorem partsGet_chans (k : Nat) (cellar : Bool) (a : Word) (rs : List (Nat × Nat)) (s : State) :
    (partsGet k cellar a rs s).1.chans = s.chans := by
  induction rs generalizing s with
  | nil => rfl
  | cons r rs ih =>
    have first := partGet_chans k cellar a r s
    rw [partsGet]
    generalize partGet k cellar a r s = x at first ⊢
    obtain ⟨u, _ | b⟩ := x
    · exact first
    · have rest := (ih u).trans first
      dsimp only
      generalize partsGet k cellar a rs u = y at rest ⊢
      obtain ⟨v, _ | b'⟩ := y <;> exact rest

theorem devGet_chans (k : Nat) (a : Word) (n : Nat) (s : State) : (devGet k a n s).1.chans = s.chans := by
  unfold devGet
  split
  · exact partsGet_chans ..
  · exact partsGet_chans ..
  · split <;> rfl
  · rfl

/-! ### Words, instructions and tile descriptors -/

theorem devWord_chans (n k : Nat) (a : Word) (s : State) : (devWord n k a s).1.chans = s.chans := by
  have read := devGet_chans k a n s
  unfold devWord
  generalize devGet k a n s = x at read ⊢
  obtain ⟨u, _ | b⟩ := x <;> exact read

theorem fetchInstr_chans (c : Nat) (s : State) : (fetchInstr c s).1.chans = s.chans := by
  unfold fetchInstr
  dsimp only
  split
  · rfl
  · split
    · split
      · rfl
      · exact devWord_chans ..
    · exact devWord_chans ..
    · rfl

theorem readTile_chans (k : Nat) (d : BitVec 1024) (ro wo : Option Half) (reduce : Option Layout) (s : State) :
    (readTile k d ro wo reduce s).1.chans = s.chans := by
  unfold readTile
  extract_lets recOf rd
  have record (a : Word) (off : Option Half) (t : State) : (recOf a off t).1.chans = t.chans := by
    have word := devWord_chans 64 k a t
    dsimp only [recOf]
    split
    · rfl
    · generalize devWord 64 k a t = x at word ⊢
      obtain ⟨u, _ | r⟩ := x
      · exact word
      · dsimp only
        split
        · exact word
        · split
          · exact word
          · split <;> exact word
  have readRecord : rd.1.chans = s.chans := by
    dsimp only [rd]
    split
    · split <;> rfl
    · exact record ..
  clear_value rd
  obtain ⟨u, _ | rl⟩ := rd
  · exact readRecord
  · have writeRecord := (record (fld d 64 64) wo u).trans readRecord
    dsimp only
    generalize recOf (fld d 64 64) wo u = x at writeRecord ⊢
    obtain ⟨v, _ | wl⟩ := x
    · exact writeRecord
    · dsimp only
      split <;> exact writeRecord

end Sys2Proof.Machine
end

section
/-! PROOFS. O8: MOVE_LIST, MOVE_TILE and MOVE_COORDS start (02 R67, R90, R91, 03 R112, R114, 04 R162, R185). -/
namespace Sys2Proof.Machine

/-! ### The channel that issues -/

theorem chan_congr {s t : State} (h : t.chans = s.chans) (c : Nat) : t.chan c = s.chan c :=
  congrArg (fun x : Table Chan => tget x {} c) h

theorem ne_default_of_running {h : Chan} (e : h.state = .running) : h ≠ {} := by
  rintro rfl
  cases e

/-- A channel that may issue runs when its instruction's own rules apply. -/
theorem mayIssue_running {s s1 : State} {c : Nat} {o : Byte} {w : BitVec 256} (h : MayIssue s c o w s1) :
    ((atIssue c w s1).chan c).state = .running := by
  obtain ⟨ready, -, -, fetch, -⟩ := h
  have runs : (s.chan c).state = .running := by
    simp only [issueReady, Bool.and_eq_true, decide_eq_true_eq] at ready
    obtain ⟨⟨⟨runs, -⟩, -⟩, -⟩ := ready
    exact runs
  have fetched : (pdTouch (pdMover c) s1).chan c = s.chan c :=
    by
    have read := fetchInstr_chans c s
    rw [fetch] at read
    exact chan_congr read c
  unfold atIssue
  dsimp only
  split
  · rw [State.setChan_chan_of_ne, fetched]
    · exact runs
    · exact ne_default_of_running (fetched ▸ runs)
  · rw [fetched]
    exact runs

theorem onlyChan_setChan (s : State) (c : Nat) (h : Chan) : OnlyChan c s (s.setChan c h) :=
  ⟨rfl, fun _ hd => State.setChan_chan_ne s h hd⟩

theorem OnlyChan.trans {c : Nat} {s t u : State} (h : OnlyChan c s t) (h' : OnlyChan c t u) : OnlyChan c s u := by
  obtain ⟨rest, others⟩ := h
  obtain ⟨rest', others'⟩ := h'
  exact ⟨(congrArg (fun x : State => { x with chans := s.chans }) rest').trans rest,
    fun d hd => (others' d hd).trans (others d hd)⟩

/-! ### Domains that are ON (R469, R470) -/

theorem allOn_left {c : Nat} {s : State} {a b : List Nat} (h : allOn s (issueDomains c s (a ++ b))) :
    allOn s (issueDomains c s a) := by
  simp only [allOn, issueDomains, List.mem_eraseDups, List.mem_append] at h ⊢
  exact fun d hd => h d (by tauto)

/-! ### Tile descriptors (R67, R114) -/

section
variable {c : Nat} {desc : Word} {ro wo : Option Half} {reduce : Option Layout} {s t : State} {p : TilePlan}
  (h : TileRead c desc ro wo reduce s t p)
include h

theorem tileRead_chans : t.chans = s.chans := by
  obtain ⟨-, -, u, d, word, -, read⟩ := h
  have first : u.chans = s.chans := by simpa [word] using devWord_chans 128 (s.chan c).room.toNat desc s
  have rest : t.chans = u.chans := by simpa [read] using readTile_chans (s.chan c).room.toNat d ro wo reduce u
  exact rest.trans first

/-- Where the descriptor and its records are read, the instruction goes on with the plan that they give. -/
theorem withTile_reads (bad : Byte → State → State) (cont : TilePlan → State → State) :
    withTile c (s.chan c).room.toNat desc ro wo reduce bad cont s = cont p t := by
  obtain ⟨table, on, u, d, word, recordsOn, read⟩ := h
  unfold withTile
  dsimp only
  rw [if_neg (not_not_intro table), withDomains_on _ on]
  simp only [word]
  rw [withDomains_on _ recordsOn]
  simp only [read]

end

theorem tileRead_running {c : Nat} {o : Byte} {w : BitVec 256} {desc : Word} {ro wo : Option Half}
    {reduce : Option Layout} {s s1 t : State} {p : TilePlan} (hi : MayIssue s c o w s1)
    (h : TileRead c desc ro wo reduce (atIssue c w s1) t p) : (t.chan c).state = .running := by
  rw [chan_congr (tileRead_chans h)]
  exact mayIssue_running hi

/-! ### The start of a plan (R139, R185) -/

/-- The channel's LFSR when a move with this transform has issued (R185). -/
def seededLfsr (p : TilePlan) (x : Half) : Half := if p.tr.round = 2 ∧ p.tr.seed ≠ 0 then p.tr.seed else x

section
variable {c : Nat} {s : State} (h : (s.chan c).state = .running)
include h

theorem tileSeed_chan (p : TilePlan) :
    (tileSeed c p s).chan c = { s.chan c with lfsr := seededLfsr p (s.chan c).lfsr } := by
  unfold tileSeed seededLfsr
  by_cases seeds : p.tr.round = 2 ∧ p.tr.seed ≠ 0
  · obtain ⟨round, seed⟩ := seeds
    rw [if_neg (by simpa [round] using seed), if_pos ⟨round, seed⟩]
    exact State.setChan_chan_of_ne s c (ne_default_of_running h)
  · rw [if_pos (by simpa [or_iff_not_imp_left] using seeds), if_neg seeds]

theorem tileSeed_issueDomains (p : TilePlan) (ds : List Nat) :
    issueDomains c (tileSeed c p s) ds = issueDomains c s ds := by
  have fetch : fetchDomains (tileSeed c p s) ((tileSeed c p s).chan c) = fetchDomains s (s.chan c) := by
    rw [tileSeed_chan h]
    unfold tileSeed
    split <;> rfl
  simp only [issueDomains, baseDomains, fetch]

/-- A record-driven move that passes its checks, with every domain that it touches ON, puts its plan into the channel and
loads its LFSR. -/
theorem issueBlocks_starts {k : Nat} {w : BitVec 256} {p : TilePlan} {bs : List Block} (plan : Plan) (item : Item)
    {extra : List Nat} (ok : tileStatus s k p (wFlags w) bs = St.ok)
    (on : allOn s (issueDomains c s (extra ++ tileDomains s k p bs))) :
    OnlyChan c s (issueBlocks c k w p bs plan item extra s)
      ∧ ((issueBlocks c k w p bs plan item extra s).chan c).cur = some {
          opcode := fld w 0 8, flags := wFlags w, plan := plan, item := item
          total := (bs.map writeTotal).foldl (· + ·) 0
          domains := issueDomains c s (extra ++ tileDomains s k p bs) }
      ∧ ((issueBlocks c k w p bs plan item extra s).chan c).lfsr = seededLfsr p (s.chan c).lfsr := by
  have seeded : OnlyChan c s (tileSeed c p s) := by
    unfold tileSeed
    split
    · exact ⟨rfl, fun _ _ => rfl⟩
    · exact onlyChan_setChan ..
  have run : issueBlocks c k w p bs plan item extra s = (tileSeed c p s).setChan c { (tileSeed c p s).chan c with
      cur := some { opcode := fld w 0 8, flags := wFlags w, plan := plan, item := item
                    total := (bs.map writeTotal).foldl (· + ·) 0
                    domains := issueDomains c (tileSeed c p s) (extra ++ tileDomains s k p bs) } } := by
    unfold issueBlocks
    dsimp only
    rw [if_neg (not_not_intro ok), withDomains_on _ on]
    rfl
  rw [run, State.setChan_chan_of_ne _ _ fun e => by simpa using congrArg Chan.cur e, tileSeed_issueDomains h,
    tileSeed_chan h]
  exact ⟨seeded.trans (onlyChan_setChan ..), rfl, rfl⟩

end

/-! ### Lists (R90, R91, R112) -/

/-- A MOVE_LIST that passes its checks, with every domain that it touches ON, puts its plan into the channel. -/
theorem issueMoveList_starts {c : Nat} {w : BitVec 256} {s : State} {cg : Word} :
    let h := s.chan c
    let k := h.room.toNat
    let count := (fld w 32 32).toNat
    let mode := (fld w 192 8).toNat
    let size := if mode = 2 then 32 else 16
    let ahead := listAhead k (fld w 64 64) mode cg h (wFlags w) s count 0 0
    let ds := spanDomains s k (fld w 64 64) (count * size) ++ ahead.2
    (match mode with
      | 0 => withOff (flOffDst (wFlags w)) (fld w 128 64) h.dstOff
      | 1 => withOff (flOffSrc (wFlags w)) (fld w 128 64) h.srcOff
      | _ => if (fld w 128 64 : Word) = 0 then some 0 else none) = some cg →
    mode ≤ 2 → 1 ≤ count → count ≤ 65536 → (mode = 0 → wireOk (wFlags w) cg = true) →
    tableStatus s k (fld w 64 64) size (count * size) = St.ok → allOn s (issueDomains c s ds) →
    issueMoveList c w s = s.setChan c { h with
      cur := some { opcode := fld w 0 8, flags := wFlags w, total := ahead.1, domains := issueDomains c s ds
                    plan := .list (fld w 64 64) count mode cg (flSwap (wFlags w)) } } := by
  intro h k count mode size ahead ds contig hm h1 hc wire table on
  unfold issueMoveList
  extract_lets fl list stands
  rw [show stands = some cg from contig]
  dsimp only
  have range : ¬ (2 < mode || count = 0 || 65536 < count) = true := by simp; omega
  have wired : ¬ (mode = 0 && !wireOk (wFlags w) cg) = true := by simpa using wire
  rw [if_neg range, if_neg wired, if_neg (not_not_intro table), withDomains_on _ (allOn_left on)]
  exact withDomains_on _ on

/-- A MOVE_COORDS whose list and descriptor pass their checks goes on to check its blocks. -/
theorem issueMoveCoords_reads {c : Nat} {w : BitVec 256} {s t : State} {p : TilePlan} :
    let h := s.chan c
    let k := h.room.toNat
    let count := (fld w 32 32).toNat
    let mode := (fld w 192 8).toNat
    let size := if mode = 2 then 32 else 16
    let table := spanDomains t k (fld w 64 64) (count * size)
    mode ≤ 2 → 1 ≤ count → count ≤ 65536 → tableStatus s k (fld w 64 64) size (count * size) = St.ok →
    TileRead c (fld w 128 64) (if flOffSrc (wFlags w) then some h.srcOff else none)
      (if flOffDst (wFlags w) then some h.dstOff else none) none s t p →
    (mode ≠ 1 → p.origin.all (· = 0)) → (mode ≠ 0 → p.worigin.all (· = 0)) →
    allOn t (issueDomains c t table) →
    issueMoveCoords c w s = issueBlocks c k w p (coordBlocks k (fld w 64 64) mode p t count 0)
      (.coords (fld w 64 64) count mode p) .none table t := by
  intro h k count mode size table hm h1 hc status read origin worigin on
  have range : ¬ (2 < mode || count = 0 || 65536 < count) = true := by simp; omega
  unfold issueMoveCoords
  extract_lets fl list st zero
  have ok : st = St.ok := (if_neg range).trans status
  rw [if_neg (not_not_intro ok), withTile_reads read]
  extract_lets modeOk
  have fits : modeOk = true := by
    obtain e | e | e : mode = 0 ∨ mode = 1 ∨ mode = 2 := by omega
    · simpa only [modeOk, e] using origin (by omega)
    · simpa only [modeOk, e] using worigin (by omega)
    · simpa only [modeOk, e, Bool.and_eq_true] using And.intro (origin (by omega)) (worigin (by omega))
  rw [if_neg (by simp [fits])]
  exact withDomains_on _ on

/-- Settles O8: the issue runs the instruction's own rules; the list, the descriptor and the blocks pass their checks and no
domain holds the channel, so the plan is put into it. -/
theorem listAndTileMovesStart : Obligations.ListAndTileMovesStart := by
  unfold Obligations.ListAndTileMovesStart
  refine ⟨?list, ?tile, ?coords⟩
  case list =>
    intro c w s s1 cg hi s2 h k count mode size ahead ds contig hm h1 hc wire table on
    have body : exec (.moveList c) s = .next (issueMoveList c w s2) := congrArg Host.Outcome.next (issueAs_of _ hi)
    rw [body, issueMoveList_starts contig hm h1 hc wire table on, mayIssue_opcode hi]
  case tile =>
    intro c w s s1 s3 p hi s2 h k b ds read ok on
    have body : exec (.moveTile c) s = .next (issueMoveTile c w s2) := congrArg Host.Outcome.next (issueAs_of _ hi)
    obtain ⟨only, cur, lfsr⟩ := issueBlocks_starts (tileRead_running hi read)
      (if p.packed then .packed p else .tile p) (.block p false false) (extra := []) ok on
    have total : ([b].map writeTotal).foldl (· + ·) 0 = writeTotal b := Nat.zero_add _
    rw [total, mayIssue_opcode hi] at cur
    exact ⟨_, body.trans (congrArg Host.Outcome.next (withTile_reads read ..)), only, cur, lfsr⟩
  case coords =>
    intro c w s s1 s3 p hi s2 h k count mode size table bs ds hm h1 hc status read origin worigin ok on
    have body : exec (.moveCoords c) s = .next (issueMoveCoords c w s2) := congrArg Host.Outcome.next (issueAs_of _ hi)
    obtain ⟨only, cur, lfsr⟩ := issueBlocks_starts (tileRead_running hi read)
      (.coords (fld w 64 64) count mode p) .none ok on
    rw [mayIssue_opcode hi] at cur
    rw [body, issueMoveCoords_reads hm h1 hc status read origin worigin (allOn_left on)]
    exact ⟨_, rfl, only, cur, lfsr⟩

end Sys2Proof.Machine
end

section
/-! SUPPORT. A channel that waits for nothing, while programs end, events are raised and the waits of other channels end
(03 R103, R147, R153, 08 R383, R394). -/
namespace Sys2Proof.Machine

/-! ### A channel at rest -/

/-- Channel c of a canonical table has the property P, and it waits for nothing. -/
structure Rests (c : Fin 128) (P : Chan → Prop) (s : State) : Prop where
  table : tableWf {} s.chans = true
  chan : P (s.chan c)
  waits : ∀ x ∈ s.waiters, x.unit ≠ .chan c

/-- P speaks of a channel's Room and assignment only. -/
def PlaceOnly (P : Chan → Prop) : Prop := ∀ h h' : Chan, h'.room = h.room → h'.assigned = h.assigned → P h → P h'

/-- Where P holds of a channel, no event of another channel reaches it: it follows none, and it has not arrived on a
wire (R147, R393). -/
def Deaf (P : Chan → Prop) : Prop := ∀ h, P h → h.trigSrc ≠ 2 ∧ h.arrivals = []

/-- What channel b does leaves P of channel c as it is. -/
def Spares (b : Nat) (c : Fin 128) (P : Chan → Prop) : Prop := PlaceOnly P ∨ b ≠ c ∧ Deaf P

variable {c : Fin 128} {P : Chan → Prop} {s t : State}

theorem rests_of_chans (h : Rests c P s) (hc : t.chans = s.chans) (hw : t.waiters ⊆ s.waiters) : Rests c P t where
  table := hc ▸ h.table
  chan := chan_congr hc c ▸ h.chan
  waits x hx := h.waits x (hw hx)

theorem rests_of_recorded (h : Rests c P s) (hr : Recorded s t) : Rests c P t := by
  obtain ⟨-, hc, -, -, -, -, -, hw, -⟩ := recorded_frame hr
  exact rests_of_chans h hc (hw ▸ List.Subset.refl _)

theorem rests_filter (h : Rests c P s) (f : Waiter → Bool) : Rests c P { s with waiters := s.waiters.filter f } :=
  rests_of_chans h rfl (List.filter_subset_self _)

theorem rests_foldl {α : Type} {f : State → α → State} {l : List α} (hs : Rests c P s)
    (h : ∀ t, ∀ a ∈ l, Rests c P t → Rests c P (f t a)) : Rests c P (l.foldl f s) :=
  List.foldlRecOn (motive := Rests c P) l f hs fun t ht a ha => h t a ha ht

/-- A channel's new record keeps P of channel c, where it is another channel's or P holds of it. -/
theorem rests_setChan (h : Rests c P s) {d : Nat} {r : Chan} (hr : d = c → P r) : Rests c P (s.setChan d r) where
  table := State.setChan_wf d r h.table
  chan := by
    by_cases e : (c : Nat) = d
    · subst e
      rw [State.setChan_chan_eq _ r h.table]
      exact hr rfl
    · rw [State.setChan_chan_ne s r e]
      exact h.chan
  waits := h.waits

theorem rests_setChan_place {b : Nat} {r : Chan} (h : Rests c P s) (hb : Spares b c P)
    (hr : r.room = (s.chan b).room := by rfl) (ha : r.assigned = (s.chan b).assigned := by rfl) :
    Rests c P (s.setChan b r) :=
  rests_setChan h fun e => hb.elim (fun only => only _ _ hr ha (e ▸ h.chan)) fun ⟨ne, _⟩ => absurd e ne

/-! ### Events (R147, R153) -/

theorem rests_triggerEvent {d : Nat} (h : Rests c P s) (hd : Spares d c P) : Rests c P (triggerEvent d s) := by
  unfold triggerEvent
  dsimp only
  split
  · exact rests_setChan_place h hd
  · split
    · refine rests_filter (s := s.setChan d _) ?_ _
      exact rests_setChan_place h hd
    · exact rests_setChan_place h hd

/-- Followers of a channel have SRC 2 (R147). -/
theorem mem_followers (hs : tableWf {} s.chans = true) {b d : Nat} (h : d ∈ followers s b) : (s.chan d).trigSrc = 2 := by
  simp only [followers, List.mem_map, List.mem_filter, Bool.and_eq_true, decide_eq_true_eq] at h
  obtain ⟨p, ⟨hp, follows, -⟩, rfl⟩ := h
  rwa [State.chan, tget_of_mem hs hp]

/-- An event goes to its channel's followers, and a deaf channel is none. -/
theorem rests_raiseEvent {b : Nat} (bit : Nat) (h : Rests c P s) (hb : Spares b c P) : Rests c P (raiseEvent b bit s) := by
  have sent (i : Bool) (fn v : Nat) {t : State} (ht : Rests c P t) : Rests c P (if i then sendMsix fn v t else t) := by
    cases i
    · exact ht
    · exact rests_of_recorded ht (recorded_sendMsix ..)
  unfold raiseEvent
  dsimp only
  generalize hx : (if (s.chan b).irqEn.getLsbD bit = true then _ else _) = x
  have raised : Rests c P x := by
    rw [← hx]
    refine sent _ _ _ ?_
    exact rests_setChan_place h hb
  split
  · exact raised
  · refine rests_foldl raised fun t d hd ht => rests_triggerEvent ht ?_
    refine hb.imp_right fun ⟨_, deaf⟩ => ⟨fun e => ?_, deaf⟩
    obtain ⟨none, -⟩ := deaf _ raised.chan
    exact none (mem_followers raised.table (e ▸ hd))

/-! ### The end of a program and of an instruction (R103, R139) -/

theorem rests_completeEntry (g : Nat) (n : Half) (st : Byte) (r : Word) (h : Rests c P s) :
    Rests c P (completeEntry g n st r s) := by
  unfold completeEntry
  dsimp only
  split
  · exact h
  · exact rests_of_chans h rfl (List.Subset.refl _)

theorem rests_finishProgram {b : Nat} (st : Byte) (r : Word) (h : Rests c P s) (hb : Spares b c P) :
    Rests c P (finishProgram b st r s) := by
  have complete (e : Option EntryRef) {t : State} (ht : Rests c P t) : Rests c P (match e with
      | some e => completeEntry e.sq (BitVec.ofNat 32 e.count) st r t
      | none => t) := by
    cases e
    · exact ht
    · exact rests_completeEntry _ _ _ _ ht
  unfold finishProgram
  dsimp only
  generalize hx : s.setChan b _ = x
  have idle : Rests c P x := by
    rw [← hx]
    exact rests_setChan_place h hb
  split
  · exact complete _ (rests_filter idle _)
  · exact rests_raiseEvent _ (complete _ (rests_filter idle _)) hb

theorem rests_endProgram {b : Nat} (st : Byte) (r : Word) (h : Rests c P s) (hb : Spares b c P) :
    Rests c P (endProgram b st r s) := by
  unfold endProgram
  dsimp only
  split
  · split
    · exact rests_setChan_place h hb
    · exact rests_finishProgram _ _ h hb
  · exact rests_finishProgram _ _ h hb

theorem rests_advance {b : Nat} (h : Rests c P s) (hb : Spares b c P) : Rests c P (advance b s) := by
  unfold advance
  dsimp only
  split
  · exact rests_endProgram _ _ h hb
  · exact rests_setChan_place h hb

/-! ### Waits that end (R361, R365, R383, R394) -/

theorem rests_sendMsg (m : Msg) (h : Rests c P s) : Rests c P (sendMsg m s) := by
  unfold sendMsg
  split
  · exact rests_of_chans h rfl (List.Subset.refl _)
  · exact h

/-- The end of a wait that is not channel c's own. -/
theorem rests_endWait_ok {w : Waiter} (v : Word) (h : Rests c P s) (deaf : Deaf P) (hw : w.unit ≠ .chan c) :
    Rests c P (endWait w St.ok v s) := by
  have drop : Rests c P (dropWaiter w s) := rests_filter h _
  unfold endWait
  dsimp only
  split
  · rename_i d e
    have other : Spares d c P := .inr ⟨fun same => hw (e.trans (congrArg WaitUnit.chan (Fin.ext same))), deaf⟩
    rw [if_pos rfl]
    exact rests_advance (rests_setChan_place drop other) other
  · rw [if_pos (by simp)]
    exact rests_completeEntry _ _ _ _ (rests_of_chans drop rfl (List.Subset.refl _))
  · exact rests_sendMsg _ drop

/-- A completed wire clears the arrivals on it, and a deaf channel has none. -/
theorem rests_clearArrivals (i : Nat) (h : Rests c P s) (deaf : Deaf P) : Rests c P (clearArrivals i s) := by
  obtain ⟨table, -⟩ := (quiet_clearArrivals i s).ledger.kept h.table
  obtain ⟨-, none⟩ := deaf _ h.chan
  have cleared : (clearArrivals i s).chan c = if s.chan c = {} then {} else
      { s.chan c with arrivals := (s.chan c).arrivals.filter (·.1 ≠ i) } :=
    tget_tmap (fun _ (h : Chan) => { h with arrivals := h.arrivals.filter (·.1 ≠ i) }) h.table c
  have kept : (clearArrivals i s).chan c = s.chan c := by
    rw [cleared, none, List.filter_nil, ← none]
    split
    · rename_i e
      exact e.symm
    · rfl
  exact ⟨table, kept ▸ h.chan, h.waits⟩

theorem rests_evalWire (i : Nat) (h : Rests c P s) (deaf : Deaf P) : Rests c P (evalWire i s) := by
  unfold evalWire
  split
  · exact rests_clearArrivals i (rests_of_chans h rfl (List.Subset.refl _)) deaf
  · exact h

theorem rests_arriveWire {b : Nat} (i : Nat) (h : Rests c P s) (deaf : Deaf P) (hb : Spares b c P) :
    Rests c P (arriveWire b i s) := by
  have arrived : Rests c P (s.setChan b { s.chan b with
      arrivals := (s.chan b).arrivals ++ [(i, (s.wire i).gen)] }) := rests_setChan_place h hb
  exact rests_evalWire i (rests_of_chans arrived rfl (List.Subset.refl _)) deaf

theorem rests_consumeObj {w : Waiter} (h : Rests c P s) (deaf : Deaf P) (hw : w.unit ≠ .chan c) :
    Rests c P (consumeObj w s) := by
  unfold consumeObj
  split
  · split
    · exact rests_of_chans h rfl (List.Subset.refl _)
    · exact h
  · split
    · exact rests_of_chans h rfl (List.Subset.refl _)
    · exact h
  · split
    · rename_i d e
      exact rests_arriveWire _ h deaf (.inr ⟨fun same => hw (e.trans (congrArg WaitUnit.chan (Fin.ext same))), deaf⟩)
    · exact h
  · exact h

/-- With no bad Pantry line, the waits that end leave a deaf channel that waits for nothing as it is. -/
theorem rests_settle (h : Rests c P s) (deaf : Deaf P) (hu : s.pantryUe = []) : Rests c P (settle s) := by
  suffices ∀ n t, Rests c P t → t.pantryUe = [] → Rests c P (settleN n t) from this _ s h hu
  intro n
  induction n with
  | zero => exact fun t ht _ => ht
  | succ n ih =>
    intro t ht hu
    rw [settleN]
    split
    · exact ht
    · rename_i w found
      have hw := ht.waits w (List.mem_of_find?_eq_some found)
      have good : wordBad t w = false := by
        unfold wordBad
        split <;> simp [hu]
      have met : Rests c P (meetWait w t) := by
        unfold meetWait
        rw [good]
        exact rests_endWait_ok _ (rests_consumeObj ht deaf hw) deaf hw
      exact ih _ met ((storePart_pantryUe (quiet_meetWait w hu).store).trans hu)

end Sys2Proof.Machine
end

section
/-! PROOFS. O18: CH_RUN and CH_RESET (03 R78, R101, R103, R159, R160, 08 R392, R398). -/
namespace Sys2Proof.Machine

/-! ### CH_RUN (R101) -/

theorem exec_chRun {s : State} (c : Fin 128) (ho : fnOpen s 0 = true) : exec (.chRun c) s = .next (runChan c s) :=
  congrArg Host.Outcome.next (throughBar_pf _ ho)

theorem startProgram_chan (c : Nat) (pc : Word) (i : Option (BitVec 256)) (e : Option EntryRef) (s : State) :
    (startProgram c pc i e s).chan c = { s.chan c with
      state := if pauseCause (s.chan c) then .paused else .running, pc := pc, progBase := pc
      loop0 := 0, loop1 := 0, loop2 := 0, loop3 := 0, srcOff := 0, dstOff := 0, consumed := 0, progress := 0
      badCount := 0, lastErr := 0
      lfsr := if (s.chan c).seed = 0 then BitVec.ofNat 32 (0xACE1_0000 + c) else (s.chan c).seed
      implicit := i, entry := e, cur := none, hold := .none, ending := none, implicitBad := none
      implicitBytes := 0, implicitLost := 0, trigTaken := false, progExec := (s.chan c).execNo } := by
  refine State.setChan_chan_of_ne s c fun e => ?_
  have := congrArg Chan.state e
  dsimp only at this
  split at this <;> cases this

/-! ### CH_RESET (R159) -/

theorem exec_chReset {s : State} (c : Fin 128) (ho : fnOpen s 0 = true) :
    exec (.chReset c) s = .next (resetChannel c true s) :=
  congrArg Host.Outcome.next (throughBar_pf _ ho)

/-- What CH_RESET does before the registers return to reset: the work is dropped, and a loaded program ends PARTIAL. -/
def endedForReset (c : Nat) (s : State) : State :=
  let h := s.chan c
  let u := withdrawArrivals c (dropChannelWork c s)
  if h.state ≠ .idle && h.state ≠ .unassigned then
    finishProgram c St.partialDone 0 (roomRec h.room.toNat
      { instrRec h c h.pc ((h.cur.map (·.opcode)).getD 0) 0 St.partialDone with detail := 0x0100 } u)
  else u

theorem resetChannel_eq (c : Nat) (s : State) : resetChannel c true s
    = evalWires ((endedForReset c s).setChan c ((endedForReset c s).chan c).clear) := rfl

theorem dropChannelWork_chans (c : Nat) (s : State) : (dropChannelWork c s).chans = s.chans :=
  List.foldlRecOn (motive := fun t : State => t.chans = s.chans) _ _ rfl fun t ht w _ => (cancelRemote_chans w t).trans ht

/-- The channel's Room and assignment outlast the end of its program, and it waits for nothing then. -/
theorem rests_endedForReset (c : Fin 128) {s : State} (hs : tableWf {} s.chans = true) :
    Rests c (fun h => h.room = (s.chan c).room ∧ h.assigned = (s.chan c).assigned) (endedForReset c s) := by
  generalize hP : (fun h : Chan => h.room = (s.chan c).room ∧ h.assigned = (s.chan c).assigned) = P
  have place : Spares c c P := by
    subst hP
    exact .inl fun h h' hr ha ⟨r, a⟩ => ⟨hr.trans r, ha.trans a⟩
  have dropped : Rests c P (dropChannelWork c s) := by
    refine ⟨dropChannelWork_chans c s ▸ hs, ?_, fun x hx => ?_⟩
    · subst hP
      rw [chan_congr (dropChannelWork_chans c s)]
      exact ⟨rfl, rfl⟩
    · simp only [dropChannelWork, List.mem_filter, bne_iff_ne, Fin.ofNat_eq_cast, Fin.cast_val_eq_self] at hx
      obtain ⟨-, other⟩ := hx
      exact other
  have withdrawn : Rests c P (withdrawArrivals c (dropChannelWork c s)) := by
    unfold withdrawArrivals
    dsimp only
    refine rests_setChan_place ?_ place
    exact rests_foldl dropped fun t a _ ht => rests_of_chans ht rfl (List.Subset.refl _)
  unfold endedForReset
  dsimp only
  split
  · exact rests_finishProgram _ _ (rests_of_recorded withdrawn (recorded_roomRec ..)) place
  · exact withdrawn

theorem quiet_evalWire (i : Nat) (s : State) : Quiet s (evalWire i s) := by
  unfold evalWire
  split
  · exact .trans (t := s.setWire i _) (quiet_of_chans rfl rfl) (quiet_clearArrivals ..)
  · exact .refl s

theorem rests_evalWires {c : Fin 128} {P : Chan → Prop} {s : State} (h : Rests c P s) (deaf : Deaf P)
    (hu : s.pantryUe = []) : Rests c P (evalWires s) := by
  have wires := quiet_foldl (fun t i => quiet_evalWire i t) (List.range 32) s
  exact rests_settle (rests_foldl h fun t i _ ht => rests_evalWire i ht deaf) deaf
    ((storePart_pantryUe wires.store).trans hu)

theorem quiet_evalWires {s : State} (hu : s.pantryUe = []) : Quiet s (evalWires s) := by
  have wires := quiet_foldl (fun t i => quiet_evalWire i t) (List.range 32) s
  exact wires.trans (quiet_settle ((storePart_pantryUe wires.store).trans hu))

/-! ### The block's own memories -/

/-- The three memories of the block, and the bad Pantry lines. -/
def ownStore (s : State) : List Host.Cell × List Host.Cell × List Host.Cell × List Nat :=
  (s.pantry, s.cellar, s.larder, s.pantryUe)

theorem ownStore_of_quiet {s t : State} (h : Quiet s t) : ownStore t = ownStore s :=
  congrArg (fun x => (x.1.1, x.1.2.1, x.1.2.2.1, x.2.1)) h.store

theorem ownStore_of_recorded {s t : State} (h : Recorded s t) : ownStore t = ownStore s := by
  unfold Recorded at h
  exact (congrArg ownStore h :)

theorem quiet_cancelRemote (w : Waiter) (s : State) : Quiet s (cancelRemote w s) := by
  unfold cancelRemote
  split
  · exact quiet_sendMsg ..
  · exact .refl s

theorem quiet_dropChannelWork (c : Nat) (s : State) : Quiet s (dropChannelWork c s) :=
  (quiet_foldl (fun t w => quiet_cancelRemote w t) _ s).trans (quiet_of_chans rfl rfl)

theorem quiet_withdrawArrivals (c : Nat) (s : State) : Quiet s (withdrawArrivals c s) := by
  have wires := quiet_foldl (f := fun t (a : Nat × Half) => t.setWire a.1 (setArrived (t.wire a.1) c false))
    (fun t a => quiet_of_chans rfl rfl) (s.chan c).arrivals s
  exact wires.trans (quiet_setChan rfl)

theorem ownStore_endedForReset (c : Nat) (s : State) : ownStore (endedForReset c s) = ownStore s := by
  have dropped := ownStore_of_quiet ((quiet_dropChannelWork c s).trans (quiet_withdrawArrivals c _))
  unfold endedForReset
  dsimp only
  split
  · exact (ownStore_of_quiet (quiet_finishProgram ..)).trans
      ((ownStore_of_recorded (recorded_roomRec ..)).trans dropped)
  · exact dropped

/-- After CH_RESET the channel has its reset registers and waits for nothing, and no byte of the block's memories has
changed. -/
theorem resetChannel_clears (c : Fin 128) {s : State} (hs : s.wf = true) (hu : s.pantryUe = []) :
    Rests c (· = (s.chan c).clear) (resetChannel c true s) ∧ ownStore (resetChannel c true s) = ownStore s := by
  obtain ⟨table, ⟨room, assigned⟩, waits⟩ := rests_endedForReset c ((wf_iff s).1 hs).chans
  have store := ownStore_endedForReset c s
  have hu' : (endedForReset c s).pantryUe = [] := (congrArg (·.2.2.2) store).trans hu
  have cleared : ((endedForReset c s).chan c).clear = (s.chan c).clear := by
    simp only [Chan.clear, room, assigned]
  have deaf : Deaf (· = (s.chan c).clear) := by
    rintro _ rfl
    exact ⟨by simp [Chan.clear], rfl⟩
  rw [resetChannel_eq, cleared]
  generalize hx : (endedForReset c s).setChan c (s.chan c).clear = x
  have atReset : Rests c (· = (s.chan c).clear) x := by
    rw [← hx]
    exact ⟨State.setChan_wf _ _ table, State.setChan_chan_eq _ _ table, waits⟩
  have kept : ownStore x = ownStore s := hx ▸ store
  have good : x.pantryUe = [] := hx ▸ hu'
  exact ⟨rests_evalWires atReset deaf good, (ownStore_of_quiet (quiet_evalWires good)).trans kept⟩

/-- Settles O18: a program starts by one update of the channel; a reset clears the channel once its program has ended, and
the waits that the evaluated wires end are other channels'. -/
theorem runAndReset : Obligations.RunAndReset := by
  unfold Obligations.RunAndReset
  refine ⟨fun c s ho => ⟨fun idle => ?_, fun busy => ?_⟩, fun c s ho hs hu => ?_⟩
  · refine ⟨startProgram c (s.chan c).pc none none s, ?_, onlyChan_setChan .., ?_⟩
    · rw [exec_chRun c ho, runChan, if_pos idle]
    · rw [startProgram_chan]
      refine ⟨rfl, rfl, fun m hm => ?_, rfl, rfl, rfl, rfl, rfl, rfl, rfl, rfl⟩
      interval_cases m <;> rfl
  · rw [exec_chRun c ho, runChan, if_neg busy]
  · obtain ⟨⟨-, cleared, waits⟩, store⟩ := resetChannel_clears c hs hu
    simp only [ownStore, Prod.mk.injEq] at store
    obtain ⟨pantry, cellar, larder, -⟩ := store
    refine ⟨_, exec_chReset c ho, ?_⟩
    rw [cleared]
    refine ⟨rfl, rfl, rfl, rfl, rfl, fun m hm => ?_, rfl, rfl, rfl, rfl, rfl, rfl, rfl, waits, pantry, cellar, larder⟩
    interval_cases m <;> rfl

end Sys2Proof.Machine
end

section
/-! PROOFS. O3: the state after reset (03 R100). -/
namespace Sys2Proof.Machine

/-- Refutes O3: right after reset channel 0 is UNASSIGNED, as R100 has it, and not IDLE. -/
theorem not_resetIsCanonical : ¬ Obligations.ResetIsCanonical := by
  unfold Obligations.ResetIsCanonical
  rintro ⟨-, -, -, -, -, -, chans, -⟩
  obtain ⟨idle, -⟩ := chans 0
  have unassigned : (State.reset.chan 0).state = .unassigned := rfl
  rw [unassigned] at idle
  cases idle

end Sys2Proof.Machine
end

section
/-! SUPPORT. The next instruction of a program, and a wait that begins: it sleeps, or ends at once (03 R139, 08 R122, R383). -/
namespace Sys2Proof.Machine

/-! ### The next instruction (R139) -/

/-- A channel that is assigned is no default record, so it is read back whatever the table. -/
theorem setChan_chan_assigned {s : State} {c : Nat} {h : Chan} (hs : h.state ≠ .unassigned) : (s.setChan c h).chan c = h :=
  State.setChan_chan_of_ne s c fun e => hs (congrArg Chan.state e)

theorem runState_ne_unassigned (h : Chan) : runState h ≠ .unassigned := by
  unfold runState
  split
  · rename_i p
    rcases (by simpa using p : h.state = .paused ∨ h.state = .pausing) with e | e <;> simp [e]
  · simp

/-- A channel's registers when it goes on with the next instruction of its program. -/
def nextInstr (h : Chan) : Chan :=
  { h with pc := h.pc + 32, cur := none, trigTaken := false, state := runState h, progress := 0, heldBy := []
           touches := [], execNo := h.execNo + 1 }

theorem advance_program {c : Nat} {s : State} (h : (s.chan c).implicit = none) :
    advance c s = s.setChan c (nextInstr (s.chan c)) := by
  unfold advance nextInstr
  dsimp only
  split
  · simp_all
  · rfl

@[simp] theorem setChan_nextInstr_chan (s : State) (c : Nat) (h : Chan) :
    (s.setChan c (nextInstr h)).chan c = nextInstr h :=
  setChan_chan_assigned (runState_ne_unassigned h)

/-- Of two writes of one channel the later stands. -/
theorem tset_tset {α : Type} [DecidableEq α] (t : Table α) (d v u : α) (k : Nat) (hv : v ≠ d) :
    tset (tset t d k v) d k u = tset t d k u := by
  have twice (t : Table α) : tdel (tput t k v) k = tdel t k ∧ tput (tput t k v) k u = tput t k u := by
    induction t with
    | nil => simp [tput, tdel]
    | cons p r ih =>
      obtain ⟨del, put⟩ := ih
      simp only [tput, tdel]
      split
      · simp [tput, tdel]
      · split
        · simp [tput, tdel]
        · simp [tput, tdel, *]
  obtain ⟨del, put⟩ := twice t
  simp only [tset, if_neg hv, del, put]

theorem setChan_setChan {s : State} {c : Nat} {h h' : Chan} (hs : h.state ≠ .unassigned) :
    (s.setChan c h).setChan c h' = s.setChan c h' := by
  have one := tset_tset s.chans {} h h' c fun e => hs (congrArg Chan.state e)
  exact congrArg (fun x : Table Chan => { s with chans := x }) one

/-! ### Waits (R383) -/

/-- Where no wait's condition holds, the waiters stay as they are. -/
theorem settle_of_noWaitEnds {s : State} (h : noWaitEnds s) : settle s = s := by
  have none : s.waiters.find? (fun w => !w.paused && condHolds s w) = none :=
    List.find?_eq_none.2 fun w hw => by simp [h w hw]
  unfold settle
  cases s.waiters.length with
  | zero => rfl
  | succ n => rw [settleN, none]

/-- The only waiter, whose condition holds, ends. -/
theorem settle_only {s : State} {x : Waiter} (hw : s.waiters = [x]) (hp : x.paused = false) (hc : condHolds s x = true) :
    settle s = meetWait x s := by
  simp [settle, settleN, hw, hp, hc]

/-- A wait of a channel whose condition does not hold sleeps. -/
theorem localWait_sleeps {c : Nat} {w : BitVec 256} {x : Waiter} {s : State}
    (h : noWaitEnds (addWaiter x (sleepIn c w .nothing s))) :
    localWait c w x s = addWaiter x (sleepIn c w .nothing s) :=
  settle_of_noWaitEnds h

end Sys2Proof.Machine
end

section
/-! PROOFS. O10: waits on local objects sleep (03 R119 to R121, 08 R360, R364, R372, R383). -/
namespace Sys2Proof.Machine

/-! ### The issue of a wait -/

theorem exec_issue {i : Instr} {c : Nat} {o : Byte} {w : BitVec 256} {s s1 : State} {body : BitVec 256 → State → State}
    (hi : MayIssue s c o w s1) (he : exec i s = .next (issueAs o c body s)) : exec i s = .next (body w (atIssue c w s1)) :=
  he.trans (congrArg Host.Outcome.next (issueAs_of body hi))

theorem issueWaitFlag_local {c p : Nat} {w : BitVec 256} {s : State} (hm : (fld w 32 8).toNat ≤ 3)
    (ht : syncTarget s (s.chan c).room.toNat (fld w 64 64) false = .ok (.localFlag p)) :
    issueWaitFlag c w s = localWait c w { chanWaiter c (.flag p) w s with
      expect := (fld w 32 8).toNat % 2 = 1, consume := 2 ≤ (fld w 32 8).toNat } s := by
  unfold issueWaitFlag
  simp only [ht, if_neg (not_lt.2 hm)]

/-- The value that a WAIT_COUNT waits for (R119). -/
def countTarget (c : Nat) (w : BitVec 256) (s : State) : Word :=
  if (fld w 32 8).toNat = 1 then (s.chan c).consumed + fld w 128 64 else fld w 128 64

theorem issueWaitCount_local {c p : Nat} {w : BitVec 256} {s : State} (hm : (fld w 32 8).toNat ≤ 1)
    (ht : syncTarget s (s.chan c).room.toNat (fld w 64 64) true = .ok (.localCounter p)) :
    issueWaitCount c w s
      = localWait c w { chanWaiter c (.counter p) w s with target := countTarget c w s } s := by
  have waits : (fld w 32 8).toNat ≠ 2 := by omega
  have small : ¬ 2 < (fld w 32 8).toNat := by omega
  unfold issueWaitCount countTarget
  generalize (fld w 32 8).toNat = mode at waits small ⊢
  simp only [ht, waits, small, decide_false, Bool.false_and, Bool.false_or, Bool.false_eq_true, if_false]

/-- What WAIT_FULL asks of its word: 8 bytes of a tagged region in a window, which hold no bad line (R121, R374). -/
structure WordServes (c p : Nat) (w : BitVec 256) (s : State) : Prop where
  mode : (fld w 32 8).toNat = 0 ∨ (fld w 32 8).toNat = 2
  space : spaceOf (fld w 64 64) = some .pantry
  aligned : offOf (fld w 64 64) % 8 = 0
  value : (fld w 128 64 : Word) = 0
  region : inRegion s (s.chan c).room.toNat (offOf (fld w 64 64)) = true
  status : spanStatus s (s.chan c).room.toNat (fld w 64 64) 8 = St.ok
  placed : translate s (s.chan c).room.toNat false (offOf (fld w 64 64)) = some p
  on : pdOn s (pdPantry p) = true
  good : badLine s.pantryUe p 8 = none

/-- 8 aligned bytes touch one quadrant. -/
theorem pdPantrySpan_word {s : State} {k o p : Nat} (ha : o % 8 = 0) (ht : translate s k false o = some p) :
    pdPantrySpan s k o 8 = [pdPantry p] := by
  have last : (o + 8 - 1) / granule = o / granule := by unfold granule; omega
  have front : max o (o / granule * granule) = o := Nat.max_eq_left (Nat.div_mul_le_self ..)
  rw [pdPantrySpan, if_neg (by decide), last, Nat.sub_self]
  simp [front, ht]
  rfl

theorem poolOk_of_status {s : State} {k n : Nat} {a : Word} (hs : spaceOf a = some .pantry)
    (h : spanStatus s k a n = St.ok) : poolOk s k (offOf a) n = true := by
  unfold spanStatus at h
  simp only [hs] at h
  by_contra stale
  rw [Bool.not_eq_true] at stale
  rw [stale] at h
  split at h <;> simp at h

theorem devGet_word {s : State} {k p : Nat} {a : Word} (hs : spaceOf a = some .pantry) (ha : offOf a % 8 = 0)
    (ht : translate s k false (offOf a) = some p) (hk : poolOk s k (offOf a) 8 = true)
    (hb : badLine s.pantryUe p 8 = none) : devGet k a 8 s = (pdTouch (pdPantry p) s, .ok (mread s.pantry p 8)) := by
  have page : granParts (offOf a) 8 = [(offOf a, 8)] := granParts_page (by decide) (by omega)
  have part : partGet k false a (offOf a, 8) s = (pdTouch (pdPantry p) s, .ok (mread s.pantry p 8)) := by
    simp [partGet, ht, hk, pantryGet, hb]
  simp [devGet, hs, page, partsGet, part]

theorem holdOn_on {c : Nat} {ds : List Nat} {s : State} (k : State → State) (h : allOn s ds) : holdOn c ds k s = k s :=
  if_pos (List.filter_eq_nil_iff.2 fun d hd => by simp [h d hd])

theorem issueWaitFull_local {c p : Nat} {w : BitVec 256} {s : State} (h : WordServes c p w s) :
    issueWaitFull c w s = localWait c w { chanWaiter c (.word p) w (pdTouch (pdPantry p) s) with
      consume := (fld w 32 8).toNat = 2 } (pdTouch (pdPantry p) s) := by
  obtain ⟨mode, space, aligned, value, region, status, placed, on, good⟩ := h
  have domains : spanDomains s (s.chan c).room.toNat (fld w 64 64) 8 = [pdPantry p] := by
    rw [spanDomains]
    simp only [space]
    exact pdPantrySpan_word aligned placed
  have read := devGet_word space aligned placed (poolOk_of_status space status) good
  unfold issueWaitFull
  generalize (fld w 32 8).toNat = m at mode ⊢
  rw [if_neg (by rcases mode with rfl | rfl <;> simp [space, aligned, value]), if_neg (by simp [region])]
  simp only [status, ne_eq, not_true_eq_false, if_false, domains]
  rw [holdOn_on _ (by simpa [allOn] using on)]
  simp only [read, placed]

/-- Settles O10: each wait is registered as a local one, and its condition does not hold. -/
theorem localWaitsSleep : Obligations.LocalWaitsSleep := by
  unfold Obligations.LocalWaitsSleep
  refine ⟨fun c w s s1 p hi => ?_, fun c w s s1 p hi => ?_, fun c w s s1 p hi => ?_⟩
  · intro s2 mode t hm ht hn
    have issued : exec (.waitFlag c) s = .next (issueWaitFlag c w s2) := exec_issue hi rfl
    rw [issued, issueWaitFlag_local hm ht, localWait_sleeps hn]
  · intro s2 mode target t hm ht hn
    have issued : exec (.waitCount c) s = .next (issueWaitCount c w s2) := exec_issue hi rfl
    rw [issued, issueWaitCount_local hm ht]
    exact congrArg Host.Outcome.next (localWait_sleeps hn)
  · intro s2 s3 k mode o t hm hs ha hv hr hst hp hon hb hn
    have issued : exec (.waitFull c) s = .next (issueWaitFull c w s2) := exec_issue hi rfl
    rw [issued, issueWaitFull_local ⟨hm, hs, ha, hv, hr, hst, hp, hon, hb⟩, localWait_sleeps hn]

end Sys2Proof.Machine
end

section
/-! PROOFS. O11: local waits whose condition holds end at once (03 R119, 08 R360, R364, R372). -/
namespace Sys2Proof.Machine

/-! ### A wait that ends (R122, R383) -/

/-- Registers of a channel whose wait has ended OK with the value found, before it goes on. -/
def waitEnded (w : Waiter) (found : Word) (h : Chan) : Chan :=
  { h with consumed := if (waitingOp h).1 ≠ Op.waitCount then h.consumed else if w.mode = 1 then h.consumed + w.value
                         else if w.mode = 2 then found else h.consumed
           cur := none }

theorem endWait_chan_ok {c : Fin 128} {x : Waiter} {s : State} (v : Word) (hu : x.unit = .chan c)
    (hi : (s.chan c).implicit = none) (hs : (s.chan c).state ≠ .unassigned) :
    endWait x St.ok v s = (dropWaiter x s).setChan c (nextInstr (waitEnded x v (s.chan c))) := by
  have assigned : (waitEnded x v (s.chan c)).state ≠ .unassigned := hs
  have ended : (((dropWaiter x s).setChan c (waitEnded x v (s.chan c))).chan c) = waitEnded x v (s.chan c) :=
    setChan_chan_assigned assigned
  have goes : endWait x St.ok v s = advance c ((dropWaiter x s).setChan c (waitEnded x v (s.chan c))) := by
    unfold endWait
    simp only [hu]
    rfl
  rw [goes, advance_program (by rw [ended]; exact hi), ended, setChan_setChan assigned]

/-- The channel asleep in the wait instruction w. -/
def asleepIn (w : BitVec 256) (h : Chan) : Chan :=
  { h with state := .waiting, cur := some { opcode := fld w 0 8, flags := wFlags w, plan := .nothing } }

/-- The end of a wait that is at no barrier changes flags and tags only. -/
theorem consumeObj_eq {x : Waiter} (ho : ∀ i, x.obj ≠ .wireArrive i) : ∃ (F : Table Flag → Table Flag)
    (T : List Nat → List Nat), ∀ s, consumeObj x s = { s with flags := F s.flags, tags := T s.tags } := by
  unfold consumeObj
  cases h : x.obj with
  | flag p =>
    cases x.consume
    · exact ⟨id, id, fun _ => rfl⟩
    · exact ⟨fun t => tset t {} p { tget t {} p with value := !x.expect }, id, fun _ => rfl⟩
  | word a =>
    cases x.consume
    · exact ⟨id, id, fun _ => rfl⟩
    · exact ⟨id, fun l => nremove l (a / 8), fun _ => rfl⟩
  | wireArrive i => exact absurd h (ho i)
  | _ => exact ⟨id, id, fun _ => rfl⟩

/-- A wait at no barrier does not look at the channels. -/
theorem condHolds_addWaiter_setChan {x : Waiter} (ho : ∀ i, x.obj ≠ .wireArrive i) (y : Waiter) (s : State) (c : Nat)
    (h : Chan) : condHolds (addWaiter y (s.setChan c h)) x = condHolds s x := by
  unfold condHolds
  cases e : x.obj with
  | wireArrive i => exact absurd e (ho i)
  | _ => rfl

/-- The only wait of the block, which is at no barrier, ends as soon as it is registered: its object is as the wait's end
leaves it, and the channel goes on. -/
theorem localWait_ends {c : Fin 128} {w : BitVec 256} {x : Waiter} {s : State} (hw : s.waiters = [])
    (hu : x.unit = .chan c) (ho : ∀ i, x.obj ≠ .wireArrive i) (hi : (s.chan c).implicit = none) (hp : x.paused = false)
    (hc : condHolds s x = true) (hb : wordBad s x = false) :
    ∃ v, localWait c w x s = (consumeObj x s).setChan c (nextInstr (waitEnded x v (asleepIn w (s.chan c)))) := by
  have assigned : (asleepIn w (s.chan c)).state ≠ .unassigned := by simp [asleepIn]
  obtain ⟨F, T, consumed⟩ := consumeObj_eq ho
  have only : (addWaiter x (s.setChan c (asleepIn w (s.chan c)))).waiters = [x] :=
    congrArg (· ++ [x]) (hw : (s.setChan c _).waiters = [])
  have good : wordBad (addWaiter x (s.setChan c (asleepIn w (s.chan c)))) x = false := hb
  have slept : localWait c w x s = settle (addWaiter x (s.setChan c (asleepIn w (s.chan c)))) := rfl
  rw [slept, settle_only only hp ((condHolds_addWaiter_setChan ho ..).trans hc), meetWait, good, if_neg Bool.false_ne_true, consumed]
  generalize foundOf _ _ = v
  refine ⟨v, ?_⟩
  generalize hy : ({ addWaiter x (s.setChan c (asleepIn w (s.chan c))) with
    flags := F (addWaiter x (s.setChan c (asleepIn w (s.chan c)))).flags
    tags := T (addWaiter x (s.setChan c (asleepIn w (s.chan c)))).tags } : State) = y
  have chan : y.chan c = asleepIn w (s.chan c) := by
    rw [← hy]
    exact setChan_chan_assigned assigned
  have dropped : dropWaiter x y = (consumeObj x s).setChan c (asleepIn w (s.chan c)) := by
    have alone : y.waiters = [x] := by
      rw [← hy]
      exact only
    rw [dropWaiter, alone, consumed, ← hy]
    simp [addWaiter, State.setChan, hw]
  rw [endWait_chan_ok v hu (by rw [chan]; exact hi) (by rw [chan]; exact assigned), chan, dropped,
    setChan_setChan assigned]

/-! ### WAIT_COUNT, SNAPSHOT (R119, R364) -/

theorem issueWaitCount_snapshot {c p : Nat} {w : BitVec 256} {s : State} (hm : (fld w 32 8).toNat = 2)
    (hv : (fld w 128 64 : Word) = 0) (ht : syncTarget s (s.chan c).room.toNat (fld w 64 64) true = .ok (.localCounter p)) :
    issueWaitCount c w s = advance c (s.setChan c { s.chan c with consumed := (s.counter p).value }) := by
  unfold issueWaitCount
  simp only [ht, hm, hv]
  rfl

/-! ### The four waits -/

section
variable {c : Fin 128} {w : BitVec 256} {s : State} {p : Nat}

/-- CONSUME complements the flag (R360). -/
theorem waitFlag_ends (hm : (fld w 32 8).toNat ≤ 3)
    (ht : syncTarget s (s.chan c).room.toNat (fld w 64 64) false = .ok (.localFlag p)) (hw : s.waiters = [])
    (hi : (s.chan c).implicit = none) (hv : (s.flag p).value = decide ((fld w 32 8).toNat % 2 = 1)) :
    ∃ h, issueWaitFlag c w s = (if 2 ≤ (fld w 32 8).toNat then
        s.setFlag p { s.flag p with value := !(s.flag p).value } else s).setChan c (nextInstr h)
      ∧ h.pc = (s.chan c).pc ∧ h.state = .waiting := by
  obtain ⟨v, ends⟩ := localWait_ends (w := w) (x := { chanWaiter c (.flag p) w s with
    expect := (fld w 32 8).toNat % 2 = 1, consume := 2 ≤ (fld w 32 8).toNat }) hw (by simp [chanWaiter]) (by simp [chanWaiter])
    hi rfl (by simp [condHolds, chanWaiter, hv]) rfl
  generalize hh : waitEnded _ v (asleepIn w (s.chan c)) = h at ends
  refine ⟨h, (issueWaitFlag_local hm ht).trans (ends.trans ?_), by rw [← hh]; rfl, by rw [← hh]; rfl⟩
  unfold consumeObj
  simp only [chanWaiter, hv, decide_eq_true_eq]

/-- A consuming wait moves CH_CONSUMED by VALUE (R119). -/
theorem waitCount_ends (ho : (fld w 0 8 : Byte) = Op.waitCount) (hm : (fld w 32 8).toNat ≤ 1)
    (ht : syncTarget s (s.chan c).room.toNat (fld w 64 64) true = .ok (.localCounter p)) (hw : s.waiters = [])
    (hi : (s.chan c).implicit = none) (hv : 0 ≤ ((s.counter p).value - countTarget c w s).toInt) :
    ∃ h, issueWaitCount c w s = s.setChan c (nextInstr h) ∧ h.pc = (s.chan c).pc
      ∧ h.consumed = if (fld w 32 8).toNat = 1 then (s.chan c).consumed + fld w 128 64 else (s.chan c).consumed := by
  obtain ⟨v, ends⟩ := localWait_ends (w := w) (x := { chanWaiter c (.counter p) w s with target := countTarget c w s })
    hw (by simp [chanWaiter]) (by simp [chanWaiter]) hi rfl (by simpa [condHolds, chanWaiter, hasReached] using hv) rfl
  refine ⟨_, (issueWaitCount_local hm ht).trans ends, rfl, ?_⟩
  have one : (fld w 32 8 : Byte) = 1 ↔ (fld w 32 8).toNat = 1 := by rw [← BitVec.toNat_inj]; rfl
  have two : (fld w 32 8 : Byte) ≠ 2 := fun e => by
    rw [e] at hm
    exact absurd hm (by decide)
  simp only [waitEnded, waitingOp, asleepIn, chanWaiter, ho, ne_eq, not_true_eq_false, if_false, one, two]

/-- TAKE empties the word (R372). -/
theorem waitFull_ends (h : WordServes c p w s) (hw : s.waiters = []) (hi : (s.chan c).implicit = none)
    (hf : p / 8 ∈ s.tags) : ∃ h, issueWaitFull c w s = ({ pdTouch (pdPantry p) s with
        tags := if (fld w 32 8).toNat = 2 then nremove s.tags (p / 8) else s.tags }).setChan c (nextInstr h)
      ∧ h.pc = (s.chan c).pc := by
  have good : wordBad s (chanWaiter c (.word p) w s) = false := by
    have none := h.good
    rw [badLine, if_neg (by decide), List.find?_eq_none] at none
    simpa [wordBad, chanWaiter] using fun hb => none _ hb (by simp; omega)
  obtain ⟨v, ends⟩ := localWait_ends (w := w) (s := pdTouch (pdPantry p) s)
    (x := { chanWaiter c (.word p) w (pdTouch (pdPantry p) s) with consume := (fld w 32 8).toNat = 2 })
    hw (by simp [chanWaiter]) (by simp [chanWaiter]) hi rfl (by simpa [condHolds, chanWaiter, tagFull, pdTouch] using hf) good
  generalize hx : waitEnded _ v (asleepIn w ((pdTouch (pdPantry p) s).chan c)) = x at ends
  refine ⟨x, (issueWaitFull_local h).trans (ends.trans ?_), by rw [← hx]; rfl⟩
  unfold consumeObj
  simp only [chanWaiter, decide_eq_true_eq]
  split <;> rfl

end

theorem mem_nremove {l : List Nat} {k x : Nat} : x ∈ nremove l k ↔ x ∈ l ∧ x ≠ k := by
  simp [nremove]

/-- The tags after a WAIT_FULL: TAKE empties its word, and no other (R372). -/
theorem mem_taken {l : List Nat} {k mode : Nat} (hm : mode = 0 ∨ mode = 2) (hk : k ∈ l) :
    (k ∈ (if mode = 2 then nremove l k else l) ↔ mode = 0)
      ∧ ∀ x, x ≠ k → (x ∈ (if mode = 2 then nremove l k else l) ↔ x ∈ l) := by
  rcases hm with rfl | rfl
  · simp [hk]
  · simp +contextual [mem_nremove]

/-- Settles O11: each wait ends as it is registered; SNAPSHOT reads the counter instead. -/
theorem localWaitsEndAtOnce : Obligations.LocalWaitsEndAtOnce := by
  unfold Obligations.LocalWaitsEndAtOnce
  refine ⟨fun c w s s1 p hi => ?flag, fun c w s s1 p hi => ?count, fun c w s s1 p hi => ?snapshot,
    fun c w s s1 p hi => ?word⟩
  case flag =>
    intro s2 mode hm ht hw himp hv wf
    have flags := ((wf_iff s2).1 wf).flags
    have issued : exec (.waitFlag c) s = .next (issueWaitFlag c w s2) := exec_issue hi rfl
    obtain ⟨h, ends, pc, state⟩ := waitFlag_ends hm ht hw himp hv
    refine ⟨_, issued.trans (congrArg _ ends), ?_⟩
    rw [setChan_nextInstr_chan]
    have others (d : Nat) (hd : d ≠ c.val) (u : State) (hu : u.chans = s2.chans) :
        (u.setChan c (nextInstr h)).chan d = s2.chan d :=
      (State.setChan_chan_ne u _ hd).trans (chan_congr hu d)
    by_cases consume : 2 ≤ (fld w 32 8).toNat
    · simp only [if_pos consume]
      exact ⟨hw, congrArg (· + 32) pc, by simp [nextInstr, runState, state],
        (congrArg Flag.value (State.setFlag_flag_eq p _ flags)).trans (if_pos consume).symm,
        fun j hj => State.setFlag_flag_ne s2 _ hj, fun d hd => others d hd _ rfl, rfl, rfl, rfl, rfl⟩
    · simp only [if_neg consume]
      exact ⟨hw, congrArg (· + 32) pc, by simp [nextInstr, runState, state], (if_neg consume).symm,
        fun j hj => rfl, fun d hd => others d hd _ rfl, rfl, rfl, rfl, rfl⟩
  case count =>
    intro s2 mode v target hm ht hw himp hv
    have issued : exec (.waitCount c) s = .next (issueWaitCount c w s2) := exec_issue hi rfl
    obtain ⟨h, ends, pc, consumed⟩ := waitCount_ends (mayIssue_opcode hi) hm ht hw himp hv
    refine ⟨_, issued.trans (congrArg _ ends), hw, ?_⟩
    rw [setChan_nextInstr_chan]
    exact ⟨congrArg (· + 32) pc, consumed, onlyChan_setChan ..⟩
  case snapshot =>
    intro s2 hm hv himp ht
    have issued : exec (.waitCount c) s = .next (issueWaitCount c w s2) := exec_issue hi rfl
    have assigned : (s2.chan c).state ≠ .unassigned := by rw [mayIssue_running hi]; decide
    have loaded : (s2.setChan c { s2.chan c with consumed := (s2.counter p).value }).chan c
        = { s2.chan c with consumed := (s2.counter p).value } := setChan_chan_assigned assigned
    refine ⟨_, issued.trans (congrArg _ ((issueWaitCount_snapshot hm hv ht).trans
      (advance_program (by rw [loaded]; exact himp)))), ?_⟩
    rw [setChan_nextInstr_chan, loaded]
    exact ⟨rfl, rfl, (onlyChan_setChan ..).trans (onlyChan_setChan ..)⟩
  case word =>
    intro s2 k mode o hm hs ha hv hr hst hp hon hb hw himp hf
    have issued : exec (.waitFull c) s = .next (issueWaitFull c w s2) := exec_issue hi rfl
    obtain ⟨h, ends, pc⟩ := waitFull_ends ⟨hm, hs, ha, hv, hr, hst, hp, hon, hb⟩ hw himp hf
    refine ⟨_, issued.trans (congrArg _ ends), hw, ?_⟩
    rw [setChan_nextInstr_chan]
    obtain ⟨taken, others⟩ := mem_taken hm hf
    exact ⟨congrArg (· + 32) pc, taken, others, rfl, rfl, rfl, rfl⟩

end Sys2Proof.Machine
end

section
/-! SUPPORT. A channel's registers while events are raised, programs end and instructions are marked bad, whatever the
table holds (03 R103, R142, R147, R153). -/
namespace Sys2Proof.Machine

/-! ### What events leave of a channel (R147, R153) -/

/-- A channel's record without what a trigger event changes: its count, and whether the channel waits for it. -/
def eventless (h : Chan) : Chan :=
  { h with trigPending := 0, trigOverrun := false, state := if h.state = .waiting then .running else h.state }

/-- Channel c, where its record is no default record, is in t as in s but for trigger events. -/
structure EventsOnly (c : Nat) (s t : State) : Prop where
  kept : eventless (s.chan c) ≠ {} → eventless (t.chan c) = eventless (s.chan c)

theorem eventless_ne_of_assigned {h : Chan} (hs : h.state ≠ .unassigned) : eventless h ≠ {} := by
  intro e
  have states : (eventless h).state = .unassigned := congrArg Chan.state e
  unfold eventless at states
  by_cases w : h.state = .waiting <;> simp_all

/-- A record that holds more than trigger events is read back whatever the table. -/
theorem setChan_chan_eventless {s : State} {c : Nat} {h : Chan} (hs : eventless h ≠ {}) : (s.setChan c h).chan c = h :=
  State.setChan_chan_of_ne s c fun e => hs (by rw [e]; rfl)

theorem assigned_of_eventless {h h' : Chan} (e : eventless h' = eventless h) (hs : h.state ≠ .unassigned) :
    h'.state ≠ .unassigned := by
  intro hu
  have states : (eventless h').state = (eventless h).state := congrArg Chan.state e
  unfold eventless at states
  rw [hu] at states
  by_cases w : h.state = .waiting <;> simp_all

theorem eventsOnly_of_chan {c : Nat} {s t : State} (h : t.chan c = s.chan c) : EventsOnly c s t :=
  ⟨fun _ => congrArg eventless h⟩

theorem EventsOnly.trans {c : Nat} {s t u : State} (h : EventsOnly c s t) (g : EventsOnly c t u) : EventsOnly c s u :=
  ⟨fun hs => (g.kept (by rw [h.kept hs]; exact hs)).trans (h.kept hs)⟩

theorem EventsOnly.waiters {c : Nat} {s t : State} (h : EventsOnly c s t) (x : List Waiter) :
    EventsOnly c s { t with waiters := x } := ⟨h.kept⟩

theorem eventsOnly_foldl {α : Type} {c : Nat} {f : State → α → State} (h : ∀ t a, EventsOnly c t (f t a)) (l : List α)
    (s : State) : EventsOnly c s (l.foldl f s) :=
  List.foldlRecOn (motive := EventsOnly c s) l f (eventsOnly_of_chan rfl) fun t ht a _ => ht.trans (h t a)

/-- A channel's own record, changed by nothing but events. -/
theorem eventsOnly_setChan {c d : Nat} {h : Chan} {s : State} (e : eventless h = eventless (s.chan d)) :
    EventsOnly c s (s.setChan d h) := by
  refine ⟨fun hs => ?_⟩
  by_cases hd : c = d
  · subst hd
    rw [setChan_chan_eventless (by rw [e]; exact hs), e]
  · rw [State.setChan_chan_ne s h hd]

theorem eventsOnly_triggerEvent (c d : Nat) (s : State) : EventsOnly c s (triggerEvent d s) := by
  unfold triggerEvent
  dsimp only
  split
  · exact eventsOnly_setChan rfl
  · split
    · rename_i waits
      have state : (s.chan d).state = .waiting := by simp_all
      refine EventsOnly.waiters ?_ _
      exact eventsOnly_setChan (by simp [eventless, state])
    · exact eventsOnly_setChan rfl

theorem chan_sendMsix (fn v : Nat) (s : State) (c : Nat) : (sendMsix fn v s).chan c = s.chan c :=
  chan_congr (chans_of_recorded (recorded_sendMsix ..)) c

/-- The record of a channel with one event raised (R153). -/
def raised (bit : Nat) (h : Chan) : Chan := { h with irqPend := h.irqPend ||| (1#4 <<< bit) }

/-- An event of a channel sets its bit of PEND; all else that it does to a channel are trigger events. -/
theorem eventsOnly_raiseEvent (c b bit : Nat) (s : State) :
    EventsOnly c (s.setChan b (raised bit (s.chan b))) (raiseEvent b bit s) := by
  unfold raiseEvent raised
  dsimp only
  generalize s.setChan b _ = t
  have sent (i : Bool) (fn v : Nat) : EventsOnly c t (if i then sendMsix fn v t else t) := by
    cases i
    · exact eventsOnly_of_chan rfl
    · exact eventsOnly_of_chan (chan_sendMsix ..)
  split
  · exact sent ..
  · exact (sent ..).trans (eventsOnly_foldl (fun t d => eventsOnly_triggerEvent c d t) _ _)

/-! ### The end of a program (R103) -/

/-- A channel's registers when its program has ended. -/
def programEnded (h : Chan) : Chan :=
  { h with state := .idle, cur := none, hold := .none, implicit := none, entry := none, ending := none, implicitBad := none
           implicitBytes := 0, implicitLost := 0, trigTaken := false, progress := 0, heldBy := [], touches := []
           execNo := h.execNo + 1 }

theorem chan_completeEntry (g : Nat) (n : Half) (st : Byte) (r : Word) (s : State) (c : Nat) :
    (completeEntry g n st r s).chan c = s.chan c := by
  unfold completeEntry
  dsimp only
  split <;> rfl

/-- The completion of the entry, if any, that a channel served. -/
def entryEnded (e : Option EntryRef) (st : Byte) (r : Word) (s : State) : State :=
  match e with
  | some e => completeEntry e.sq (BitVec.ofNat 32 e.count) st r s
  | none => s

/-- The block when the program has ended and its entry has completed; the event STOP comes after it. -/
def programOver (c : Nat) (st : Byte) (r : Word) (s : State) : State :=
  entryEnded (s.chan c).entry st r { s.setChan c (programEnded (s.chan c)) with
    waiters := s.waiters.filter fun w => w.unit != .chan (Fin.ofNat 128 c) }

/-- A program that was loaded ends with the event STOP, and an implicit one without (log entry 20). -/
theorem finishProgram_eq (c : Nat) (st : Byte) (r : Word) (s : State) : finishProgram c st r s =
    if (s.chan c).implicit.isSome then programOver c st r s else raiseEvent c evStop (programOver c st r s) := rfl

theorem programOver_chan (c : Nat) (st : Byte) (r : Word) (s : State) :
    (programOver c st r s).chan c = programEnded (s.chan c) := by
  have ended : (s.setChan c (programEnded (s.chan c))).chan c = programEnded (s.chan c) :=
    setChan_chan_assigned (by simp [programEnded])
  unfold programOver entryEnded
  split
  · exact (chan_completeEntry ..).trans ended
  · exact ended

/-- Channel c is, but for trigger events, as the record h has it. -/
structure Follows (h : Chan) (c : Nat) (t : State) : Prop where
  record : eventless (t.chan c) = eventless h

theorem raiseEvent_follows {c : Nat} {s : State} {h : Chan} (bit : Nat) (he : s.chan c = h) (hs : eventless (raised bit h) ≠ {}) :
    Follows (raised bit h) c (raiseEvent c bit s) := by
  subst he
  have event := (eventsOnly_raiseEvent c c bit s).kept
  have set : (s.setChan c (raised bit (s.chan c))).chan c = raised bit (s.chan c) := setChan_chan_eventless hs
  exact ⟨(event (by rw [set]; exact hs)).trans (congrArg eventless set)⟩

/-- The channel's registers at the end of its program, with STOP raised for a program that was loaded. -/
def endedRegs (h : Chan) : Chan := if h.implicit.isSome then programEnded h else raised evStop (programEnded h)

theorem finishProgram_follows (c : Nat) (st : Byte) (r : Word) (s : State) :
    Follows (endedRegs (s.chan c)) c (finishProgram c st r s) := by
  have ended := programOver_chan c st r s
  rw [finishProgram_eq, endedRegs]
  split
  · exact ⟨congrArg eventless ended⟩
  · exact raiseEvent_follows evStop ended (eventless_ne_of_assigned (by simp [raised, programEnded]))

/-! ### Instructions that are marked bad (R142) -/

theorem proveWrites_chan {c : Nat} {s : State} (hs : (s.chan c).state ≠ .unassigned) :
    ∃ fl, (proveWrites c s).chan c = { s.chan c with flights := fl } := by
  unfold proveWrites
  dsimp only
  split
  · rw [hostReadOut_chan]
    exact ⟨_, setChan_chan_assigned hs⟩
  · exact ⟨_, rfl⟩

/-- With nothing of its own on the way, no write of the instruction needs a proof (R141). -/
theorem proveWrites_none {c : Nat} {s : State} (h : ownFlights (s.chan c) = false) : proveWrites c s = s := by
  refine if_neg ?_
  unfold ownFlights at h
  simp only [List.any_eq_true, decide_eq_true_eq, List.any_eq_false] at h ⊢
  rintro ⟨f, hf, open_⟩
  simp only [Bool.and_eq_true, decide_eq_true_eq] at open_
  exact h f hf open_.1.2

theorem pokeByte_chans (k : Nat) (a : Word) (b : Byte) (s : State) : (pokeByte k a b s).chans = s.chans := by
  unfold pokeByte
  split
  · split
    · split <;> rfl
    · rfl
  · split <;> rfl
  · rfl

/-- The registers of an instruction marked bad are those of R142 step 3, with the event BAD. -/
theorem badSteps_follows {c : Nat} {s : State} (pc : Word) (o : Byte) (e : Nat) (st : Byte) (r : ErrRec)
    (hs : eventless (badCounts pc o e st (s.chan c)) ≠ {})
    (hb : eventless (raised evBad (badCounts pc o e st (s.chan c))) ≠ {}) :
    Follows (raised evBad (badCounts pc o e st (s.chan c))) c (badSteps c pc o e st r s) := by
  unfold badSteps badReport
  dsimp only
  refine raiseEvent_follows evBad (.trans ?_ (setChan_chan_eventless (s := s) (c := c) hs)) hb
  refine chan_congr ((chans_of_recorded (recorded_roomRec ..)).trans ?_) c
  split
  · rfl
  · exact pokeByte_chans ..

/-- Registers that the issue of an instruction and the end of a program leave as they are. -/
def regsOf (h : Chan) : (Half × Word) × (Half × Half × Half × Half) × Half × Half :=
  ((h.badCount, h.lastErr), (h.loop0, h.loop1, h.loop2, h.loop3), h.srcOff, h.dstOff)

theorem Follows.regs {h : Chan} {c : Nat} {t : State} (f : Follows h c t) : regsOf (t.chan c) = regsOf h :=
  (congrArg regsOf f.record :)

theorem endProgram_regs (c : Nat) (st : Byte) (r : Word) (s : State) :
    regsOf ((endProgram c st r s).chan c) = regsOf (s.chan c) := by
  have finished : regsOf ((finishProgram c st r s).chan c) = regsOf (s.chan c) := by
    rw [(finishProgram_follows c st r s).regs, endedRegs]
    split <;> rfl
  unfold endProgram
  dsimp only
  split
  · split
    · refine (congrArg regsOf (setChan_chan_assigned ?_)).trans rfl
      exact runState_ne_unassigned _
    · exact finished
  · exact finished

/-- Whatever comes after an instruction that is marked bad, its counts stand, and CH_LOOP and CH_OFFSET are as before. -/
theorem markBadRec_regs {c : Nat} {s : State} (o : Byte) (f : BitVec 16) (e : Nat) (st : Byte) (r : ErrRec)
    (hs : (s.chan c).state ≠ .unassigned) (hi : (s.chan c).implicit = none) :
    regsOf ((markBadRec c o f e st r s).chan c) = regsOf (badCounts (s.chan c).pc o e st (s.chan c)) := by
  obtain ⟨fl, proved⟩ := proveWrites_chan hs
  have steps := badSteps_follows (s := proveWrites c s) (s.chan c).pc o e st r
    (eventless_ne_of_assigned (by rw [proved]; exact hs)) (eventless_ne_of_assigned (by rw [proved]; exact hs))
  rw [proved] at steps
  have before := steps.regs
  have program : ((badSteps c (s.chan c).pc o e st r (proveWrites c s)).chan c).implicit = none :=
    (congrArg Chan.implicit steps.record :).trans hi
  have assigned := assigned_of_eventless steps.record hs
  unfold markBadRec
  dsimp only
  generalize badSteps c (s.chan c).pc o e st r (proveWrites c s) = u at *
  refine Eq.trans ?_ before
  split
  · exact endProgram_regs ..
  · split
    · refine (congrArg regsOf (setChan_chan_assigned ?_)).trans rfl
      exact assigned
    · rw [advance_program program, setChan_nextInstr_chan]
      rfl

end Sys2Proof.Machine
end

section
/-! PROOFS. O5: LOOP (03 R117, R142). -/
namespace Sys2Proof.Machine

/-- At issue a channel's registers are those of its fetch, but for the trigger that it may have taken (R145). -/
theorem atIssue_chan {s s1 : State} {c : Nat} {o : Byte} {w : BitVec 256} (hi : MayIssue s c o w s1) :
    ∃ n b, (atIssue c w s1).chan c = { s1.chan c with trigPending := n, trigTaken := b } := by
  obtain ⟨ready, -, -, fetch, -⟩ := hi
  have fetched : s1.chan c = s.chan c := by
    have read := fetchInstr_chans c s
    rw [fetch] at read
    exact chan_congr read c
  have touched : (pdTouch (pdMover c) s1).chan c = s1.chan c := rfl
  have assigned : (s1.chan c).state ≠ .unassigned := by
    intro e
    simp [issueReady, ← fetched, e] at ready
  unfold atIssue
  dsimp only
  split
  · refine ⟨_, true, (setChan_chan_assigned ?_).trans rfl⟩
    exact assigned
  · exact ⟨_, _, rfl⟩

/-- The registers of the channel after a LOOP that is not malformed (R117). -/
def looped (w : BitVec 256) (h : Chan) : Chan :=
  let h := loopStep (fld w 32 8).toNat (fld w 64 32) (fld w 96 32) (fld w 128 32) (fld w 160 32) h
  { h with cur := none, trigTaken := false, progress := 0, heldBy := [], touches := [], execNo := h.execNo + 1 }

theorem issueLoop_good {c : Nat} {w : BitVec 256} {s : State} (hc : (fld w 64 32 : Half) ≠ 0)
    (hn : (fld w 32 8).toNat ≤ 3) (ht : (fld w 96 32 : Half).toInt ≤ 0) (ho : allOn s (issueDomains c s [])) :
    issueLoop c w s = s.setChan c (looped w (s.chan c)) := by
  unfold issueLoop
  dsimp only
  rw [if_neg, withDomains_on _ ho]
  · rfl
  · simp only [hc, decide_false, Bool.false_or, Bool.or_eq_true, decide_eq_true_eq, not_or]
    exact ⟨not_lt.2 hn, not_lt.2 ht⟩

theorem issueLoop_malformed {c : Nat} {w : BitVec 256} (s : State)
    (hm : (fld w 64 32 : Half) = 0 ∨ 3 < (fld w 32 8).toNat ∨ 0 < (fld w 96 32 : Half).toInt) :
    issueLoop c w s = issueBad c w St.malformed s := by
  unfold issueLoop
  dsimp only
  rw [if_pos]
  simpa only [Bool.or_eq_true, decide_eq_true_eq, or_assoc] using hm

theorem loopGet_loopSet_eq (h : Chan) (n : Nat) (v : Half) : loopGet (loopSet h n v) n = v := by
  rcases n with _ | _ | _ | n <;> rfl

theorem loopGet_loopSet_ne {n m : Nat} (hn : n ≤ 3) (hm : m ≤ 3) (hd : m ≠ n) (h : Chan) (v : Half) :
    loopGet (loopSet h n v) m = loopGet h m := by
  interval_cases n <;> interval_cases m <;> simp_all [loopGet, loopSet]

theorem loopSet_other (h : Chan) (n : Nat) (v : Half) : (loopSet h n v).srcOff = h.srcOff
    ∧ (loopSet h n v).dstOff = h.dstOff ∧ (loopSet h n v).pc = h.pc ∧ (loopSet h n v).state = h.state := by
  rcases n with _ | _ | _ | n <;> exact ⟨rfl, rfl, rfl, rfl⟩

/-- The counter of a LOOP when it has issued (R117). -/
def loopLeft (w : BitVec 256) (h : Chan) : Half :=
  (if loopGet h (fld w 32 8).toNat = 0 then fld w 64 32 else loopGet h (fld w 32 8).toNat) - 1

theorem looped_loopGet (w : BitVec 256) (h : Chan) (m : Nat) :
    loopGet (looped w h) m = loopGet (loopSet h (fld w 32 8).toNat (loopLeft w h)) m := by
  unfold looped loopStep
  dsimp only
  by_cases hr : loopLeft w h = 0
  · rw [if_neg (not_not_intro (by exact hr))]
    rfl
  · rw [if_pos (by exact hr)]
    rfl

theorem looped_state (w : BitVec 256) (h : Chan) : (looped w h).state = h.state := by
  obtain ⟨-, -, -, state⟩ := loopSet_other h (fld w 32 8).toNat (loopLeft w h)
  unfold looped loopStep
  dsimp only
  by_cases hr : loopLeft w h = 0
  · rw [if_neg (not_not_intro (by exact hr))]
    exact state
  · rw [if_pos (by exact hr)]
    exact state

/-- A LOOP that has not run out goes back, with its steps added. -/
theorem looped_again {w : BitVec 256} {h : Chan} (hr : loopLeft w h ≠ 0) :
    (looped w h).srcOff = h.srcOff + fld w 128 32 ∧ (looped w h).dstOff = h.dstOff + fld w 160 32
      ∧ (looped w h).pc = h.pc + (fld w 96 32 : Half).signExtend 64 * 32 := by
  obtain ⟨src, dst, pc, -⟩ := loopSet_other h (fld w 32 8).toNat (loopLeft w h)
  rw [← src, ← dst, ← pc]
  unfold looped loopStep
  dsimp only
  rw [if_pos (by exact hr)]
  exact ⟨rfl, rfl, rfl⟩

/-- A LOOP that has run out takes its steps back and goes on. -/
theorem looped_over {w : BitVec 256} {h : Chan} (hr : loopLeft w h = 0) :
    (looped w h).srcOff = h.srcOff - fld w 128 32 * (fld w 64 32 - 1)
      ∧ (looped w h).dstOff = h.dstOff - fld w 160 32 * (fld w 64 32 - 1) ∧ (looped w h).pc = h.pc + 32 := by
  obtain ⟨src, dst, pc, -⟩ := loopSet_other h (fld w 32 8).toNat (loopLeft w h)
  rw [← src, ← dst, ← pc]
  unfold looped loopStep
  dsimp only
  rw [if_neg (not_not_intro (by exact hr))]
  exact ⟨rfl, rfl, rfl⟩

/-- Bits 15:8 of CH_LAST_ERR are the opcode (R160). -/
theorem fld_lastOpcode (i : Half) (e : BitVec 16) (o st : Byte) : (fld (i ++ e ++ o ++ st) 8 8 : Byte) = o := by
  refine BitVec.eq_of_getLsbD_eq fun j hj => ?_
  rw [BitVec.getLsbD_extractLsb', BitVec.getLsbD_append, BitVec.getLsbD_append]
  simp [hj]

/-- Settles O5: a LOOP is one update of its channel; a malformed one leaves the registers of an instruction marked bad. -/
theorem loopCountsAndBranches : Obligations.LoopCountsAndBranches := by
  unfold Obligations.LoopCountsAndBranches
  intro c w s s1 hi n count target h r
  have issued : exec (.loop c) s = .next (issueLoop c w (atIssue c w s1)) := exec_issue hi rfl
  have assigned : h.state ≠ .unassigned := by
    rw [show h.state = .running from mayIssue_running hi]
    decide
  refine ⟨fun hc hn ht ho => ?_, fun hm himp => ?_⟩
  · have set : (((atIssue c w s1).setChan c (looped w h)).chan c) = looped w h :=
      setChan_chan_assigned (by rw [looped_state]; exact assigned)
    refine ⟨_, issued.trans (congrArg _ (issueLoop_good hc hn ht ho)), onlyChan_setChan .., ?_⟩
    rw [set]
    exact ⟨(looped_loopGet ..).trans (loopGet_loopSet_eq ..),
      fun m hm hd => (looped_loopGet ..).trans (loopGet_loopSet_ne hn hm hd ..), looped_again, looped_over⟩
  · obtain ⟨p, b, atIs⟩ := atIssue_chan hi
    have program : h.implicit = none := (congrArg Chan.implicit atIs).trans himp
    have regs := markBadRec_regs (fld w 0 8) (wFlags w) 0 St.malformed
      (instrRec h c h.pc (fld w 0 8) 0 St.malformed) assigned program
    refine ⟨_, issued.trans (congrArg _ (issueLoop_malformed _ hm)), ?_⟩
    rw [show issueBad c w St.malformed (atIssue c w s1) = markBadRec c (fld w 0 8) (wFlags w) 0 St.malformed
      (instrRec h c h.pc (fld w 0 8) 0 St.malformed) (atIssue c w s1) from rfl]
    rw [show (atIssue c w s1).chan c = _ from atIs] at regs
    simp only [regsOf, badCounts, Prod.mk.injEq] at regs
    obtain ⟨⟨count', last⟩, ⟨l0, l1, l2, l3⟩, src, dst⟩ := regs
    refine ⟨count', ?_, ?_, fun m hm => ?_, src, dst⟩
    · rw [last, fld_status]
    · rw [last, fld_lastOpcode, mayIssue_opcode hi]
    · interval_cases m
      · exact l0
      · exact l1
      · exact l2
      · exact l3

end Sys2Proof.Machine
end

section
/-! SUPPORT. What events and the end of a program leave of the block (03 R103, R147, R153, 05 R201, R236). -/
namespace Sys2Proof.Machine

/-- t differs from s in channels, waiters and interrupts only. -/
def EventFrame (s t : State) : Prop :=
  ∃ ch w m o, t = { s with chans := ch, waiters := w, msix := m, outputs := o }

/-- t differs from s in channels, waiters, interrupts and SQs only. -/
def ProgramFrame (s t : State) : Prop :=
  ∃ ch w m o q, t = { s with chans := ch, waiters := w, msix := m, outputs := o, sqs := q }

theorem EventFrame.refl (s : State) : EventFrame s s := ⟨_, _, _, _, rfl⟩

theorem EventFrame.trans {s t u : State} (h : EventFrame s t) (g : EventFrame t u) : EventFrame s u := by
  obtain ⟨ch, w, m, o, rfl⟩ := h
  obtain ⟨ch', w', m', o', rfl⟩ := g
  exact ⟨ch', w', m', o', rfl⟩

theorem ProgramFrame.trans {s t u : State} (h : ProgramFrame s t) (g : ProgramFrame t u) : ProgramFrame s u := by
  obtain ⟨ch, w, m, o, q, rfl⟩ := h
  obtain ⟨ch', w', m', o', q', rfl⟩ := g
  exact ⟨ch', w', m', o', q', rfl⟩

theorem EventFrame.sqs {s t : State} (h : EventFrame s t) : t.sqs = s.sqs := by
  obtain ⟨ch, w, m, o, rfl⟩ := h
  rfl

theorem EventFrame.program {s t : State} (h : EventFrame s t) : ProgramFrame s t := by
  obtain ⟨ch, w, m, o, rfl⟩ := h
  exact ⟨ch, w, m, o, s.sqs, rfl⟩

theorem eventFrame_setChan (s : State) (c : Nat) (h : Chan) : EventFrame s (s.setChan c h) := ⟨_, _, _, _, rfl⟩

theorem EventFrame.waiters {s t : State} (h : EventFrame s t) (x : List Waiter) :
    EventFrame s { t with waiters := x } := by
  obtain ⟨ch, w, m, o, rfl⟩ := h
  exact ⟨ch, x, m, o, rfl⟩

theorem eventFrame_foldl {α : Type} {f : State → α → State} (h : ∀ t a, EventFrame t (f t a)) (l : List α) (s : State) :
    EventFrame s (l.foldl f s) :=
  List.foldlRecOn (motive := EventFrame s) l f (.refl s) fun t ht a _ => ht.trans (h t a)

theorem eventFrame_sendMsix (fn vec : Nat) (s : State) : EventFrame s (sendMsix fn vec s) := by
  unfold sendMsix
  dsimp only
  split <;> exact ⟨_, _, _, _, rfl⟩

theorem eventFrame_triggerEvent (c : Nat) (s : State) : EventFrame s (triggerEvent c s) := by
  unfold triggerEvent
  dsimp only
  split
  · exact eventFrame_setChan ..
  · split
    · refine EventFrame.waiters ?_ _
      exact eventFrame_setChan ..
    · exact eventFrame_setChan ..

theorem eventFrame_raiseEvent (c bit : Nat) (s : State) : EventFrame s (raiseEvent c bit s) := by
  have set : EventFrame s (s.setChan c (raised bit (s.chan c))) := eventFrame_setChan ..
  have sent (i : Bool) (fn v : Nat) (t : State) : EventFrame t (if i then sendMsix fn v t else t) := by
    cases i
    · exact .refl t
    · exact eventFrame_sendMsix ..
  unfold raiseEvent
  dsimp only
  refine set.trans ?_
  unfold raised
  generalize s.setChan c _ = t
  split
  · exact sent ..
  · exact (sent ..).trans (eventFrame_foldl (fun t d => eventFrame_triggerEvent d t) _ _)

theorem programFrame_completeEntry (g : Nat) (n : Half) (st : Byte) (r : Word) (s : State) :
    ProgramFrame s (completeEntry g n st r s) := by
  unfold completeEntry
  dsimp only
  split
  · exact (EventFrame.refl s).program
  · exact ⟨_, _, _, _, _, rfl⟩

theorem programFrame_programOver (c : Nat) (st : Byte) (r : Word) (s : State) : ProgramFrame s (programOver c st r s) := by
  have ended (x : List Waiter) : ProgramFrame s { s.setChan c (programEnded (s.chan c)) with waiters := x } :=
    ((eventFrame_setChan ..).waiters x).program
  unfold programOver entryEnded
  split
  · exact (ended _).trans (programFrame_completeEntry ..)
  · exact ended _

theorem programFrame_finishProgram (c : Nat) (st : Byte) (r : Word) (s : State) :
    ProgramFrame s (finishProgram c st r s) := by
  rw [finishProgram_eq]
  split
  · exact programFrame_programOver ..
  · exact (programFrame_programOver ..).trans (eventFrame_raiseEvent ..).program

theorem programFrame_endProgram (c : Nat) (st : Byte) (r : Word) (s : State) : ProgramFrame s (endProgram c st r s) := by
  unfold endProgram
  dsimp only
  split
  · split
    · exact (eventFrame_setChan ..).program
    · exact programFrame_finishProgram ..
  · exact programFrame_finishProgram ..

theorem programFrame_advance (c : Nat) (s : State) : ProgramFrame s (advance c s) := by
  unfold advance
  dsimp only
  split
  · exact programFrame_endProgram ..
  · exact (eventFrame_setChan ..).program

end Sys2Proof.Machine
end

section
/-! PROOFS. O6: STOP (03 R103, R118, R153, 05 R201, R236). -/
namespace Sys2Proof.Machine

theorem Follows.idle {h : Chan} {c : Nat} {t : State} (f : Follows h c t) (hs : h.state = .idle) :
    (t.chan c).state = .idle := by
  have states : (eventless (t.chan c)).state = (eventless h).state := congrArg Chan.state f.record
  unfold eventless at states
  by_cases w : (t.chan c).state = .waiting <;> simp_all

/-- With nothing on its way, the program ends at once (R196). -/
theorem endProgram_landed {c : Nat} {s : State} (st : Byte) (r : Word) (h : (s.chan c).flights = []) :
    endProgram c st r s = finishProgram c st r s := by
  unfold endProgram
  simp only [h, ne_eq, not_true_eq_false, decide_false, Bool.and_false, Bool.false_eq_true, if_false]
  split <;> rfl

theorem issueStop_landed {c : Nat} {w : BitVec 256} {s : State} (ho : allOn s (issueDomains c s []))
    (h : (s.chan c).flights = []) : issueStop c w s
      = finishProgram c (if (s.chan c).badCount = 0 then St.ok else St.partialDone) (fld w 64 64) s := by
  unfold issueStop
  rw [withDomains_on _ ho]
  dsimp only
  rw [if_neg (by simp [h]), endProgram_landed _ _ h]

theorem issueStop_waits {c : Nat} {w : BitVec 256} {s : State} (ho : allOn s (issueDomains c s []))
    (hb : flBarrier (wFlags w) = true) (h : (s.chan c).flights ≠ []) : issueStop c w s = s.setChan c { s.chan c with
      hold := .stop, ending := some (if (s.chan c).badCount = 0 then St.ok else St.partialDone, fld w 64 64), cur := none } := by
  unfold issueStop
  rw [withDomains_on _ ho]
  dsimp only
  rw [if_pos (by rw [hb]; simp [h])]

/-- The report of a program's entry joins those that wait to be written, where none is held back (R236, R238). -/
theorem completeEntry_reports {g : Nat} {n : Half} {st : Byte} {r : Word} {s : State} {d : Dispatched}
    (hd : (s.sq g).dispatched.find? (·.count = n) = some d) (he : engineOp d.opcode = false) (hb : (s.sq g).behind = []) :
    ((completeEntry g n st r s).sq g).reports = (s.sq g).reports ++ [{
      count := n, tag := d.tag, irq := d.irq, opcode := d.opcode, result := r, status := if st = St.ok && d.late then St.late else st }] := by
  unfold completeEntry
  simp only [hd]
  rw [State.setSq_sq_of_ne]
  · simp [addReport, hb, putReport, behindEngine, he]
  · intro e
    have := congrArg Sq.reports e
    simp [addReport, hb, putReport, behindEngine, he] at this

theorem sq_congr {s t : State} (h : t.sqs = s.sqs) (g : Nat) : t.sq g = s.sq g :=
  congrArg (fun x : Table Sq => tget x {} g) h

/-- The program's end reports its entry. -/
theorem finishProgram_reports {c : Nat} {st : Byte} {r : Word} {s : State} {e : EntryRef} {d : Dispatched}
    (hp : (s.chan c).entry = some e)
    (hd : (s.sq e.sq).dispatched.find? (·.count = BitVec.ofNat 32 e.count) = some d) (he : engineOp d.opcode = false)
    (hb : (s.sq e.sq).behind = []) :
    ((finishProgram c st r s).sq e.sq).reports = (s.sq e.sq).reports ++ [{
      count := BitVec.ofNat 32 e.count, tag := d.tag, irq := d.irq, opcode := d.opcode, result := r, status := if st = St.ok && d.late then St.late else st }] := by
  have stopped : (finishProgram c st r s).sq e.sq = (programOver c st r s).sq e.sq := by
    refine sq_congr ?_ _
    rw [finishProgram_eq]
    split
    · rfl
    · exact (eventFrame_raiseEvent ..).sqs
  rw [stopped, programOver, hp]
  exact completeEntry_reports (s := { s.setChan c _ with waiters := _ }) hd he hb

/-- Settles O6: STOP ends the program by its channel, its entry's report and the event STOP; with BARRIER the end waits in
the channel. -/
theorem stopEndsTheProgram : Obligations.StopEndsTheProgram := by
  unfold Obligations.StopEndsTheProgram
  intro c w s s1 hi s2 h st ho
  have issued : exec (.stop c) s = .next (issueStop c w s2) := exec_issue hi rfl
  have running : h.state = .running := mayIssue_running hi
  refine ⟨fun himp hf => ?_, fun hb hf => ?_⟩
  · have ended := finishProgram_follows c st (fld w 64 64) s2
    have loaded : endedRegs (s2.chan c) = raised evStop (programEnded h) := by
      unfold endedRegs
      rw [show (s2.chan c).implicit = none from himp]
      rfl
    rw [loaded] at ended
    refine ⟨_, issued.trans (congrArg _ (issueStop_landed ho hf)),
      sameMemory_of_store (quiet_finishProgram ..).store, ?_, (congrArg Chan.entry ended.record :), ?_,
      fun e d he hd hop hbe => finishProgram_reports he hd hop hbe⟩
    · exact ended.idle rfl
    · have pend : ((finishProgram c st (fld w 64 64) s2).chan c).irqPend = h.irqPend ||| (1#4 <<< evStop) :=
        (congrArg Chan.irqPend ended.record :)
      refine (congrArg (·.getLsbD 2) pend).trans ?_
      simp
  · refine ⟨_, issued.trans (congrArg _ (issueStop_waits ho hb hf)), onlyChan_setChan .., ?_⟩
    rw [setChan_chan_assigned (by rw [show (s2.chan c).state = _ from running]; decide)]
    exact ⟨rfl, rfl, rfl⟩

end Sys2Proof.Machine
end

section
/-! PROOFS. O13: signals to local objects (03 R126, 05 R223, 08 R359, R362, R363, R401). -/
namespace Sys2Proof.Machine

theorem issueSignalFlag_local {c p : Nat} {w : BitVec 256} {s : State} (hm : (fld w 32 8).toNat ≤ 1)
    (ht : syncTarget s (s.chan c).room.toNat (fld w 64 64) false = .ok (.localFlag p)) :
    issueSignalFlag c w s
      = signalFlag p ((fld w 32 8 : Byte) ≠ 0) (lastSignal s 1 c (ownNode s)) (advance c s) := by
  have value : ((fld w 32 8 : Byte).setWidth 64 : Word) ≠ 0 ↔ (fld w 32 8 : Byte) ≠ 0 := by
    generalize (fld w 32 8 : Byte) = v
    exact not_congr ⟨fun e => by bv_omega, fun e => by subst e; rfl⟩
  unfold issueSignalFlag issueSignal
  rw [if_neg (not_lt.2 hm)]
  simp only [ht, value]

theorem issueSignalCount_local {c p : Nat} {w : BitVec 256} {s : State} (ha : (fld w 128 32 : Half) ≠ 0)
    (ht : syncTarget s (s.chan c).room.toNat (fld w 64 64) true = .ok (.localCounter p)) :
    issueSignalCount c w s
      = signalCounter p ((fld w 128 32 : Half).setWidth 64) (lastSignal s 1 c (ownNode s)) (advance c s) := by
  unfold issueSignalCount issueSignal
  rw [if_neg ha]
  simp only [ht]

/-- A signal that rings no doorbell gives the flag its value (R359). -/
theorem signalFlag_sets {p : Nat} {v : Bool} {l : LastSignal} {s : State} (hd : (s.flag p).dbSq = none ∨ v = false)
    (hn : noWaitEnds (s.setFlag p { s.flag p with value := v, last := l })) :
    signalFlag p v l s = s.setFlag p { s.flag p with value := v, last := l } := by
  refine .trans ?_ (settle_of_noWaitEnds hn)
  unfold signalFlag
  dsimp only
  split
  · simp_all
  · rfl

/-- A signal of 1 to a doorbell flag rings its SQ and leaves the flag 0 (R223, R362). -/
theorem signalFlag_rings {p g : Nat} {l : LastSignal} {s : State} (hd : (s.flag p).dbSq = some g)
    (hn : noWaitEnds (setDbPending g (s.setFlag p { s.flag p with value := false, last := l }))) :
    signalFlag p true l s = setDbPending g (s.setFlag p { s.flag p with value := false, last := l }) := by
  refine .trans ?_ (settle_of_noWaitEnds hn)
  unfold signalFlag
  simp only [hd]

theorem setDbPending_rings (g : Nat) (s : State) : ((setDbPending g s).sq g).dbPending = true := by
  have rung : (setDbPending g s).sq g = { s.sq g with dbPending := true } :=
    State.setSq_sq_of_ne s g fun e => by simpa using congrArg Sq.dbPending e
  rw [rung]

/-- Settles O13: a signal is one update of its object after the channel has gone on. -/
theorem signalsReachLocalObjects : Obligations.SignalsReachLocalObjects := by
  unfold Obligations.SignalsReachLocalObjects
  refine ⟨fun c w s s1 p hi => ?_, fun c w s s1 p hi => ?_⟩
  · intro s2 v l a hm ht
    have issued : exec (.signalFlag c) s = .next (issueSignalFlag c w s2) := exec_issue hi rfl
    refine ⟨fun hd hn => issued.trans (congrArg _ ((issueSignalFlag_local hm ht).trans (signalFlag_sets hd hn))),
      fun g hd hv wf hn => ?_⟩
    have rung : issueSignalFlag c w s2 = setDbPending g (a.setFlag p { a.flag p with value := false, last := l }) := by
      rw [issueSignalFlag_local hm ht, show decide ((fld w 32 8 : Byte) ≠ 0) = true from hv]
      exact signalFlag_rings hd hn
    refine ⟨_, issued.trans (congrArg _ rung), ?_⟩
    obtain ⟨ch, ws, m, o, q, frame⟩ : ProgramFrame s2 a := programFrame_advance c s2
    clear_value a
    subst frame
    refine ⟨congrArg Flag.value (State.setFlag_flag_eq p _ ((wf_iff s2).1 wf).flags), setDbPending_rings .., rfl⟩
  · intro s2 add a t ha ht hn
    have issued : exec (.signalCount c) s = .next (issueSignalCount c w s2) := exec_issue hi rfl
    rw [issued, issueSignalCount_local ha ht]
    exact congrArg _ (settle_of_noWaitEnds hn)

end Sys2Proof.Machine
end

section
/-! PROOFS. O12: WAIT_PHASE and PHASE_WAKE (03 R123). -/
namespace Sys2Proof.Machine

/-- The turn in which a WAIT_PHASE ends (R123). -/
def phaseTurn (w : BitVec 256) (s : State) : Half :=
  if (fld w 32 8).toNat = 1 then fld w 96 32
  else if (fld w 64 32 : Half) ≤ s.cad.phase then s.cad.turn + 1 else s.cad.turn

section
variable {c : Fin 128} {w : BitVec 256} {s : State}
  (hm : (fld w 32 8).toNat = 1 ∨ (fld w 32 8).toNat = 0 ∧ (fld w 96 32 : Half) = 0) (ho : allOn s (issueDomains c s []))
include hm ho

theorem issueWaitPhase_sleeps (hr : reached s.cad.turn s.cad.phase (phaseTurn w s) (fld w 64 32) = false) :
    issueWaitPhase c w s = addWaiter
      { unit := .chan c, obj := .phase ((fld w 32 8).toNat = 1) (phaseTurn w s) (fld w 64 32), mode := fld w 32 8 }
      (setCur c (fun q => { q with domains := baseDomains c s }) (sleepIn c w .nothing s)) := by
  unfold issueWaitPhase
  dsimp only
  rw [if_neg, withDomains_on _ ho]
  · rw [Fin.ofNat_eq_cast, Fin.cast_val_eq_self]
    exact if_neg (ne_true_of_eq_false hr)
  · generalize (fld w 32 8).toNat = mode at hm
    rcases hm with rfl | ⟨rfl, e⟩ <;> simp [*]

/-- The channel's registers when a WAIT_PHASE has found its moment reached: LATE notes one that has passed. -/
def phaseReached (w : BitVec 256) (s : State) (h : Chan) : Chan :=
  { h with late := h.late || decide (s.cad.turn ≠ phaseTurn w s ∨ s.cad.phase ≠ fld w 64 32) }

theorem issueWaitPhase_goes (hr : reached s.cad.turn s.cad.phase (phaseTurn w s) (fld w 64 32) = true)
    (hi : (s.chan c).implicit = none) (hs : (s.chan c).state ≠ .unassigned) :
    issueWaitPhase c w s = s.setChan c (nextInstr (phaseReached w s (s.chan c))) := by
  have assigned : (phaseReached w s (s.chan c)).state ≠ .unassigned := hs
  have noted : (s.setChan c (phaseReached w s (s.chan c))).chan c = phaseReached w s (s.chan c) :=
    setChan_chan_assigned assigned
  have goes : issueWaitPhase c w s = advance c (s.setChan c (phaseReached w s (s.chan c))) := by
    unfold issueWaitPhase
    dsimp only
    rw [if_neg, withDomains_on _ ho]
    · refine (if_pos hr).trans ?_
      rw [phaseReached, Bool.decide_or]
      rfl
    · generalize (fld w 32 8).toNat = mode at hm
      rcases hm with rfl | ⟨rfl, e⟩ <;> simp [*]
  rw [goes, advance_program (by rw [noted]; exact hi), noted, setChan_setChan assigned]

end

/-- PHASE_WAKE ends the only wait, whose moment has come. -/
theorem exec_phaseWake {c : Fin 128} {s : State} {x : Waiter} {a : Bool} {turn p : Half} (hw : s.waiters = [x])
    (hu : x.unit = .chan c) (hp : x.paused = false) (ho : x.obj = .phase a turn p)
    (hr : reached s.cad.turn s.cad.phase turn p = true) : exec (.phaseWake c) s = .next (endWait x St.ok 0 s) := by
  show execPhaseWake c s = _
  simp [execPhaseWake, hw, hu, hp, ho, hr]

theorem dropWaiter_only {x : Waiter} {s : State} (h : s.waiters = [x]) : dropWaiter x s = { s with waiters := [] } := by
  simp [dropWaiter, h]

theorem setChan_waiters_restored (s : State) (x : List Waiter) (c : Nat) (h : Chan) :
    { ({ s with waiters := x } : State).setChan c h with chans := s.chans, waiters := s.waiters } = s := by
  cases s
  rfl

/-- Settles O12: WAIT_PHASE compares the moment, and either sleeps or goes on; PHASE_WAKE ends its wait. -/
theorem phaseWaitsSleepAndWake : Obligations.PhaseWaitsSleepAndWake := by
  unfold Obligations.PhaseWaitsSleepAndWake
  refine ⟨fun c w s s1 hi => ?issue, fun c s x a turn p q hw hu hp ho hr himp hs hq hop => ?wake⟩
  case issue =>
    intro s2 mode p turn hm hon
    have issued : exec (.waitPhase c) s = .next (issueWaitPhase c w s2) := exec_issue hi rfl
    refine ⟨fun hr => issued.trans (congrArg _ (issueWaitPhase_sleeps hm hon hr)), fun hr himp => ?_⟩
    have assigned : (s2.chan c).state ≠ .unassigned := by
      rw [mayIssue_running hi]
      decide
    refine ⟨_, issued.trans (congrArg _ (issueWaitPhase_goes hm hon hr himp assigned)), onlyChan_setChan .., ?_⟩
    rw [setChan_nextInstr_chan]
    exact ⟨rfl, rfl⟩
  case wake =>
    refine ⟨_, (exec_phaseWake hw hu hp ho hr).trans (congrArg _ (endWait_chan_ok 0 hu himp (by rw [hs]; decide))), ?_⟩
    rw [dropWaiter_only hw, setChan_nextInstr_chan]
    exact ⟨rfl, rfl, by simp [nextInstr, runState, waitEnded, hs], rfl, setChan_waiters_restored ..⟩

end Sys2Proof.Machine
end

section
/-! PROOFS. O17: the events of channels (03 R145, R147, R148, R150, R153). -/
namespace Sys2Proof.Machine

/-- In a canonical table the followers of a channel are the channels that name it with SRC 2 (R147). -/
theorem followers_eq_nil {s : State} (hs : tableWf {} s.chans = true) (c : Nat) :
    followers s c = [] ↔ ∀ d, ¬ ((s.chan d).trigSrc = 2 ∧ (s.chan d).trigChannel.toNat = c) := by
  simp only [followers, List.map_eq_nil_iff, List.filter_eq_nil_iff, Bool.and_eq_true, decide_eq_true_eq]
  refine ⟨fun none d hd => ?_, fun none p hp => ?_⟩
  · have listed : (d, s.chan d) ∈ s.chans := mem_of_tget_ne fun e => by
      have src := hd.1
      rw [show s.chan d = {} from e] at src
      exact absurd src (by decide)
    exact none _ listed hd
  · have read : s.chan p.1 = p.2 := tget_of_mem hs hp
    rw [← read]
    exact none p.1

/-- The block when a channel's event has set PEND and sent its vector; the followers' triggers come after it. -/
def eventSent (c bit : Nat) (s : State) : State :=
  if (s.chan c).irqEn.getLsbD bit then
    sendMsix (s.chan c).room.toNat (s.chan c).irqVector.toNat (s.setChan c (raised bit (s.chan c)))
  else s.setChan c (raised bit (s.chan c))

theorem raiseEvent_eq (c bit : Nat) (s : State) : raiseEvent c bit s =
    if bit = evBad then eventSent c bit s
    else (followers (eventSent c bit s) c).foldl (fun t d => triggerEvent d t) (eventSent c bit s) := rfl

theorem eventSent_chans (c bit : Nat) (s : State) :
    (eventSent c bit s).chans = (s.setChan c (raised bit (s.chan c))).chans := by
  unfold eventSent
  split
  · exact chans_of_recorded (recorded_sendMsix ..)
  · rfl

/-- A new record of a channel that keeps its trigger's source leaves who follows whom. -/
theorem followers_setChan_nil {s : State} (hs : tableWf {} s.chans = true) {c d : Nat} {h : Chan}
    (hf : followers s c = []) (hsrc : h.trigSrc = (s.chan d).trigSrc) (hch : h.trigChannel = (s.chan d).trigChannel) :
    followers (s.setChan d h) c = [] := by
  rw [followers_eq_nil hs] at hf
  refine (followers_eq_nil (State.setChan_wf d _ hs) c).2 fun e he => ?_
  by_cases ed : e = d
  · subst ed
    rw [State.setChan_chan_eq e _ hs, hsrc, hch] at he
    exact hf e he
  · rw [State.setChan_chan_ne s _ ed] at he
    exact hf e he

/-- An event of a channel that none follows: its bit of PEND, and its vector where it is enabled. -/
theorem raiseEvent_alone {c bit : Nat} {s : State} (hs : tableWf {} s.chans = true) (hf : followers s c = []) :
    raiseEvent c bit s = eventSent c bit s := by
  have none : followers (eventSent c bit s) c = [] := by
    have same : followers (eventSent c bit s) c = followers (s.setChan c (raised bit (s.chan c))) c := by
      rw [followers, eventSent_chans, followers]
    rw [same]
    exact followers_setChan_nil hs hf rfl rfl
  rw [raiseEvent_eq, none]
  split <;> rfl

/-- What a due event of channel c does: PEND, and its vector where it is enabled (R150, R153). -/
structure EventFired (c bit : Nat) (h : Chan) (s t : State) : Prop where
  chan : t.chan c = raised bit h
  others : ∀ d, d ≠ c → t.chan d = s.chan d
  silent : h.irqEn.getLsbD bit = false → OnlyChan c s t
  sent : h.irqEn.getLsbD bit = true → (tget s.msix {} (h.room.toNat * 256 + h.irqVector.toNat)).masked = false →
    t.outputs = .msix h.room.toNat h.irqVector.toNat :: s.outputs

/-- The event of a channel with the new record h, which none follows. -/
theorem eventFired {c bit : Nat} {s : State} {h : Chan} (hs : tableWf {} s.chans = true) (hf : followers s c = [])
    (hsrc : h.trigSrc = (s.chan c).trigSrc) (hch : h.trigChannel = (s.chan c).trigChannel) :
    EventFired c bit h s (raiseEvent c bit (s.setChan c h)) := by
  have table : tableWf {} (s.setChan c h).chans = true := State.setChan_wf c _ hs
  have read : (s.setChan c h).chan c = h := State.setChan_chan_eq c h hs
  have chans := eventSent_chans c bit (s.setChan c h)
  rw [raiseEvent_alone table (followers_setChan_nil hs hf hsrc hch)]
  rw [read] at chans
  refine ⟨?_, fun d hd => ?_, fun off => ?_, fun on open_ => ?_⟩
  · rw [chan_congr chans, State.setChan_chan_eq c _ table]
  · rw [chan_congr chans, State.setChan_chan_ne _ _ hd, State.setChan_chan_ne _ _ hd]
  · rw [eventSent, read, off]
    exact (onlyChan_setChan ..).trans (onlyChan_setChan ..)
  · rw [eventSent, read, if_pos on, sendMsix_sent (by exact open_)]
    rfl

theorem exec_halfEvent {c : Fin 128} {s : State} (h : (s.chan c).halfDue ≠ 0) : exec (.halfEvent c) s
    = .next (raiseEvent c evHalf (s.setChan c { s.chan c with halfDue := (s.chan c).halfDue - 1 })) := if_neg h

theorem exec_fullEvent {c : Fin 128} {s : State} (h : (s.chan c).fullDue ≠ 0) : exec (.fullEvent c) s
    = .next (raiseEvent c evFull (s.setChan c { s.chan c with fullDue := (s.chan c).fullDue - 1 })) := if_neg h

/-- A channel's record after a trigger event that it does not wait for: counted up to 15, and then lost (R148). -/
def triggered (h : Chan) : Chan :=
  { h with trigPending := if h.trigPending = 15 then 15 else h.trigPending + 1
           trigOverrun := h.trigOverrun || decide (h.trigPending = 15) }

theorem triggerEvent_counts {c : Nat} {s : State} (hw : (s.chan c).state ≠ .waiting) :
    triggerEvent c s = s.setChan c (triggered (s.chan c)) := by
  unfold triggerEvent triggered
  dsimp only
  by_cases full : (s.chan c).trigPending = 15
  · simp [full]
  · rw [if_neg full, if_neg (by simp [hw]), if_neg full, decide_eq_false full, Bool.or_false]

theorem exec_timerTrigger {c : Fin 128} {s : State} (hsrc : (s.chan c).trigSrc = 1) (hn : (s.chan c).trigNext ≤ s.now) :
    exec (.timerTrigger c) s = .next (triggerEvent c (s.setChan c { s.chan c with
      trigNext := (s.chan c).trigNext + (s.chan c).trigPeriod.toNat })) :=
  if_pos (by simp [hsrc, hn])

/-- A channel that a timer triggers is no default record. -/
theorem setChan_chan_timer {s : State} {c : Nat} {h : Chan} (hs : h.trigSrc = 1) : (s.setChan c h).chan c = h :=
  State.setChan_chan_of_ne s c fun e => by
    rw [e] at hs
    exact absurd hs (by decide)

/-- Settles O17: a due event is one event of its channel, and a period that has passed is one event of its trigger. -/
theorem channelEventsFire : Obligations.ChannelEventsFire := by
  unfold Obligations.ChannelEventsFire
  refine ⟨fun c s hd wf hf => ?half, fun c s hd wf hf => ?full, fun c s hsrc hn hw => ?timer⟩
  case half =>
    have fired := eventFired (bit := evHalf) (h := { s.chan c with halfDue := (s.chan c).halfDue - 1 })
      ((wf_iff s).1 wf).chans hf rfl rfl
    exact ⟨_, exec_halfEvent hd, congrArg Chan.halfDue fired.chan, congrArg Chan.irqPend fired.chan, fired.others,
      fired.silent, fired.sent⟩
  case full =>
    have fired := eventFired (bit := evFull) (h := { s.chan c with fullDue := (s.chan c).fullDue - 1 })
      ((wf_iff s).1 wf).chans hf rfl rfl
    exact ⟨_, exec_fullEvent hd, congrArg Chan.fullDue fired.chan, congrArg Chan.irqPend fired.chan, fired.others,
      fired.silent⟩
  case timer =>
    generalize hh : ({ s.chan c with trigNext := (s.chan c).trigNext + (s.chan c).trigPeriod.toNat } : Chan) = h
    have run := exec_timerTrigger hsrc hn
    rw [hh] at run
    have src : h.trigSrc = 1 := by
      rw [← hh]
      exact hsrc
    have read : (s.setChan c h).chan c = h := setChan_chan_timer src
    have counted : triggerEvent c (s.setChan c h) = (s.setChan c h).setChan c (triggered h) := by
      rw [triggerEvent_counts (by rw [read, ← hh]; exact hw), read]
    have result : ((s.setChan c h).setChan c (triggered h)).chan c = triggered h :=
      setChan_chan_timer (by exact src)
    refine ⟨_, run.trans (congrArg _ counted), (onlyChan_setChan ..).trans (onlyChan_setChan ..), ?_⟩
    rw [result, ← hh]
    exact ⟨rfl, rfl, rfl⟩

end Sys2Proof.Machine
end

section
/-! PROOFS. O19: PAUSE, CHANNEL_PAUSED and the resumption of a channel (03 R154, R158). -/
namespace Sys2Proof.Machine

/-- A channel's record with the PAUSE bit written and its state changed with it. -/
def pauseWritten (pause : Bool) (st : ChState) (h : Chan) : Chan := { h with pauseBit := pause, state := st }

/-- A paused wait of a channel stays paused, and one that counted stops (R154). -/
theorem pauseWaits_paused {c : Fin 128} {s : State} {x : Waiter} (hx : x ∈ (pauseWaits c s).waiters) (hu : x.unit = .chan c) :
    x.paused = true := by
  obtain ⟨w, -, rfl⟩ := List.mem_map.1 hx
  by_cases mine : (w.unit == .chan (Fin.ofNat 128 c) && !w.paused) = true
  · rw [if_pos mine]
  · rw [if_neg mine] at hu ⊢
    rw [Fin.ofNat_eq_cast, Fin.cast_val_eq_self] at mine
    simpa [hu] using mine

section
variable {c : Fin 128} {s : State}

/-- The channel's record as it is read back once the PAUSE bit has been written. -/
theorem pauseWritten_chan {st : ChState} (pause : Bool) (h : Chan) (hs : st ≠ .unassigned) :
    (s.setChan c (pauseWritten pause st h)).chan c = pauseWritten pause st h :=
  setChan_chan_assigned hs

theorem setPause_running (h : (s.chan c).state = .running) : setPause c true s = s.setChan c
    (pauseWritten true (if underWay (s.chan c) then .pausing else .paused) (s.chan c)) := by
  have noted := pauseWritten_chan (s := s) (c := c) true (s.chan c) (st := .running) (by decide)
  have same : pauseWritten true .running (s.chan c) = { s.chan c with pauseBit := true } := by rw [← h]; rfl
  change applyPause c (s.setChan c { s.chan c with pauseBit := true }) = _
  rw [← same]
  unfold applyPause
  rw [noted]
  exact setChan_setChan (by simp [pauseWritten])

theorem setPause_waiting (h : (s.chan c).state = .waiting) : setPause c true s =
    pauseWaits c (s.setChan c (pauseWritten true .paused (s.chan c))) := by
  have noted := pauseWritten_chan (s := s) (c := c) true (s.chan c) (st := .waiting) (by decide)
  have same : pauseWritten true .waiting (s.chan c) = { s.chan c with pauseBit := true } := by rw [← h]; rfl
  change applyPause c (s.setChan c { s.chan c with pauseBit := true }) = _
  rw [← same]
  unfold applyPause
  rw [noted]
  exact congrArg (pauseWaits c) (setChan_setChan (by simp [pauseWritten]))

/-- With no wait of its own a resumed channel runs on (R158). -/
theorem resumeWaits_without (hw : ∀ x ∈ s.waiters, x.unit ≠ .chan c) :
    resumeWaits c s = s.setChan c { s.chan c with state := .running } := by
  have me : WaitUnit.chan (Fin.ofNat 128 c) = .chan c := by rw [Fin.ofNat_eq_cast, Fin.cast_val_eq_self]
  have kept : s.waiters.map (fun (w : Waiter) => if w.unit == .chan c && w.paused then
      { w with paused := false, deadline := w.deadline.map fun _ => s.now + w.remaining } else w) = s.waiters :=
    (List.map_congr_left fun x hx => if_neg (by simp [hw x hx])).trans (List.map_id _)
  have none : s.waiters.find? (·.unit == .chan c) = none :=
    List.find?_eq_none.2 fun x hx => by simpa using hw x hx
  unfold resumeWaits
  simp only [me, kept, none]

/-- A channel's record that no domain holds (R158). -/
def unheld (h : Chan) : Chan := { h with heldBy := [], touches := [] }

theorem resumeChan_paused (hs : (s.chan c).state = .paused) (hp : pauseCause (s.chan c) = false)
    (hh : (s.chan c).heldBy = []) : resumeChan c s = resumeWaits c (s.setChan c (unheld (s.chan c))) := by
  unfold resumeChan
  simp only [unheld, hp, hs, hh, List.filter_nil, ne_eq, not_true_eq_false, Bool.false_eq_true, if_false]

/-- A channel's registers when the last cause of its pause is gone (R158). -/
def resumed (h : Chan) : Chan := unheld (pauseWritten false .running h)

theorem setPause_resumes (hs : (s.chan c).state = .paused) (hd : (s.chan c).pauseDomain = [])
    (hr : (s.chan c).pauseReset = false) (hh : (s.chan c).heldBy = []) (hw : ∀ x ∈ s.waiters, x.unit ≠ .chan c) :
    setPause c false s = s.setChan c (resumed (s.chan c)) := by
  have noted := pauseWritten_chan (s := s) (c := c) false (s.chan c) (st := .paused) (by decide)
  have same : pauseWritten false .paused (s.chan c) = { s.chan c with pauseBit := false } := by rw [← hs]; rfl
  have noCause : pauseCause (pauseWritten false .paused (s.chan c)) = false := by
    simp [pauseCause, pauseWritten, hd, hr]
  have assigned : (unheld (pauseWritten false .paused (s.chan c))).state ≠ .unassigned := by simp [unheld, pauseWritten]
  change resumeChan c (s.setChan c { s.chan c with pauseBit := false }) = _
  rw [← same, resumeChan_paused (by rw [noted]; rfl) (by rw [noted]; exact noCause) (by rw [noted]; exact hh), noted,
    resumeWaits_without (by exact hw), setChan_chan_assigned assigned, setChan_setChan assigned,
    setChan_setChan (by simp [pauseWritten])]
  rfl

end

/-- Settles O19: PAUSE acts on the channel's state and its waits, and the channel of which the last cause goes runs on. -/
theorem pauseStopsAtTheBurstBoundary : Obligations.PauseStopsAtTheBurstBoundary := by
  unfold Obligations.PauseStopsAtTheBurstBoundary
  refine ⟨fun c s open0 => ⟨fun running => ?_, fun waiting => ?_, fun paused domains reset held own => ?_⟩,
    fun c s pausing done => ?_⟩
  · exact congrArg Host.Outcome.next ((throughBar_pf _ open0).trans (setPause_running running))
  · have stopped := pauseWritten_chan (s := s) (c := c) true (s.chan c) (st := .paused) (by decide)
    exact ⟨_, congrArg Host.Outcome.next ((throughBar_pf _ open0).trans (setPause_waiting waiting)),
      congrArg Chan.state stopped, congrArg Chan.pauseBit stopped, fun x => pauseWaits_paused, List.length_map .., rfl⟩
  · refine ⟨_, congrArg Host.Outcome.next ((throughBar_pf _ open0).trans (setPause_resumes paused domains reset held own)),
      onlyChan_setChan .., ?_⟩
    rw [setChan_chan_assigned (by simp [resumed, unheld, pauseWritten])]
    exact ⟨rfl, rfl, rfl, rfl⟩
  · change Host.Outcome.next _ = _
    simp [pausing, done]

end Sys2Proof.Machine
end

section
/-! SUPPORT. An instruction marked bad that has nothing on its way and does not stop its program: the channel goes on
(03 R140, R142). -/
namespace Sys2Proof.Machine

/-! ### Waiters, counters and groups under events and error reports -/

/-- Where s has no waiters t has none, and t has the counters and groups of s. -/
structure NoNewWait (s t : State) : Prop where
  waiters : s.waiters = [] → t.waiters = []
  counters : t.counters = s.counters
  groups : t.groups = s.groups

theorem NoNewWait.refl (s : State) : NoNewWait s s := ⟨id, rfl, rfl⟩

theorem NoNewWait.trans {s t u : State} (h : NoNewWait s t) (g : NoNewWait t u) : NoNewWait s u :=
  ⟨g.waiters ∘ h.waiters, g.counters.trans h.counters, g.groups.trans h.groups⟩

theorem noNewWait_triggerEvent (c : Nat) (s : State) : NoNewWait s (triggerEvent c s) := by
  unfold triggerEvent
  dsimp only
  split
  · exact ⟨id, rfl, rfl⟩
  · split
    · exact ⟨fun none => (congrArg (List.filter _) none).trans rfl, rfl, rfl⟩
    · exact ⟨id, rfl, rfl⟩

theorem noNewWait_sendMsix (fn v : Nat) (s : State) : NoNewWait s (sendMsix fn v s) := by
  unfold sendMsix
  dsimp only
  split <;> exact ⟨id, rfl, rfl⟩

theorem noNewWait_raiseEvent (c bit : Nat) (s : State) : NoNewWait s (raiseEvent c bit s) := by
  have set : NoNewWait s (s.setChan c (raised bit (s.chan c))) := ⟨id, rfl, rfl⟩
  have sent (i : Bool) (fn v : Nat) (t : State) : NoNewWait t (if i then sendMsix fn v t else t) := by
    cases i
    · exact .refl t
    · exact noNewWait_sendMsix ..
  unfold raiseEvent
  dsimp only
  refine set.trans ?_
  unfold raised
  generalize s.setChan c _ = t
  split
  · exact sent ..
  · exact List.foldlRecOn (motive := NoNewWait t) _ _ (sent ..) fun u hu d _ => hu.trans (noNewWait_triggerEvent ..)

theorem noNewWait_roomRec (k : Nat) (r : ErrRec) (s : State) : NoNewWait s (roomRec k r s) := by
  have frame := recorded_roomRec k r s
  exact ⟨fun none => (congrArg State.waiters frame :).trans none, (congrArg State.counters frame :),
    (congrArg State.groups frame :)⟩

theorem noNewWait_pokeByte (k : Nat) (a : Word) (b : Byte) (s : State) : NoNewWait s (pokeByte k a b s) := by
  unfold pokeByte
  split
  · split
    · split
      · exact ⟨id, rfl, rfl⟩
      · exact .refl s
    · exact .refl s
  · split
    · exact ⟨id, rfl, rfl⟩
    · exact .refl s
  · exact .refl s

theorem noNewWait_badSteps (c : Nat) (pc : Word) (o : Byte) (e : Nat) (st : Byte) (r : ErrRec) (s : State) :
    NoNewWait s (badSteps c pc o e st r s) := by
  have counted : NoNewWait s (s.setChan c (badCounts pc o e st (s.chan c))) := ⟨id, rfl, rfl⟩
  refine counted.trans ?_
  unfold badSteps badReport
  refine .trans ?_ ((noNewWait_roomRec ..).trans (noNewWait_raiseEvent ..))
  split
  · exact ⟨id, rfl, rfl⟩
  · exact noNewWait_pokeByte ..

/-! ### The channel goes on -/

/-- A record with a status in CH_LAST_ERR is no default record. -/
theorem eventless_ne_of_status {h : Chan} (hst : (fld h.lastErr 0 8 : Byte) ≠ St.ok) : eventless h ≠ {} :=
  fun default => hst (congrArg (fun h : Chan => (fld h.lastErr 0 8 : Byte)) default :)

/-- What a bad instruction leaves when its channel goes on with the next one: its status and count in the channel, which
is at the next instruction. -/
structure GoesOnBad (c : Nat) (st : Byte) (s t : State) : Prop where
  rest : NoNewWait s t
  status : fld (t.chan c).lastErr 0 8 = st
  count : (t.chan c).badCount = satInc (s.chan c).badCount
  pc : (t.chan c).pc = (s.chan c).pc + 32
  cur : (t.chan c).cur = none

theorem markBadRec_goesOn {c : Nat} {o : Byte} {f : BitVec 16} {e : Nat} {st : Byte} {r : ErrRec} {s : State}
    (hst : st ≠ St.ok) (hi : (s.chan c).implicit = none) (hf : flStopOnBad f = false) (ho : ownFlights (s.chan c) = false) :
    GoesOnBad c st s (markBadRec c o f e st r s) := by
  have status : (fld (badCounts (s.chan c).pc o e st (s.chan c)).lastErr 0 8 : Byte) = st := fld_status ..
  have recorded : (fld (badCounts (s.chan c).pc o e st (s.chan c)).lastErr 0 8 : Byte) ≠ St.ok := by rwa [status]
  have steps := badSteps_follows (c := c) (s := s) (s.chan c).pc o e st r (eventless_ne_of_status recorded)
    (eventless_ne_of_status recorded)
  have frame := noNewWait_badSteps c (s.chan c).pc o e st r s
  unfold markBadRec
  rw [proveWrites_none ho]
  dsimp only
  generalize badSteps c (s.chan c).pc o e st r s = u at steps frame
  have program : (u.chan c).implicit = none := (congrArg Chan.implicit steps.record :).trans hi
  have own : ownFlights (u.chan c) = false := (congrArg ownFlights steps.record :).trans ho
  have lastErr : (u.chan c).lastErr = (badCounts (s.chan c).pc o e st (s.chan c)).lastErr :=
    (congrArg Chan.lastErr steps.record :)
  rw [hf, own, Bool.and_false, Bool.false_and, if_neg Bool.false_ne_true, if_neg Bool.false_ne_true,
    advance_program program]
  have next := setChan_nextInstr_chan u c (u.chan c)
  refine ⟨frame.trans ⟨id, rfl, rfl⟩, ?_, ?_, ?_, congrArg Chan.cur next⟩
  · exact (congrArg (fun h : Chan => (fld h.lastErr 0 8 : Byte)) next).trans ((congrArg (fld · 0 8) lastErr).trans status)
  · exact (congrArg Chan.badCount next).trans (congrArg Chan.badCount steps.record :)
  · exact (congrArg Chan.pc next).trans (congrArg (· + 32) (congrArg Chan.pc steps.record :))

end Sys2Proof.Machine
end

section
/-! PROOFS. O20: WAIT_TIMEOUT_EXPIRY and RDX_GRANT_TIMEOUT (08 R122, R389 to R391, 12 R572). -/
namespace Sys2Proof.Machine

/-- A wait that counts, whose deadline has come and whose condition does not hold, is due (R389). -/
theorem isDue_past {s : State} {x : Waiter} {d : Nat} (hp : x.paused = false) (hc : condHolds s x = false)
    (hd : x.deadline = some d) (hn : d ≤ s.now) : isDue s x = true := by
  simp [isDue, hp, hc, hd, hn]

/-- The only wait of a channel that ends with WAIT_TIMEOUT: its instruction is bad and the channel goes on (R122). -/
theorem endWait_timeout {c : Fin 128} {s : State} {x : Waiter} {q : Cur} (found : Word) (hw : s.waiters = [x])
    (hu : x.unit = .chan c) (hq : (s.chan c).cur = some q) (hi : (s.chan c).implicit = none)
    (hf : flStopOnBad q.flags = false) (ho : ownFlights (s.chan c) = false) :
    (endWait x St.waitTimeout found s).waiters = [] ∧ GoesOnBad c St.waitTimeout s (endWait x St.waitTimeout found s) := by
  have alone : (dropWaiter x s).waiters = [] := by simp [dropWaiter, hw]
  have goes (r : ErrRec) : GoesOnBad c St.waitTimeout (dropWaiter x s)
      (markBadRec c q.opcode q.flags 0 St.waitTimeout r (dropWaiter x s)) :=
    markBadRec_goesOn (by decide) hi hf ho
  have ends : endWait x St.waitTimeout found s = markBadRec c q.opcode q.flags 0 St.waitTimeout
      { waitRec (dropWaiter x s) x St.waitTimeout found with opcode := q.opcode.setWidth 16 } (dropWaiter x s) := by
    have op : waitingOp ((dropWaiter x s).chan c) = (q.opcode, q.flags) := by
      unfold waitingOp
      rw [show ((dropWaiter x s).chan c).cur = some q from hq]
    unfold endWait
    simp only [hu, op]
    rfl
  rw [ends]
  obtain ⟨rest, status, count, pc, cur⟩ := goes { waitRec (dropWaiter x s) x St.waitTimeout found with
    opcode := q.opcode.setWidth 16 }
  exact ⟨rest.waiters alone, ⟨fun _ => rest.waiters alone, rest.counters, rest.groups⟩, status, count, pc, cur⟩

/-- Where none is open on the group, a bad reduction instruction fails alone (R574). -/
theorem reduceFails_closed {k g : Nat} {st : Byte} {s : State} (h : instOf s g = none) : reduceFails k g st s = s := by
  unfold reduceFails endInstance
  unfold instOf at h
  cases group : groupOf s g with
  | none => rfl
  | some x =>
    rw [group] at h
    have closed : x.inst = none := h
    simp only [closed, ite_self]

theorem expireWait_counter {c : Fin 128} {p : Nat} {x : Waiter} {s : State} (hu : x.unit = .chan c)
    (hx : x.obj = .counter p) :
    expireWait x s = endWait x St.waitTimeout (foundOf s x.obj) s := by
  have residue : residuePending s x = false := by simp [residuePending, hx]
  have replay : pathReplays s x = false := by simp [pathReplays, pathPorts, hx]
  have local' : cancelRemote x s = s := by simp [cancelRemote, hx]
  unfold expireWait
  rw [residue, replay, local']
  simp [hu, hx]

theorem groupOf_setGroup (s : State) (g : Nat) (x : Group) : groupOf (setGroup g x s) g = some x := by
  have find (t : Table Group) : (tput t g x).find? (·.1 = g) = some (g, x) := by
    induction t with
    | nil => simp [tput]
    | cons p r ih =>
      simp only [tput]
      split
      · simp
      · rename_i other
        split
        · simp
        · simp [other, ih]
  exact congrArg (Option.map Prod.snd) (find s.groups)

/-- The reservation of a channel's chunk is taken back (R572). -/
def unreserve (g : Nat) (c : Fin 128) (s : State) : State :=
  match groupOf s g with
  | some x => setGroup g { x with resv := x.resv.filter (·.chan ≠ some c.val) } s
  | none => s

theorem instOf_unreserve {g : Nat} {c : Fin 128} {s : State} (h : instOf s g = none) : instOf (unreserve g c s) g = none := by
  unfold instOf at h ⊢
  unfold unreserve
  cases group : groupOf s g with
  | none => simp [group]
  | some x =>
    rw [group] at h
    simp only [groupOf_setGroup]
    exact h

theorem instOf_congr {s t : State} (h : t.groups = s.groups) (g : Nat) : instOf t g = instOf s g := by
  unfold instOf groupOf
  rw [h]

theorem unreserve_frame (g : Nat) (c : Fin 128) (s : State) :
    (unreserve g c s).waiters = s.waiters ∧ (unreserve g c s).chans = s.chans := by
  unfold unreserve
  split <;> exact ⟨rfl, rfl⟩

/-- A grant of this node's own Reducer has no port on its path. -/
theorem expireWait_grant {c : Fin 128} {g n : Nat} {x : Waiter} {q : Cur} {s : State} {src : Word} {el : Nat}
    {f : BitVec 4} {op : BitVec 2} (hu : x.unit = .chan c) (hx : x.obj = .grant g n) (hq : (s.chan c).cur = some q)
    (hp : q.plan = .reduceSend src el f op g n (ownNode s)) : expireWait x s =
      reduceFails ((unreserve g c s).chan c).room.toNat g St.waitTimeout
        (endWait x St.waitTimeout (foundOf s x.obj) (unreserve g c s)) := by
  have residue : residuePending s x = false := by simp [residuePending, hx]
  have replay : pathReplays s x = false := by simp [pathReplays, pathPorts, hx, hu, hq, hp]
  have here : cancelRemote x s = s := by simp [cancelRemote, hx]
  unfold expireWait
  rw [residue, replay, here]
  simp only [hu, hx, Bool.false_eq_true, if_false]
  rfl

/-- Settles O20: the only waiter is due, and it ends as an instruction marked bad that the channel leaves. -/
theorem waitsTimeOut : Obligations.WaitsTimeOut := by
  unfold Obligations.WaitsTimeOut
  refine ⟨fun c s x p d q alone unit counts obj open_ deadline past cur program noStop noFlights => ?_,
    fun c s x g n d node q src el f op alone unit counts obj deadline past cur plan own closed program noStop noFlights => ?_⟩
  · have due : isDue s x = true := isDue_past counts open_ deadline past
    have run : exec (.waitTimeoutExpiry (.chan c)) s = .next (expireWait x s) := by
      change execWaitTimeoutExpiry (.chan c) s = _
      simp [execWaitTimeoutExpiry, alone, unit, due, obj, isGrant]
    obtain ⟨none, goes⟩ := endWait_timeout (foundOf s x.obj) alone unit cur program noStop noFlights
    rw [← expireWait_counter unit obj] at none goes
    exact ⟨_, run, none, goes.status, goes.count, goes.pc, goes.cur, goes.rest.counters⟩
  · subst own
    have due : isDue s x = true := isDue_past counts (by simp [condHolds, obj]) deadline past
    have run : exec (.rdxGrantTimeout c) s = .next (expireWait x s) := by
      change execRdxGrantTimeout c s = _
      simp [execRdxGrantTimeout, alone, unit, due, obj, isGrant]
    obtain ⟨waiters, chans⟩ := unreserve_frame g c s
    have same : (unreserve g c s).chan c = s.chan c := chan_congr chans c
    obtain ⟨none, goes⟩ := endWait_timeout (s := unreserve g c s) (foundOf s x.obj) (waiters.trans alone) unit
      (by rw [same]; exact cur) (by rw [same]; exact program) noStop (by rw [same]; exact noFlights)
    have stillClosed := (instOf_congr goes.rest.groups g).trans (instOf_unreserve closed)
    refine ⟨_, run, ?_⟩
    rw [expireWait_grant unit obj cur plan, reduceFails_closed stillClosed, ← same]
    exact ⟨none, goes.status, goes.count, goes.pc, goes.cur⟩

end Sys2Proof.Machine
end

section
/-! SUPPORT. The end of an instruction of a program with nothing on its way (03 R139, R150). -/
namespace Sys2Proof.Machine

/-- Channel c is in u as in s but for its work and its counts of due events, and u differs from s in that channel only. -/
structure DueCounted (c : Nat) (s u : State) : Prop where
  counts : ∃ q a b, u.chan c = { s.chan c with cur := q, halfDue := a, fullDue := b }
  only : ∀ r, u.setChan c r = s.setChan c r

section
variable {c : Nat} {s u : State}

theorem DueCounted.refl (c : Nat) (s : State) : DueCounted c s s := ⟨⟨_, _, _, rfl⟩, fun _ => rfl⟩

theorem DueCounted.proveWrites (d : DueCounted c s u) (hf : (s.chan c).flights = []) :
    DueCounted c s (proveWrites c u) := by
  rwa [proveWrites_none]
  obtain ⟨q, a, b, counts⟩ := d.counts
  simp [ownFlights, counts, hf]

variable (hs : (s.chan c).state ≠ .unassigned)
include hs

theorem dueCounted_setChan (q : Option Cur) (a b : Nat) :
    DueCounted c s (s.setChan c { s.chan c with cur := q, halfDue := a, fullDue := b }) :=
  ⟨⟨q, a, b, setChan_chan_assigned hs⟩, fun _ => setChan_setChan (by exact hs)⟩

theorem DueCounted.setChan (d : DueCounted c s u) {q : Option Cur} {a b : Nat} {h : Chan}
    (hh : h = { u.chan c with cur := q, halfDue := a, fullDue := b }) : DueCounted c s (u.setChan c h) := by
  subst hh
  obtain ⟨⟨q', a', b', counts⟩, only⟩ := d
  rw [only, counts]
  exact dueCounted_setChan hs q a b

theorem DueCounted.eventOnArrival (d : DueCounted c s u) (hf : (s.chan c).flights = []) (isHalf : Bool) :
    DueCounted c s (eventOnArrival c isHalf u) := by
  have none : ownFlights (u.chan c) = false := by
    obtain ⟨q, a, b, counts⟩ := d.counts
    simp [ownFlights, counts, hf]
  unfold Machine.eventOnArrival
  dsimp only
  rw [none]
  cases isHalf
  · exact d.setChan hs rfl
  · exact d.setChan hs rfl

theorem DueCounted.fireHalf (d : DueCounted c s u) (hf : (s.chan c).flights = []) : DueCounted c s (fireHalf c u) :=
  ((d.setChan hs rfl).eventOnArrival hs hf true).proveWrites hf

/-- An instruction with nothing on its way ends with the next one (R139). -/
theorem completeInstr_landed {q : Cur} (hq : (s.chan c).cur = some q) (hf : (s.chan c).flights = [])
    (hi : (s.chan c).implicit = none) :
    ∃ a b, completeInstr c s = s.setChan c (nextInstr { s.chan c with halfDue := a, fullDue := b }) := by
  have half (b : Bool) : DueCounted c s (if b then Machine.fireHalf c s else s) := by
    cases b
    · exact .refl c s
    · rw [if_pos rfl]
      exact (DueCounted.refl c s).fireHalf hs hf
  have full (b : Bool) {u : State} (d : DueCounted c s u) :
      DueCounted c s (if b then Machine.eventOnArrival c false u else u) := by
    cases b
    · exact d
    · rw [if_pos rfl]
      exact d.eventOnArrival hs hf false
  unfold completeInstr
  simp only [hq]
  generalize hu : Machine.proveWrites c _ = u
  have counted : DueCounted c s u := hu ▸ (full _ (half _)).proveWrites hf
  obtain ⟨⟨q', a, b, counts⟩, only⟩ := counted
  have own : ownFlights (u.chan c) = false := by simp [ownFlights, counts, hf]
  have last : (s.setChan c { s.chan c with cur := Option.none, halfDue := a, fullDue := b }).chan c = _ :=
    setChan_chan_assigned hs
  refine ⟨a, b, ?_⟩
  rw [own, Bool.and_false, if_neg Bool.false_ne_true, only, counts, hi]
  dsimp only [Option.isSome]
  rw [if_neg Bool.false_ne_true]
  refine (advance_program (by rw [setChan_chan_assigned (by exact hs)])).trans ?_
  rw [setChan_chan_assigned (by exact hs)]
  exact setChan_setChan (by exact hs)

end

end Sys2Proof.Machine
end

section
/-! PROOFS. O15: FENCE and NOTIFY (03 R125, R127, 12 R636). -/
namespace Sys2Proof.Machine

theorem sendMsix_pending {fn vec : Nat} {s : State} (h : (tget s.msix {} (fn * 256 + vec)).masked = true) :
    (tget (sendMsix fn vec s).msix {} (fn * 256 + vec)).pending = true ∧ (sendMsix fn vec s).outputs = s.outputs := by
  rw [sendMsix, h, if_pos rfl]
  exact ⟨by rw [tget_tset_of_ne _ _ fun e => by simpa using congrArg MsixEntry.pending e], rfl⟩

theorem SameMemory.setChan {s t : State} (m : SameMemory s t) (c : Nat) (h : Chan) : SameMemory s (t.setChan c h) := by
  obtain ⟨pantry, cellar, larder, host⟩ := m
  exact ⟨pantry, cellar, larder, host⟩

theorem sendMsix_setChan (fn vec : Nat) (s : State) (c : Nat) (h : Chan) :
    sendMsix fn vec (s.setChan c h) = (sendMsix fn vec s).setChan c h := by
  unfold sendMsix
  dsimp only
  rw [State.setChan_msix]
  split <;> rfl

/-- FENCE issues at once, and holds the next instruction while anything is on its way. -/
def fenced (h : Chan) : Chan := { nextInstr h with hold := if h.flights = [] then h.hold else .fence }

theorem issueFence_goes {c : Nat} {w : BitVec 256} {s : State} (hi : (s.chan c).implicit = none)
    (ho : allOn s (issueDomains c s [])) : issueFence c w s = s.setChan c (fenced (s.chan c)) := by
  unfold issueFence
  rw [withDomains_on _ ho, advance_program hi]
  dsimp only
  rw [setChan_nextInstr_chan]
  unfold fenced
  by_cases landed : (s.chan c).flights = []
  · rw [if_pos landed, if_neg (not_not_intro (by exact landed))]
    rfl
  · rw [if_neg landed, if_pos (by exact landed), setChan_setChan (runState_ne_unassigned _)]

/-- The work of a NOTIFY: nothing but its flags. -/
def notifyWork (w : BitVec 256) (h : Chan) : Chan :=
  { h with cur := some { opcode := fld w 0 8, flags := wFlags w, plan := .nothing } }

/-! NOTIFY is unfolded as a function (`delta`) and its parts are taken one by one, so that the kernel never evaluates the
checks of its address. -/

section
variable {c : Nat} {w : BitVec 256} {s : State} (hst : notifyStatus s (s.chan c).room.toNat w = St.ok)
include hst

theorem issueNotify_waits (hf : (s.chan c).flights ≠ []) :
    issueNotify c w s = s.setChan c { s.chan c with hold := .fence } := by
  generalize hg : @issueNotify = g
  delta issueNotify at hg
  subst hg
  beta_reduce
  extract_lets k action a st src
  rw [if_neg (not_not_intro hst), if_pos hf]

variable (hf : (s.chan c).flights = [])
include hf

theorem issueNotify_interrupts (ha : (fld w 40 8).toNat = 2) (ho : allOn s (issueDomains c s [])) :
    issueNotify c w s = completeInstr c
      (sendMsix (s.chan c).room.toNat (fld w 32 8).toNat (s.setChan c (notifyWork w (s.chan c)))) := by
  generalize hg : @issueNotify = g
  delta issueNotify at hg
  subst hg
  beta_reduce
  extract_lets k action a st src ds irq
  have send : action = 2 := ha
  rw [if_neg (not_not_intro hst), if_neg (not_not_intro hf)]
  have none : ds = [] := if_neg (by omega)
  rw [withDomains_on _ (by rw [none]; exact ho)]
  rw [if_neg (by omega)]
  exact congrArg (completeInstr c) (if_pos (by omega))

/-- A NOTIFY whose write succeeds ends with it. -/
theorem issueNotify_writes {p : State × Byte} (ha : (fld w 40 8).toNat = 1)
    (ho : allOn s (issueDomains c s (spanDomains s (s.chan c).room.toNat (fld w 64 64) 8)))
    (hr : runPut c (s.chan c).room.toNat (fld w 64 64) (wholeRun (offOf (fld w 64 64)) (leB 8 (fld w 128 64 : Word))) 0 0
      (s.setChan c (notifyWork w (s.chan c))) = p) (hp : p.2 = St.ok) : issueNotify c w s = completeInstr c p.1 := by
  generalize hg : @issueNotify = g
  delta issueNotify at hg
  subst hg
  beta_reduce
  extract_lets k action a st src ds irq
  have write : action = 1 := ha
  rw [if_neg (not_not_intro hst), if_neg (not_not_intro hf)]
  have span : ds = spanDomains s k a 8 := if_pos (by omega)
  rw [withDomains_on _ (by rw [span]; exact ho)]
  extract_lets t
  rw [if_pos (by omega)]
  change runPut c k a _ 0 0 t = p at hr
  generalize runPut c k a _ 0 0 t = r at hr ⊢
  subst hr
  obtain ⟨u, v⟩ := r
  exact (if_pos hp).trans (congrArg (completeInstr c) (if_neg (by omega)))

end

/-- The checks of a NOTIFY that writes to the Pantry: its word is aligned and lies in the Room's windows. -/
theorem notifyStatus_pantry {s : State} {k : Nat} {w : BitVec 256} (h : notifyStatus s k w = St.ok)
    (ha : (fld w 40 8).toNat = 1) (hs : spaceOf (fld w 64 64) = some .pantry) :
    offOf (fld w 64 64) % 8 = 0 ∧ spanStatus s k (fld w 64 64) 8 = St.ok := by
  have malformed : St.malformed ≠ St.ok := by decide
  have down : St.linkDown ≠ St.ok := by decide
  unfold notifyStatus at h
  extract_lets action a at h
  have write : action = 1 := ha
  rw [show spaceOf a = some .pantry from hs] at h
  split at h
  · exact absurd h down
  · split at h
    · exact absurd h malformed
    · rw [if_neg (by omega)] at h
      split at h
      · exact absurd h malformed
      · rename_i aligned
        exact ⟨not_not.1 aligned, h⟩

section
variable {c : Nat} {w : BitVec 256} {s : State} (hst : notifyStatus s (s.chan c).room.toNat w = St.ok)
  (hf : (s.chan c).flights = [])
include hst hf

/-- NOTIFY with ACTION 1 writes its word in the Pantry (R127). -/
theorem issueNotify_word {p : Nat} (ha : (fld w 40 8).toNat = 1) (hp : spaceOf (fld w 64 64) = some .pantry)
    (ht : translate s (s.chan c).room.toNat false (offOf (fld w 64 64)) = some p)
    (ho : allOn s (issueDomains c s (spanDomains s (s.chan c).room.toNat (fld w 64 64) 8))) (hu : s.pantryUe = []) :
    let t := issueNotify c w s
    t.pantry = mwrite s.pantry p (leB 8 (fld w 128 64 : Word)) ∧ t.cellar = s.cellar ∧ t.larder = s.larder
      ∧ t.host = s.host := by
  obtain ⟨aligned, span⟩ := notifyStatus_pantry hst ha hp
  have small : offOf (fld w 64 64 : Word) < 2 ^ 60 := by
    rw [offOf_eq]
    exact Nat.mod_lt _ (by norm_num)
  have eight : (leB 8 (fld w 128 64 : Word)).length = 8 := leBytes_length ..
  obtain ⟨en, put⟩ := runPut_stores (c := c) (k := (s.chan c).room.toNat) (wc := 0) (el := 0)
    (bytes := leB 8 (fld w 128 64 : Word)) (s := s.setChan c (notifyWork w (s.chan c))) hp small (by omega) (by omega) ht
    (by rw [eight]; exact poolOk_of_status hp span) hu
  intro t
  have ends : t = completeInstr c _ := issueNotify_writes hst hf ha ho put rfl
  have stored (x : State) (hx : x.pantryUe = []) : SameMemory x (completeInstr c (fillTags p en x)) :=
    sameMemory_of_store ((quiet_completeInstr c _).store.trans (quiet_fillTags p en hx).store)
  rw [ends]
  exact stored _ hu

variable (hi : (s.chan c).implicit = none) (hs : (s.chan c).state ≠ .unassigned)
include hi hs

/-- NOTIFY with ACTION 2 sends the vector, or leaves it pending where it is masked (R127, R636). -/
theorem issueNotify_vector (ha : (fld w 40 8).toNat = 2) (ho : allOn s (issueDomains c s [])) :
    let k := (s.chan c).room.toNat
    let v := (fld w 32 8).toNat
    let t := issueNotify c w s
    SameMemory s t ∧ (t.chan c).pc = (s.chan c).pc + 32 ∧ t.msix = (sendMsix k v s).msix
      ∧ t.outputs = (sendMsix k v s).outputs := by
  intro k v t
  have ends : t = completeInstr c ((sendMsix k v s).setChan c (notifyWork w (s.chan c))) :=
    (issueNotify_interrupts hst hf ha ho).trans (congrArg (completeInstr c) (sendMsix_setChan ..))
  have memory : SameMemory s (sendMsix k v s) := sameMemory_of_store (quiet_sendMsix k v s).store
  generalize sendMsix k v s = u at ends memory ⊢
  have works : (u.setChan c (notifyWork w (s.chan c))).chan c = notifyWork w (s.chan c) := setChan_chan_assigned hs
  obtain ⟨a, b, landed⟩ := completeInstr_landed (s := u.setChan c (notifyWork w (s.chan c))) (c := c)
    (by rw [works]; exact hs) (by rw [works]; rfl) (by rw [works]; exact hf) (by rw [works]; exact hi)
  rw [ends, landed]
  refine ⟨(memory.setChan ..).setChan .., ?_, State.setChan_msix .., State.setChan_outputs ..⟩
  rw [setChan_nextInstr_chan, works]
  rfl

end

/-- Settles O15: FENCE and NOTIFY are one update of their channel, with the interrupt or the write that NOTIFY adds. -/
theorem fenceAndNotify : Obligations.FenceAndNotify := by
  unfold Obligations.FenceAndNotify
  constructor
  · intro c w s s1 hi s2 program on
    have issued : exec (.fence c) s = .next (issueFence c w s2) := exec_issue hi rfl
    have set : (s2.setChan c (fenced (s2.chan c))).chan c = fenced (s2.chan c) :=
      setChan_chan_assigned (runState_ne_unassigned _)
    refine ⟨_, issued.trans (congrArg _ (issueFence_goes program on)), onlyChan_setChan .., ?_⟩
    rw [set]
    exact ⟨rfl, rfl, rfl⟩
  · intro c w s s1 hi s2 k passes program
    have issued : exec (.notify c) s = .next (issueNotify c w s2) := exec_issue hi rfl
    have assigned : (s2.chan c).state ≠ .unassigned := by
      rw [show (s2.chan c).state = .running from mayIssue_running hi]
      decide
    refine ⟨fun waits => issued.trans (congrArg _ (issueNotify_waits passes waits)), fun landed irq on => ?_,
      fun p landed put pantry window on whole wf => ?_⟩
    · obtain ⟨memory, pc, msix, outputs⟩ := issueNotify_vector passes landed program assigned irq on
      refine ⟨_, issued, memory, pc, fun clear => ?_, fun masked => ?_⟩
      · rw [msix, outputs, sendMsix_sent clear]
        exact ⟨rfl, rfl⟩
      · rw [msix, outputs]
        exact sendMsix_pending masked
    · obtain ⟨pantry', others⟩ := issueNotify_word passes landed put pantry window on whole
      have eight : (leB 8 (fld w 128 64 : Word)).length = 8 := leBytes_length ..
      refine ⟨_, issued, ?_, fun x out => ?_, others⟩
      · have read := mread_mwrite (m := s2.pantry) p (leB 8 (fld w 128 64 : Word)) ((wf_iff s2).1 wf).pantry
        rw [eight] at read
        rw [pantry']
        exact read
      · rw [pantry']
        exact mget_mwrite_out _ _ (by omega)

end Sys2Proof.Machine
end

section
/-! PROOFS. O16: REDUCE_SEND and REDUCE_STORE at issue (03 R128 to R130, 12 R572, R573). -/
namespace Sys2Proof.Machine

/-- A channel with work in hand, in a state. -/
def atWork (h : Chan) (q : Cur) (st : ChState) : Chan := { h with cur := some q, state := st }

/-- Work in hand is no default record: it is read back, and a later record replaces it. -/
theorem setChan_atWork {s : State} {c : Nat} {h : Chan} {q : Cur} {st : ChState} (hs : st ≠ .unassigned) :
    (s.setChan c (atWork h q st)).chan c = atWork h q st ∧ ∀ r, (s.setChan c (atWork h q st)).setChan c r = s.setChan c r :=
  ⟨setChan_chan_assigned hs, fun _ => setChan_setChan hs⟩

/-- A plan of at least one byte stands in a running channel, which may then be put in another state. -/
theorem startPlan_atWork {c : Nat} {s : State} (hs : (s.chan c).state = .running) (w : BitVec 256) (plan : Plan)
    (item : Item) (total : Nat) (ds : List Nat) :
    let q : Cur := { opcode := fld w 0 8, flags := wFlags w, plan := plan, item := item, total := total
                     domains := issueDomains c s ds }
    let t := startPlan c w plan item total false ds s
    ∀ st, t.setChan c { t.chan c with state := st } = s.setChan c (atWork (s.chan c) q st) := by
  intro q t st
  have starts : t = s.setChan c (atWork (s.chan c) q .running) := by
    have same : atWork (s.chan c) q .running = { s.chan c with cur := some q } := by
      rw [← hs]
      rfl
    rw [same]
    show startPlan c w plan item total false ds s = _
    unfold startPlan
    exact if_neg Bool.false_ne_true
  obtain ⟨read, written⟩ := setChan_atWork (s := s) (c := c) (h := s.chan c) (q := q) (st := .running) (by decide)
  rw [starts, written, read]
  rfl

/-! ### REDUCE_SEND (R128, R129, R572) -/

/-- The work of a REDUCE_SEND. -/
def sendWork (w : BitVec 256) (src : Word) (ds : List Nat) : Cur where
  opcode := fld w 0 8
  flags := wFlags w
  plan := .reduceSend src (fld w 32 32 : Half).toNat (fld w 136 4) (fld w 140 2) (fld w 128 8 : Byte).toNat
    (fld w 144 16 : BitVec 16).toNat (fld w 160 10 : BitVec 10).toNat
  total := (fld w 32 32 : Half).toNat * (fmtWidth (fld w 136 4) / 8)
  domains := ds

/-- The wait of a REDUCE_SEND for its grant. -/
def grantWaiter (c g chunk : Nat) (i : Instance) (s : State) : Waiter :=
  { unit := .chan (Fin.ofNat 128 c), obj := .grant g chunk, timeoutUs := i.timeoutUs
    deadline := some (waitDeadline s i.timeoutUs) }

/-- A REDUCE_SEND has started, and its channel waits for the grant (R572). -/
def sendWaits (c : Nat) (w : BitVec 256) (q : Cur) (i : Instance) (s : State) : State :=
  addWaiter (grantWaiter c (fld w 128 8 : Byte).toNat (fld w 144 16 : BitVec 16).toNat i s)
    (s.setChan c (atWork (s.chan c) q .waiting))

/-- The reservation of a REDUCE_SEND at its own node (R572). -/
def sendReservation (c : Nat) (w : BitVec 256) (s : State) : Reservation :=
  { node := (fld w 160 10 : BitVec 10).toNat, room := (s.chan c).room.toNat, req := BitVec.ofNat 32 c, chan := some c
    chunk := (fld w 144 16 : BitVec 16).toNat, elements := (fld w 32 32 : Half).toNat, format := fld w 136 4, op := fld w 140 2 }

/-- The RDX_REQ of a REDUCE_SEND to another node (R572). -/
def sendRequest (c : Nat) (w : BitVec 256) (s : State) : Msg :=
  { mtype := 0x40, dst := BitVec.ofNat 16 (fld w 160 10 : BitVec 10).toNat, room := BitVec.ofNat 8 (s.chan c).room.toNat
    req := BitVec.ofNat 32 c
    arg0 := rdxArg (fld w 128 8 : Byte).toNat (fld w 136 4) (fld w 140 2) (fld w 144 16 : BitVec 16).toNat
      (fld w 32 32 : Half).toNat }

/-- What a REDUCE_SEND touches besides its Mover and its fetch (R469). -/
def sendDomains (c : Nat) (w : BitVec 256) (src : Word) (s : State) : List Nat :=
  pdLarder :: spanDomains s (s.chan c).room.toNat src
      ((fld w 32 32 : Half).toNat * (fmtWidth (fld w 136 4) / 8))
    ++ (if (fld w 160 10 : BitVec 10).toNat = ownNode s then []
      else spanDomains s (s.chan c).room.toNat (BitVec.ofNat 64 (3 * 2 ^ 60 + (fld w 160 10 : BitVec 10).toNat * 2 ^ 50)) 1)

/-- The operands of a REDUCE_SEND pass their checks, for what is open on its group (R128, R129, R570). -/
structure SendPasses (c : Nat) (w : BitVec 256) (src : Word) (x : Group) (i : Instance) (s : State) : Prop where
  running : (s.chan c).state = .running
  source : withOff (flOffSrc (wFlags w)) (fld w 64 64) (s.chan c).srcOff = some src
  reducible : fmtReducible (fld w 136 4) = true
  reduction : (fld w 140 2 : BitVec 2) ≠ 3
  elements : elementsOk (fld w 32 32 : Half).toNat = true
  space : spaceOf src = some .pantry
  open_ : instanceFor s (s.chan c).room.toNat (fld w 128 8 : Byte).toNat (fld w 136 4) (fld w 144 16 : BitVec 16).toNat = some (x, i)
  same : i.op = fld w 140 2
  credit : accBytes (fld w 32 32 : Half).toNat ≤ x.kib * 1024
  span : spanStatus s (s.chan c).room.toNat src
    ((fld w 32 32 : Half).toNat * (fmtWidth (fld w 136 4) / 8)) = St.ok
  on : allOn s (issueDomains c s (sendDomains c w src s))

section
variable {c : Nat} {w : BitVec 256} {src : Word} {x : Group} {i : Instance} {s : State}

theorem issueReduceSend_waits (h : SendPasses c w src x i s)
    (reach : (fld w 160 10 : BitVec 10).toNat ≠ ownNode s →
      isMember s (fld w 160 10 : BitVec 10).toNat = true ∧ (egress s (fld w 160 10 : BitVec 10).toNat).isSome) :
    let u := sendWaits c w (sendWork w src (issueDomains c s (sendDomains c w src s))) i s
    issueReduceSend c w s = if (fld w 160 10 : BitVec 10).toNat = ownNode s
      then reserve (fld w 128 8 : Byte).toNat (sendReservation c w s) u else sendMsg (sendRequest c w s) u := by
  obtain ⟨running, source, reducible, reduction, elements, space, opened, same, credit, span, on⟩ := h
  intro u
  unfold issueReduceSend
  extract_lets h k n g fmt op chunk node len
  have known : ¬ (decide (node ≠ ownNode s) && (!isMember s node || (egress s node).isNone)) = true := by
    by_cases own : node = ownNode s
    · simp [own]
    · obtain ⟨member, port⟩ : isMember s node = true ∧ (egress s node).isSome := reach own
      simp [member, Option.isNone_eq_false_iff.2 port]
  have formed (a : Word) (ha : spaceOf a = some .pantry) :
      ¬ (!fmtReducible fmt || decide (op = 3) || !elementsOk n || decide (spaceOf a ≠ some .pantry)) = true := by
    have other : decide (op = 3) = false := decide_eq_false reduction
    rw [show fmtReducible fmt = true from reducible, other, show elementsOk n = true from elements]
    simp [ha]
  split
  · rename_i missing
    exact absurd (missing.symm.trans source) (by simp)
  · rename_i src' found
    obtain rfl : src' = src := Option.some.inj (found.symm.trans source)
    rw [if_neg known, if_neg (formed _ space)]
    split
    · rename_i missing
      exact absurd (missing.symm.trans opened) (by simp)
    · rename_i x' i' found
      obtain ⟨rfl, rfl⟩ : x' = x ∧ i' = i := by simpa using found.symm.trans opened
      extract_lets st ds
      have ok : st = St.ok := (if_neg (not_not_intro same)).trans ((if_neg (not_lt.2 credit)).trans span)
      rw [if_neg (not_not_intro ok), withDomains_on (ds := ds) _ on]
      extract_lets u1 h1 u2 u3
      have starts : u2 = s.setChan c (atWork (s.chan c) (sendWork w src' (issueDomains c s (sendDomains c w src' s)))
          .waiting) := startPlan_atWork running w _ _ _ ds .waiting
      have waits : u3 = u := congrArg (fun t => addWaiter (grantWaiter c g chunk i' t) t) starts
      rw [waits]
      rfl

/-- A reservation that nothing waits before is granted at once where its chunk has its accumulator (R572). -/
theorem reserve_granted {u : State} {g : Nat} {r : Reservation} {ch : RChunk} (hg : groupOf u g = some x)
    (hi : x.inst = some i) (hr : x.resv = []) (hc : inRange i r.chunk = true) (ha : chunkOf i r.chunk = some ch)
    (he : ch.elements = r.elements) : reserve g r u = answerGrant g r St.ok u := by
  have next : nextResv (setGroup g { x with resv := x.resv ++ [r] } u) g r.chunk = some r := by
    simp [nextResv, groupOf_setGroup, hi, hr, hc, ha]
  have granted : tryGrant g r u = some (answerGrant g r St.ok u) := by
    simp [tryGrant, hg, hi, hc, ha, he]
  unfold reserve
  simp only [hg, next, granted, if_true]

/-- The grant of the only waiter ends its wait, and its channel runs on. -/
theorem answerGrant_ok {u : State} {g : Nat} {r : Reservation} (hr : r.chan = some c)
    (hw : u.waiters = [grantWaiter c g r.chunk i s]) :
    answerGrant g r St.ok u =
      { u.setChan c { u.chan c with state := runState (u.chan c) } with waiters := [] } := by
  have drop : (dropWaiter (grantWaiter c g r.chunk i s) u).waiters = [] := by simp [dropWaiter, hw]
  unfold answerGrant
  simp only [hr, hw, List.find?_cons, grantWaiter, beq_self_eq_true, Bool.and_self, if_true]
  exact congrArg (fun l : List Waiter => { u.setChan c { u.chan c with state := runState (u.chan c) } with waiters := l }) drop

theorem instanceFor_some {k g : Nat} {f : BitVec 4} {n : Nat} (h : instanceFor s k g f n = some (x, i)) :
    groupOf s g = some x ∧ x.inst = some i ∧ inRange i n = true := by
  unfold instanceFor at h
  split at h
  · rename_i y group
    split at h
    · rename_i j inst
      split at h
      · rename_i fits
        obtain ⟨rfl, rfl⟩ : y = x ∧ j = i := by simpa using h
        exact ⟨group, inst, by simp_all⟩
      · simp at h
    · simp at h
  · simp at h

/-- REDUCE_SEND at its own node, where the chunk has its accumulator: the channel has its work and runs on. -/
theorem issueReduceSend_own {ch : RChunk} (h : SendPasses c w src x i s) (own : (fld w 160 10 : BitVec 10).toNat = ownNode s)
    (hr : x.resv = []) (ha : chunkOf i (fld w 144 16 : BitVec 16).toNat = some ch)
    (he : ch.elements = (fld w 32 32 : Half).toNat) (hw : s.waiters = []) :
    issueReduceSend c w s = { s.setChan c (atWork (s.chan c)
      (sendWork w src (issueDomains c s (sendDomains c w src s))) .running) with waiters := [] } := by
  obtain ⟨group, inst, range⟩ := instanceFor_some h.open_
  obtain ⟨read, written⟩ := setChan_atWork (s := s) (c := c) (h := s.chan c)
    (q := sendWork w src (issueDomains c s (sendDomains c w src s))) (st := .waiting) (by decide)
  have alone : (sendWaits c w (sendWork w src (issueDomains c s (sendDomains c w src s))) i s).waiters
      = [grantWaiter c (fld w 128 8 : Byte).toNat (sendReservation c w s).chunk i
          (s.setChan c (atWork (s.chan c) (sendWork w src (issueDomains c s (sendDomains c w src s))) .waiting))] :=
    congrArg (· ++ _) hw
  refine (issueReduceSend_waits h fun other => absurd own other).trans ?_
  rw [if_pos own, reserve_granted (show groupOf (sendWaits ..) _ = some x from group) inst hr range ha he,
    answerGrant_ok rfl alone]
  unfold sendWaits
  change { (s.setChan c (atWork _ _ .waiting)).setChan c { (s.setChan c (atWork _ _ .waiting)).chan c with
    state := runState ((s.setChan c (atWork _ _ .waiting)).chan c) } with waiters := [] } = _
  rw [read, written]
  rfl

/-- REDUCE_SEND to another node sends its request and waits. -/
theorem issueReduceSend_far {p : Nat} (h : SendPasses c w src x i s) (far : (fld w 160 10 : BitVec 10).toNat ≠ ownNode s)
    (hm : isMember s (fld w 160 10 : BitVec 10).toNat = true) (he : egress s (fld w 160 10 : BitVec 10).toNat = some p) :
    issueReduceSend c w s = enqueue p (.msg ({ sendRequest c w s with src := BitVec.ofNat 16 (ownNode s) }).pack)
      (sendWaits c w (sendWork w src (issueDomains c s (sendDomains c w src s))) i s) := by
  refine (issueReduceSend_waits h fun _ => ⟨hm, by rw [he]; rfl⟩).trans ?_
  have node : (sendRequest c w s).dst.toNat = (fld w 160 10 : BitVec 10).toNat := by
    have small := (fld w 160 10 : BitVec 10).isLt
    exact Nat.mod_eq_of_lt (by omega)
  rw [if_neg far]
  unfold sendMsg
  rw [node, show egress (sendWaits ..) _ = some p from he]
  rfl

/-- What stands when a REDUCE_SEND has its grant at once. -/
theorem granted_spec (q : Cur) : let t : State := { s.setChan c (atWork (s.chan c) q .running) with waiters := [] }
    t.chan c = atWork (s.chan c) q .running ∧ (∀ d, d ≠ c → t.chan d = s.chan d) ∧ SameMemory s t := by
  intro t
  have same (d : Nat) : t.chan d = (s.setChan c (atWork (s.chan c) q .running)).chan d := chan_congr rfl d
  refine ⟨(same c).trans (setChan_atWork (by decide)).1, fun d hd => (same d).trans (State.setChan_chan_ne s _ hd), ?_⟩
  exact ⟨rfl, rfl, rfl, rfl⟩

theorem enqueue_frame (p : Nat) (m : TxItem) (s : State) :
    (enqueue p m s).chans = s.chans ∧ (enqueue p m s).waiters = s.waiters ∧ SameMemory s (enqueue p m s) :=
  ⟨rfl, rfl, rfl, rfl, rfl, rfl⟩

theorem enqueue_queue (p : Nat) (m : TxItem) (s : State) : ((enqueue p m s).port p).queue = (s.port p).queue ++ [m] := by
  unfold enqueue
  rw [State.setPort_port_of_ne]
  exact fun e => by simpa using congrArg Port.queue e

/-- What stands when a REDUCE_SEND waits for another node's grant. -/
theorem requested_spec (q : Cur) (p : Nat) (m : TxItem) : let t := enqueue p m (sendWaits c w q i s)
    t.chan c = atWork (s.chan c) q .waiting ∧ t.waiters.length = s.waiters.length + 1
      ∧ (t.port p).queue = (s.port p).queue ++ [m] ∧ SameMemory s t := by
  intro t
  obtain ⟨chans, waiters, pantry, cellar, larder, host⟩ := enqueue_frame p m (sendWaits c w q i s)
  have sent : (s.setChan c (atWork (s.chan c) q .waiting)).chan c = atWork (s.chan c) q .waiting :=
    (setChan_atWork (by decide)).1
  refine ⟨(chan_congr chans c).trans sent, (congrArg List.length waiters).trans (List.length_append ..),
    enqueue_queue .., pantry, cellar, larder, host⟩

end

/-! ### REDUCE_STORE (R130, R573) -/

/-- The item of a REDUCE_STORE: the region of its tile plan, if it has one. -/
def storeItem : Option TilePlan → Item
  | some t => .block t false false
  | none => .none

/-- The bytes that a REDUCE_STORE writes. -/
def storeTotal (w : BitVec 256) : Option TilePlan → Nat
  | some t => writeTotal (t, false, false)
  | none => rdxLen (fld w 32 32 : Half).toNat (fld w 136 4)

/-- A tile plan's transform seeds the channel's LFSR (R185). -/
def storeSeed (c : Nat) (t : Option TilePlan) (s : State) : State :=
  match t with
  | some t => tileSeed c t s
  | none => s

/-- Domains under the destination of a REDUCE_STORE (R469). -/
def targetDomains (k : Nat) (w : BitVec 256) (dst : Word) (t : Option TilePlan) (s : State) : List Nat :=
  match t with
  | some t => endDomains s k t.wr.base (writeSide (t, false, false))
  | none => spanDomains s k dst (rdxLen (fld w 32 32 : Half).toNat (fld w 136 4))

/-- The work of a REDUCE_STORE: to plain bytes at dst, or over the region of a tile plan. -/
def storeWork (w : BitVec 256) (dst : Word) (t : Option TilePlan) (ds : List Nat) : Cur where
  opcode := fld w 0 8
  flags := wFlags w
  plan := .reduceStore dst (fld w 32 32 : Half).toNat (fld w 136 4) (fld w 128 8 : Byte).toNat
    (fld w 144 16 : BitVec 16).toNat (fld w 192 64) t
  item := storeItem t
  total := storeTotal w t
  domains := ds

/-- The wait of a REDUCE_STORE for its chunk. -/
def chunkWaiter (c : Nat) (w : BitVec 256) (s : State) : Waiter :=
  { unit := .chan (Fin.ofNat 128 c), obj := .chunk (fld w 128 8 : Byte).toNat (fld w 144 16 : BitVec 16).toNat
    value := BitVec.ofNat 64 (fld w 32 32 : Half).toNat, timeoutUs := fld w 160 32
    deadline := some (waitDeadline s (fld w 160 32)) }

/-- A REDUCE_STORE has started: it runs where its chunk is complete, and waits for it otherwise (R573). -/
def storeBegins (c : Nat) (w : BitVec 256) (q : Cur) (s : State) : State :=
  if chunkReady s (fld w 128 8 : Byte).toNat (fld w 144 16 : BitVec 16).toNat then
    s.setChan c (atWork (s.chan c) q .running)
  else addWaiter (chunkWaiter c w s) (s.setChan c (atWork (s.chan c) q .waiting))

/-- A REDUCE_STORE goes on with its destination once it has passed its checks. -/
def storeTarget (c : Nat) (w : BitVec 256) (k : Nat) (dst : Word) (t : Option TilePlan) (s : State) : State :=
  let n := (fld w 32 32 : Half).toNat
  let g := (fld w 128 8 : Byte).toNat
  let fmt : BitVec 4 := fld w 136 4
  let chunk := (fld w 144 16 : BitVec 16).toNat
  let ds := pdLarder :: targetDomains k w dst t s
  withDomains c ds (fun s =>
    let s := startPlan c w (.reduceStore dst n fmt g chunk (fld w 192 64) t) (storeItem t) (storeTotal w t) false ds
      (storeSeed c t s)
    let ready := chunkReady s g chunk
    let s := s.setChan c { s.chan c with state := if ready then .running else .waiting }
    if ready then s else addWaiter (chunkWaiter c w s) s) s

section
variable {c : Nat} {w : BitVec 256} {x : Group} {i : Instance} {s : State}

theorem issueReduceStore_target (hf : fmtReducible (fld w 136 4) = true)
    (he : elementsOk (fld w 32 32 : Half).toNat = true)
    (hi : instanceFor s (s.chan c).room.toNat (fld w 128 8 : Byte).toNat (fld w 136 4) (fld w 144 16 : BitVec 16).toNat = some (x, i))
    (hm : ∀ ch, chunkOf i (fld w 144 16 : BitVec 16).toNat = some ch → ch.elements = (fld w 32 32 : Half).toNat)
    (hd : (fld w 192 64 : Word) = 0) : issueReduceStore c w s =
      withTarget c (s.chan c).room.toNat w (fld w 32 32 : Half).toNat (storeTarget c w (s.chan c).room.toNat) s := by
  unfold issueReduceStore
  extract_lets k n g fmt chunk us done doneSt
  rw [if_neg (by simp [show fmtReducible fmt = true from hf, show elementsOk n = true from he])]
  split
  · rename_i missing
    exact absurd (missing.symm.trans hi) (by simp)
  · rename_i x' i' found
    obtain ⟨rfl, rfl⟩ : x' = x ∧ i' = i := by simpa using found.symm.trans hi
    extract_lets mismatch
    have fits : mismatch = false := by
      cases ready : chunkOf i' chunk with
      | none => simp [mismatch, ready]
      | some ch =>
        have same : ch.elements = n := hm ch ready
        simp [mismatch, ready, same]
    have none : doneSt = St.ok := if_pos hd
    rw [fits, if_neg Bool.false_ne_true, if_neg (not_not_intro none)]
    rfl

theorem chunkReady_congr {u : State} (h : u.groups = s.groups) (g n : Nat) : chunkReady u g n = chunkReady s g n := by
  unfold chunkReady
  rw [instOf_congr h]

/-- Where every domain that it touches is ON, the REDUCE_STORE starts, with the LFSR that its tile's transform seeds. -/
theorem storeTarget_begins {dst : Word} {t : Option TilePlan} (hs : (s.chan c).state = .running) {k : Nat}
    (ho : allOn s (issueDomains c s (pdLarder :: targetDomains k w dst t s))) :
    storeTarget c w k dst t s = storeBegins c w
      (storeWork w dst t (issueDomains c (storeSeed c t s) (pdLarder :: targetDomains k w dst t s))) (storeSeed c t s) := by
  have running : ((storeSeed c t s).chan c).state = .running := by
    cases t with
    | none => exact hs
    | some t => exact (congrArg Chan.state (tileSeed_chan hs t)).trans hs
  unfold storeTarget
  extract_lets n g fmt chunk ds
  rw [withDomains_on (ds := ds) _ ho]
  generalize storeSeed c t s = u at running ⊢
  extract_lets t1 ready h1 t2
  have groups : t1.groups = u.groups := by
    simp only [t1, startPlan, Bool.false_eq_true, if_false, State.setChan_groups]
  have same : ready = chunkReady u g chunk := chunkReady_congr groups g chunk
  have begun : t2 = u.setChan c (atWork (u.chan c) (storeWork w dst t (issueDomains c u ds))
      (if ready then .running else .waiting)) := startPlan_atWork running w _ _ _ ds _
  rw [begun]
  unfold storeBegins
  rw [same]
  by_cases complete : chunkReady u g chunk = true
  · rw [if_pos complete, if_pos complete, if_pos complete]
  · rw [if_neg complete, if_neg complete, if_neg complete]
    rfl

theorem withTarget_plain {k n : Nat} {dst : Word} (cont : Word → Option TilePlan → State → State)
    (hp : w.getLsbD 140 = false) (ho : withOff (flOffDst (wFlags w)) (fld w 64 64) (s.chan c).dstOff = some dst)
    (hs : spaceOf dst = some .pantry) (hb : spanStatus s k dst (rdxLen n (fld w 136 4)) = St.ok) :
    withTarget c k w n cont s = cont dst none s := by
  unfold withTarget
  extract_lets h fmt bad
  rw [hp, if_neg Bool.false_ne_true]
  split
  · rename_i missing
    exact absurd (missing.symm.trans ho) (by simp)
  · rename_i a found
    obtain rfl : a = dst := Option.some.inj (found.symm.trans ho)
    extract_lets st
    have ok : st = St.ok := (if_neg (not_not_intro hs)).trans hb
    exact if_neg (not_not_intro ok)

theorem withTarget_tile {n : Nat} {t : State} {p : TilePlan} (cont : Word → Option TilePlan → State → State)
    (hp : w.getLsbD 140 = true)
    (ht : TileRead c (fld w 64 64) none (if flOffDst (wFlags w) then some (s.chan c).dstOff else none)
      (some (accLayout (fld w 136 4) n)) s t p)
    (hf : p.wr.format = fld w 136 4) (hc : p.wr.comp = 0) (hs : spaceOf p.wr.base = some .pantry) (hk : tileOk p = true)
    (hz : belowZero (p, false, false) = false)
    (he : endStatus t (s.chan c).room.toNat p.wr.base (writeSide (p, false, false)) = St.ok) :
    withTarget c (s.chan c).room.toNat w n cont s = cont p.wr.base (some p) t := by
  unfold withTarget
  extract_lets h fmt bad
  rw [hp, if_pos rfl, withTile_reads ht]
  have formed : ¬ (decide (p.wr.format ≠ fmt) || decide (p.wr.comp ≠ 0) || decide (spaceOf p.wr.base ≠ some .pantry)
      || !tileOk p) = true := by
    have format : p.wr.format = fmt := hf
    simp [format, hc, hs, hk]
  rw [if_neg formed]
  extract_lets b st
  have ok : st = St.ok := (if_neg (ne_true_of_eq_false hz)).trans he
  exact if_neg (not_not_intro ok)

/-- What stands when a REDUCE_STORE has started. -/
theorem storeBegins_spec (q : Cur) : let t := storeBegins c w q s
    let ready := chunkReady s (fld w 128 8 : Byte).toNat (fld w 144 16 : BitVec 16).toNat
    SameMemory s t ∧ (t.chan c).cur = some q ∧ (t.chan c).state = (if ready then .running else .waiting)
      ∧ t.waiters.length = s.waiters.length + (if ready then 0 else 1) := by
  unfold storeBegins
  dsimp only
  by_cases ready : chunkReady s (fld w 128 8 : Byte).toNat (fld w 144 16 : BitVec 16).toNat = true
  · have read := (setChan_atWork (s := s) (c := c) (h := s.chan c) (q := q) (st := .running) (by decide)).1
    rw [if_pos ready, if_pos ready, if_pos ready]
    exact ⟨⟨rfl, rfl, rfl, rfl⟩, congrArg Chan.cur read, congrArg Chan.state read, rfl⟩
  · have read := (setChan_atWork (s := s) (c := c) (h := s.chan c) (q := q) (st := .waiting) (by decide)).1
    rw [if_neg ready, if_neg ready, if_neg ready]
    exact ⟨⟨rfl, rfl, rfl, rfl⟩, congrArg Chan.cur read, congrArg Chan.state read, List.length_append ..⟩

theorem storeSeed_frame (c : Nat) (t : Option TilePlan) (s : State) : SameMemory s (storeSeed c t s)
    ∧ (storeSeed c t s).waiters = s.waiters ∧ (storeSeed c t s).groups = s.groups := by
  cases t with
  | none => exact ⟨⟨rfl, rfl, rfl, rfl⟩, rfl, rfl⟩
  | some t =>
    unfold storeSeed tileSeed
    dsimp only
    split <;> exact ⟨⟨rfl, rfl, rfl, rfl⟩, rfl, rfl⟩

/-- A REDUCE_STORE that has passed its checks, with every domain ON, has its work and runs or waits. -/
theorem storeTarget_spec {dst : Word} {p : Option TilePlan} (hs : (s.chan c).state = .running) {k : Nat}
    (ho : allOn s (issueDomains c s (pdLarder :: targetDomains k w dst p s))) (hd : (fld w 192 64 : Word) = 0) :
    let t := storeTarget c w k dst p s
    let g := (fld w 128 8 : Byte).toNat
    let chunk := (fld w 144 16 : BitVec 16).toNat
    SameMemory s t
      ∧ (t.chan c).cur.map (fun q => (q.plan, q.item, q.total)) = some
          (.reduceStore dst (fld w 32 32 : Half).toNat (fld w 136 4) g chunk 0 p, storeItem p, storeTotal w p)
      ∧ (t.chan c).state = (if chunkReady s g chunk then .running else .waiting)
      ∧ t.waiters.length = s.waiters.length + (if chunkReady s g chunk then 0 else 1) := by
  intro t g chunk
  obtain ⟨⟨pantry, cellar, larder, host⟩, waiters, groups⟩ := storeSeed_frame c p s
  have begins : t = storeBegins c w _ _ := storeTarget_begins hs ho
  obtain ⟨⟨pantry', cellar', larder', host'⟩, cur, state, count⟩ := storeBegins_spec (c := c) (w := w) (s := storeSeed c p s)
    (storeWork w dst p (issueDomains c (storeSeed c p s) (pdLarder :: targetDomains k w dst p s)))
  rw [← begins] at *
  rw [chunkReady_congr groups] at state count
  rw [waiters] at count
  refine ⟨⟨pantry'.trans pantry, cellar'.trans cellar, larder'.trans larder, host'.trans host⟩, ?_, state, count⟩
  rw [cur, ← hd]
  rfl

end

/-- Settles O16: the checks pass, and the work stands in the channel with the grant or the wait that the Reducer gives. -/
theorem reductionsWaitForTheReducer : Obligations.ReductionsWaitForTheReducer := by
  unfold Obligations.ReductionsWaitForTheReducer
  constructor
  · intro c w s s1 src x i hi s2 k n g fmt op chunk node len plan far source reducible reduction elements space opened same
      credit span on
    have issued : exec (.reduceSend c) s = .next (issueReduceSend c w s2) := exec_issue hi rfl
    have passes : SendPasses c w src x i s2 :=
      ⟨mayIssue_running hi, source, reducible, reduction, elements, space, opened, same, credit, span, on⟩
    refine ⟨fun ch own free has fits alone => ?_, fun p other member port => ?_⟩
    · obtain ⟨read, others, memory⟩ := granted_spec (c := c) (s := s2) (sendWork w src (issueDomains c s2 (sendDomains c w src s2)))
      exact ⟨_, issued.trans (congrArg _ (issueReduceSend_own passes own free has fits alone)), congrArg Chan.state read, rfl,
        congrArg (fun h : Chan => h.cur.map (·.plan)) read, others, memory⟩
    · obtain ⟨read, waiters, queue, memory⟩ := requested_spec (c := c) (w := w) (i := i) (s := s2)
        (sendWork w src (issueDomains c s2 (sendDomains c w src s2))) p
        (.msg ({ sendRequest c w s2 with src := BitVec.ofNat 16 (ownNode s2) }).pack)
      exact ⟨_, issued.trans (congrArg _ (issueReduceSend_far passes other member port)), congrArg Chan.state read,
        congrArg (fun h : Chan => h.cur.map (·.plan)) read, waiters, queue, memory⟩
  · intro c w s s1 x i hi s2 h k n g fmt chunk off starts reducible elements opened fits done
    have issued : exec (.reduceStore c) s = .next (issueReduceStore c w s2) := exec_issue hi rfl
    have target := issueReduceStore_target reducible elements opened fits done
    constructor
    · intro dst plain offset space span on
      have stored : issueReduceStore c w s2 = storeTarget c w k dst none s2 :=
        target.trans (withTarget_plain _ plain offset space span)
      exact ⟨_, issued.trans (congrArg _ stored), storeTarget_spec (mayIssue_running hi) on done⟩
    · intro s3 p tiled read b format comp space ok inside span on
      have stored : issueReduceStore c w s2 = storeTarget c w k p.wr.base (some p) s3 :=
        target.trans (withTarget_tile _ tiled read format comp space ok inside span)
      exact ⟨_, issued.trans (congrArg _ stored), storeTarget_spec (tileRead_running hi read) on done⟩

end Sys2Proof.Machine
end

section
/-! PROOFS. O46: a completion that fails, where the table of channels is not canonical (03 R142, R143). -/
namespace Sys2Proof.Machine

/-- A read burst of channel 0 from Host address 0. -/
def pendingRead : HostRead := { room := 0, chan := 0, addr := 0, len := 1, pc := 0 }

/-- The instruction that waits for the read. -/
def readingWork : Cur := { opcode := 0, flags := 0, plan := .nothing }

/-- Channel 0 is listed twice, with a record that holds nothing but its work before one that has counted 5 bad
instructions. -/
def listedTwice : State :=
  { chans := [(0, { cur := some readingWork }), (0, { badCount := 5 })], hostReads := [pendingRead] }

/-- The work taken out, the first record is a default record and leaves the table, so that the second is counted on. -/
theorem listedTwice_fails : ∃ t, exec (.pcieCompletion 0 0 [0] false) listedTwice = .next t ∧ (t.chan 0).badCount = 6 :=
  ⟨failWork 0 St.busError { listedTwice with hostReads := [] }, rfl, by decide⟩

/-- Refutes O46: its clause of a failed completion takes every state, and where a channel is listed twice CH_BAD_COUNT goes
from 0 to 6. -/
theorem not_apertureAndCompletions : ¬ Obligations.ApertureAndCompletions := by
  unfold Obligations.ApertureAndCompletions
  rintro ⟨-, -, completions, -⟩
  obtain ⟨-, -, failed⟩ := completions 0 0 [0] pendingRead listedTwice rfl rfl rfl (by simp)
  obtain ⟨t, run, -, -, -, count, -⟩ := failed readingWork rfl rfl rfl
  obtain ⟨u, run', six⟩ := listedTwice_fails
  have same : t = u := Host.Outcome.next.inj (run.symm.trans run')
  subst same
  rw [show pendingRead.chan = 0 from rfl, six] at count
  exact absurd count (by decide)

end Sys2Proof.Machine
end

section
/-! SUPPORT. The dispatch of a queue's head (05 R225, R228, R455, R641). -/
namespace Sys2Proof.Machine

/-- A staging read has gone by: what comes after it draws the next free value (R641). -/
def drawn (s : State) : State := { s with free := s.free + 1 }

/-- A parity error of the staging memory has been counted (R641). -/
def parityCounted (s : State) : State := { drawn s with err := { s.err with parity := satInc s.err.parity } }

/-- Room k's energy balance becomes b (R455). -/
def balanced (k : Nat) (b : Int) (s : State) : State := s.setRoom k { s.room k with balance := some b }

section
variable {g : Nat} {e : Cached} {rest : List Cached} {t : Target} {b : Int} {s : State} {ok : BitVec 512 → Bool}
  (h : HeadReady s g e rest t b)
include h

theorem headReady_drawn : HeadReady (drawn s) g e rest t b := h

theorem dispatchReady_dispatches :
    dispatchReady g e s = noteDeferred (s.sq g).room.toNat (dispatchTo g e t (balanced (s.sq g).room.toNat b s)) := by
  obtain ⟨-, -, -, -, -, target, -, held, first, behind, admits⟩ := h
  unfold dispatchReady
  extract_lets k
  rw [show targetOf s k e.word = some t from target]
  dsimp only
  rw [if_neg (not_not_intro held), if_neg (ne_true_of_eq_false first), if_neg (ne_true_of_eq_false behind),
    show admitEntry s k e.word = some b from admits]
  rfl

variable (hok : ok e.word = true)
include hok

theorem dispatchHead_discards (hp : Config.parityFault s.free = true) :
    dispatchHead g ok s = invalidate g (parityCounted s) := by
  obtain ⟨cache, may, -⟩ := h
  unfold dispatchHead
  extract_lets q
  rw [show q.cache = e :: rest from cache]
  dsimp only
  rw [if_neg (by rw [show mayDispatch q = true from may, hok]; decide), if_pos hp]
  rfl

/-- A head that passes every check is admitted and dispatched (R228). -/
theorem dispatchHead_dispatches (hp : Config.parityFault s.free = false) :
    dispatchHead g ok s = noteDeferred (s.sq g).room.toNat
      (dispatchTo g e t (balanced (s.sq g).room.toNat b (drawn s))) := by
  refine .trans ?_ (dispatchReady_dispatches (headReady_drawn h))
  obtain ⟨cache, may, formed, onTime, fence, -⟩ := h
  unfold dispatchHead
  extract_lets q errs u
  have well : entryStatus u q.room.toNat e.word = St.ok := formed
  have early : (weDropLate e.word && entryLate u e) = false := onTime
  have met : fenceOk q e = true := fence
  rw [show q.cache = e :: rest from cache]
  dsimp only
  rw [if_neg (by rw [show mayDispatch q = true from may, hok]; decide), if_neg (ne_true_of_eq_false hp),
    if_neg (not_not_intro well), if_neg (ne_true_of_eq_false early), if_neg (by rw [met]; decide)]
  rfl

end

/-! ### What a dispatch leaves -/

theorem noteDeferred_frame (k : Nat) (s : State) : (noteDeferred k s).chans = s.chans ∧ (noteDeferred k s).sqs = s.sqs
    ∧ (noteDeferred k s).err = s.err ∧ SameMemory s (noteDeferred k s) :=
  ⟨rfl, rfl, rfl, rfl, rfl, rfl, rfl⟩

theorem noteDeferred_balance {k : Nat} {b : Int} {s : State} (h : (s.room k).balance = some b) :
    ((noteDeferred k s).room k).balance = some b := by
  unfold noteDeferred
  rw [State.setRoom_room_of_ne]
  · exact h
  · intro default
    have none := (congrArg Room.balance default).symm.trans h
    simp at none

/-- A queue's record when its cached entries are discarded (R227). -/
def discarded (q : Sq) : Sq :=
  { q with cache := [], fetch := q.cons, dbPending := true, expPhase := q.cons.toNat / q.size % 2 = 0
           waitCause := if q.waitCause = 5 || q.waitCause = 7 then q.waitCause else 0, headStatus := 0 }

theorem invalidate_discards (g : Nat) (s : State) : let t := invalidate g s
    t.sq g = discarded (s.sq g) ∧ t.err = s.err ∧ SameMemory s t := by
  intro t
  let c := s.cq (s.sq g).cq.toNat
  let u := (s.setCq (s.sq g).cq.toNat { c with reserved := c.reserved - (s.sq g).cache.length }).setSq g (discarded (s.sq g))
  have placed : u.sq g = discarded (s.sq g) :=
    State.setSq_sq_of_ne _ g fun default => by simpa [discarded] using congrArg Sq.dbPending default
  obtain ⟨-, sqs, err, memory⟩ := noteDeferred_frame (s.sq g).room.toNat u
  exact ⟨(sq_congr sqs g).trans placed, err, memory⟩

theorem setSq_setSq {s : State} {g : Nat} {q q' : Sq} (hq : q.valid = true) : (s.setSq g q).setSq g q' = s.setSq g q' := by
  have one := tset_tset s.sqs {} q q' g fun default => by simp [default] at hq
  exact congrArg (fun x : Table Sq => { s with sqs := x }) one

theorem setSq_sq_valid {s : State} {g : Nat} {q : Sq} (hq : q.valid = true) : (s.setSq g q).sq g = q :=
  State.setSq_sq_of_ne s g fun default => by simp [default] at hq

/-- A queue's record when its head has left (R225, R248). -/
def headless (q : Sq) : Sq := { q with cons := q.cons + 1, cache := q.cache.drop 1, waitCause := 0, headStatus := 0 }

/-- The record of queue g when its head e stands among the dispatched entries, with the next turn of service (R228, R234). -/
def headDispatched (g : Nat) (e : Cached) (s : State) : Sq :=
  { headless (s.sq g) with
    dispatched := (s.sq g).dispatched ++ [{ count := e.count, tag := weTag e.word, opcode := weOpcode e.word
                                            late := entryLate s e, irq := weIrq e.word }]
    age := 0, agePart := true, overNow := false, turnNo := nextTurn (takeHead g s) (s.sq g).room.toNat }

theorem dispatchTo_chan {g : Nat} (c : Nat) (e : Cached) {s : State} (hv : (s.sq g).valid = true) :
    dispatchTo g e (.chan c) s = startEntry g c e (s.setSq g (headDispatched g e s)) := by
  have valid : (headless (s.sq g)).valid = true := hv
  have taken : takeHead g s = s.setSq g (headless (s.sq g)) := rfl
  have read : (takeHead g s).sq g = headless (s.sq g) := setSq_sq_valid valid
  have written (q : Sq) : (takeHead g s).setSq g q = s.setSq g q := setSq_setSq valid
  unfold dispatchTo
  dsimp only
  rw [written, read]
  rfl

end Sys2Proof.Machine
end

section
/-! PROOFS. O21: RUN_PROGRAM, COPY, TILE and FILL as work entries (05 R101, R102, R202, R203, R228, R641). -/
namespace Sys2Proof.Machine

/-- The state of a channel that starts: a cause of a pause holds it (R158). -/
def startState (h : Chan) : ChState := if pauseCause h then .paused else .running

/-- The entry that a channel serves. -/
def entryRef (g : Nat) (e : Cached) : EntryRef := { sq := g, count := e.count.toNat, barrier := weBarrier e.word }

theorem startState_ne_unassigned (h : Chan) : startState h ≠ .unassigned := by
  unfold startState
  split <;> decide

/-- What a channel holds when it has taken entry e of queue g, at a start address, with its implicit instruction if it has
one; no other channel has changed. -/
structure Started (g c : Nat) (e : Cached) (start : Word) (word : Option (BitVec 256)) (s t : State) : Prop where
  pc : (t.chan c).pc = start
  implicit : (t.chan c).implicit = word
  entry : (t.chan c).entry = some (entryRef g e)
  state : (t.chan c).state = startState (s.chan c)
  base : (t.chan c).progBase = start
  others : ∀ d, d ≠ c → t.chan d = s.chan d
  sqs : t.sqs = s.sqs
  rooms : t.rooms = s.rooms
  memory : SameMemory s t

theorem startProgram_started (g c : Nat) (e : Cached) (pc : Word) (word : Option (BitVec 256)) (s : State) :
    Started g c e pc word s (startProgram c pc word (some (entryRef g e)) s) := by
  have read := startProgram_chan c pc word (some (entryRef g e)) s
  exact ⟨congrArg Chan.pc read, congrArg Chan.implicit read, congrArg Chan.entry read, congrArg Chan.state read,
    congrArg Chan.progBase read, fun d hd => State.setChan_chan_ne s _ hd, rfl, rfl, rfl, rfl, rfl, rfl⟩

/-- A COPY, TILE or FILL runs its implicit instruction where CH_PC stands (R203). -/
theorem startEntry_implicit {g c : Nat} {e : Cached} {s : State} (ho : weOpcode e.word ≠ 0x01) :
    Started g c e (s.chan c).pc (some (implicitWord e.word)) s (startEntry g c e s) := by
  have starts : startEntry g c e s = startProgram c (s.chan c).pc (some (implicitWord e.word)) (some (entryRef g e)) s := by
    unfold startEntry
    exact if_neg ho
  rw [starts]
  exact startProgram_started ..

/-- The trigger and interrupt fields of a RUN_PROGRAM, in the channel's record (R149, R202). -/
def triggersLoaded (e : Cached) (now : Nat) (h : Chan) : Chan :=
  { loadTrigger (b64 e.word 32) now h with irqEn := fld e.word 320 4, irqVector := fld e.word 328 8 }

theorem startEntry_program {g c : Nat} {e : Cached} {s : State} (ho : weOpcode e.word = 0x01) : let t := startEntry g c e s
    Started g c e (b64 e.word 24) none s t ∧ (t.chan c).trigSrc = fld (b64 e.word 32) 0 2 ∧ (t.chan c).trigPending = 0
      ∧ (t.chan c).irqEn = fld e.word 320 4 ∧ (t.chan c).irqVector = fld e.word 328 8 := by
  intro t
  have starts : t = (startProgram c (b64 e.word 24) none (some (entryRef g e)) s).setChan c
      (triggersLoaded e s.now ((startProgram c (b64 e.word 24) none (some (entryRef g e)) s).chan c)) := by
    show startEntry g c e s = _
    unfold startEntry
    exact if_pos ho
  have started := startProgram_started g c e (b64 e.word 24) none s
  generalize startProgram c (b64 e.word 24) none (some (entryRef g e)) s = u at starts started
  obtain ⟨pc, implicit, entry, state, base, others, sqs, rooms, memory⟩ := started
  have read : (u.setChan c (triggersLoaded e s.now (u.chan c))).chan c = triggersLoaded e s.now (u.chan c) :=
    setChan_chan_assigned (by
      rw [show (triggersLoaded e s.now (u.chan c)).state = _ from state]
      exact startState_ne_unassigned _)
  rw [← starts] at read
  have loaded {α : Type} (f : Chan → α) : f (t.chan c) = f (triggersLoaded e s.now (u.chan c)) := congrArg f read
  refine ⟨⟨(loaded Chan.pc).trans pc, (loaded Chan.implicit).trans implicit, (loaded Chan.entry).trans entry,
    (loaded Chan.state).trans state, (loaded Chan.progBase).trans base, fun d hd => ?_, ?_, ?_, ?_⟩,
    loaded Chan.trigSrc, loaded Chan.trigPending, loaded Chan.irqEn, loaded Chan.irqVector⟩
  · rw [starts, State.setChan_chan_ne u _ hd]
    exact others d hd
  · rw [starts]
    exact sqs
  · rw [starts]
    exact rooms
  · rw [starts]
    exact memory.setChan ..

/-- The state in which the head of queue g is dispatched: its Room's balance is taken, and the entry has left the cache. -/
def headOut (g : Nat) (e : Cached) (b : Int) (s : State) : State :=
  (balanced (s.sq g).room.toNat b (drawn s)).setSq g (headDispatched g e (balanced (s.sq g).room.toNat b (drawn s)))

section
variable {g c : Nat} {e : Cached} {rest : List Cached} {b : Int} {s : State} {ok : BitVec 512 → Bool}
  (h : HeadReady s g e rest (.chan c) b) (hok : ok e.word = true)
include h

theorem headReady_valid : (s.sq g).valid = true := by
  obtain ⟨-, may, -⟩ := h
  simp only [mayDispatch, Bool.and_eq_true] at may
  obtain ⟨⟨⟨valid, -⟩, -⟩, -⟩ := may
  exact valid

include hok

theorem dispatchHead_starts (hp : Config.parityFault s.free = false) : dispatchHead g ok s =
    noteDeferred (s.sq g).room.toNat (startEntry g c e (headOut g e b s)) := by
  have valid := headReady_valid h
  exact (dispatchHead_dispatches h hok hp).trans (congrArg (noteDeferred _) (dispatchTo_chan c e valid))

theorem dispatchHead_cacheDiscarded (hp : Config.parityFault s.free = true) : CacheDiscarded g s (dispatchHead g ok s) := by
  rw [dispatchHead_discards h hok hp]
  obtain ⟨discards, err, memory⟩ := invalidate_discards g (parityCounted s)
  have queue : (invalidate g (parityCounted s)).sq g = discarded (s.sq g) := discards
  exact ⟨(congrArg Sq.cache queue :), (congrArg Sq.fetch queue :), (congrArg Sq.cons queue :),
    (congrArg Sq.dbPending queue :), (congrArg ErrRegs.parity err :), memory⟩

omit hok

/-- The head that an idle channel takes leaves its queue, and its Room pays for it (R225, R228, R455). -/
theorem started_headTaken {pc : Word} {word : Option (BitVec 256)} {u : State} (hs : Started g c e pc word (headOut g e b s) u) :
    let t := noteDeferred (s.sq g).room.toNat u
    HeadTaken g rest b s t ∧ (t.sq g).dispatched.length = (s.sq g).dispatched.length + 1 := by
  intro t
  have valid := headReady_valid h
  obtain ⟨cache, -⟩ := h
  obtain ⟨-, -, -, -, -, -, sqs, rooms, memory⟩ := hs
  obtain ⟨-, sqs', -, memory'⟩ := noteDeferred_frame (s.sq g).room.toNat u
  have read : (headOut g e b s).sq g = headDispatched g e (balanced (s.sq g).room.toNat b (drawn s)) := setSq_sq_valid valid
  have queue : t.sq g = headDispatched g e (balanced (s.sq g).room.toNat b (drawn s)) :=
    (sq_congr (sqs'.trans sqs) g).trans read
  have cons : (t.sq g).cons = (s.sq g).cons + 1 := (congrArg Sq.cons queue :)
  have left : (t.sq g).cache = (s.sq g).cache.drop 1 := (congrArg Sq.cache queue :)
  have dispatched : (t.sq g).dispatched = (s.sq g).dispatched ++ _ := (congrArg Sq.dispatched queue :)
  have paid : (u.room (s.sq g).room.toNat).balance = some b := by
    have same : u.room (s.sq g).room.toNat = (balanced (s.sq g).room.toNat b (drawn s)).room (s.sq g).room.toNat :=
      congrArg (fun x : Table Room => tget x {} (s.sq g).room.toNat) rooms
    rw [same, balanced, State.setRoom_room_of_ne]
    exact fun default => by simpa using congrArg Room.balance default
  have kept : SameMemory s t := by
    obtain ⟨pantry, cellar, larder, host⟩ := memory
    obtain ⟨pantry', cellar', larder', host'⟩ := memory'
    exact ⟨pantry'.trans pantry, cellar'.trans cellar, larder'.trans larder, host'.trans host⟩
  refine ⟨⟨cons, left.trans (by rw [cache]; rfl), noteDeferred_balance paid, kept⟩, ?_⟩
  rw [dispatched, List.length_append]
  rfl

end

/-- Settles O21: the head passes, leaves its queue, and starts its channel. -/
theorem channelEntriesStart : Obligations.ChannelEntriesStart := by
  unfold Obligations.ChannelEntriesStart
  constructor
  · intro g c e rest b s ready opcode i hi
    have run : ∃ ok : BitVec 512 → Bool, ok e.word = true ∧ exec i s = .next (dispatchHead g ok s) := by
      simp only [List.mem_cons, List.not_mem_nil, or_false] at hi
      rcases hi with rfl | rfl
      · exact ⟨isOpcode 0x01, decide_eq_true opcode, rfl⟩
      · exact ⟨fun _ => true, rfl, rfl⟩
    obtain ⟨ok, hok, run⟩ := run
    refine ⟨_, run, dispatchHead_cacheDiscarded ready hok, fun intact => ?_⟩
    obtain ⟨started, src, pending, enabled, vector⟩ := startEntry_program (g := g) (c := c) (s := headOut g e b s) opcode
    obtain ⟨taken, queued⟩ := started_headTaken ready started
    rw [dispatchHead_starts ready hok intact]
    exact ⟨taken, started.pc, started.base, started.implicit, started.entry, src, pending, enabled, vector, started.state,
      queued, started.others⟩
  · intro g c e rest b s ready i o hi opcode
    have run : ∃ ok : BitVec 512 → Bool, ok e.word = true ∧ exec i s = .next (dispatchHead g ok s) := by
      simp only [List.mem_cons, List.not_mem_nil, or_false, Prod.mk.injEq] at hi
      rcases hi with ⟨rfl, rfl⟩ | ⟨rfl, rfl⟩ | ⟨rfl, rfl⟩
      · exact ⟨isOpcode 0x02, decide_eq_true opcode, rfl⟩
      · exact ⟨isOpcode 0x03, decide_eq_true opcode, rfl⟩
      · exact ⟨isOpcode 0x04, decide_eq_true opcode, rfl⟩
    have implicit : weOpcode e.word ≠ 0x01 := by
      simp only [List.mem_cons, List.not_mem_nil, or_false, Prod.mk.injEq] at hi
      rcases hi with ⟨-, rfl⟩ | ⟨-, rfl⟩ | ⟨-, rfl⟩ <;> rw [opcode] <;> decide
    obtain ⟨ok, hok, run⟩ := run
    refine ⟨_, run, dispatchHead_cacheDiscarded ready hok, fun intact => ?_⟩
    have started := startEntry_implicit (g := g) (c := c) (s := headOut g e b s) implicit
    obtain ⟨taken, queued⟩ := started_headTaken ready started
    rw [dispatchHead_starts ready hok intact]
    exact ⟨taken, started.implicit, started.pc, started.entry, started.state, queued, started.others⟩

end Sys2Proof.Machine
end

section
/-! SUPPORT. A head that passes every check, whatever it runs on: it leaves its queue, its Room pays for it, and its target
takes it (05 R225, R228, R455, R641). -/
namespace Sys2Proof.Machine

/-- What the target does with an entry that has left its queue's cache (R228). -/
def onTarget (g : Nat) (e : Cached) (t : Target) (s : State) : State :=
  match t with
  | .chan c => startEntry g c e s
  | .study j => startJob g j e s
  | .group n => openInstance g n e s
  | .quota => completeEntry g e.count St.quota 0 s
  | .engine =>
    match (weOpcode e.word).toNat with
    | 0x18 => signalEntry g e s
    | 0x19 => waitEntry g e s
    | _ => completeEntry g e.count St.ok 0 s

theorem dispatchTo_onTarget {g : Nat} (e : Cached) (t : Target) {s : State} (hv : (s.sq g).valid = true) :
    dispatchTo g e t s = onTarget g e t (s.setSq g (headDispatched g e s)) := by
  have valid : (headless (s.sq g)).valid = true := hv
  have read : (takeHead g s).sq g = headless (s.sq g) := setSq_sq_valid valid
  have written (q : Sq) : (takeHead g s).setSq g q = s.setSq g q := setSq_setSq valid
  unfold dispatchTo
  dsimp only
  rw [written, read]
  cases t <;> rfl

/-- The parts of a state that the target of queue g's head leaves as they are: the queue's CONS and cache, the Rooms and
the memories. -/
structure KeepsHead (g : Nat) (s t : State) : Prop where
  cons : (t.sq g).cons = (s.sq g).cons
  cache : (t.sq g).cache = (s.sq g).cache
  rooms : t.rooms = s.rooms
  memory : SameMemory s t

theorem keepsHead_of_sqs {g : Nat} {s t : State} (sqs : t.sqs = s.sqs) (rooms : t.rooms = s.rooms)
    (memory : SameMemory s t) : KeepsHead g s t :=
  ⟨congrArg Sq.cons (sq_congr sqs g), congrArg Sq.cache (sq_congr sqs g), rooms, memory⟩

theorem keepsHead_setSq {g : Nat} {s t : State} {q : Sq} (hv : q.valid = true) (hn : q.cons = (s.sq g).cons)
    (hc : q.cache = (s.sq g).cache) (rooms : t.rooms = s.rooms) (memory : SameMemory s t) :
    KeepsHead g s (t.setSq g q) := by
  have read : (t.setSq g q).sq g = q := setSq_sq_valid hv
  exact ⟨(congrArg Sq.cons read).trans hn, (congrArg Sq.cache read).trans hc, rooms, memory⟩

theorem sameMemory_refl (s : State) : SameMemory s s := ⟨rfl, rfl, rfl, rfl⟩

section
variable {g : Nat} {e : Cached} {rest : List Cached} {t : Target} {b : Int} {s : State} {ok : BitVec 512 → Bool}
  (h : HeadReady s g e rest t b)
include h

theorem headReady_sq_valid : (s.sq g).valid = true := by
  obtain ⟨-, may, -⟩ := h
  simp only [mayDispatch, Bool.and_eq_true] at may
  obtain ⟨⟨⟨valid, -⟩, -⟩, -⟩ := may
  exact valid

theorem headOut_sq :
    (headOut g e b s).sq g = headDispatched g e (balanced (s.sq g).room.toNat b (drawn s)) :=
  have valid := headReady_sq_valid h
  setSq_sq_valid valid

/-- What its target leaves of a head that has been dispatched: it has left the queue, and its Room has paid (R225, R455). -/
theorem headTaken_of_keepsHead {u : State} (keeps : KeepsHead g (headOut g e b s) u) :
    HeadTaken g rest b s (noteDeferred (s.sq g).room.toNat u) := by
  have out := headOut_sq h
  obtain ⟨cache, -⟩ := h
  obtain ⟨cons, left, rooms, memory⟩ := keeps
  obtain ⟨-, sqs, -, memory'⟩ := noteDeferred_frame (s.sq g).room.toNat u
  have queue : (noteDeferred (s.sq g).room.toNat u).sq g = u.sq g := sq_congr sqs g
  have paid : (u.room (s.sq g).room.toNat).balance = some b := by
    rw [show u.room (s.sq g).room.toNat = (balanced (s.sq g).room.toNat b (drawn s)).room (s.sq g).room.toNat from
      congrArg (fun x : Table Room => tget x {} (s.sq g).room.toNat) rooms, balanced, State.setRoom_room_of_ne]
    exact fun default => by simpa using congrArg Room.balance default
  obtain ⟨pantry, cellar, larder, host⟩ := memory
  obtain ⟨pantry', cellar', larder', host'⟩ := memory'
  refine ⟨?_, ?_, noteDeferred_balance paid,
    pantry'.trans pantry, cellar'.trans cellar, larder'.trans larder, host'.trans host⟩
  · rw [queue, cons, out]
    rfl
  · have gone : (headDispatched g e (balanced (s.sq g).room.toNat b (drawn s))).cache = (s.sq g).cache.drop 1 := rfl
    rw [queue, left, out, gone, cache]
    rfl

variable (hok : ok e.word = true)
include hok

theorem dispatchHead_onTarget (hp : Config.parityFault s.free = false) : dispatchHead g ok s =
    noteDeferred (s.sq g).room.toNat (onTarget g e t (headOut g e b s)) :=
  have valid := headReady_sq_valid h
  (dispatchHead_dispatches h hok hp).trans (congrArg (noteDeferred _) (dispatchTo_onTarget e t valid))

/-- The staging memory's parity error discards the cache (R641). -/
theorem dispatchHead_discardsCache (hp : Config.parityFault s.free = true) :
    CacheDiscarded g s (dispatchHead g ok s) := by
  rw [dispatchHead_discards h hok hp]
  obtain ⟨discards, err, memory⟩ := invalidate_discards g (parityCounted s)
  have queue : (invalidate g (parityCounted s)).sq g = discarded (s.sq g) := discards
  exact ⟨(congrArg Sq.cache queue :), (congrArg Sq.fetch queue :), (congrArg Sq.cons queue :),
    (congrArg Sq.dbPending queue :), (congrArg ErrRegs.parity err :), memory⟩

end

end Sys2Proof.Machine
end

section
/-! PROOFS. O22: TOKENIZE, DETOKENIZE and COLLECTIVE as work entries (05 R204, R228, 12 R568, R569, 13 R588, R597). -/
namespace Sys2Proof.Machine

/-- The job of an entry that the Study takes, with the table set as it stands (R597). -/
def newJob (g : Nat) (e : Cached) (s : State) : Job where
  room := (s.sq g).room.toNat
  sq := g
  count := e.count
  word := e.word
  set := tget s.study.sets {} ((s.sq g).room.toNat * 8 + b8 e.word 16)

theorem startJob_eq (g j : Nat) (e : Cached) (s : State) :
    startJob g j e s = { s with study := { s.study with jobs := tput s.study.jobs j (newJob g e s) } } := rfl

theorem map_some_tput {α : Type} (t : Table α) (k : Nat) (v : α) :
    (tput t k v).map (fun x => (x.1, some x.2)) = tput (t.map fun x => (x.1, some x.2)) k (some v) := by
  induction t with
  | nil => rfl
  | cons p r ih =>
    simp only [tput, List.map_cons]
    split
    · rfl
    · split
      · rfl
      · rw [List.map_cons, ih]

/-- What a COLLECTIVE opens for its group (R568). -/
def newInstance (g : Nat) (e : Cached) : Instance where
  sq := g
  count := e.count
  format := fld e.word 136 4
  op := fld e.word 140 2
  contrib := b8 e.word 18
  first := (b16 e.word 20).toNat
  range := (b32 e.word 24).toNat
  timeoutUs := b32 e.word 28
  sends := b32 e.word 32
  stores := b32 e.word 36

/-- A reduction that still awaits a send or a store stays open (R569). -/
theorem openInstance_opens {g n : Nat} {e : Cached} {s : State} {x : Group} (hx : groupOf s n = some x)
    (awaits : b32 e.word 32 ≠ 0 ∨ b32 e.word 36 ≠ 0) :
    openInstance g n e s = setGroup n { x with inst := some (newInstance g e) } s := by
  have opened : setInst n (some (newInstance g e)) s = setGroup n { x with inst := some (newInstance g e) } s := by
    unfold setInst
    rw [hx]
  have waits : ¬ ((newInstance g e).sends ≤ (newInstance g e).acked && (newInstance g e).stores ≤ (newInstance g e).stored)
      = true := by
    rw [Bool.and_eq_true, decide_eq_true_eq, decide_eq_true_eq]
    rintro ⟨sends, stores⟩
    have sends : b32 e.word 32 ≤ 0 := sends
    have stores : b32 e.word 36 ≤ 0 := stores
    exact awaits.elim (fun h => h (BitVec.le_zero_iff.1 sends)) (fun h => h (BitVec.le_zero_iff.1 stores))
  show checkDone n (setInst n (some (newInstance g e)) s) = _
  rw [opened]
  unfold checkDone
  rw [groupOf_setGroup]
  dsimp only
  rw [if_neg waits]

/-- Settles O22: the head passes, leaves its queue, and is a job of the Study or the open reduction of its group. -/
theorem studyAndCollectiveEntriesStart : Obligations.StudyAndCollectiveEntriesStart := by
  unfold Obligations.StudyAndCollectiveEntriesStart
  constructor
  · intro g j e rest b s ready i o hi opcode
    have run : ∃ ok : BitVec 512 → Bool, ok e.word = true ∧ exec i s = .next (dispatchHead g ok s) := by
      simp only [List.mem_cons, List.not_mem_nil, or_false, Prod.mk.injEq] at hi
      rcases hi with ⟨rfl, rfl⟩ | ⟨rfl, rfl⟩
      · exact ⟨isOpcode 0x08, decide_eq_true opcode, rfl⟩
      · exact ⟨isOpcode 0x09, decide_eq_true opcode, rfl⟩
    obtain ⟨ok, hok, run⟩ := run
    have job : newJob g e (headOut g e b s) = newJob g e s := by
      unfold newJob
      rw [headOut_sq ready]
      rfl
    refine ⟨_, run, dispatchHead_discardsCache ready hok, fun intact => ?_⟩
    rw [dispatchHead_onTarget ready hok intact]
    refine ⟨headTaken_of_keepsHead ready ?_, ?_, rfl, rfl⟩
    · exact keepsHead_of_sqs rfl rfl (sameMemory_refl _)
    · show tget ((tput s.study.jobs j (newJob g e (headOut g e b s))).map fun x => (x.1, some x.2)) none j = _
      rw [map_some_tput, tget_tput_eq, job]
      rfl
  · intro g n e rest b s ready opcode grouped awaits
    obtain ⟨x, hx⟩ := Option.isSome_iff_exists.1 grouped
    have opened : onTarget g e (.group n) (headOut g e b s)
        = setGroup n { x with inst := some (newInstance g e) } (headOut g e b s) := openInstance_opens hx awaits
    have row : exec (.collective g) s = .next (dispatchHead g (isOpcode 0x10) s) := rfl
    have hok : isOpcode 0x10 e.word = true := decide_eq_true opcode
    refine ⟨_, row, dispatchHead_discardsCache ready hok, fun intact => ?_⟩
    rw [dispatchHead_onTarget ready hok intact, opened]
    refine ⟨headTaken_of_keepsHead ready (keepsHead_of_sqs rfl rfl (sameMemory_refl _)), ?_⟩
    show instOf (setGroup n _ (headOut g e b s)) n = _
    unfold instOf
    rw [groupOf_setGroup]
    rfl

end Sys2Proof.Machine
end

section
/-! PROOFS. O23: NOP, SIGNAL and WAIT as work entries (05 R207 to R209, R211, 08 R363). -/
namespace Sys2Proof.Machine

/-- A queue whose only dispatched entry has completed: its report joins the others (R201, R236). -/
def reported (d : Dispatched) (st : Byte) (r : Word) (q : Sq) : Sq :=
  { q with dispatched := []
           reports := q.reports ++ [{ count := d.count, tag := d.tag, status := if st = St.ok && d.late then St.late else st
                                      result := r, irq := d.irq, opcode := d.opcode }] }

/-- A report that no earlier entry holds back joins those that wait to be written (R238). -/
theorem addReport_free {q : Sq} {r : Report} (hf : behindEngine q r = false) (hb : q.behind = []) :
    addReport r q = { q with reports := q.reports ++ [r] } := by
  simp [addReport, hb, putReport, hf]

theorem completeEntry_only {g : Nat} {d : Dispatched} {s : State} (st : Byte) (r : Word)
    (hd : (s.sq g).dispatched = [d]) (hb : (s.sq g).behind = []) :
    completeEntry g d.count st r s = s.setSq g (reported d st r (s.sq g)) := by
  have found : (s.sq g).dispatched.find? (fun x => decide (x.count = d.count)) = some d := by simp [hd]
  have left : (s.sq g).dispatched.filter (fun x => decide (x.count ≠ d.count)) = [] := by simp [hd]
  unfold completeEntry
  simp only [found, left]
  exact congrArg (s.setSq g) (addReport_free (by simp [behindEngine]) hb)

theorem syncTarget_congr {s t : State} {k : Nat} (house : t.house = s.house)
    (flags : (t.room k).flagMap = (s.room k).flagMap) (counters : (t.room k).counterMap = (s.room k).counterMap)
    (a : Word) (c : Bool) : syncTarget t k a c = syncTarget s k a c := by
  unfold syncTarget counterPhys flagPhys isMember ownNode
  rw [house, flags, counters]

/-- The entry among the dispatched ones of its queue (R228). -/
def dispatchedHead (s : State) (e : Cached) : Dispatched where
  count := e.count
  tag := weTag e.word
  opcode := weOpcode e.word
  late := entryLate s e
  irq := weIrq e.word

section
variable {g : Nat} {e : Cached} {rest : List Cached} {b : Int} {s : State} (h : HeadReady s g e rest .engine b)
include h

theorem headOut_dispatched (hd : (s.sq g).dispatched = []) :
    ((headOut g e b s).sq g).dispatched = [dispatchedHead s e] := by
  have before : (headDispatched g e (balanced (s.sq g).room.toNat b (drawn s))).dispatched
      = (s.sq g).dispatched ++ [dispatchedHead s e] := rfl
  rw [headOut_sq h, before, hd]
  rfl

theorem headOut_behind : ((headOut g e b s).sq g).behind = (s.sq g).behind := by
  rw [headOut_sq h]
  rfl

theorem headOut_reports : ((headOut g e b s).sq g).reports = (s.sq g).reports := by
  rw [headOut_sq h]
  rfl

theorem headOut_valid : ((headOut g e b s).sq g).valid = true := by
  have valid := headReady_sq_valid h
  rw [headOut_sq h]
  exact valid

theorem headOut_syncTarget (a : Word) (c : Bool) : syncTarget (headOut g e b s) ((headOut g e b s).sq g).room.toNat a c
    = syncTarget s (s.sq g).room.toNat a c := by
  have room : ((headOut g e b s).sq g).room = (s.sq g).room := by
    rw [headOut_sq h]
    rfl
  have paid : (headOut g e b s).room (s.sq g).room.toNat = { s.room (s.sq g).room.toNat with balance := some b } :=
    State.setRoom_room_of_ne (drawn s) _ fun default => by simpa using congrArg Room.balance default
  rw [room]
  exact syncTarget_congr (s := s) (t := headOut g e b s) rfl (congrArg Room.flagMap paid :)
    (congrArg Room.counterMap paid :) a c

end

/-- A dispatched engine entry completes: its queue holds its report, which says LATE or OK, and nothing dispatched. -/
theorem completeEntry_headOut {g : Nat} {e : Cached} {rest : List Cached} {b : Int} {s u : State} (r : Word)
    (h : HeadReady s g e rest .engine b) (hd : (s.sq g).dispatched = []) (hb : (s.sq g).behind = [])
    (hu : u.sqs = (headOut g e b s).sqs) :
    ∃ q : Sq, completeEntry g e.count St.ok r u = u.setSq g q ∧ q.valid = true
      ∧ q.cons = ((headOut g e b s).sq g).cons ∧ q.cache = ((headOut g e b s).sq g).cache
      ∧ q.reports = (s.sq g).reports ++ [doneReport s e r] ∧ q.dispatched = [] := by
  have queue := sq_congr hu g
  have dispatched : (u.sq g).dispatched = [dispatchedHead s e] := by rw [queue, headOut_dispatched h hd]
  have behind : (u.sq g).behind = [] := by rw [queue, headOut_behind h, hb]
  refine ⟨_, completeEntry_only St.ok r dispatched behind, ?_, ?_, ?_, ?_, rfl⟩
  · exact (congrArg Sq.valid queue :).trans (headOut_valid h)
  · exact (congrArg Sq.cons queue :)
  · exact (congrArg Sq.cache queue :)
  · show (u.sq g).reports ++ _ = _
    rw [queue, headOut_reports h]
    simp [doneReport, dispatchedHead]

/-- A counter's record when queue g's SIGNAL has added its value (R207, R363, R401). -/
def counted (g : Nat) (e : Cached) (p : Nat) (s : State) : Counter :=
  { s.counter p with value := (s.counter p).value + (b32 e.word 24).setWidth 64, last := lastSignal s 2 g (ownNode s) }

/-- A SIGNAL to a local counter, where nothing waits: the counter has the sum, which is the RESULT (R207, R211). -/
theorem signalEntry_counter {g p : Nat} {e : Cached} {s : State} (hc : (b64 e.word 16).getLsbD 12 = true)
    (ht : syncTarget s (s.sq g).room.toNat (b64 e.word 16) true = .ok (.localCounter p)) (hw : s.waiters = []) :
    signalEntry g e s = completeEntry g e.count St.ok (counted g e p s).value (s.setCounter p (counted g e p s)) := by
  have settled : settle (s.setCounter p (counted g e p s)) = s.setCounter p (counted g e p s) :=
    settle_of_noWaitEnds fun w h => by
      have none : w ∈ s.waiters := h
      simp [hw] at none
  rw [← settled]
  unfold signalEntry
  dsimp only
  rw [hc, ht]
  rfl

/-- The waiter of a WAIT entry at a counter (R208). -/
def entryWaiter (g : Fin 1024) (e : Cached) (p : Nat) (s : State) : Waiter where
  unit := .sq g
  obj := .counter p
  addr := b64 e.word 16
  mode := fld e.word 192 8
  value := b64 e.word 32
  target := b64 e.word 32
  expect := b8 e.word 24 % 2 = 1
  timeoutUs := b32 e.word 40
  deadline := some (waitDeadline s (b32 e.word 40))

/-- A WAIT at a local counter that has not reached its target sleeps (R208). -/
theorem waitEntry_sleeps {g : Fin 1024} {p : Nat} {e : Cached} {s : State} (hc : (b64 e.word 16).getLsbD 12 = true)
    (ht : syncTarget s (s.sq g).room.toNat (b64 e.word 16) true = .ok (.localCounter p)) (hw : s.waiters = [])
    (hn : hasReached (s.counter p).value (b64 e.word 32) = false) :
    waitEntry g e s = addWaiter (entryWaiter g e p s) (s.setSq g { s.sq g with waitCause := 5 }) := by
  let u := s.setSq g { s.sq g with waitCause := 5 }
  have settled : settle (addWaiter (entryWaiter g e p s) u) = addWaiter (entryWaiter g e p s) u :=
    settle_of_noWaitEnds fun w h => by
      have only : w ∈ s.waiters ++ [entryWaiter g e p s] := h
      rw [hw, List.nil_append, List.mem_singleton] at only
      subst only
      exact Bool.and_eq_false_iff.2 (.inr hn)
  rw [← settled]
  unfold waitEntry
  dsimp only
  rw [hc, ht, Fin.ofNat_val_eq_self]
  rfl

/-- Settles O23: an engine entry leaves its queue, and completes or waits. -/
theorem engineEntriesRun : Obligations.EngineEntriesRun := by
  unfold Obligations.EngineEntriesRun
  intro g e rest b s ready idle nothing
  refine ⟨fun opcode => ?_, fun p opcode alone target counter => ?_, fun p opcode alone target counter unmet => ?_⟩
  · have row : exec (.nop g) s = .next (dispatchHead g (isOpcode 0x7E) s) := rfl
    have hok : isOpcode 0x7E e.word = true := decide_eq_true opcode
    obtain ⟨q, completes, valid, cons, cache, reports, dispatched⟩ :=
      completeEntry_headOut 0 ready idle nothing (u := headOut g e b s) rfl
    have engine : onTarget g e .engine (headOut g e b s) = (headOut g e b s).setSq g q := by
      rw [← completes]
      unfold onTarget
      rw [opcode]
      rfl
    refine ⟨_, row, dispatchHead_discardsCache ready hok, fun intact => ?_⟩
    rw [dispatchHead_onTarget ready hok intact, engine]
    have read : (noteDeferred (s.sq g).room.toNat ((headOut g e b s).setSq g q)).sq g = q := setSq_sq_valid valid
    refine ⟨headTaken_of_keepsHead ready (keepsHead_setSq valid cons cache rfl (sameMemory_refl _)), ?_, ?_, rfl⟩
    · rw [read, reports]
    · rw [read, dispatched]
  · have row : exec (.signalEntry g) s = .next (dispatchHead g (isOpcode 0x18) s) := rfl
    have hok : isOpcode 0x18 e.word = true := decide_eq_true opcode
    let u := (headOut g e b s).setCounter p (counted g e p (headOut g e b s))
    obtain ⟨q, completes, valid, cons, cache, reports, dispatched⟩ :=
      completeEntry_headOut (counted g e p (headOut g e b s)).value ready idle nothing (u := u) rfl
    have engine : onTarget g e .engine (headOut g e b s) = u.setSq g q := by
      rw [← completes]
      unfold onTarget
      rw [opcode]
      exact signalEntry_counter counter ((headOut_syncTarget ready ..).trans target) alone
    refine ⟨_, row, dispatchHead_discardsCache ready hok, fun intact => ?_⟩
    rw [dispatchHead_onTarget ready hok intact, engine]
    have read : (noteDeferred (s.sq g).room.toNat (u.setSq g q)).sq g = q := setSq_sq_valid valid
    refine ⟨headTaken_of_keepsHead ready (keepsHead_setSq valid cons cache rfl (sameMemory_refl _)), ?_, ?_, ?_, ?_⟩
    · exact State.setCounter_counter_of_ne (headOut g e b s) p fun default => by
        have source := congrArg (fun x : Counter => x.last.source) default
        simp [counted, lastSignal] at source
    · exact (congrArg Sq.reports read).trans reports
    · rw [read, dispatched]
    · exact fun j hj => State.setCounter_counter_ne (headOut g e b s) _ hj
  · have row : exec (.waitEntry g) s = .next (dispatchHead g (isOpcode 0x19) s) := rfl
    have hok : isOpcode 0x19 e.word = true := decide_eq_true opcode
    let x := entryWaiter g e p (headOut g e b s)
    let q : Sq := { (headOut g e b s).sq g with waitCause := 5 }
    have valid : q.valid = true := headOut_valid ready
    have engine : onTarget g e .engine (headOut g e b s) = addWaiter x ((headOut g e b s).setSq g q) := by
      unfold onTarget
      rw [opcode]
      exact waitEntry_sleeps counter ((headOut_syncTarget ready ..).trans target) alone unmet
    refine ⟨_, row, dispatchHead_discardsCache ready hok, fun intact => ?_⟩
    rw [dispatchHead_onTarget ready hok intact, engine]
    have read : (noteDeferred (s.sq g).room.toNat (addWaiter x ((headOut g e b s).setSq g q))).sq g = q :=
      setSq_sq_valid valid
    refine ⟨headTaken_of_keepsHead ready ?_, ?_, ?_, ?_, rfl⟩
    · exact keepsHead_setSq (t := addWaiter x (headOut g e b s)) valid rfl rfl rfl (sameMemory_refl _)
    · show s.waiters ++ [x] = [x]
      rw [alone]
      rfl
    · rw [read]
    · have waits : q.dispatched = [dispatchedHead s e] := headOut_dispatched ready idle
      rw [read, mayDispatch, waits]
      simp [dispatchedHead, opcode]

end Sys2Proof.Machine
end

section
/-! PROOFS. O24: DB_SQ_INVAL, where the table of Rooms is not canonical (05 R227, R456). -/
namespace Sys2Proof.Machine

/-- SQ 0 is a queue of Room 1, which is listed twice: a default record stands before one of an ACTIVE Room. -/
def roomListedTwice : State :=
  { g := { devState := .ready }, pcie := { mse := [0] }, sqs := [(0, { valid := true, room := 1 })]
    rooms := [(1, {}), (1, { state := .active })] }

/-- DEFERRED noted, the first record is a default record and leaves the table, so that the second is read. -/
theorem roomListedTwice_invalidated : ∃ t, exec (.dbSqInval (.pf 0)) roomListedTwice = .next t
    ∧ (t.room 1).state = .active :=
  ⟨throughBar 0 (invalSq (.pf 0)) roomListedTwice, rfl, by decide⟩

/-- Refutes O24: its clause of DB_SQ_INVAL takes every state and says that each Room changes in DEFERRED alone; where a Room
is listed twice, its state goes from none to ACTIVE. -/
theorem not_doorbellsReachTheirQueues : ¬ Obligations.DoorbellsReachTheirQueues := by
  unfold Obligations.DoorbellsReachTheirQueues
  intro doorbells
  obtain ⟨queue, -⟩ := doorbells (.pf 0) 0 roomListedTwice (by decide) (.inl rfl)
  obtain ⟨-, t, run, -, -, -, -, rooms, -⟩ := queue (by decide)
  obtain ⟨u, run', active⟩ := roomListedTwice_invalidated
  have same : t = u := Host.Outcome.next.inj (run.symm.trans run')
  subst same
  have before : (roomListedTwice.room 1).state = .none := by decide
  have after : (t.room 1).state = (roomListedTwice.room 1).state :=
    (congrArg Room.state (rooms 1) :)
  rw [active, before] at after
  exact absurd after (by decide)

end Sys2Proof.Machine
end

section
/-! SUPPORT. Queues in Host memory: their reads and writes, the head count of a completion queue, and its interrupt
(00 R49, 05 R241 to R247, 14 R636). -/
namespace Sys2Proof.Machine

/-! ### Reads and writes by device address -/

/-- No power domain lies under Host space (R469). -/
theorem ringDown_host {a : Word} (s : State) (k n : Nat) (ha : spaceOf a = some .host) : ringDown s k a n = [] := by
  unfold ringDown spanDomains
  rw [ha]
  rfl

theorem devGet_host {a : Word} {s : State} {k : Nat} (n : Nat) (ha : spaceOf a = some .host) (hr : hostReach s k = true) :
    devGet k a n s = (s, .ok (mread s.host (hostKey k (offOf a)) n)) := by
  unfold devGet
  rw [ha]
  dsimp only
  rw [hostGet_reach _ _ hr]

theorem devWord_host {a : Word} {s : State} {k : Nat} (n : Nat) (ha : spaceOf a = some .host) (hr : hostReach s k = true) :
    devWord n k a s = (s, .ok (BitVec.ofNat (8 * n) (leNat (mread s.host (hostKey k (offOf a)) n)))) := by
  unfold devWord
  rw [devGet_host n ha hr]

/-- A write by device address puts its bytes in Host memory, as write requests (R33, R49). -/
def hostWritten (k : Nat) (a : Word) (bs : List Byte) (s : State) : State :=
  hostWriteOut k (offOf a) bs.length { s with host := mwrite s.host (hostKey k (offOf a)) bs }

theorem hostWritten_cq (k : Nat) (a : Word) (bs : List Byte) (s : State) (i : Nat) : (hostWritten k a bs s).cq i = s.cq i := rfl
theorem hostWritten_sq (k : Nat) (a : Word) (bs : List Byte) (s : State) (g : Nat) : (hostWritten k a bs s).sq g = s.sq g := rfl
theorem hostWritten_now (k : Nat) (a : Word) (bs : List Byte) (s : State) : (hostWritten k a bs s).now = s.now := rfl

theorem devPutAll_host {a : Word} {s : State} {k : Nat} (bs : List Byte) (ha : spaceOf a = some .host)
    (hr : hostReach s k = true) : devPutAll k a bs s = (hostWritten k a bs s, St.ok) := by
  unfold devPutAll devPut
  rw [ha]
  dsimp only
  rw [if_pos hr, mwriteEn_all]
  rfl

/-! ### Records of queues -/

/-- An update of an SQ changes the table of SQs alone. -/
theorem setSq_restored (s : State) (g : Nat) (q : Sq) (v : Table Sq) :
    { s.setSq g q with sqs := v } = { s with sqs := v } := rfl

/-- An update of a CQ changes the table of CQs alone. -/
theorem setCq_restored (s : State) (i : Nat) (c : Cq) (v : Table Cq) :
    { s.setCq i c with cqs := v } = { s with cqs := v } := rfl

theorem cq_congr {s t : State} (h : t.cqs = s.cqs) (i : Nat) : t.cq i = s.cq i :=
  congrArg (fun x : Table Cq => tget x {} i) h

theorem setCq_cq_valid {s : State} {i : Nat} {c : Cq} (hc : c.valid = true) : (s.setCq i c).cq i = c :=
  State.setCq_cq_of_ne s i fun default => by simp [default] at hc

theorem setCq_setCq {s : State} {i : Nat} {c c' : Cq} (hc : c.valid = true) : (s.setCq i c).setCq i c' = s.setCq i c' := by
  have one := tset_tset s.cqs {} c c' i fun default => by simp [default] at hc
  exact congrArg (fun x : Table Cq => { s with cqs := x }) one

/-- The count that a queue's head word in Host memory holds. -/
def hostCount (s : State) (k : Nat) (a : Word) : Half := BitVec.ofNat 32 (leNat (mread s.host (hostKey k (offOf a)) 4))

/-- A head count that the ring allows becomes HEAD, and no read is due any more (R241, R242). -/
theorem readHead_host {i : Nat} {s : State} (hv : (s.cq i).valid = true) (ha : spaceOf (s.cq i).headAddr = some .host)
    (hr : hostReach s (s.cq i).room.toNat = true)
    (hn : ((s.cq i).tail - hostCount s (s.cq i).room.toNat (s.cq i).headAddr).toNat ≤ (s.cq i).size) :
    readHead i s = s.setCq i { moveHead (hostCount s (s.cq i).room.toNat (s.cq i).headAddr) (s.cq i) with headDue := false } := by
  let u := s.setCq i { s.cq i with headDue := false }
  have valid : ({ s.cq i with headDue := false } : Cq).valid = true := hv
  have read : u.cq i = { s.cq i with headDue := false } := setCq_cq_valid valid
  have got : devGet (s.cq i).room.toNat (s.cq i).headAddr 4 u
      = (u, .ok (mread s.host (hostKey (s.cq i).room.toNat (offOf (s.cq i).headAddr)) 4)) := devGet_host 4 ha hr
  unfold readHead
  dsimp only
  rw [ringDown_host s _ 4 ha, if_neg (not_not_intro rfl), got]
  dsimp only
  rw [if_neg (by exact not_lt.2 hn), read]
  exact setCq_setCq valid

/-! ### The interrupt of a completion queue -/

/-- An interrupt of a queue changes its ARMED and what a message changes. -/
theorem cqIrq_frame (i : Nat) (s : State) : { cqIrq i s with cqs := s.cqs, outputs := s.outputs, msix := s.msix } = s := by
  unfold cqIrq
  dsimp only
  split
  · exact congrArg (fun x : State => { x with cqs := s.cqs }) (sendMsix_frame _ _ (s.setCq i _))
  · rfl

/-- The record of an armed queue whose interrupt has been sent (R245). -/
def disarmed (c : Cq) : Cq := { c with armed := false, irqWanted := false }

theorem cqIrq_sends {i : Nat} {s : State} (ha : (s.cq i).armed = true) (he : (s.cq i).irqEn = true)
    (hh : (s.cq i).headDue = false) (hd : cqIrqDue s (s.cq i) = true) :
    cqIrq i s = sendMsix (s.cq i).room.toNat (s.cq i).vector.toNat (s.setCq i (disarmed (s.cq i))) := by
  unfold cqIrq
  dsimp only
  rw [if_pos (by rw [ha, he, hh, hd]; rfl)]
  rfl

theorem cqIrq_unarmed {i : Nat} {s : State} (ha : (s.cq i).armed = false) : cqIrq i s = s := by
  unfold cqIrq
  dsimp only
  simp [ha]

/-- Whatever a queue's interrupt does, its HEAD, HEAD_DUE and the rest of its ring stay (R244). -/
theorem cqIrq_cq {i : Nat} {s : State} (hv : (s.cq i).valid = true) :
    (cqIrq i s).cq i = s.cq i ∨ (cqIrq i s).cq i = disarmed (s.cq i) := by
  unfold cqIrq
  dsimp only
  split
  · have valid : (disarmed (s.cq i)).valid = true := hv
    have cqs (u : State) : (sendMsix (s.cq i).room.toNat (s.cq i).vector.toNat u).cqs = u.cqs :=
      (congrArg State.cqs (sendMsix_frame _ _ u) :)
    exact .inr ((cq_congr (cqs _) i).trans (setCq_cq_valid valid))
  · exact .inl rfl

end Sys2Proof.Machine
end

section
/-! PROOFS. O27: CQ_IRQ_DELAY, CQ_HEAD_REREAD and SQ_OVERLOAD (05 R241, R244, R249). -/
namespace Sys2Proof.Machine

/-- A queue whose oldest unacknowledged completion has waited DELAY_US is due (R244). -/
theorem cqIrqDue_delayed {s : State} {c : Cq} {t0 : Nat} {ts : List Nat} (hd : c.delayUs ≠ 0) (ht : c.times = t0 :: ts)
    (hn : t0 + c.delayUs.toNat * 1000 ≤ s.now) : cqIrqDue s c = true := by
  unfold cqIrqDue
  rw [ht, decide_eq_true hd]
  dsimp only
  rw [decide_eq_true hn]
  exact Bool.or_true _

/-- A queue's record when its head has been read as h (R241, R242). -/
def headRead (h : Half) (c : Cq) : Cq := { moveHead h c with headDue := false }

section
variable {q : Fin 1024} {s : State}

/-- The read that DB_CQ_ARM asked for is made, and the interrupt follows (R241, R245). -/
theorem exec_cqHeadReread_due (hv : (s.cq q).valid = true) (hd : (s.cq q).headDue = true)
    (ha : spaceOf (s.cq q).headAddr = some .host) (hr : hostReach s (s.cq q).room.toNat = true)
    (hn : ((s.cq q).tail - hostCount s (s.cq q).room.toNat (s.cq q).headAddr).toNat ≤ (s.cq q).size) :
    exec (.cqHeadReread q) s
      = .next (cqIrq q (s.setCq q (headRead (hostCount s (s.cq q).room.toNat (s.cq q).headAddr) (s.cq q)))) := by
  show execCqHeadReread q s = _
  unfold execCqHeadReread
  dsimp only
  rw [if_pos (by rw [hv, hd]; rfl), readHead_host hv ha hr hn]
  rfl

/-- The record of a queue that a head read, made for a stalled SQ at this moment, leaves (R241, R251). -/
def reread (h : Half) (now : Nat) (c : Cq) : Cq :=
  let m := headRead h { c with lastHeadRead := now + 1 }
  { m with fullStall := cqFree m = 0 }

theorem reread_spec (h : Half) (now : Nat) (c : Cq) : (reread h now c).valid = c.valid ∧ (reread h now c).head = h
    ∧ (reread h now c).tail = c.tail
    ∧ (reread h now c).fullStall = decide (c.size - (c.tail - h).toNat - c.reserved = 0) := ⟨rfl, rfl, rfl, rfl⟩

/-- The head of a full queue is read again for the SQ that it stalls (R241). -/
theorem exec_cqHeadReread_stalled (hv : (s.cq q).valid = true) (hd : (s.cq q).headDue = false)
    (hf : (s.cq q).fullStall = true) (hs : stalled s q = true)
    (hp : (s.cq q).lastHeadRead = 0 ∨ (s.cq q).lastHeadRead + 999 ≤ s.now)
    (ha : spaceOf (s.cq q).headAddr = some .host) (hr : hostReach s (s.cq q).room.toNat = true)
    (hn : ((s.cq q).tail - hostCount s (s.cq q).room.toNat (s.cq q).headAddr).toNat ≤ (s.cq q).size) :
    exec (.cqHeadReread q) s
      = .next (s.setCq q (reread (hostCount s (s.cq q).room.toNat (s.cq q).headAddr) s.now (s.cq q))) := by
  let h := hostCount s (s.cq q).room.toNat (s.cq q).headAddr
  let c : Cq := { s.cq q with lastHeadRead := s.now + 1 }
  have validC : c.valid = true := hv
  have validM : (headRead h c).valid = true := hv
  have placed : (s.setCq q c).cq q = c := setCq_cq_valid validC
  have head : readHead q (s.setCq q c) = s.setCq q (headRead h c) := by
    rw [readHead_host (i := q) (s := s.setCq q c) (by rwa [placed]) (by rwa [placed]) (by rwa [placed]) (by rwa [placed]),
      placed]
    exact setCq_setCq validC
  have read : (s.setCq q (headRead h c)).cq q = headRead h c := setCq_cq_valid validM
  show execCqHeadReread q s = _
  unfold execCqHeadReread
  dsimp only
  rw [if_neg (by rw [hd]; simp), if_pos (by simp [hv, hf, hs, hp]), head, read]
  exact congrArg _ (setCq_setCq validM)

/-- The record of SQ_OVERLOAD (R249). -/
def overloadRec (g : Nat) (x : Sq) : ErrRec :=
  { sqRec g x St.ok 2 (headCount x) with detail := 0x0220, arg0 := x.age.setWidth 64 }

theorem exec_sqOverload (hv : (s.sq q).valid = true) (hl : (s.sq q).overloadTurns ≠ 0) (hf : (s.sq q).overNow = false)
    (ha : (s.sq q).overloadTurns.toNat * 256 < (s.sq q).age.toNat) :
    exec (.sqOverload q) s = .next (roomRec (s.sq q).room.toNat (overloadRec q (s.sq q))
      (s.setSq q { s.sq q with overloaded := true, overNow := true })) := by
  show execSqOverload q s = _
  unfold execSqOverload
  dsimp only
  rw [hv, hf, decide_eq_true hl, decide_eq_true ha]
  exact if_pos rfl

end

/-- Settles O27: each timer's own condition holds, and its act is the one named. -/
theorem queueTimersAct : Obligations.QueueTimersAct := by
  unfold Obligations.QueueTimersAct
  refine ⟨?delay, ?due, ?full, ?overload⟩
  case delay =>
    intro q s t0 ts armed enabled read delay times due v
    let u := s.setCq q (disarmed (s.cq q))
    have placed : u.cq q = disarmed (s.cq q) := State.setCq_cq_of_ne s q fun default => by
      have on : (s.cq q).irqEn = false := congrArg Cq.irqEn default
      simp [enabled] at on
    have sends : exec (.cqIrqDelay q) s = .next (sendMsix (s.cq q).room.toNat (s.cq q).vector.toNat u) :=
      congrArg Host.Outcome.next (cqIrq_sends armed enabled read (cqIrqDue_delayed delay times due))
    have rest := sendMsix_frame (s.cq q).room.toNat (s.cq q).vector.toNat u
    have cqs := (congrArg State.cqs rest :)
    refine ⟨_, sends, ?_, ?_, fun clear => ?_, fun masked => sendMsix_pending (s := u) masked⟩
    · exact congrArg Cq.armed ((cq_congr cqs q).trans placed)
    · exact ⟨(congrArg State.pantry rest :), (congrArg State.cellar rest :), (congrArg State.larder rest :),
        (congrArg State.host rest :)⟩
    · rw [sendMsix_sent (by exact clear)]
      exact ⟨rfl, rfl⟩
  case due =>
    intro q s valid due space reach h inRing
    have row : exec (.cqHeadReread q) s = .next (cqIrq q (s.setCq q (headRead h (s.cq q)))) :=
      exec_cqHeadReread_due valid due space reach inRing
    clear_value h
    have kept : (headRead h (s.cq q)).valid = true := valid
    have placed : (s.setCq q (headRead h (s.cq q))).cq q = headRead h (s.cq q) := setCq_cq_valid kept
    have after := cqIrq_cq (i := q) (s := s.setCq q (headRead h (s.cq q))) (by rwa [placed])
    rw [placed] at after
    refine ⟨_, row, ?_, ?_,
      congrArg (fun x : State => { x with cqs := s.cqs }) (cqIrq_frame q (s.setCq q (headRead h (s.cq q))))⟩
    · rcases after with same | sent
      · exact congrArg Cq.head same
      · exact congrArg Cq.head sent
    · rcases after with same | sent
      · exact congrArg Cq.headDue same
      · exact congrArg Cq.headDue sent
  case full =>
    intro q s valid read stall bound pace space reach h inRing
    have row : exec (.cqHeadReread q) s = .next (s.setCq q (reread h s.now (s.cq q))) :=
      exec_cqHeadReread_stalled valid read stall bound pace space reach inRing
    clear_value h
    obtain ⟨kept, head, tail, full⟩ := reread_spec h s.now (s.cq q)
    refine ⟨_, row, ?_⟩
    rw [setCq_cq_valid (kept.trans valid)]
    exact ⟨head, tail, full, rfl⟩
  case overload =>
    intro q s valid limit first late
    let x : Sq := { s.sq q with overloaded := true, overNow := true }
    obtain ⟨-, -, sqs, -, -, -, -, -, -, pantry, cellar, larder, -⟩ :=
      recorded_frame (recorded_roomRec (s.sq q).room.toNat (overloadRec q (s.sq q)) (s.setSq q x))
    refine ⟨_, exec_sqOverload valid limit first late, ?_, fun j hj => ?_, pantry, cellar, larder⟩
    · exact (sq_congr sqs q).trans (setSq_sq_valid (by exact valid))
    · exact (sq_congr sqs j).trans (State.setSq_sq_ne s x hj)

end Sys2Proof.Machine
end

section
/-! PROOFS. O26: COMPLETION_WRITE to a queue in Host memory (05 R198, R210, R236, R239, R240, R246). -/
namespace Sys2Proof.Machine

theorem completionBytes_length (s : State) (q : Sq) (c : Cq) (r : Report) : (completionBytes s q c r).length = 32 := by
  simp [completionBytes, leB]

/-- An SQ that is not being destroyed stays (R285). -/
theorem finishDestroy_kept {g : Nat} {s : State} (h : (s.sq g).destroying = false) : finishDestroy g s = s := by
  unfold finishDestroy
  dsimp only
  rw [if_neg (by simp [h])]

/-! ### The writes of a completion -/

/-- A CQ's record when a completion stands in its slot at TAIL (R236, R239, R242). -/
def tailAdvanced (now : Nat) (r : Report) (c : Cq) : Cq :=
  { c with tail := c.tail + 1, reserved := c.reserved - 1, times := c.times ++ [now]
           past := c.past.drop (c.past.length + c.times.length + 1 - c.size)
           phase := if (c.tail + 1).toNat % c.size = 0 then !c.phase else c.phase
           irqWanted := c.irqWanted || r.irq }

/-- The completion r of SQ g has been written, and those of the list rs still wait (R236, R240). -/
def slotWritten (g : Nat) (r : Report) (rs : List Report) (s : State) : State :=
  ((hostWritten (s.sq g).room.toNat (cqSlot (s.cq (s.sq g).cq.toNat) (s.cq (s.sq g).cq.toNat).tail)
      (completionBytes s (s.sq g) (s.cq (s.sq g).cq.toNat) r) s).setCq (s.sq g).cq.toNat
    (tailAdvanced s.now r (s.cq (s.sq g).cq.toNat))).setSq g { s.sq g with reports := rs }

/-- The count n goes to the tail word of the CQ of SQ g, in index mode (R239). -/
def countWritten (g : Nat) (n : Half) (s t : State) : State :=
  hostWritten (s.sq g).room.toNat (s.cq (s.sq g).cq.toNat).tailAddr (leB 4 n) t

theorem slotWritten_queues {g : Nat} {r : Report} {rs : List Report} {s : State} (hv : (s.sq g).valid = true)
    (hc : (s.cq (s.sq g).cq.toNat).valid = true) : (slotWritten g r rs s).sq g = { s.sq g with reports := rs }
      ∧ (slotWritten g r rs s).cq (s.sq g).cq.toNat = tailAdvanced s.now r (s.cq (s.sq g).cq.toNat) := by
  have validQ : ({ s.sq g with reports := rs } : Sq).valid = true := hv
  have validC : (tailAdvanced s.now r (s.cq (s.sq g).cq.toNat)).valid = true := hc
  exact ⟨setSq_sq_valid validQ, setCq_cq_valid validC⟩

theorem slotWritten_frame (g : Nat) (r : Report) (rs : List Report) (s : State) :
    { slotWritten g r rs s with sqs := s.sqs, cqs := s.cqs, host := s.host, outputs := s.outputs } = s := by
  unfold slotWritten State.setSq State.setCq hostWritten hostWriteOut
  rfl

theorem countWritten_frame (g : Nat) (n : Half) (s t : State) :
    { countWritten g n s t with host := s.host, outputs := s.outputs } = { t with host := s.host, outputs := s.outputs } := by
  unfold countWritten hostWritten hostWriteOut
  rfl

theorem countWritten_queues (g : Nat) (n : Half) (s t : State) :
    (countWritten g n s t).sqs = t.sqs ∧ (countWritten g n s t).cqs = t.cqs := ⟨rfl, rfl⟩

/-! ### The row -/

section
variable {g : Fin 1024} {r : Report} {rs : List Report} {s : State}
  (hr : (s.sq g).reports = r :: rs) (hv : (s.sq g).valid = true) (hd : (s.sq g).destroying = false)
include hr hd

/-- A CQ in ERROR gets no completion (R246). -/
theorem exec_completionWrite_error (he : (s.cq (s.sq g).cq.toNat).error = true) : exec (.completionWrite g) s = .next s := by
  show execCompletionWrite g s = _
  unfold execCompletionWrite
  simp only [hr]
  rw [if_pos he, finishDestroy_kept hd]

variable (hc : (s.cq (s.sq g).cq.toNat).valid = true) (he : (s.cq (s.sq g).cq.toNat).error = false)
  (ha : (s.cq (s.sq g).cq.toNat).armed = false)
  (hs : spaceOf (cqSlot (s.cq (s.sq g).cq.toNat) (s.cq (s.sq g).cq.toNat).tail) = some .host)
  (hh : hostReach s (s.sq g).room.toNat = true)
include hv hc ha

omit hr in
/-- A CQ that is not armed, of an SQ that stays, has nothing to do once a completion has been written. -/
theorem completion_settled {u : State} (sqs : u.sqs = (slotWritten g r rs s).sqs) (cqs : u.cqs = (slotWritten g r rs s).cqs) :
    finishDestroy g (cqIrq (s.sq g).cq.toNat u) = u := by
  obtain ⟨sq, cq⟩ := slotWritten_queues (r := r) (rs := rs) hv hc
  have quiet : cqIrq (s.sq g).cq.toNat u = u := cqIrq_unarmed (by rw [cq_congr cqs, cq]; exact ha)
  rw [quiet]
  exact finishDestroy_kept (by rw [sq_congr sqs, sq]; exact hd)

include he hs hh

/-- In phase mode the oldest completion goes to the slot at TAIL (R236, R240). -/
theorem exec_completionWrite_phase (hp : (s.cq (s.sq g).cq.toNat).phaseMode = true) :
    exec (.completionWrite g) s = .next (slotWritten g r rs s) := by
  show execCompletionWrite g s = _
  unfold execCompletionWrite
  simp only [hr, hp, if_true]
  rw [if_neg (ne_true_of_eq_false he), ringDown_host s _ 32 hs, List.append_nil, if_neg (not_not_intro rfl),
    devPutAll_host _ hs hh]
  dsimp only
  rw [if_neg (not_not_intro rfl), hostWritten_cq, State.setCq_sq, hostWritten_sq, hostWritten_now]
  exact congrArg Host.Outcome.next (completion_settled hv hd hc ha rfl rfl)

/-- In index mode the count follows, to its own word (R239). -/
theorem exec_completionWrite_index (hp : (s.cq (s.sq g).cq.toNat).phaseMode = false)
    (ht : spaceOf (s.cq (s.sq g).cq.toNat).tailAddr = some .host) :
    exec (.completionWrite g) s
      = .next (countWritten g ((s.cq (s.sq g).cq.toNat).tail + 1) s (slotWritten g r rs s)) := by
  have count : devPutAll (s.sq g).room.toNat (s.cq (s.sq g).cq.toNat).tailAddr
      (leB 4 ((s.cq (s.sq g).cq.toNat).tail + 1)) (slotWritten g r rs s)
        = (countWritten g ((s.cq (s.sq g).cq.toNat).tail + 1) s (slotWritten g r rs s), St.ok) := devPutAll_host _ ht hh
  obtain ⟨sqs, cqs⟩ := countWritten_queues g ((s.cq (s.sq g).cq.toNat).tail + 1) s (slotWritten g r rs s)
  have settled := completion_settled hv hd hc ha sqs cqs
  show execCompletionWrite g s = _
  unfold execCompletionWrite
  simp only [hr, hp, if_false, Bool.false_eq_true]
  rw [if_neg (ne_true_of_eq_false he), ringDown_host s _ 32 hs, ringDown_host s _ 4 ht, List.append_nil,
    if_neg (not_not_intro rfl), devPutAll_host _ hs hh]
  dsimp only
  rw [if_neg (not_not_intro rfl), hostWritten_cq, State.setCq_sq, hostWritten_sq, hostWritten_now]
  unfold slotWritten tailAdvanced at count
  rw [count]
  dsimp only
  rw [if_pos rfl]
  exact congrArg Host.Outcome.next settled

end

/-! ### O26 -/

/-- Settles O26: the completion's bytes, and the count's, are the writes of Host memory. -/
theorem completionIsWritten : Obligations.CompletionIsWritten := by
  unfold Obligations.CompletionIsWritten
  refine ⟨?_, fun g r rest s reports kept error => exec_completionWrite_error reports kept error⟩
  intro g r rest s reports valid kept c k a ta cq error unarmed slot reach wf
  have host := ((wf_iff s).1 wf).host
  have length := completionBytes_length s (s.sq g) (s.cq c) r
  have bytes : (slotWritten g r rest s).host = mwrite s.host a (completionBytes s (s.sq g) (s.cq c) r) := rfl
  have frame := slotWritten_frame g r rest s
  obtain ⟨sq, queue⟩ := slotWritten_queues (r := r) (rs := rest) valid cq
  have waits : ((slotWritten g r rest s).sq g).reports = rest := congrArg Sq.reports sq
  have tail : ((slotWritten g r rest s).cq c).tail = (s.cq c).tail + 1 := congrArg Cq.tail queue
  have used : ((slotWritten g r rest s).cq c).reserved = (s.cq c).reserved - 1 := congrArg Cq.reserved queue
  constructor
  · intro phase
    refine ⟨_, exec_completionWrite_phase reports valid kept cq error unarmed slot reach phase, ?_, fun x hx => ?_, waits,
      tail, used, frame⟩
    · rw [bytes, ← length]
      exact mread_mwrite a _ host
    · rw [bytes]
      exact mget_mwrite_out _ _ (by rwa [length])
  · intro index space apart
    have row := exec_completionWrite_index reports valid kept cq error unarmed slot reach index space
    have both : (countWritten g ((s.cq c).tail + 1) s (slotWritten g r rest s)).host
        = mwrite (mwrite s.host a (completionBytes s (s.sq g) (s.cq c) r)) ta (leB 4 ((s.cq c).tail + 1)) := rfl
    have four : (leB 4 ((s.cq c).tail + 1)).length = 4 := leBytes_length ..
    have frame' := countWritten_frame g ((s.cq c).tail + 1) s (slotWritten g r rest s)
    obtain ⟨sqs, cqs⟩ := countWritten_queues g ((s.cq c).tail + 1) s (slotWritten g r rest s)
    have waits' := (congrArg Sq.reports (sq_congr sqs g)).trans waits
    have tail' := (congrArg Cq.tail (cq_congr cqs c)).trans tail
    refine ⟨_, row, ?_, ?_, fun x hx hy => ?_, waits', tail', ?_⟩
    · rw [both, mread_mwrite_out _ (by rw [four]; exact apart.symm), ← length]
      exact mread_mwrite a _ host
    · have read := mread_mwrite ta (leB 4 ((s.cq c).tail + 1)) (wf_mwrite a (completionBytes s (s.sq g) (s.cq c) r) host)
      rw [four] at read
      rw [both, read]
      rfl
    · rw [both, mget_mwrite_out _ _ (by rwa [four]), mget_mwrite_out _ _ (by rwa [length])]
    · exact (congrArg (fun x : State => { x with sqs := s.sqs, cqs := s.cqs }) frame').trans frame

end Sys2Proof.Machine
end

section
/-! PROOFS. O25: SQ_SCAN of a ring in Host memory, and DEADLINE_DROP (05 R199, R200, R213, R215, R218, R225, R236). -/
namespace Sys2Proof.Machine

/-! ### One fetch (R213, R215, R218, R225) -/

/-- The record of a queue whose entry w at FETCH has been cached with a turn of arrival (R199, R225). -/
def fetched (turn : Half) (w : BitVec 512) (q : Sq) : Sq :=
  { q with fetch := q.fetch + 1, cache := q.cache ++ [{ count := q.fetch, turn := turn, word := w }]
           expPhase := if (q.fetch + 1).toNat % q.size = 0 then !q.expPhase else q.expPhase
           waitCause := if q.waitCause = 4 then 0 else q.waitCause }

/-- A CQ with one slot more reserved (R225). -/
def oneReserved (c : Cq) : Cq := { c with reserved := c.reserved + 1 }

/-- The entry at FETCH of queue g has been taken, and a slot of its CQ with it (R225). -/
def entryTaken (g : Nat) (w : BitVec 512) (s : State) : State :=
  (s.setSq g (fetched s.cad.turn w (s.sq g))).setCq (s.sq g).cq.toNat (oneReserved (s.cq (s.sq g).cq.toNat))

/-- The 64 bytes of the slot at FETCH, in Host memory. -/
def fetchWord (g : Nat) (s : State) : BitVec 512 :=
  BitVec.ofNat (8 * 64) (leNat (mread s.host (hostKey (s.sq g).room.toNat (offOf (sqSlot (s.sq g) (s.sq g).fetch))) 64))

theorem entryTaken_restored (g : Nat) (w : BitVec 512) (s : State) (a : Table Sq) (b : Table Cq) :
    { entryTaken g w s with sqs := a, cqs := b } = { s with sqs := a, cqs := b } := by
  unfold entryTaken
  generalize fetched s.cad.turn w (s.sq g) = q, oneReserved (s.cq (s.sq g).cq.toNat) = c
  rfl

section
variable {g : Nat} {p : Half} {s : State}

/-- At the producer count a scan finds nothing more (R215). -/
theorem fetchOne_empty (h : p = (s.sq g).fetch) : fetchOne g (some p) s = (s, .empty) := by
  unfold fetchOne
  simp only [h, if_true]

/-- An entry before the producer count is taken, where a place and a CQ slot are free (R218, R225). -/
theorem fetchOne_taken (hp : p ≠ (s.sq g).fetch) (he : (s.cq (s.sq g).cq.toNat).error = false)
    (hl : (s.sq g).cache.length < 32) (hf : cqFree (s.cq (s.sq g).cq.toNat) ≠ 0)
    (ha : spaceOf (sqSlot (s.sq g) (s.sq g).fetch) = some .host) (hr : hostReach s (s.sq g).room.toNat = true) :
    fetchOne g (some p) s = (entryTaken g (fetchWord g s) s, .taken) := by
  have place : ((s.cq (s.sq g).cq.toNat).error || decide (32 ≤ (s.sq g).cache.length)) = false := by
    rw [he, decide_eq_false (Nat.not_le.2 hl)]
    rfl
  unfold fetchOne
  dsimp only
  rw [if_neg (fun same => hp (Option.some.inj same)), if_neg (ne_true_of_eq_false place), if_neg hf,
    ringDown_host s _ 64 ha, if_neg (not_not_intro rfl), devWord_host 64 ha hr]
  rfl

end

/-- A scan of one entry: it is taken, and the next look finds the producer count (R215, R218). -/
theorem scanN_one {g n : Nat} {p : Half} {s t : State} (h1 : fetchOne g (some p) s = (t, .taken)) (h2 : p = (t.sq g).fetch) :
    scanN g (some p) (n + 2) s = t.setSq g { t.sq g with scanning := false } := by
  rw [scanN, h1]
  dsimp only
  rw [scanN, fetchOne_empty h2]

/-- The producer count, where the ring may hold so many entries (R213). -/
theorem readProducer_host {g : Nat} {s : State} (ha : spaceOf (s.sq g).prodAddr = some .host)
    (hr : hostReach s (s.sq g).room.toNat = true)
    (hn : (hostCount s (s.sq g).room.toNat (s.sq g).prodAddr - (s.sq g).cons).toNat ≤ (s.sq g).size) :
    readProducer g s = (s, some (hostCount s (s.sq g).room.toNat (s.sq g).prodAddr)) := by
  unfold readProducer
  dsimp only
  rw [devGet_host 4 ha hr]
  exact if_neg (not_lt.2 hn)

/-! ### The scan -/

/-- A queue whose scan is under way: the doorbell that asked for it is answered (R215, R221). -/
def scanBegun (q : Sq) : Sq := { q with dbPending := false, scanning := true }

/-- A queue's record when a scan has cached one entry and found no more (R215, R225). -/
def scanned (turn : Half) (w : BitVec 512) (q : Sq) : Sq := { fetched turn w (scanBegun q) with scanning := false }

theorem scanned_spec (turn : Half) (w : BitVec 512) (q : Sq) : (fetched turn w (scanBegun q)).valid = q.valid
    ∧ (fetched turn w (scanBegun q)).fetch = q.fetch + 1 ∧ (scanned turn w q).valid = q.valid
    ∧ (scanned turn w q).fetch = q.fetch + 1 ∧ (scanned turn w q).cons = q.cons
    ∧ (scanned turn w q).cache = q.cache ++ [{ count := q.fetch, turn := turn, word := w }]
    ∧ (scanned turn w q).dbPending = false ∧ (scanned turn w q).scanning = false :=
  ⟨rfl, rfl, rfl, rfl, rfl, rfl, rfl, rfl⟩

/-- A scan in index mode goes up to the producer count (R213, R215). -/
theorem exec_sqScan_index {g : Fin 1024} {s : State} (hm : mayScan (s.sq g) = true) (hp : (s.sq g).phaseMode = false)
    (ha : spaceOf (s.sq g).prodAddr = some .host) {p : Half}
    (hr : readProducer g (s.setSq g (scanBegun (s.sq g))) = (s.setSq g (scanBegun (s.sq g)), some p)) :
    exec (.sqScan g) s = .next (scanN g (some p) 33 (s.setSq g (scanBegun (s.sq g)))) := by
  show execSqScan g s = _
  unfold scanBegun at hr ⊢
  unfold execSqScan
  dsimp only
  rw [if_neg (by rw [hm]; decide), if_neg (ne_true_of_eq_false hp), ringDown_host _ _ 4 ha, if_neg (not_not_intro rfl), hr]

section
variable {g : Fin 1024} {s : State} (hm : mayScan (s.sq g) = true) (hp : (s.sq g).phaseMode = false)
  (he : (s.sq g).cache = []) (hs : spaceOf (s.sq g).prodAddr = some .host)
  (ha : spaceOf (sqSlot (s.sq g) (s.sq g).fetch) = some .host) (hr : hostReach s (s.sq g).room.toNat = true)
  (hc : hostCount s (s.sq g).room.toNat (s.sq g).prodAddr = (s.sq g).fetch + 1)
  (hn : ((s.sq g).fetch + 1 - (s.sq g).cons).toNat ≤ (s.sq g).size) (hb : (s.cq (s.sq g).cq.toNat).error = false)
  (hf : cqFree (s.cq (s.sq g).cq.toNat) ≠ 0)
include hm hp he hs ha hr hc hn hb hf

/-- Where one entry waits before the producer count, a scan takes it and ends (R215, R218). -/
theorem exec_sqScan_one : exec (.sqScan g) s
    = .next ((entryTaken g (fetchWord g s) (s.setSq g (scanBegun (s.sq g)))).setSq g
        (scanned s.cad.turn (fetchWord g s) (s.sq g))) := by
  let u := s.setSq g (scanBegun (s.sq g))
  have valid : (scanBegun (s.sq g)).valid = true := by
    simp only [mayScan, Bool.and_eq_true] at hm
    obtain ⟨⟨⟨valid, -⟩, -⟩, -⟩ := hm
    exact valid
  have begun : u.sq g = scanBegun (s.sq g) := setSq_sq_valid valid
  have producer : hostCount u (u.sq g).room.toNat (u.sq g).prodAddr = (s.sq g).fetch + 1 := by
    rw [begun]
    exact hc
  have read : readProducer g u = (u, some ((s.sq g).fetch + 1)) := by
    rw [← producer]
    refine readProducer_host ?_ ?_ ?_
    · rw [begun]; exact hs
    · rw [begun]; exact hr
    · rw [producer, begun]; exact hn
  have word : fetchWord g u = fetchWord g s := by
    unfold fetchWord
    rw [begun]
    rfl
  have taken : fetchOne g (some ((s.sq g).fetch + 1)) u = (entryTaken g (fetchWord g s) u, .taken) := by
    rw [← word]
    refine fetchOne_taken ?_ ?_ ?_ ?_ ?_ ?_
    all_goals rw [begun]
    · show (s.sq g).fetch + 1 ≠ (s.sq g).fetch
      simp
    · exact hb
    · rw [show (scanBegun (s.sq g)).cache = [] from he]
      decide
    · exact hf
    · exact ha
    · exact hr
  obtain ⟨kept, fetch, -⟩ := scanned_spec s.cad.turn (fetchWord g s) (s.sq g)
  have queue : (entryTaken g (fetchWord g s) u).sq g = fetched s.cad.turn (fetchWord g s) (scanBegun (s.sq g)) := by
    rw [← begun]
    refine setSq_sq_valid ?_
    rw [begun]
    exact kept.trans valid
  have one := scanN_one (n := 31) taken (by rw [queue, fetch])
  rw [queue] at one
  exact (exec_sqScan_index hm hp hs read).trans (congrArg Host.Outcome.next one)

end

/-! ### DEADLINE_DROP -/

/-- A queue's record when its head e has completed without running (R200, R225, R236). -/
def headReported (e : Cached) (status : Byte) (q : Sq) : Sq :=
  { headless q with reports := q.reports ++ [{ count := e.count, tag := weTag e.word, status := status, result := 0
                                               irq := weIrq e.word, opcode := weOpcode e.word }] }

theorem noteDeferred_restored (k : Nat) (s : State) (a : Table Sq) (b : Table Room) :
    { noteDeferred k s with sqs := a, rooms := b } = { s with sqs := a, rooms := b } := rfl

/-- The head completes without running, where no earlier entry holds its report back (R225, R238). -/
theorem completeHead_reports {g : Nat} {e : Cached} {st : Byte} {s : State} (hv : (s.sq g).valid = true)
    (hb : (s.sq g).behind = []) (hf : engineOp (weOpcode e.word) = false ∨ (s.sq g).dispatched = []) :
    completeHead g e st s = noteDeferred (s.sq g).room.toNat (s.setSq g (headReported e st (s.sq g))) := by
  have valid : (headless (s.sq g)).valid = true := hv
  have taken : takeHead g s = s.setSq g (headless (s.sq g)) := rfl
  have read : (s.setSq g (headless (s.sq g))).sq g = headless (s.sq g) := setSq_sq_valid valid
  have reports : addReport { count := e.count, tag := weTag e.word, status := st, result := 0, irq := weIrq e.word
                             opcode := weOpcode e.word } (headless (s.sq g)) = headReported e st (s.sq g) := by
    refine addReport_free ?_ hb
    rcases hf with engine | idle
    · exact Bool.and_eq_false_iff.2 (.inl engine)
    · simp [behindEngine, headless, idle]
  unfold completeHead
  dsimp only
  rw [taken, read, reports, setSq_setSq valid]
  rfl

/-- A late head leaves its queue with its report; what the queue waits for besides stays as it was (R200). -/
theorem exec_deadlineDrop {g : Fin 1024} {e : Cached} {rest : List Cached} {s : State} (hc : (s.sq g).cache = e :: rest)
    (hv : (s.sq g).valid = true) (ha : (s.sq g).admClosed = false) (hb : (s.sq g).behind = [])
    (hf : engineOp (weOpcode e.word) = false ∨ (s.sq g).dispatched = [])
    (hs : entryStatus s (s.sq g).room.toNat e.word = St.ok) (hd : weDropLate e.word = true) (hl : entryLate s e = true) :
    ∃ t c, exec (.deadlineDrop g) s = .next t ∧ t.sq g = { headReported e St.late (s.sq g) with waitCause := c }
      ∧ { t with sqs := s.sqs, rooms := s.rooms } = s := by
  let u := noteDeferred (s.sq g).room.toNat (s.setSq g (headReported e St.late (s.sq g)))
  have valid : (headReported e St.late (s.sq g)).valid = true := hv
  have read : u.sq g = headReported e St.late (s.sq g) := setSq_sq_valid valid
  have row : exec (.deadlineDrop g) s = .next (if (s.sq g).waitCause = 5 || (s.sq g).waitCause = 7 then
      u.setSq g { u.sq g with waitCause := (s.sq g).waitCause } else u) := by
    show execDeadlineDrop g s = _
    unfold execDeadlineDrop
    simp only [hc]
    rw [if_pos (by simp [hv, ha, hs, hd, hl]), completeHead_reports hv hb hf]
  have frame : { u with sqs := s.sqs, rooms := s.rooms } = s :=
    (noteDeferred_restored ..).trans (congrArg (fun x : State => { x with rooms := s.rooms })
      (setSq_restored s g (headReported e St.late (s.sq g)) s.sqs))
  clear_value u
  by_cases held : ((s.sq g).waitCause = 5 || (s.sq g).waitCause = 7) = true
  · have valid' : ({ u.sq g with waitCause := (s.sq g).waitCause } : Sq).valid = true := by rw [read]; exact hv
    rw [if_pos held] at row
    refine ⟨_, (s.sq g).waitCause, row, ?_, ?_⟩
    · rw [setSq_sq_valid valid', read]
    · have kept := setSq_restored u g { u.sq g with waitCause := (s.sq g).waitCause } s.sqs
      exact (congrArg (fun x : State => { x with rooms := s.rooms }) kept).trans frame
  · rw [if_neg held] at row
    exact ⟨u, 0, row, read, frame⟩

/-- Settles O25: the one entry is fetched and the next look ends the scan; a late head completes with LATE. -/
theorem entriesAreFetchedAndDropped : Obligations.EntriesAreFetchedAndDropped := by
  unfold Obligations.EntriesAreFetchedAndDropped
  refine ⟨?_, fun g e rest s cache valid opened behind first status drop late => ?_⟩
  · intro g s may index empty producer slot reach k c count inRing valid healthy room w
    have sqValid : (s.sq g).valid = true := by
      simp only [mayScan, Bool.and_eq_true] at may
      obtain ⟨⟨⟨valid, -⟩, -⟩, -⟩ := may
      exact valid
    let u := s.setSq g (scanBegun (s.sq g))
    have row : exec (.sqScan g) s = .next ((entryTaken g w u).setSq g (scanned s.cad.turn w (s.sq g))) :=
      exec_sqScan_one may index empty producer slot reach count inRing healthy room
    clear_value w
    have begun : u.sq g = scanBegun (s.sq g) := setSq_sq_valid (by exact sqValid)
    have reserved : (entryTaken g w u).cq c = oneReserved (s.cq c) := by
      unfold entryTaken
      rw [begun]
      exact setCq_cq_valid (by exact valid)
    have frame := (congrArg (fun x : State => { x with cqs := s.cqs })
      (setSq_restored (entryTaken g w u) g (scanned s.cad.turn w (s.sq g)) s.sqs)).trans
        ((entryTaken_restored g w u s.sqs s.cqs).trans (congrArg (fun x : State => { x with cqs := s.cqs })
          (setSq_restored s g (scanBegun (s.sq g)) s.sqs)))
    obtain ⟨-, -, kept, fetch, cons, cache, rung, ended⟩ := scanned_spec s.cad.turn w (s.sq g)
    have last : ((entryTaken g w u).setSq g (scanned s.cad.turn w (s.sq g))).sq g = scanned s.cad.turn w (s.sq g) :=
      setSq_sq_valid (kept.trans sqValid)
    refine ⟨_, row, ?_⟩
    rw [last]
    exact ⟨fetch, cons, cache.trans (by rw [empty]; rfl), rung, ended, congrArg Cq.reserved reserved, frame⟩
  · obtain ⟨t, c, row, queue, frame⟩ := exec_deadlineDrop cache valid opened behind first status drop late
    refine ⟨t, row, ?_, ?_, ?_, ?_, frame⟩
    all_goals rw [queue]
    · show (s.sq g).cache.drop 1 = rest
      rw [cache]
      rfl
    · rfl
    · rfl
    · rfl

end Sys2Proof.Machine
end

section
/-! SUPPORT. What a command's OK reply leaves: its reply stands in its slot, and the rest is the command's own effect
(06 R260, R262, R264, R268, R313). -/
namespace Sys2Proof.Machine

/-! ### What a reply and an audit record may change -/

/-- t differs from s at most in what a reply and an audit record change. -/
def ReplyOnly (s t : State) : Prop := t = withReply t s

theorem ReplyOnly.trans {s t u : State} (h : ReplyOnly s t) (g : ReplyOnly t u) : ReplyOnly s u :=
  calc u = withReply u t := g
    _ = withReply u (withReply t s) := congrArg (withReply u) h
    _ = withReply u s := rfl

theorem replyOnly_noteTaken (k : Nat) (o : BitVec 16) (s : State) : ReplyOnly s (noteTaken k o s) := rfl

theorem replyOnly_rings (s : State) (x : Table Ring) : ReplyOnly s { s with rings := x } := rfl

theorem replyOnly_hostWriteOut (fn a n : Nat) (s : State) (m : List Host.Cell) :
    ReplyOnly s (hostWriteOut fn a n { s with host := m }) := rfl

/-- A record changes no more where it leaves the fault logs. -/
theorem replyOnly_of_recorded {s t : State} (h : Recorded s t) (hl : t.logs = s.logs) : ReplyOnly s t := by
  have put : withReply t { t with
      host := s.host, audit := s.audit, logs := t.logs, outputs := s.outputs, msix := s.msix
      g := { t.g with irqStatus := s.g.irqStatus } } = t := rfl
  rw [hl] at put
  unfold Recorded at h
  rw [h] at put
  exact put.symm

theorem sendMsix_logs (fn vec : Nat) (s : State) : (sendMsix fn vec s).logs = s.logs :=
  (congrArg State.logs (sendMsix_frame fn vec s) :)

theorem replyOnly_sendMsix (fn vec : Nat) (s : State) : ReplyOnly s (sendMsix fn vec s) :=
  replyOnly_of_recorded (recorded_sendMsix ..) (sendMsix_logs ..)

theorem pfCause_logs (bit : Nat) (vec : Byte) (s : State) : (pfCause bit vec s).logs = s.logs := by
  unfold pfCause
  dsimp only
  split
  · rfl
  · exact sendMsix_logs ..

theorem hostPut_logs (s : State) (fn a : Nat) (bs : List Byte) : (hostPut s fn a bs).1.logs = s.logs := by
  unfold hostPut
  split <;> rfl

theorem auditRec_logs (r : ErrRec) (s : State) : (auditRec r s).logs = s.logs := by
  unfold auditRec
  dsimp only
  split
  · rfl
  · have kept := hostPut_logs s 0 ((s.audit.base.toNat % 2 ^ 60) + (s.audit.tail.toNat % s.audit.size) * 64)
      (r.bytes s.stamp s.audit.seq)
    split
    all_goals
      rename_i s1 e
      rw [e] at kept
      split
      · exact (pfCause_logs ..).trans kept
      · exact kept

theorem replyOnly_auditRec (r : ErrRec) (s : State) : ReplyOnly s (auditRec r s) :=
  replyOnly_of_recorded (recorded_auditRec r s) (auditRec_logs r s)

/-- The audit record of a packet reaches no ring and no function, and keeps the canonical form (R313). -/
theorem auditPacket_spec (k : Nat) (p : BitVec 512) (st : Byte) (dt : BitVec 16) (r0 r1 : Word) (s : State) :
    let t := auditPacket k p st dt r0 r1 s
    ReplyOnly s t ∧ t.rings = s.rings ∧ (∀ fn, hostReach t fn = hostReach s fn) ∧ t.fy = s.fy
      ∧ (s.wf = true → t.wf = true) := by
  have steady := steadyPart_auditPacket k p st dt r0 r1 s
  have pcie := busPart_pcie (steadyPart_bus steady)
  have reach (t : State) (h : t.pcie = { s.pcie with ats := t.pcie.ats }) (fn : Nat) : hostReach t fn = hostReach s fn := by
    unfold hostReach fnExists
    rw [h]
  refine ⟨?_, steadyPart_rings steady, reach _ pcie, ?_, ?_⟩
  all_goals
    unfold auditPacket
    dsimp only
    split
  · exact replyOnly_auditRec ..
  · rfl
  · exact (congrArg State.fy (recorded_auditRec ..) :)
  · rfl
  · exact wf_auditRec _
  · exact id

/-! ### The reply -/

theorem replyBytes_length (phase : Bool) (p : BitVec 512) (st : Byte) (dt : BitVec 16) (r0 r1 : Word) :
    (replyBytes phase p st dt r0 r1).length = 32 := by
  simp [replyBytes, leB]

theorem sendMsix_host (fn vec : Nat) (s : State) : (sendMsix fn vec s).host = s.host :=
  (congrArg State.host (sendMsix_frame fn vec s) :)

/-- A ring's record when the packet at CONS has been answered (R260, R264). -/
def ringAnswered (r : Ring) : Ring :=
  { r with cons := r.cons + 1
           replyPhase := if (r.cons + 1).toNat % r.size = 0 then !r.replyPhase else r.replyPhase }

/-- A reply is written and CONS advances, and at most a message follows (R260, R262, R264). -/
theorem writeReply_spec {k : Nat} {s : State} (p : BitVec 512) (st : Byte) (dt : BitVec 16) (r0 r1 : Word)
    (he : (s.ring k).enable = true) (hx : (s.ring k).ringError = false) (hh : hostReach s k = true)
    (hm : Memory.wf s.host = true) : let t := writeReply k p st dt r0 r1 s
    ReplyOnly s t ∧ mread t.host (hostKey k (replySlot (s.ring k))) 32 = replyBytes (s.ring k).replyPhase p st dt r0 r1
      ∧ t.rings = tset s.rings {} k (ringAnswered (s.ring k)) ∧ t.fy = s.fy := by
  let bs := replyBytes (s.ring k).replyPhase p st dt r0 r1
  let u := (hostWriteOut k (replySlot (s.ring k)) bs.length
    { s with host := mwrite s.host (hostKey k (replySlot (s.ring k))) bs }).setRing k (ringAnswered (s.ring k))
  have written : writeReply k p st dt r0 r1 s
      = if pkIrq p && (s.ring k).irqEn then sendMsix k (s.ring k).vector.toNat u else u := by
    unfold writeReply
    dsimp only
    rw [if_neg (by rw [he, hx]; decide), hostPut_reach _ _ hh]
    rfl
  have only : ReplyOnly s u := (replyOnly_hostWriteOut ..).trans (replyOnly_rings ..)
  have reply : mread u.host (hostKey k (replySlot (s.ring k))) 32 = bs := by
    have read := mread_mwrite (hostKey k (replySlot (s.ring k))) bs hm
    rwa [replyBytes_length] at read
  have rings : u.rings = tset s.rings {} k (ringAnswered (s.ring k)) := rfl
  have fy : u.fy = s.fy := rfl
  intro t
  rw [show t = _ from written]
  clear_value u
  split
  · have frame := sendMsix_frame k (s.ring k).vector.toNat u
    exact ⟨only.trans (replyOnly_sendMsix ..), by rw [sendMsix_host, reply], (congrArg State.rings frame :).trans rings,
      (congrArg State.fy frame :).trans fy⟩
  · exact ⟨only, reply, rings, fy⟩

/-! ### A command that ends OK -/

section
variable {s e : State} {k : Nat} {p : BitVec 512} {o : BitVec 16} (h : Accepted s k p o)
include h

/-- A ring that the Foyer takes a packet from is enabled and not in error (R260). -/
theorem accepted_ring : (s.ring k).enable = true ∧ (s.ring k).ringError = false := by
  obtain ⟨take, -⟩ := h
  simp only [canTake, ringReady, Bool.and_eq_true, Bool.not_eq_true'] at take
  obtain ⟨⟨⟨⟨⟨⟨⟨⟨enable, error⟩, -⟩, -⟩, -⟩, -⟩, -⟩, -⟩, -⟩ := take
  exact ⟨enable, error⟩

/-- The OK reply of a command whose own effect, e, leaves the rings and the functions as they are. -/
theorem answers_cmdOk (wf : e.wf = true) (rings : e.rings = s.rings) (pcie : e.pcie = s.pcie) (r0 r1 : Word) :
    Answers k p St.ok 0 r0 r1 s e (cmdOk k p r0 r1 (noteTaken k o e)) := by
  obtain ⟨enable, error⟩ := accepted_ring h
  obtain ⟨-, reach, -, opcode, -⟩ := h
  let q : Ring := { s.ring k with lastOpcode := o }
  obtain ⟨only, rings', reach', fy', wf'⟩ := auditPacket_spec k p St.ok 0 r0 r1 (noteTaken k o e)
  unfold cmdOk cmdReply
  generalize auditPacket k p St.ok 0 r0 r1 (noteTaken k o e) = v at only rings' reach' fy' wf' ⊢
  have noted : (noteTaken k o e).rings = tset s.rings {} k q := by
    show tset e.rings {} k { e.ring k with lastOpcode := o } = _
    rw [ring_congr rings, rings]
  have ring : v.ring k = q := by
    rw [State.ring, rings', noted]
    exact tget_tset_of_ne _ _ fun default => by
      have off : (s.ring k).enable = false := congrArg Ring.enable default
      simp [enable] at off
  have canonical : v.wf = true := wf' (by
    rw [wf_iff] at wf ⊢
    exact { wf with rings := tableWf_tset _ _ wf.rings })
  have reached : hostReach v k = true := by
    rw [reach']
    show (e.pcie.linkUp && fnExists e k && e.pcie.bme.contains k) = true
    rw [show fnExists e k = fnExists s k by unfold fnExists; rw [pcie], pcie]
    exact reach
  obtain ⟨only', reply, rings'', fy''⟩ := writeReply_spec p St.ok 0 r0 r1 (by rw [ring]; exact enable)
    (by rw [ring]; exact error) reached ((wf_iff v).1 canonical).host
  generalize writeReply k p St.ok 0 r0 r1 v = t at only' reply rings'' fy'' ⊢
  rw [ring] at reply rings''
  refine ⟨((replyOnly_noteTaken k o e).trans only).trans only', reply, ?_, fun j hj => ?_, ?_⟩
  · rw [State.ring, rings'', tget_tset_of_ne _ _ fun default => by
      have off : (s.ring k).enable = false := congrArg Ring.enable default
      simp [enable] at off]
    rfl
  · rw [State.ring, rings'', tget_tset_ne _ _ _ hj, rings', noted, tget_tset_ne _ _ _ hj]
    rfl
  · rw [fy'', fy', opcode]
    rfl

/-- A command taken from its ring whose body ends OK with the effect e. -/
theorem answers_takePacket {body : State → State} {r0 r1 : Word} (wf : e.wf = true) (rings : e.rings = s.rings)
    (pcie : e.pcie = s.pcie) (hb : body (noteTaken k o s) = cmdOk k p r0 r1 (noteTaken k o e)) :
    Answers k p St.ok 0 r0 r1 s e (takePacket o k p body s) := by
  rw [takePacket_of body h, hb]
  exact answers_cmdOk h wf rings pcie r0 r1

end

end Sys2Proof.Machine
end

section
/-! PROOFS. O31: queues are created, destroyed and resumed (05 R192, R224, R232, 06 R283, R285, R286). -/
namespace Sys2Proof.Machine

/-- A reply reaches no queue. -/
theorem answers_sq {k : Nat} {p : BitVec 512} {st : Byte} {dt : BitVec 16} {r0 r1 : Word} {s e t : State}
    (h : Answers k p st dt r0 r1 s e t) (g : Nat) : t.sq g = e.sq g :=
  sq_congr (congrArg State.sqs h.1 :) g

/-! ### The canonical form -/

theorem wf_noteDeferred (k : Nat) {s : State} (h : s.wf = true) : (noteDeferred k s).wf = true := State.wf_setRoom _ _ h

theorem wf_invalidate (g : Nat) {s : State} (h : s.wf = true) : (invalidate g s).wf = true :=
  wf_noteDeferred _ (State.wf_setSq _ _ (State.wf_setCq _ _ h))

theorem wf_discardCache (g : Nat) {s : State} (h : s.wf = true) : (discardCache g s).wf = true :=
  State.wf_setSq _ _ (State.wf_setCq _ _ h)

/-- A queue found by its local number is a queue of the Room (R191). -/
theorem sqByLocal_valid {s : State} {r l g : Nat} (hs : tableWf {} s.sqs = true) (h : sqByLocal s r l = some g) :
    (s.sq g).valid = true := by
  obtain ⟨q, found, rfl⟩ := Option.map_eq_some_iff.1 h
  obtain ⟨listed, room⟩ := List.mem_filter.1 (List.mem_of_find?_eq_some found)
  have read : s.sq q.1 = q.2 := tget_of_mem hs listed
  simp only [Bool.and_eq_true] at room
  rw [read]
  exact room.1

theorem roomExists_of {s : State} {r : Nat} (h : (s.room r).state ≠ .none) : roomExists s r = true := decide_eq_true h

/-- A queue in phase mode names no count, one in index mode a count's address (R213, R241). -/
theorem countWord_ok {a : Word} {n : Nat} (h : if n % 2 = 1 then a = 0 else countAddrOk a = true) :
    (if decide (n % 2 = 1) = true then decide (a ≠ 0) else !countAddrOk a) = false := by
  by_cases phase : n % 2 = 1
  · rw [if_pos phase] at h
    rw [if_pos (decide_eq_true phase), h]
    rfl
  · rw [if_neg phase] at h
    rw [if_neg (by rw [decide_eq_false phase]; decide), h]
    rfl

/-- A Room whose quota is not used up may have one more queue; Room 0 has no quota (R283). -/
theorem quota_free {r m n : Nat} (h : r = 0 ∨ n < m) : (decide (r ≠ 0) && decide (m ≤ n)) = false := by
  rcases h with rfl | fits
  · rfl
  · rw [decide_eq_false (not_le.2 fits), Bool.and_false]

theorem count_inside {n : Nat} {b : Bool} (h : n % 2 = 1 ∨ b = true) : (decide (n % 2 = 1) || b) = true := by
  rcases h with phase | inside
  · rw [decide_eq_true phase, Bool.true_or]
  · rw [inside, Bool.or_true]

/-! ### What discarding a queue's cache leaves: the rings and the functions -/

theorem discardCache_reaches (g : Nat) (s : State) :
    (discardCache g s).rings = s.rings ∧ (discardCache g s).pcie = s.pcie := by
  simp [discardCache]

theorem invalidate_reaches (g : Nat) (s : State) :
    (invalidate g s).rings = s.rings ∧ (invalidate g s).pcie = s.pcie := by
  simp [invalidate, noteDeferred]

/-! ### What an update of a queue does not touch: that the Foyer took the packet -/

section
variable (k : Nat) (o : BitVec 16) (s : State)

theorem sq_noteTaken (g : Nat) : (noteTaken k o s).sq g = s.sq g := rfl

theorem cq_noteTaken (i : Nat) : (noteTaken k o s).cq i = s.cq i := rfl

theorem setSq_noteTaken (g : Nat) (q : Sq) : (noteTaken k o s).setSq g q = noteTaken k o (s.setSq g q) := rfl

theorem setCq_noteTaken (i : Nat) (c : Cq) : (noteTaken k o s).setCq i c = noteTaken k o (s.setCq i c) := rfl

theorem noteDeferred_noteTaken (r : Nat) : noteDeferred r (noteTaken k o s) = noteTaken k o (noteDeferred r s) := rfl

theorem discardCache_noteTaken (g : Nat) : discardCache g (noteTaken k o s) = noteTaken k o (discardCache g s) := by
  unfold discardCache
  dsimp only
  rw [sq_noteTaken, cq_noteTaken, setCq_noteTaken, setSq_noteTaken]

theorem invalidate_noteTaken (g : Nat) : invalidate g (noteTaken k o s) = noteTaken k o (invalidate g s) := by
  unfold invalidate
  dsimp only
  rw [sq_noteTaken, cq_noteTaken, setCq_noteTaken, setSq_noteTaken, noteDeferred_noteTaken]

end

/-! ### SQ_CREATE (R224, R283) -/

/-- The parameters of an SQ_CREATE lie in their ranges (R192, R283). -/
structure SqParams (p : BitVec 512) : Prop where
  loc : p8 p 16 ≤ 63
  low : 4 ≤ p8 p 17
  high : p8 p 17 ≤ 16
  mode : p8 p 18 ≤ 7
  cq : p8 p 19 ≤ 63
  flag : p16 p 20 ≤ 4095
  prio : p8 p 22 ≤ 15
  base : ringBaseOk (p64 p 24) (2 ^ p8 p 17 * 64) = true
  prod : if p8 p 18 % 2 = 1 then p64 p 32 = 0 else countAddrOk (p64 p 32) = true
  unflagged : p8 p 18 / 4 = 0 → p16 p 20 = 0

/-- The Room can have the queue of an SQ_CREATE: its names are free or found, its quota is not used up, and its ring lies in
the Room's windows; fl is its doorbell flag, if it has one (R283). -/
structure SqFits (p : BitVec 512) (s : State) (cq : Nat) (fl : Option Nat) : Prop where
  room : (s.room (pkRoom p)).state ≠ .none
  free : sqByLocal s (pkRoom p) (p8 p 16) = none
  bound : cqByLocal s (pkRoom p) (p8 p 19) = some cq
  unflagged : p8 p 18 / 4 = 0 → fl = none
  flagged : p8 p 18 / 4 = 1 → ∃ f, fl = some f ∧ flagPhys s (pkRoom p) (p16 p 20) = some f ∧ (s.flag f).dbSq = none
  quota : pkRoom p = 0 ∨ (roomSqs s (pkRoom p)).length < (s.room (pkRoom p)).maxSq
  places : (s.sqs.filter (·.2.valid)).length < 1024
  ring : inWindows s (pkRoom p) (p64 p 24) (2 ^ p8 p 17 * 64) = true
  count : p8 p 18 % 2 = 1 ∨ inWindows s (pkRoom p) (p64 p 32) 4 = true

/-- The record of the queue that an SQ_CREATE defines (R250, R283). -/
def newSq (p : BitVec 512) (cq : Nat) (closed : Bool) : Sq where
  valid := true
  base := p64 p 24
  log2 := BitVec.ofNat 5 (p8 p 17)
  phaseMode := p8 p 18 % 2 = 1
  haltPolicy := p8 p 18 / 2 % 2 = 1
  dbFlagEn := p8 p 18 / 4 = 1
  dbFlag := BitVec.ofNat 12 (p16 p 20)
  cq := BitVec.ofNat 10 cq
  room := BitVec.ofNat 6 (pkRoom p)
  loc := BitVec.ofNat 6 (p8 p 16)
  overloadTurns := if p8 p 23 = 0 then 8 else BitVec.ofNat 8 (p8 p 23)
  prodAddr := p64 p 32
  prio := BitVec.ofNat 4 (p8 p 22)
  admClosed := closed

/-- Queue g is defined, and its doorbell flag, if it has one, rings it (R223, R283). -/
def sqDefined (p : BitVec 512) (g cq : Nat) (fl : Option Nat) (s : State) : State :=
  match fl with
  | some f => (s.setSq g (newSq p cq (s.room (pkRoom p)).admClosed)).setFlag f { s.flag f with dbSq := some g }
  | none => s.setSq g (newSq p cq (s.room (pkRoom p)).admClosed)

/-- The lowest SQ number that no queue has. -/
def lowestSq (s : State) : Nat := lowest ((s.sqs.filter (·.2.valid)).map (·.1))

theorem sqCreate_creates {k cq : Nat} {p : BitVec 512} {s : State} {fl : Option Nat} (hp : SqParams p)
    (hs : SqFits p s cq fl) :
    sqCreate k p s = cmdOk k p (BitVec.ofNat 64 (lowestSq s)) 0 (sqDefined p (lowestSq s) cq fl s) := by
  obtain ⟨loc, low, high, mode, cqLoc, flag, prio, base, prod, unused⟩ := hp
  obtain ⟨room, free, bound, unflagged, flagged, quota, places, ring, count⟩ := hs
  have parity : decide (p8 p 18 / 4 % 2 = 1) = decide (p8 p 18 / 4 = 1) := by
    congr 1
    exact propext (by omega)
  have inRange : (decide (63 < p8 p 16) || decide (p8 p 17 < 4) || decide (16 < p8 p 17) || decide (63 < p8 p 19)
      || decide (4095 < p16 p 20) || (!decide (p8 p 18 / 4 = 1) && decide (p16 p 20 ≠ 0)) || decide (15 < p8 p 22)
      || !ringBaseOk (p64 p 24) (2 ^ p8 p 17 * 64)
      || (if decide (p8 p 18 % 2 = 1) = true then decide (p64 p 32 ≠ 0) else !countAddrOk (p64 p 32))) = false := by
    have noFlag : (!decide (p8 p 18 / 4 = 1) && decide (p16 p 20 ≠ 0)) = false := by
      by_cases enabled : p8 p 18 / 4 = 1
      · rw [decide_eq_true enabled]
        rfl
      · rw [unused (by omega)]
        simp
    rw [countWord_ok prod, noFlag, base, decide_eq_false (by omega), decide_eq_false (by omega), decide_eq_false (by omega),
      decide_eq_false (by omega), decide_eq_false (by omega), decide_eq_false (by omega)]
    rfl
  have rings : (if decide (p8 p 18 / 4 = 1) = true then flagPhys s (pkRoom p) (p16 p 20) else none) = fl
      ∧ (decide (p8 p 18 / 4 = 1) && fl.isNone) = false ∧ ∀ f, fl = some f → (s.flag f).dbSq.isSome = false := by
    by_cases enabled : p8 p 18 / 4 = 1
    · obtain ⟨f, rfl, mapped, unrung⟩ := flagged enabled
      rw [decide_eq_true enabled]
      exact ⟨mapped, rfl, fun f' same => by rw [← Option.some.inj same, unrung]; rfl⟩
    · rw [decide_eq_false enabled, unflagged (by omega)]
      exact ⟨rfl, rfl, fun f' none => nomatch none⟩
  obtain ⟨ringFlag, found, unrung⟩ := rings
  have admitted : (decide (pkRoom p ≠ 0) && decide ((s.room (pkRoom p)).maxSq ≤ (roomSqs s (pkRoom p)).length)
      || decide (1024 ≤ ((s.sqs.filter (·.2.valid)).map (·.1)).length)) = false := by
    rw [List.length_map, quota_free quota, decide_eq_false (not_le.2 places)]
    rfl
  have windows : (inWindows s (pkRoom p) (p64 p 24) (2 ^ p8 p 17 * 64)
      && (decide (p8 p 18 % 2 = 1) || inWindows s (pkRoom p) (p64 p 32) 4)) = true := by
    rw [ring, count_inside count]
    rfl
  unfold sqCreate
  dsimp only
  rw [parity, if_neg (ne_true_of_eq_false inRange), if_neg (by rw [roomExists_of room]; decide),
    if_neg (by rw [free]; decide), bound]
  dsimp only
  rw [ringFlag, if_neg (ne_true_of_eq_false found), if_neg (ne_true_of_eq_false admitted)]
  cases fl with
  | none =>
    rw [if_neg Bool.false_ne_true, if_neg (by rw [windows]; decide)]
    rfl
  | some f =>
    rw [if_neg (ne_true_of_eq_false (unrung f rfl)), if_neg (by rw [windows]; decide)]
    rfl

/-- That the Foyer took the packet does not touch what the queue's definition writes. -/
theorem sqDefined_noteTaken (p : BitVec 512) (g cq : Nat) (fl : Option Nat) (k : Nat) (o : BitVec 16) (s : State) :
    sqDefined p g cq fl (noteTaken k o s) = noteTaken k o (sqDefined p g cq fl s) := by
  cases fl <;> rfl

/-- An accepted SQ_CREATE whose queue the Room can have defines it and answers its number (R224, R283). -/
theorem sqCreate_answers {k cq : Nat} {p : BitVec 512} {s : State} {fl : Option Nat} (wf : s.wf = true)
    (h : Accepted s k p 0x0020) (hp : SqParams p) (hs : SqFits p s cq fl) :
    Answers k p St.ok 0 (BitVec.ofNat 64 (lowestSq s)) 0 s (sqDefined p (lowestSq s) cq fl s)
      (takePacket 0x0020 k p (sqCreate k p) s) := by
  have fits : SqFits p (noteTaken k 0x0020 s) cq fl := ⟨hs.room, hs.free, hs.bound, hs.unflagged, hs.flagged, hs.quota,
    hs.places, hs.ring, hs.count⟩
  have created := sqCreate_creates (k := k) hp fits
  rw [sqDefined_noteTaken] at created
  have canonical : (sqDefined p (lowestSq s) cq fl s).wf = true := by
    cases fl with
    | none => exact State.wf_setSq _ _ wf
    | some f => exact State.wf_setFlag _ _ (State.wf_setSq _ _ wf)
  have kept : (sqDefined p (lowestSq s) cq fl s).rings = s.rings ∧ (sqDefined p (lowestSq s) cq fl s).pcie = s.pcie := by
    cases fl <;> exact ⟨rfl, rfl⟩
  exact answers_takePacket h canonical kept.1 kept.2 created

/-! ### CQ_CREATE and CQ_DESTROY (R285) -/

/-- The parameters of a CQ_CREATE lie in their ranges (R192, R285). -/
structure CqParams (p : BitVec 512) : Prop where
  loc : p8 p 16 ≤ 63
  low : 4 ≤ p8 p 17
  high : p8 p 17 ≤ 16
  vector : p8 p 19 < vectorLimit (pkRoom p)
  base : ringBaseOk (p64 p 24) (2 ^ p8 p 17 * 32) = true
  head : countAddrOk (p64 p 32) = true
  tail : if p8 p 18 % 2 = 1 then p64 p 40 = 0 else countAddrOk (p64 p 40) = true

/-- The Room can have the queue of a CQ_CREATE: its name is free, its quota is not used up, and its ring lies in the Room's
windows (R285). -/
structure CqFits (p : BitVec 512) (s : State) : Prop where
  room : (s.room (pkRoom p)).state ≠ .none
  free : cqByLocal s (pkRoom p) (p8 p 16) = none
  quota : pkRoom p = 0 ∨ (roomCqs s (pkRoom p)).length < (s.room (pkRoom p)).maxCq
  places : (s.cqs.filter (·.2.valid)).length < 1024
  ring : inWindows s (pkRoom p) (p64 p 24) (2 ^ p8 p 17 * 32) = true
  head : inWindows s (pkRoom p) (p64 p 32) 4 = true
  tail : p8 p 18 % 2 = 1 ∨ inWindows s (pkRoom p) (p64 p 40) 4 = true

/-- The record of the queue that a CQ_CREATE defines (R285). -/
def newCq (p : BitVec 512) : Cq where
  valid := true
  base := p64 p 24
  log2 := BitVec.ofNat 5 (p8 p 17)
  phaseMode := p8 p 18 % 2 = 1
  room := BitVec.ofNat 6 (pkRoom p)
  loc := BitVec.ofNat 6 (p8 p 16)
  headAddr := p64 p 32
  tailAddr := p64 p 40
  vector := BitVec.ofNat 8 (p8 p 19)
  irqEn := p8 p 18 / 2 % 2 = 1
  irqCount := if p16 p 20 = 0 then 1 else BitVec.ofNat 16 (p16 p 20)
  delayUs := BitVec.ofNat 16 (p16 p 22)

/-- The lowest CQ number that no queue has. -/
def lowestCq (s : State) : Nat := lowest ((s.cqs.filter (·.2.valid)).map (·.1))

theorem cqCreate_creates {k : Nat} {p : BitVec 512} {s : State} (hp : CqParams p) (hs : CqFits p s) :
    cqCreate k p s = cmdOk k p (BitVec.ofNat 64 (lowestCq s)) 0 (s.setCq (lowestCq s) (newCq p)) := by
  obtain ⟨loc, low, high, vector, base, headAddr, tailAddr⟩ := hp
  obtain ⟨room, free, quota, places, ring, head, tail⟩ := hs
  have inRange : (decide (63 < p8 p 16) || decide (p8 p 17 < 4) || decide (16 < p8 p 17)
      || decide (vectorLimit (pkRoom p) ≤ p8 p 19) || !ringBaseOk (p64 p 24) (2 ^ p8 p 17 * 32)
      || !countAddrOk (p64 p 32)
      || (if decide (p8 p 18 % 2 = 1) = true then decide (p64 p 40 ≠ 0) else !countAddrOk (p64 p 40))) = false := by
    rw [countWord_ok tailAddr, headAddr, base, decide_eq_false (by omega), decide_eq_false (by omega),
      decide_eq_false (by omega), decide_eq_false (by omega)]
    rfl
  have admitted : (decide (pkRoom p ≠ 0) && decide ((s.room (pkRoom p)).maxCq ≤ (roomCqs s (pkRoom p)).length)
      || decide (1024 ≤ ((s.cqs.filter (·.2.valid)).map (·.1)).length)) = false := by
    rw [List.length_map, quota_free quota, decide_eq_false (not_le.2 places)]
    rfl
  have windows : (inWindows s (pkRoom p) (p64 p 24) (2 ^ p8 p 17 * 32) && inWindows s (pkRoom p) (p64 p 32) 4
      && (decide (p8 p 18 % 2 = 1) || inWindows s (pkRoom p) (p64 p 40) 4)) = true := by
    rw [ring, head, count_inside tail]
    rfl
  unfold cqCreate
  dsimp only
  rw [if_neg (ne_true_of_eq_false inRange), if_neg (by rw [roomExists_of room]; decide), if_neg (by rw [free]; decide),
    if_neg (ne_true_of_eq_false admitted), if_neg (by rw [windows]; decide)]
  rfl

/-- An accepted CQ_CREATE whose queue the Room can have defines it and answers its number (R285). -/
theorem cqCreate_answers {k : Nat} {p : BitVec 512} {s : State} (wf : s.wf = true) (h : Accepted s k p 0x0022)
    (hp : CqParams p) (hs : CqFits p s) :
    Answers k p St.ok 0 (BitVec.ofNat 64 (lowestCq s)) 0 s (s.setCq (lowestCq s) (newCq p))
      (takePacket 0x0022 k p (cqCreate k p) s) :=
  have fits : CqFits p (noteTaken k 0x0022 s) := ⟨hs.room, hs.free, hs.quota, hs.places, hs.ring, hs.head, hs.tail⟩
  answers_takePacket h (State.wf_setCq _ _ wf) rfl rfl (cqCreate_creates hp fits)

theorem cqDestroy_destroys {k i : Nat} {p : BitVec 512} {s : State} (range : p8 p 16 ≤ 63)
    (room : (s.room (pkRoom p)).state ≠ .none) (found : cqByLocal s (pkRoom p) (p8 p 16) = some i)
    (unused : ∀ q ∈ s.sqs, q.2.valid = true → q.2.cq.toNat ≠ i) : cqDestroy k p s = cmdOk k p 0 0 (s.setCq i {}) := by
  have idle : (s.sqs.any fun q => q.2.valid && decide (q.2.cq.toNat = i)) = false :=
    List.any_eq_false.2 fun q listed used => by
      rw [Bool.and_eq_true, decide_eq_true_eq] at used
      exact unused q listed used.1 used.2
  unfold cqDestroy
  dsimp only
  rw [if_neg (not_lt.2 range), if_neg (by rw [roomExists_of room]; decide), found]
  dsimp only
  rw [if_neg (ne_true_of_eq_false idle)]

/-- An accepted CQ_DESTROY of a queue that no SQ names takes effect at once (R285). -/
theorem cqDestroy_answers {k i : Nat} {p : BitVec 512} {s : State} (wf : s.wf = true) (h : Accepted s k p 0x0023)
    (range : p8 p 16 ≤ 63) (room : (s.room (pkRoom p)).state ≠ .none)
    (found : cqByLocal s (pkRoom p) (p8 p 16) = some i) (unused : ∀ q ∈ s.sqs, q.2.valid = true → q.2.cq.toNat ≠ i) :
    Answers k p St.ok 0 0 0 s (s.setCq i {}) (takePacket 0x0023 k p (cqDestroy k p) s) :=
  answers_takePacket h (State.wf_setCq _ _ wf) rfl rfl
    (cqDestroy_destroys (s := noteTaken k 0x0023 s) range room found unused)

/-! ### SQ_RESUME (R232, R286) -/

/-- The record of a queue that is no longer halted; its wait is over (R232). -/
def resumedSq (q : Sq) : Sq := { q with halted := false, latchedValid := false, waitCause := 0 }

/-- A queue that SQ_RESUME let go on starts again from CONS with nothing cached (R232, R286). -/
theorem resume_sq {g : Nat} {s : State} (valid : (s.sq g).valid = true) :
    (invalidate g (s.setSq g (resumedSq (s.sq g)))).sq g = discarded (resumedSq (s.sq g)) := by
  rw [(invalidate_discards g _).1, setSq_sq_valid (q := resumedSq (s.sq g)) valid]

theorem sqResume_resumes {k g : Nat} {p : BitVec 512} {s : State} (range : p8 p 16 ≤ 63)
    (room : (s.room (pkRoom p)).state ≠ .none) (found : sqByLocal s (pkRoom p) (p8 p 16) = some g)
    (valid : (s.sq g).valid = true) (halted : (s.sq g).halted = true) :
    sqResume k p s = cmdOk k p ((s.sq g).cons.setWidth 64) 0 (invalidate g (s.setSq g (resumedSq (s.sq g)))) := by
  have cons : ((invalidate g (s.setSq g (resumedSq (s.sq g)))).sq g).cons = (s.sq g).cons :=
    (congrArg Sq.cons (resume_sq valid) :)
  unfold sqResume
  dsimp only
  rw [if_neg (not_lt.2 range), if_neg (by rw [roomExists_of room]; decide), found]
  dsimp only
  rw [if_pos halted]
  exact congrArg (fun x : BitVec 32 => cmdOk k p (x.setWidth 64) 0 _) cons

/-- That the Foyer took the packet does not touch what SQ_RESUME writes. -/
theorem resume_noteTaken (g k : Nat) (o : BitVec 16) (s : State) :
    invalidate g ((noteTaken k o s).setSq g (resumedSq ((noteTaken k o s).sq g)))
      = noteTaken k o (invalidate g (s.setSq g (resumedSq (s.sq g)))) := by
  rw [sq_noteTaken, setSq_noteTaken, invalidate_noteTaken]

/-- An accepted SQ_RESUME of a halted queue ends the halt at once and answers CONS (R232, R286). -/
theorem sqResume_answers {k g : Nat} {p : BitVec 512} {s : State} (wf : s.wf = true) (h : Accepted s k p 0x0024)
    (range : p8 p 16 ≤ 63) (room : (s.room (pkRoom p)).state ≠ .none)
    (found : sqByLocal s (pkRoom p) (p8 p 16) = some g) (halted : (s.sq g).halted = true) :
    Answers k p St.ok 0 ((s.sq g).cons.setWidth 64) 0 s (invalidate g (s.setSq g (resumedSq (s.sq g))))
      (takePacket 0x0024 k p (sqResume k p) s) := by
  have valid := sqByLocal_valid ((wf_iff s).1 wf).sqs found
  have resumes := sqResume_resumes (k := k) (s := noteTaken k 0x0024 s) range room found valid halted
  rw [resume_noteTaken] at resumes
  obtain ⟨rings, pcie⟩ := invalidate_reaches g (s.setSq g (resumedSq (s.sq g)))
  exact answers_takePacket h (wf_invalidate g (State.wf_setSq _ _ wf)) rings pcie resumes

/-! ### SQ_DESTROY (R284) -/

/-- Writing back what an index of a canonical table reads leaves the table. -/
theorem tset_tget {α : Type} [DecidableEq α] {d : α} {t : Table α} (k : Nat) (h : tableWf d t = true) :
    tset t d k (tget t d k) = t := by
  induction t with
  | nil => simp [tset, tget, tdel]
  | cons p r ih =>
    obtain ⟨listed, above, rest⟩ := (tableWf_cons d p r).1 h
    by_cases here : p.1 = k
    · subst here
      simp [tset, tget, tput, listed]
    · by_cases before : k < p.1
      · have unlisted : tget r d k = d := tget_of_lt fun q hq => before.trans (above q hq)
        simp [tset, tget, tdel, here, before, unlisted]
      · have later := ih rest
        unfold tset at later ⊢
        by_cases default : tget r d k = d
        · rw [if_pos default] at later
          simp [tget, tdel, here, before, default, later]
        · rw [if_neg default] at later
          simp [tget, tput, here, before, default, later]

theorem setCq_cq_self {s : State} (i : Nat) (h : tableWf {} s.cqs = true) : s.setCq i (s.cq i) = s :=
  congrArg (fun x : Table Cq => { s with cqs := x }) (tset_tget i h)

/-- The record of a queue that is being destroyed: its cached entries are discarded (R284). -/
def closing (q : Sq) : Sq :=
  { q with cache := [], scanning := false, dbPending := false, admClosed := true, destroying := true }

/-- An SQ_DESTROY closes queue g: it discards the cached entries and admits no more (R284). -/
def closeSq (g : Nat) (s : State) : State :=
  (discardCache g s).setSq g { (discardCache g s).sq g with admClosed := true, destroying := true }

theorem discardCache_sq {g : Nat} {s : State} (valid : (s.sq g).valid = true) :
    (discardCache g s).sq g = { s.sq g with cache := [], scanning := false, dbPending := false } :=
  setSq_sq_valid valid

theorem closeSq_sq {g : Nat} {s : State} (valid : (s.sq g).valid = true) : (closeSq g s).sq g = closing (s.sq g) := by
  unfold closeSq
  rw [discardCache_sq valid]
  exact setSq_sq_valid valid

/-- A queue that is closed and has nothing outstanding is gone (R284). -/
theorem finishDestroy_finishes {g : Nat} {s : State} (wf : s.wf = true) (destroying : (s.sq g).destroying = true)
    (dispatched : (s.sq g).dispatched = []) (reports : (s.sq g).reports = []) (unflagged : (s.sq g).dbFlagEn = false) :
    finishDestroy g s = s.setSq g {} := by
  have kept := setCq_cq_self (s.sq g).cq.toNat ((wf_iff s).1 wf).cqs
  unfold finishDestroy
  dsimp only
  rw [if_pos (by rw [destroying, dispatched, reports]; rfl), if_neg (by rw [unflagged]; decide), reports]
  exact congrArg (State.setSq · g {}) kept

theorem finishDestroy_waits {g : Nat} {s : State} (dispatched : (s.sq g).dispatched ≠ []) : finishDestroy g s = s := by
  unfold finishDestroy
  dsimp only
  rw [if_neg (by simp [dispatched])]

section
variable {k g : Nat} {p : BitVec 512} {s : State} (range : p8 p 16 ≤ 63) (room : (s.room (pkRoom p)).state ≠ .none)
  (found : sqByLocal s (pkRoom p) (p8 p 16) = some g) (valid : (s.sq g).valid = true) (unforced : pkForce p = false)
  (fresh : (s.sq g).destroying = false)
include range room found unforced fresh

/-- An SQ_DESTROY without FORCE closes its queue, and ends it if nothing is outstanding (R284). -/
theorem sqDestroy_closes : sqDestroy k p s =
    let t := finishDestroy g (closeSq g s)
    let n := BitVec.ofNat 64 (s.sq g).cache.length
    if !(t.sq g).valid then cmdOk k p n 0 t
    else { t with fy := { t.fy with longs := t.fy.longs
      ++ [{ ring := k, packet := p, start := t.now, awaits := [g], result0 := n }] } } := by
  unfold sqDestroy
  dsimp only
  rw [if_neg (not_lt.2 range), if_neg (by rw [roomExists_of room]; decide), found]
  dsimp only
  rw [if_neg (by rw [fresh]; decide), unforced, if_neg Bool.false_ne_true]
  rfl

include valid

theorem sqDestroy_ends (wf : s.wf = true) (dispatched : (s.sq g).dispatched = []) (reports : (s.sq g).reports = [])
    (unflagged : (s.sq g).dbFlagEn = false) :
    sqDestroy k p s = cmdOk k p (BitVec.ofNat 64 (s.sq g).cache.length) 0 ((discardCache g s).setSq g {}) := by
  have closed := closeSq_sq valid
  have canonical : (closeSq g s).wf = true := State.wf_setSq _ _ (wf_discardCache g wf)
  have defined : ((discardCache g s).sq g).valid = true := by rw [discardCache_sq valid]; exact valid
  have ended : finishDestroy g (closeSq g s) = (discardCache g s).setSq g {} :=
    (finishDestroy_finishes canonical (by rw [closed]; rfl) (by rw [closed]; exact dispatched)
      (by rw [closed]; exact reports) (by rw [closed]; exact unflagged)).trans (setSq_setSq defined)
  have gone : (((discardCache g s).setSq g {}).sq g).valid = false := by
    rw [State.setSq_sq_eq _ _ ((wf_iff _).1 (wf_discardCache g wf)).sqs]
  rw [sqDestroy_closes range room found unforced fresh]
  dsimp only
  rw [ended, if_pos (by rw [gone]; rfl)]

theorem sqDestroy_waits (dispatched : (s.sq g).dispatched ≠ []) : let t := sqDestroy k p s
    t.sq g = closing (s.sq g) ∧ t.fy.longs.length = s.fy.longs.length + 1 := by
  have closed := closeSq_sq valid
  have waits := finishDestroy_waits (g := g) (s := closeSq g s) (by rw [closed]; exact dispatched)
  intro t
  have ends : t = _ := sqDestroy_closes range room found unforced fresh
  dsimp only at ends
  rw [waits, if_neg (by rw [closed]; exact fun gone => by simp [closing, valid] at gone)] at ends
  rw [ends]
  exact ⟨closed, List.length_append⟩

end

theorem destroy_noteTaken (g k : Nat) (o : BitVec 16) (s : State) :
    (discardCache g (noteTaken k o s)).setSq g {} = noteTaken k o ((discardCache g s).setSq g {}) := by
  rw [discardCache_noteTaken, setSq_noteTaken]

section
variable {k g : Nat} {p : BitVec 512} {s : State} (wf : s.wf = true) (h : Accepted s k p 0x0021)
  (long : longFree s = true) (range : p8 p 16 ≤ 63) (room : (s.room (pkRoom p)).state ≠ .none)
  (found : sqByLocal s (pkRoom p) (p8 p 16) = some g) (unforced : pkForce p = false)
  (fresh : (s.sq g).destroying = false)
include wf h long range room found unforced fresh

/-- An accepted SQ_DESTROY of a queue with nothing outstanding takes effect at once (R284). -/
theorem sqDestroy_answers (dispatched : (s.sq g).dispatched = []) (reports : (s.sq g).reports = [])
    (unflagged : (s.sq g).dbFlagEn = false) :
    Answers k p St.ok 0 (BitVec.ofNat 64 (s.sq g).cache.length) 0 s ((discardCache g s).setSq g {})
      (takeLong 0x0021 k p (sqDestroy k p) s) := by
  have valid := sqByLocal_valid ((wf_iff s).1 wf).sqs found
  have taken : (noteTaken k 0x0021 s).wf = true := by
    have canonical := (wf_iff s).1 wf
    exact (wf_iff _).2 { canonical with rings := tableWf_tset _ _ canonical.rings }
  have ends := sqDestroy_ends (k := k) (s := noteTaken k 0x0021 s) range room found valid unforced fresh taken dispatched
    reports unflagged
  rw [destroy_noteTaken] at ends
  rw [takeLong, if_pos long]
  obtain ⟨rings, pcie⟩ := discardCache_reaches g s
  exact answers_takePacket h (State.wf_setSq _ _ (wf_discardCache g wf)) rings pcie ends

/-- An accepted SQ_DESTROY of a queue with dispatched entries closes it and waits for them as a long command (R284). -/
theorem sqDestroy_pending (dispatched : (s.sq g).dispatched ≠ []) :
    let t := takeLong 0x0021 k p (sqDestroy k p) s
    t.sq g = closing (s.sq g) ∧ t.fy.longs.length = s.fy.longs.length + 1 := by
  have valid := sqByLocal_valid ((wf_iff s).1 wf).sqs found
  intro t
  rw [show t = _ from takeLong_of _ long h]
  exact sqDestroy_waits (s := noteTaken k 0x0021 s) range room found valid unforced fresh dispatched

end

/-! ### The obligation -/

/-- Settles O31: each command passes its checks, its own effect is the record that it writes, and the reply is the only
other change. -/
theorem queuesAreDefined : Obligations.QueuesAreDefined := by
  intro k p s wf room r
  refine ⟨?sqCreate, ?cqCreate, ?cqDestroy, ?sqResume, ?sqDestroy⟩
  case sqCreate =>
    intro cq fl h loc low high mode cqLoc flag prio base prod unflagged flagged free bound quota places ring count g q
    have params : SqParams p := ⟨loc, low, high, mode, cqLoc, flag, prio, base, prod, fun off => (unflagged off).1⟩
    have fits : SqFits p s cq fl := ⟨room, free, bound, fun off => (unflagged off).2, flagged, quota, places, ring, count⟩
    have answers := sqCreate_answers wf h params fits
    cases fl <;> exact ⟨_, rfl, answers⟩
  case cqCreate =>
    intro h loc low high _ vector base head tail free quota places ring headIn tailIn i
    have params : CqParams p := ⟨loc, low, high, vector, base, head, tail⟩
    exact ⟨_, rfl, cqCreate_answers wf h params ⟨room, free, quota, places, ring, headIn, tailIn⟩⟩
  case cqDestroy =>
    intro i h range found unused
    exact ⟨_, rfl, cqDestroy_answers wf h range room found unused⟩
  case sqResume =>
    intro g h range found halted
    have answers := sqResume_answers wf h range room found halted
    have sq := (answers_sq answers g).trans (resume_sq (sqByLocal_valid ((wf_iff s).1 wf).sqs found))
    refine ⟨_, rfl, answers, ?_⟩
    rw [sq]
    exact ⟨rfl, rfl, rfl, rfl⟩
  case sqDestroy =>
    intro g h long range found unforced fresh unflagged
    constructor
    · intro dispatched reports
      have answers := sqDestroy_answers wf h long range room found unforced fresh dispatched reports unflagged
      have gone := State.setSq_sq_eq g {} ((wf_iff _).1 (wf_discardCache g wf)).sqs
      exact ⟨_, rfl, (answers_sq answers g).trans gone, answers⟩
    · intro dispatched
      obtain ⟨sq, longs⟩ := sqDestroy_pending wf h long range room found unforced fresh dispatched
      refine ⟨_, rfl, ?_⟩
      rw [sq]
      exact ⟨rfl, rfl, rfl, rfl, longs⟩

end Sys2Proof.Machine
end

section
/-! SUPPORT. The replies of commands, whatever their status, and the long commands that end: what they write and what they
leave (06 R260, R262 to R264, R272, R313). -/
namespace Sys2Proof.Machine

/-! ### What differs in a reply only -/

theorem ReplyOnly.refl (s : State) : ReplyOnly s s := rfl

/-! ### Host memory stays canonical -/

/-- Host memory is in its canonical form. -/
abbrev HostWf (s : State) : Prop := Memory.wf s.host = true

theorem hostWf_of {s : State} (h : s.wf = true) : HostWf s := ((wf_iff s).1 h).host

theorem hostWf_hostPut {s : State} (h : HostWf s) (fn a : Nat) (bs : List Byte) : HostWf (hostPut s fn a bs).1 := by
  unfold hostPut
  split
  · exact wf_mwrite _ _ h
  · exact h

theorem pfCause_host (bit : Nat) (vec : Byte) (s : State) : (pfCause bit vec s).host = s.host := by
  unfold pfCause
  dsimp only
  split
  · rfl
  · exact sendMsix_host ..

theorem hostWf_sendMsix {s : State} (h : HostWf s) (fn vec : Nat) : HostWf (sendMsix fn vec s) := by
  rw [HostWf, sendMsix_host]
  exact h

theorem hostWf_auditRec {s : State} (h : HostWf s) (r : ErrRec) : HostWf (auditRec r s) := by
  unfold auditRec
  dsimp only
  split
  · exact h
  · have put := hostWf_hostPut h 0 ((s.audit.base.toNat % 2 ^ 60) + (s.audit.tail.toNat % s.audit.size) * 64)
      (r.bytes s.stamp s.audit.seq)
    split
    all_goals
      rename_i s1 e
      rw [e] at put
      split
      · rw [HostWf, pfCause_host]
        exact put
      · exact put

theorem hostWf_logIrq {s : State} (h : HostWf s) (k : Nat) (sev : BitVec 3) : HostWf (logIrq k sev s) := by
  unfold logIrq
  dsimp only
  split
  · split
    · exact h
    · exact hostWf_sendMsix (s := s.setLog k _) h ..
  · exact h

theorem hostWf_faultLogRec {s : State} (h : HostWf s) (k : Nat) (r : ErrRec) : HostWf (faultLogRec k r s) := by
  unfold faultLogRec
  dsimp only
  split
  · exact h
  · have put := hostWf_hostPut h k (((s.log k).base.toNat % 2 ^ 60) + ((s.log k).tail.toNat % (s.log k).size) * 64)
      (r.bytes s.stamp (s.log k).seq)
    split
    all_goals
      rename_i s1 e
      rw [e] at put
    · exact hostWf_logIrq (s := s1.setLog k _) put ..
    · exact hostWf_auditRec (s := s1.setLog k _) put ..

theorem hostWf_roomRec {s : State} (h : HostWf s) (k : Nat) (r : ErrRec) : HostWf (roomRec k r s) := by
  unfold roomRec
  split
  · exact h
  · exact hostWf_faultLogRec h ..

theorem hostWf_auditPacket {s : State} (h : HostWf s) (k : Nat) (p : BitVec 512) (st : Byte) (dt : BitVec 16)
    (r0 r1 : Word) : HostWf (auditPacket k p st dt r0 r1 s) := by
  unfold auditPacket
  dsimp only
  split
  · exact hostWf_auditRec h _
  · exact h

/-! ### The reply of a command -/

/-- A function reaches Host memory as before where its enables are as before. -/
theorem hostReach_of_bus {s t : State} (h : busPart t = busPart s) (fn : Nat) : hostReach t fn = hostReach s fn := by
  unfold hostReach fnExists
  rw [busPart_pcie h]

/-- The reply of a command whose ring still wants it: CONS advances, and nothing but a reply and an audit record
changes (R260, R262, R264, R313). -/
theorem cmdReply_spec {k : Nat} {s : State} (p : BitVec 512) (st : Byte) (dt : BitVec 16) (r0 r1 : Word)
    (enable : (s.ring k).enable = true) (error : (s.ring k).ringError = false) (reach : hostReach s k = true)
    (host : HostWf s) : let t := cmdReply k p st dt r0 r1 s
    ReplyOnly s t ∧ mread t.host (hostKey k (replySlot (s.ring k))) 32 = replyBytes (s.ring k).replyPhase p st dt r0 r1
      ∧ t.rings = tset s.rings {} k (ringAnswered (s.ring k)) ∧ t.fy = s.fy := by
  obtain ⟨only, rings, reach', fy, -⟩ := auditPacket_spec k p st dt r0 r1 s
  have host' := hostWf_auditPacket host k p st dt r0 r1
  unfold cmdReply
  generalize auditPacket k p st dt r0 r1 s = v at only rings reach' fy host' ⊢
  have ring : v.ring k = s.ring k := ring_congr rings k
  obtain ⟨only', reply, rings', fy'⟩ := writeReply_spec p st dt r0 r1 (by rw [ring]; exact enable)
    (by rw [ring]; exact error) ((reach' k).trans reach) host'
  rw [ring] at reply rings'
  exact ⟨only.trans only', reply, rings'.trans (by rw [rings]), fy'.trans fy⟩

/-- The ring that is answered reads as answered, and no other ring changes (R260). -/
theorem ringAnswered_read {s t : State} {k : Nat} {r : Ring} (enable : r.enable = true)
    (rings : t.rings = tset s.rings {} k (ringAnswered r)) :
    (t.ring k).cons = r.cons + 1 ∧ ∀ j, j ≠ k → t.ring j = s.ring j := by
  constructor
  · rw [State.ring, rings, tget_tset_of_ne _ _ fun default => by
      have off : r.enable = false := congrArg Ring.enable default
      simp [enable] at off]
    rfl
  · intro j other
    rw [State.ring, rings, tget_tset_ne _ _ _ other]
    rfl

/-- The ring of a packet just taken: only LAST_OPCODE has changed (R316). -/
theorem noteTaken_ring {s : State} {k : Nat} (enable : (s.ring k).enable = true) (o : BitVec 16) :
    (noteTaken k o s).ring k = { s.ring k with lastOpcode := o } :=
  tget_tset_of_ne _ _ fun default => by
    have off : (s.ring k).enable = false := congrArg Ring.enable default
    simp [enable] at off

section
variable {s e u : State} {k : Nat} {p : BitVec 512} {o : BitVec 16} (h : Accepted s k p o)
include h

/-- A packet that has been taken ends with the reply of a state u that differs from e, the command's effect, at most in
what a reply may change. -/
theorem answers_cmdReply (rings : u.rings = (noteTaken k o s).rings) (reach : hostReach u k = true) (host : HostWf u)
    (opcode : u.fy.lastOpcode = o) (only : ReplyOnly e u) (st : Byte) (dt : BitVec 16) (r0 r1 : Word) :
    Answers k p st dt r0 r1 s e (cmdReply k p st dt r0 r1 u) := by
  obtain ⟨enable, error⟩ := accepted_ring h
  have ring : u.ring k = { s.ring k with lastOpcode := o } := (ring_congr rings k).trans (noteTaken_ring enable o)
  obtain ⟨only', reply, rings', fy⟩ := cmdReply_spec p st dt r0 r1 (by rw [ring]; exact enable) (by rw [ring]; exact error)
    reach host
  obtain ⟨cons, others⟩ := ringAnswered_read (by rw [ring]; exact enable) rings'
  rw [ring] at reply cons
  refine ⟨only.trans only', reply, cons, fun j other => ?_, ?_⟩
  · rw [others j other, ring_congr rings]
    exact tget_tset_ne _ _ _ other
  · rw [fy, opcode]
    exact h.2.2.2.1.symm

/-- The command's body ends OK in the state u. -/
theorem answers_ok {body : State → State} {r0 r1 : Word} (hb : body (noteTaken k o s) = cmdOk k p r0 r1 u)
    (rings : u.rings = (noteTaken k o s).rings) (bus : busPart u = busPart s) (host : HostWf u)
    (opcode : u.fy.lastOpcode = o) (only : ReplyOnly e u) :
    Answers k p St.ok 0 r0 r1 s e (takePacket o k p body s) := by
  rw [takePacket_of body h, hb]
  exact answers_cmdReply h rings ((hostReach_of_bus bus k).trans h.2.1) host opcode only ..

/-- The command's body ends OK and its own effect is that the packet was taken, or is read off the state as it was. -/
theorem answers_noted {body : State → State} {r0 r1 : Word} (hb : body (noteTaken k o s) = cmdOk k p r0 r1 (noteTaken k o e))
    (rings : e.rings = s.rings) (bus : busPart e = busPart s) (host : HostWf e) :
    Answers k p St.ok 0 r0 r1 s e (takePacket o k p body s) := by
  refine answers_ok h hb ?_ bus host rfl (replyOnly_noteTaken k o e)
  show tset e.rings {} k { e.ring k with lastOpcode := o } = _
  rw [ring_congr rings, rings]
  rfl

end

/-! ### What the end of commands leaves of the block -/

/-- What replies, records and the ends of long commands may change, taken from t, and everything else from s. -/
def withEnds (t s : State) : State :=
  { withReply t s with logs := t.logs, fy := { (withReply t s).fy with longs := t.fy.longs } }

/-- t differs from s at most in what replies, records and the ends of long commands change. -/
def Ended (s t : State) : Prop := t = withEnds t s

theorem Ended.trans {s t u : State} (h : Ended s t) (g : Ended t u) : Ended s u :=
  calc u = withEnds u t := g
    _ = withEnds u (withEnds t s) := congrArg (withEnds u) h
    _ = withEnds u s := rfl

theorem ended_of_recorded {s t : State} (h : Recorded s t) : Ended s t := by
  have put : withEnds t { t with
      host := s.host, audit := s.audit, logs := s.logs, outputs := s.outputs, msix := s.msix
      g := { t.g with irqStatus := s.g.irqStatus } } = t := rfl
  unfold Recorded at h
  rw [h] at put
  exact put.symm

theorem ended_rings (s : State) (x : Table Ring) : Ended s { s with rings := x } := rfl

theorem ended_longs (s : State) (x : List LongCmd) : Ended s { s with fy := { s.fy with longs := x } } := rfl

theorem ended_foldl {α : Type} {f : State → α → State} (h : ∀ t a, Ended t (f t a)) (l : List α) (s : State) :
    Ended s (l.foldl f s) :=
  List.foldlRecOn (motive := Ended s) l f rfl fun t ht a _ => ht.trans (h t a)

theorem recorded_ringRec (k : Nat) (r : ErrRec) (s : State) : Recorded s (ringRec k r s) := by
  unfold ringRec
  dsimp only
  split
  · exact recorded_auditRec ..
  · exact recorded_roomRec ..

theorem ended_ringFails (k : Nat) (a : Word) (s : State) : Ended s (ringFails k a s) :=
  (ended_rings s _).trans (ended_of_recorded (recorded_ringRec ..))

theorem recorded_auditPacket (k : Nat) (p : BitVec 512) (st : Byte) (dt : BitVec 16) (r0 r1 : Word) (s : State) :
    Recorded s (auditPacket k p st dt r0 r1 s) := by
  unfold auditPacket
  dsimp only
  split
  · exact recorded_auditRec ..
  · rfl

theorem ended_writeReply (k : Nat) (p : BitVec 512) (st : Byte) (dt : BitVec 16) (r0 r1 : Word) (s : State) :
    Ended s (writeReply k p st dt r0 r1 s) := by
  unfold writeReply
  dsimp only
  split
  · rfl
  · have put := recorded_hostPut s k (replySlot (s.ring k)) (replyBytes (s.ring k).replyPhase p st dt r0 r1)
    split
    all_goals
      rename_i s1 e
      rw [e] at put
    · split
      · exact ((ended_of_recorded put).trans (ended_rings s1 _)).trans (ended_of_recorded (recorded_sendMsix ..))
      · exact (ended_of_recorded put).trans (ended_rings s1 _)
    · exact (ended_of_recorded put).trans (ended_ringFails ..)

theorem ended_cmdReply (k : Nat) (p : BitVec 512) (st : Byte) (dt : BitVec 16) (r0 r1 : Word) (s : State) :
    Ended s (cmdReply k p st dt r0 r1 s) :=
  (ended_of_recorded (recorded_auditPacket ..)).trans (ended_writeReply ..)

theorem ended_endLong (l : LongCmd) (st : Byte) (dt : BitVec 16) (r0 r1 : Word) (s : State) :
    Ended s (endLong l st dt r0 r1 s) := by
  have erased := ended_longs s (s.fy.longs.erase l)
  unfold endLong
  dsimp only
  split
  · exact erased.trans (ended_of_recorded (recorded_auditPacket ..))
  · exact erased.trans (ended_cmdReply ..)

theorem ended_endLongs (sel : LongCmd → Bool) (st : Byte) (dt : BitVec 16) (res : LongCmd → Word × Word) (s : State) :
    Ended s (endLongs sel st dt res s) :=
  ended_foldl (fun _ _ => ended_endLong ..) _ s

/-! ### The long commands that remain -/

theorem recorded_fy {s t : State} (h : Recorded s t) : t.fy = s.fy := by
  unfold Recorded at h
  exact (congrArg State.fy h :)

theorem writeReply_fy (k : Nat) (p : BitVec 512) (st : Byte) (dt : BitVec 16) (r0 r1 : Word) (s : State) :
    (writeReply k p st dt r0 r1 s).fy = s.fy := by
  unfold writeReply
  dsimp only
  split
  · rfl
  · have put := recorded_fy (recorded_hostPut s k (replySlot (s.ring k)) (replyBytes (s.ring k).replyPhase p st dt r0 r1))
    split
    all_goals
      rename_i s1 e
      rw [e] at put
    · split
      · exact (recorded_fy (recorded_sendMsix ..)).trans put
      · exact put
    · exact (recorded_fy (recorded_ringRec ..)).trans put

/-- A long command that ends leaves the list, and no other does (R272). -/
theorem endLong_longs (l : LongCmd) (st : Byte) (dt : BitVec 16) (r0 r1 : Word) (s : State) :
    (endLong l st dt r0 r1 s).fy.longs = s.fy.longs.erase l := by
  have record (t : State) : (auditPacket l.ring l.packet st dt r0 r1 t).fy = t.fy :=
    recorded_fy (recorded_auditPacket ..)
  unfold endLong
  dsimp only
  split
  · rw [record]
  · rw [cmdReply, writeReply_fy, record]

theorem mem_endLongs {sel : LongCmd → Bool} {s : State} {l : LongCmd} (h : l ∈ s.fy.longs) (other : sel l = false)
    (st : Byte) (dt : BitVec 16) (res : LongCmd → Word × Word) : l ∈ (endLongs sel st dt res s).fy.longs := by
  refine List.foldlRecOn (motive := fun t : State => l ∈ t.fy.longs) _ _ h fun t ht x hx => ?_
  have selected : sel x = true := List.of_mem_filter hx
  rw [endLong_longs]
  exact (List.mem_erase_of_ne fun same => by simp [← same, other] at selected).2 ht

end Sys2Proof.Machine
end

section
/-! PROOFS. O28: IDENTIFY, DIAG and BUF_QUERY answer (06 R278, R297, R307). -/
namespace Sys2Proof.Machine

section
variable {k : Nat} {p : BitVec 512} {o : BitVec 16} {s : State} (wf : s.wf = true) (h : Accepted s k p o)
include wf h

/-- A command that reads the state and answers has no other effect. -/
theorem answers_query {body : State → State} {r0 r1 : Word} (hb : body (noteTaken k o s) = cmdOk k p r0 r1 (noteTaken k o s)) :
    Answers k p St.ok 0 r0 r1 s s (takePacket o k p body s) :=
  answers_noted h hb rfl rfl (hostWf_of wf)

end

/-- A DIAG packet of a row's own SUBCODE runs the row's body (R297). -/
theorem takeDiag_of {sub k : Nat} {p : BitVec 512} (row : p8 p 16 = sub) (known : sub ≤ 3) (body : State → State)
    (s : State) : takeDiag sub k p body s = takePacket 0x00F1 k p body s := by
  subst row
  unfold takeDiag
  rw [if_neg (by simp)]
  simp only [if_pos known]

/-- A DIAG row that reads the state and answers has no other effect. -/
theorem answers_diag {k sub : Nat} {p : BitVec 512} {s : State} {body : State → State} {r0 r1 : Word} (wf : s.wf = true)
    (h : Accepted s k p 0x00F1) (row : p8 p 16 = sub) (known : sub ≤ 3)
    (hb : body (noteTaken k 0x00F1 s) = cmdOk k p r0 r1 (noteTaken k 0x00F1 s)) :
    Answers k p St.ok 0 r0 r1 s s (takeDiag sub k p body s) := by
  rw [takeDiag_of row known]
  exact answers_query wf h hb

/-- That the Foyer took a packet does not touch the misuse counts (R309). -/
theorem rollMisuse_noteTaken (k : Nat) (o : BitVec 16) (s : State) :
    rollMisuse (noteTaken k o s) = noteTaken k o (rollMisuse s) := by
  unfold rollMisuse
  dsimp only
  rw [show (noteTaken k o s).fy.misuseSec = s.fy.misuseSec from rfl, show (noteTaken k o s).now = s.now from rfl]
  split <;> rfl

/-- A new second changes the misuse counts alone (R309). -/
theorem rollMisuse_keeps (s : State) : (rollMisuse s).rings = s.rings ∧ busPart (rollMisuse s) = busPart s
    ∧ (rollMisuse s).host = s.host := by
  unfold rollMisuse
  dsimp only
  split <;> exact ⟨rfl, rfl, rfl⟩

/-- Settles O28: a query reads the state and answers; DIAG_MISUSE first lets the second of its counts pass. -/
theorem queriesAnswer : Obligations.QueriesAnswer := by
  intro k p s wf
  refine ⟨?identify, ?echo, ?temperature, ?buffers, ?misuse, ?query⟩
  case identify => exact fun h => ⟨_, rfl, answers_query wf h rfl⟩
  case echo => exact fun h row => ⟨_, rfl, answers_diag wf h row (by decide) rfl⟩
  case temperature => exact fun h row => ⟨_, rfl, answers_diag wf h row (by decide) rfl⟩
  case buffers => exact fun h row => ⟨_, rfl, answers_diag wf h row (by decide) rfl⟩
  case misuse =>
    intro h row
    obtain ⟨rings, bus, host⟩ := rollMisuse_keeps s
    refine ⟨_, rfl, ?_⟩
    rw [takeDiag_of row (by decide)]
    refine answers_noted h ?_ rings bus (by rw [HostWf, host]; exact hostWf_of wf)
    dsimp only
    rw [rollMisuse_noteTaken]
    rfl
  case query =>
    intro b h found mine
    refine ⟨_, rfl, answers_query wf h ?_⟩
    have own : (decide (k.val ≠ 0) && decide (b.room ≠ k.val)) = false := by
      rcases mine with rfl | mine
      · rfl
      · rw [decide_eq_false (not_not.2 mine), Bool.and_false]
    unfold bufQuery
    rw [show currentBuf (noteTaken k 0x0042 s) (p64 p 16) = some b from found]
    dsimp only
    rw [if_neg (ne_true_of_eq_false own)]

end Sys2Proof.Machine
end

section
/-! SUPPORT. What the Foyer's taking of a packet writes, its rings and its note of the round, is read by no wait, no event
and no record: those operations commute with it (06 R272, R316; 03 R142, R153; 08 R383 to R386, R394). -/
namespace Sys2Proof.Machine

/-- The rings, and the Foyer's note of the last opcode and of the round, are those given. -/
def noted (R : Table Ring) (o : BitVec 16) (l : List Nat) (s : State) : State :=
  { s with rings := R, fy := { s.fy with lastOpcode := o, served := l } }

/-- An operation that neither reads nor writes what noted writes commutes with it, and so with the taking of a packet. -/
def Unnoted (f : State → State) : Prop := ∀ R o l s, f (noted R o l s) = noted R o l (f s)

theorem Unnoted.rings {f : State → State} (h : Unnoted f) (s : State) : (f s).rings = s.rings :=
  (congrArg State.rings (h s.rings s.fy.lastOpcode s.fy.served s) :)

theorem Unnoted.served {f : State → State} (h : Unnoted f) (s : State) : (f s).fy.served = s.fy.served :=
  (congrArg (fun t : State => t.fy.served) (h s.rings s.fy.lastOpcode s.fy.served s) :)

theorem Unnoted.noteTaken {f : State → State} (h : Unnoted f) (k : Nat) (o : BitVec 16) (s : State) :
    f (noteTaken k o s) = Machine.noteTaken k o (f s) := by
  unfold Machine.noteTaken
  rw [h.served, ring_congr (h.rings s), h.rings]
  exact h ..

theorem Unnoted.comp {f g : State → State} (hf : Unnoted f) (hg : Unnoted g) : Unnoted fun s => f (g s) := by
  intro R o l s
  dsimp only
  rw [hg, hf]

theorem unnoted_foldl {α : Type} {f : State → α → State} (h : ∀ a, Unnoted fun s => f s a) (l : List α) :
    Unnoted fun s => l.foldl f s := by
  induction l with
  | nil => exact fun _ _ _ _ => rfl
  | cons a r ih => exact ih.comp (h a)

section
variable (R : Table Ring) (o : BitVec 16) (l : List Nat) (s : State)

/-! ### What is read -/

@[simp] theorem noted_chan (c : Nat) : (noted R o l s).chan c = s.chan c := rfl
@[simp] theorem noted_sq (g : Nat) : (noted R o l s).sq g = s.sq g := rfl
@[simp] theorem noted_room (k : Nat) : (noted R o l s).room k = s.room k := rfl
@[simp] theorem noted_wire (w : Nat) : (noted R o l s).wire w = s.wire w := rfl
@[simp] theorem noted_log (k : Nat) : (noted R o l s).log k = s.log k := rfl
@[simp] theorem noted_arbiter (a : Nat) : (noted R o l s).arbiter a = s.arbiter a := rfl
@[simp] theorem noted_waiters : (noted R o l s).waiters = s.waiters := rfl
@[simp] theorem noted_audit : (noted R o l s).audit = s.audit := rfl
@[simp] theorem noted_msix : (noted R o l s).msix = s.msix := rfl
@[simp] theorem noted_err : (noted R o l s).err = s.err := rfl
@[simp] theorem noted_g : (noted R o l s).g = s.g := rfl
@[simp] theorem noted_granules : (noted R o l s).granules = s.granules := rfl
@[simp] theorem noted_now : (noted R o l s).now = s.now := rfl
@[simp] theorem noted_stamp : (noted R o l s).stamp = s.stamp := rfl

/-! ### Records and interrupts -/

theorem audit_noted (x : LogRegs) : ({ noted R o l s with audit := x } : State) = noted R o l { s with audit := x } := rfl

theorem hostPut_noted (fn a : Nat) (bs : List Byte) :
    hostPut (noted R o l s) fn a bs = (noted R o l (hostPut s fn a bs).1, (hostPut s fn a bs).2) := by
  unfold hostPut
  rw [show hostReach (noted R o l s) fn = hostReach s fn from rfl]
  split <;> rfl

end

theorem unnoted_sendMsix (fn vec : Nat) : Unnoted (sendMsix fn vec) := by
  intro R o l s
  unfold sendMsix
  dsimp only
  rw [noted_msix]
  split <;> rfl

theorem unnoted_pfCause (bit : Nat) (vec : Byte) : Unnoted (pfCause bit vec) := by
  intro R o l s
  unfold pfCause
  dsimp only
  rw [noted_g]
  split
  · rfl
  · exact unnoted_sendMsix _ _ R o l { s with g := { s.g with irqStatus := s.g.irqStatus ||| (1#64 <<< bit) } }

theorem unnoted_auditRec (r : ErrRec) : Unnoted (auditRec r) := by
  intro R o l s
  unfold auditRec
  dsimp only
  rw [noted_audit, noted_now, noted_stamp, hostPut_noted]
  split
  · rfl
  · rcases hostPut s 0 ((s.audit.base.toNat % 2 ^ 60) + (s.audit.tail.toNat % s.audit.size) * 64)
      (r.bytes s.stamp s.audit.seq) with ⟨t, _ | _⟩
    all_goals
      dsimp only
      simp only [audit_noted]
      rw [noted_err]
      split
      · exact unnoted_pfCause ..
      · rfl

theorem unnoted_logIrq (k : Nat) (sev : BitVec 3) : Unnoted (logIrq k sev) := by
  intro R o l s
  unfold logIrq
  dsimp only
  rw [noted_log, noted_now]
  split
  · split
    · rfl
    · exact unnoted_sendMsix _ _ R o l (s.setLog k _)
  · rfl

theorem unnoted_faultLogRec (k : Nat) (r : ErrRec) : Unnoted (faultLogRec k r) := by
  intro R o l s
  unfold faultLogRec
  dsimp only
  rw [noted_log, noted_now, noted_stamp, hostPut_noted]
  split
  · rfl
  · rcases hostPut s k (((s.log k).base.toNat % 2 ^ 60) + ((s.log k).tail.toNat % (s.log k).size) * 64)
      (r.bytes s.stamp (s.log k).seq) with ⟨t, _ | _⟩
    · exact unnoted_auditRec _ R o l (t.setLog k _)
    · exact unnoted_logIrq k _ R o l (t.setLog k _)

theorem unnoted_roomRec (k : Nat) (r : ErrRec) : Unnoted (roomRec k r) := by
  intro R o l s
  unfold roomRec
  rw [noted_room]
  split
  · rfl
  · exact unnoted_faultLogRec ..

/-! ### Events, and the end of an instruction -/

theorem unnoted_triggerEvent (c : Nat) : Unnoted (triggerEvent c) := by
  intro R o l s
  unfold triggerEvent
  dsimp only
  rw [noted_chan, noted_waiters]
  split
  · rfl
  · split <;> rfl

theorem unnoted_raiseEvent (c bit : Nat) : Unnoted (raiseEvent c bit) := by
  intro R o l s
  unfold raiseEvent
  dsimp only
  rw [noted_chan]
  have sent (x : Chan) : (if (s.chan c).irqEn.getLsbD bit = true then sendMsix (s.chan c).room.toNat (s.chan c).irqVector.toNat
        ((noted R o l s).setChan c x) else (noted R o l s).setChan c x)
      = noted R o l (if (s.chan c).irqEn.getLsbD bit = true then sendMsix (s.chan c).room.toNat (s.chan c).irqVector.toNat
        (s.setChan c x) else s.setChan c x) := by
    split
    · exact unnoted_sendMsix _ _ R o l (s.setChan c x)
    · rfl
  rw [sent]
  split
  · rfl
  · exact unnoted_foldl (fun d => unnoted_triggerEvent d) _ R o l _

theorem unnoted_completeEntry (g : Nat) (n : Half) (st : Byte) (r : Word) : Unnoted (completeEntry g n st r) := by
  intro R o l s
  unfold completeEntry
  dsimp only
  rw [noted_sq]
  split <;> rfl

theorem unnoted_setChan (c : Nat) (h : Chan) : Unnoted fun s => s.setChan c h := fun _ _ _ _ => rfl

theorem unnoted_entryEnded (e : Option EntryRef) (st : Byte) (r : Word) : Unnoted (entryEnded e st r) := by
  intro R o l s
  unfold entryEnded
  split
  · exact unnoted_completeEntry ..
  · rfl

theorem unnoted_programOver (c : Nat) (st : Byte) (r : Word) : Unnoted (programOver c st r) :=
  fun R o l s => unnoted_entryEnded _ _ _ R o l { s.setChan c (programEnded (s.chan c)) with
    waiters := s.waiters.filter fun w => w.unit != .chan (Fin.ofNat 128 c) }

theorem unnoted_finishProgram (c : Nat) (st : Byte) (r : Word) : Unnoted (finishProgram c st r) := by
  intro R o l s
  rw [finishProgram_eq, finishProgram_eq, noted_chan, unnoted_programOver]
  split
  · rfl
  · exact unnoted_raiseEvent ..

theorem unnoted_endProgram (c : Nat) (st : Byte) (r : Word) : Unnoted (endProgram c st r) := by
  intro R o l s
  unfold endProgram
  dsimp only
  rw [noted_chan]
  split
  · split
    · rfl
    · exact unnoted_finishProgram ..
  · exact unnoted_finishProgram ..

theorem unnoted_advance (c : Nat) : Unnoted (advance c) := by
  intro R o l s
  unfold advance
  dsimp only
  rw [noted_chan]
  split
  · exact unnoted_endProgram ..
  · rfl

theorem unnoted_pokeByte (k : Nat) (a : Word) (b : Byte) : Unnoted (pokeByte k a b) := by
  intro R o l s
  unfold pokeByte
  rw [show translate (noted R o l s) = translate s from rfl, show poolOk (noted R o l s) = poolOk s from rfl]
  split
  · split
    · split <;> rfl
    · rfl
  · split <;> rfl
  · rfl

theorem unnoted_badReport (c : Nat) (i : Bool) (pc : Word) (st : Byte) (r : ErrRec) : Unnoted (badReport c i pc st r) := by
  intro R o l s
  unfold badReport
  dsimp only
  rw [noted_chan]
  cases i
  · rw [if_neg Bool.false_ne_true, if_neg Bool.false_ne_true, unnoted_pokeByte, unnoted_roomRec, unnoted_raiseEvent]
  · rw [if_pos rfl, if_pos rfl, unnoted_roomRec, unnoted_raiseEvent]

theorem unnoted_badSteps (c : Nat) (pc : Word) (op : Byte) (n : Nat) (st : Byte) (r : ErrRec) :
    Unnoted (badSteps c pc op n st r) :=
  fun R o l s => unnoted_badReport _ _ _ _ _ R o l (s.setChan c (badCounts pc op n st (s.chan c)))

theorem unnoted_hostReadOut (fn a n : Nat) : Unnoted (hostReadOut fn a n) := by
  intro R o l s
  unfold hostReadOut
  dsimp only
  rw [show isTranslated (noted R o l s) = isTranslated s from rfl]
  split <;> rfl

theorem unnoted_proveWrites (c : Nat) : Unnoted (proveWrites c) := by
  intro R o l s
  unfold proveWrites
  dsimp only
  rw [noted_chan]
  split
  · rw [← unnoted_hostReadOut]
    rfl
  · rfl

theorem unnoted_markBadRec (c : Nat) (op : Byte) (f : BitVec 16) (n : Nat) (st : Byte) (r : ErrRec) :
    Unnoted (markBadRec c op f n st r) := by
  intro R o l s
  unfold markBadRec
  dsimp only
  rw [noted_chan, unnoted_proveWrites, unnoted_badSteps, noted_chan]
  split
  · exact unnoted_endProgram ..
  · split
    · rfl
    · exact unnoted_advance ..

/-! ### The end of a wait, and the wires -/

theorem unnoted_sendMsg (m : Msg) : Unnoted (sendMsg m) := by
  intro R o l s
  unfold sendMsg
  rw [show egress (noted R o l s) = egress s from rfl]
  split <;> rfl

theorem unnoted_endWait (w : Waiter) (st : Byte) (v : Word) : Unnoted (endWait w st v) := by
  intro R o l s
  have dropped : dropWaiter w (noted R o l s) = noted R o l (dropWaiter w s) := rfl
  unfold endWait
  dsimp only
  rw [dropped]
  generalize dropWaiter w s = t
  split
  · rename_i c _
    rw [noted_chan]
    split
    · exact unnoted_advance _ R o l (t.setChan _ _)
    · exact unnoted_markBadRec _ _ _ _ _ _ R o l t
  · rename_i q _
    have recorded : (if (decide (st = St.ok) || decide (st = St.roomReset)) = true then noted R o l t
          else roomRec (t.sq q).room.toNat (waitRec t w st v) (noted R o l t))
        = noted R o l (if (decide (st = St.ok) || decide (st = St.roomReset)) = true then t
          else roomRec (t.sq q).room.toNat (waitRec t w st v) t) := by
      rw [unnoted_roomRec]
      split <;> rfl
    rw [noted_sq, show waitRec (noted R o l t) w st v = waitRec t w st v from rfl, recorded, ← unnoted_completeEntry]
    rfl
  · exact unnoted_sendMsg _ R o l t

theorem unnoted_evalWire (i : Nat) : Unnoted (evalWire i) := by
  intro R o l s
  unfold evalWire
  rw [noted_wire, show wireReady (noted R o l s) = wireReady s from rfl]
  split <;> rfl

theorem unnoted_arriveWire (c i : Nat) : Unnoted (arriveWire c i) := by
  intro R o l s
  unfold arriveWire
  dsimp only
  rw [← unnoted_evalWire]
  rfl

theorem unnoted_consumeObj (w : Waiter) : Unnoted (consumeObj w) := by
  intro R o l s
  unfold consumeObj
  split
  · split <;> rfl
  · split <;> rfl
  · split
    · exact unnoted_arriveWire ..
    · rfl
  · rfl

theorem unnoted_meetWait (w : Waiter) : Unnoted (meetWait w) := by
  intro R o l s
  unfold meetWait
  rw [show wordBad (noted R o l s) w = wordBad s w from rfl, show foundOf (noted R o l s) = foundOf s from rfl,
    unnoted_consumeObj, unnoted_endWait, unnoted_endWait]
  split <;> rfl

theorem unnoted_settle : Unnoted settle := by
  suffices ∀ n, Unnoted (settleN n) from fun R o l s => this s.waiters.length R o l s
  intro n
  induction n with
  | zero => exact fun _ _ _ _ => rfl
  | succ n ih =>
    intro R o l s
    unfold settleN
    rw [noted_waiters, show condHolds (noted R o l s) = condHolds s from rfl]
    split
    · rfl
    · rw [unnoted_meetWait]
      exact ih ..

/-- The barrier wires and the waits on them take no notice of the Foyer's rings (R394). -/
theorem unnoted_evalWires : Unnoted evalWires := unnoted_settle.comp (unnoted_foldl unnoted_evalWire _)

theorem unnoted_withdrawArrivals (c : Nat) : Unnoted (withdrawArrivals c) := by
  intro R o l s
  have withdrawn := unnoted_foldl (f := fun (t : State) (a : Nat × Half) => t.setWire a.1 (setArrived (t.wire a.1) c false))
    (fun _ _ _ _ _ => rfl) (s.chan c).arrivals R o l s
  dsimp only at withdrawn
  unfold withdrawArrivals
  dsimp only
  rw [noted_chan, withdrawn]
  rfl

/-! ### The scrub engine -/

theorem unnoted_emergency (a : Nat) : Unnoted (emergency a) := by
  intro R o l s
  unfold emergency
  dsimp only
  rw [noted_arbiter]
  split
  · split <;> rfl
  · rfl

theorem unnoted_scrubZero (phys n : Nat) : Unnoted (scrubZero phys n) :=
  fun R o l s => unnoted_foldl unnoted_emergency (zeroedGroups phys n) R o l { s with
    pantry := mzero s.pantry phys n
    pantryUe := s.pantryUe.filter fun l => l * 64 < phys || phys + n ≤ l * 64 }

theorem unnoted_takeGranule (k : Nat) (g : Nat) : Unnoted fun s => takeGranule k false s g := by
  intro R o l s
  unfold takeGranule
  dsimp only
  rw [noted_granules]
  split
  · rfl
  · exact unnoted_scrubZero _ _ R o l { s with granules := tput s.granules (holderKey false g) (k + 1) }

end Sys2Proof.Machine
end

section
/-! PROOFS. O29: Rooms are created, their shares and windows set (06 R280, 07 R318, R324 to R329, 10 R454). -/
namespace Sys2Proof.Machine

/-! ### ROOM_CREATE and ROOM_SHARE_SET (R280, R454) -/

/-- The limits of a ROOM_CREATE lie in their ranges (R280). -/
structure RoomLimits (p : BitVec 512) : Prop where
  sqs : p8 p 16 ≤ 64
  cqs : p8 p 17 ≤ 64
  chans : p8 p 18 ≤ 128
  regions : p8 p 19 ≤ 16
  flags : p16 p 20 ≤ 4096
  counters : p16 p 22 ≤ 512
  handles : p32 p 28 ≤ 65536

/-- The record of the Room that a ROOM_CREATE makes (R280, R318). -/
def newRoom (p : BitVec 512) : Room where
  state := .active
  share := 1
  misuseLimit := if p16 p 32 = 0 then 256 else BitVec.ofNat 16 (p16 p 32)
  maxSq := p8 p 16
  maxCq := p8 p 17
  maxCh := p8 p 18
  maxFe := p8 p 19
  maxFlags := p16 p 20
  maxCounters := p16 p 22
  maxGranules := p32 p 24
  maxHandles := p32 p 28

theorem roomCreate_creates {k : Nat} {p : BitVec 512} {s : State} (limits : RoomLimits p)
    (absent : (s.room (pkRoom p)).state = .none) (fn : fnExists s (pkRoom p) = true) :
    roomCreate k p s = cmdOk k p 0 0 (s.setRoom (pkRoom p) (newRoom p)) := by
  obtain ⟨sqs, cqs, chans, regions, flags, counters, handles⟩ := limits
  have inRange : (decide (64 < p8 p 16) || decide (64 < p8 p 17) || decide (128 < p8 p 18) || decide (16 < p8 p 19)
      || decide (4096 < p16 p 20) || decide (512 < p16 p 22) || decide (65536 < p32 p 28)) = false := by
    simp only [decide_eq_false (not_lt.2 sqs), decide_eq_false (not_lt.2 cqs), decide_eq_false (not_lt.2 chans),
      decide_eq_false (not_lt.2 regions), decide_eq_false (not_lt.2 flags), decide_eq_false (not_lt.2 counters),
      decide_eq_false (not_lt.2 handles), Bool.or_self]
  have fresh : roomExists s (pkRoom p) = false := decide_eq_false (not_not.2 absent)
  unfold roomCreate
  dsimp only
  rw [if_neg (ne_true_of_eq_false inRange), if_neg (ne_true_of_eq_false fresh), if_neg (by rw [fn]; decide)]
  rfl

theorem roomShareSet_sets {k : Nat} {p : BitVec 512} {s : State} (share : p16 p 16 ≠ 0)
    (room : (s.room (pkRoom p)).state ≠ .none) : roomShareSet k p s = cmdOk k p ((s.room (pkRoom p)).share.setWidth 64) 0
      (s.setRoom (pkRoom p) { s.room (pkRoom p) with share := BitVec.ofNat 16 (p16 p 16) }) := by
  unfold roomShareSet
  dsimp only
  rw [if_neg share, if_neg (by rw [roomExists_of room]; decide)]

/-! ### Granules that a Room takes (R329) -/

/-- t differs from s at most in the Pantry and its bad lines, the last holders of the granules, and the arbiters. -/
def ScrubFrame (s t : State) : Prop :=
  t = { s with pantry := t.pantry, pantryUe := t.pantryUe, granules := t.granules, arbs := t.arbs, arbiters := t.arbiters }

theorem ScrubFrame.trans {s t u : State} (h : ScrubFrame s t) (g : ScrubFrame t u) : ScrubFrame s u := by
  unfold ScrubFrame at h g ⊢
  rw [g, h]

theorem ScrubFrame.keeps {s t : State} (h : ScrubFrame s t) :
    t.rooms = s.rooms ∧ t.rings = s.rings ∧ busPart t = busPart s ∧ t.host = s.host :=
  ⟨(congrArg State.rooms h :), (congrArg State.rings h :), (congrArg busPart h :), (congrArg State.host h :)⟩

theorem scrubFrame_emergency (a : Nat) (s : State) : ScrubFrame s (emergency a s) := by
  unfold emergency
  dsimp only
  split
  · split <;> rfl
  · rfl

theorem emergency_pantry (a : Nat) (s : State) : (emergency a s).pantry = s.pantry :=
  (emergency_fields a s).1.1

theorem scrubFrame_scrubZero (phys n : Nat) (s : State) : ScrubFrame s (scrubZero phys n s) :=
  List.foldlRecOn (motive := ScrubFrame s) _ _ rfl fun _ ht a _ => ht.trans (scrubFrame_emergency a _)

/-- The scrub engine zeroes its span of the Pantry and no other byte (R303, R329). -/
theorem scrubZero_pantry (phys n : Nat) (s : State) : (scrubZero phys n s).pantry = mzero s.pantry phys n :=
  List.foldlRecOn (motive := fun t : State => t.pantry = mzero s.pantry phys n) _ _ rfl
    fun t ht a _ => (emergency_pantry a t).trans ht

/-- A granule of the Pantry that another Room or no window held last is zeroed (R329). -/
theorem takeGranule_eq (k : Nat) (s : State) (g : Nat) : takeGranule k false s g =
    if tget s.granules 0 g = k + 1 then s
    else scrubZero (g * granule) granule { s with granules := tput s.granules g (k + 1) } := rfl

theorem scrubFrame_takeGranule (k : Nat) (s : State) (g : Nat) : ScrubFrame s (takeGranule k false s g) := by
  rw [takeGranule_eq]
  split
  · rfl
  · exact .trans (t := { s with granules := _ }) rfl (scrubFrame_scrubZero ..)

/-- Granule a is held by Room k from now on, and no other granule changes its holder (R329). -/
theorem takeGranule_granules (k : Nat) (s : State) {a j : Nat} (other : j ≠ a) :
    tget (takeGranule k false s a).granules 0 j = tget s.granules 0 j := by
  rw [takeGranule_eq]
  split
  · rfl
  · have kept (u : State) : (scrubZero (a * granule) granule u).granules = u.granules :=
      List.foldlRecOn (motive := fun t : State => t.granules = u.granules) _ _ rfl
        fun t ht b _ => (congrArg State.granules (emergency_frame b t) :).trans ht
    rw [kept]
    exact tget_tput_ne _ _ _ other

/-- A granule that is taken from another holder reads as 0 (R329). -/
theorem takeGranule_zeroes {k : Nat} {s : State} {a x : Nat} (held : tget s.granules 0 a ≠ k + 1) (hx : x < granule) :
    mget (takeGranule k false s a).pantry (a * granule + x) = 0 := by
  rw [takeGranule_eq, if_neg held, scrubZero_pantry, mget_mzero, if_pos ⟨by omega, by omega⟩]

/-- A byte that reads as 0 does so whatever granule is taken. -/
theorem takeGranule_keeps_zero (k : Nat) {s : State} (a : Nat) {x : Nat} (zero : mget s.pantry x = 0) :
    mget (takeGranule k false s a).pantry x = 0 := by
  rw [takeGranule_eq]
  split
  · exact zero
  · rw [scrubZero_pantry, mget_mzero]
    split
    · rfl
    · exact zero

/-- The granules of a list are taken in turn (R329). -/
abbrev takeGranules (k : Nat) (l : List (Nat × Nat)) (s : State) : State :=
  l.foldl (fun t g => takeGranule k false t g.2) s

theorem scrubFrame_takeGranules (k : Nat) (l : List (Nat × Nat)) (s : State) : ScrubFrame s (takeGranules k l s) :=
  List.foldlRecOn (motive := ScrubFrame s) l _ rfl fun _ ht g _ => ht.trans (scrubFrame_takeGranule k _ g.2)

/-- Every granule of the list that another Room or no window held last reads as 0 (R329). -/
theorem takeGranules_zeroes {k : Nat} {l : List (Nat × Nat)} {s : State} {g : Nat × Nat} {x : Nat} (listed : g ∈ l)
    (held : tget s.granules 0 g.2 ≠ k + 1) (hx : x < granule) :
    mget (takeGranules k l s).pantry (g.2 * granule + x) = 0 := by
  induction l generalizing s with
  | nil => simp at listed
  | cons a r ih =>
    by_cases same : g.2 = a.2
    · have zero : mget (takeGranule k false s a.2).pantry (g.2 * granule + x) = 0 := by
        rw [same] at held ⊢
        exact takeGranule_zeroes held hx
      exact List.foldlRecOn (motive := fun t : State => mget t.pantry (g.2 * granule + x) = 0) r _ zero
        fun _ ht b _ => takeGranule_keeps_zero k b.2 ht
    · have later : g ∈ r := (List.mem_cons.1 listed).resolve_left fun first => same (by rw [first])
      exact ih later (by rw [takeGranule_granules k s same]; exact held)

/-! ### ROOM_WINDOW_SET (R324 to R329) -/

/-- The window that a ROOM_WINDOW_SET over the Pantry gives (R325). -/
def newWindow (p : BitVec 512) : Window where
  valid := true
  exported := p8 p 18 % 2 = 1
  pool := p8 p 18 / 2 % 2 = 1
  granules := p32 p 20
  physGran := (p64 p 32).toNat / granule
  roomGran := (p64 p 24).toNat / granule

/-- The Room's window that a ROOM_WINDOW_SET replaces. -/
abbrev oldWindow (p : BitVec 512) (s : State) : Window := tget (s.room (pkRoom p)).windows {} (p8 p 16)

/-- The parameters of a ROOM_WINDOW_SET over the Pantry lie in their ranges (R325). -/
structure WindowParams (p : BitVec 512) : Prop where
  index : p8 p 16 ≤ 15
  pantry : p8 p 17 = 0
  some : 0 < p32 p 20
  off : (p64 p 24).toNat % granule = 0
  phys : (p64 p 32).toNat % granule = 0
  room : (p64 p 24).toNat + p32 p 20 * granule ≤ 2 ^ 50
  device : (p64 p 32).toNat + p32 p 20 * granule ≤ pantrySize

/-- The window meets no other one, and what it removes is not in use (R282, R324, R325). -/
structure WindowFits (p : BitVec 512) (s : State) : Prop where
  room : (s.room (pkRoom p)).state ≠ .none
  own : ∀ w ∈ (s.room (pkRoom p)).windows, w.1 ≠ p8 p 16 → w.2.valid = true → w.2.cellar = false →
    granulesMeet w.2.roomGran w.2.granules ((p64 p 24).toNat / granule) (p32 p 20) = false
  others : ∀ x ∈ s.rooms, ∀ w ∈ x.2.windows, ¬(x.1 = pkRoom p ∧ w.1 = p8 p 16) → w.2.valid = true →
    w.2.cellar = false → granulesMeet w.2.physGran w.2.granules ((p64 p 32).toNat / granule) (p32 p 20) = false
  free : (oldWindow p s).valid = true → removalBusy s (pkRoom p) (oldWindow p s) (newWindow p) = false

/-- What a ROOM_WINDOW_SET over the Pantry does: new granules are zeroed, and the window takes its place (R325, R329). -/
def windowTaken (p : BitVec 512) (s : State) : State :=
  (takeGranules (pkRoom p) (removedGranules (newWindow p) (oldWindow p s)) s).setRoom (pkRoom p)
    { s.room (pkRoom p) with windows := tset (s.room (pkRoom p)).windows {} (p8 p 16) (newWindow p) }

theorem roomWindowSet_sets {k : Nat} {p : BitVec 512} {s : State} (params : WindowParams p) (fits : WindowFits p s) :
    roomWindowSet k p s = cmdOk k p 0 0 (windowTaken p s) := by
  obtain ⟨index, pantry, some, off, phys, inRoom, device⟩ := params
  obtain ⟨room, own, others, free⟩ := fits
  have notCellar : decide (p8 p 17 = 1) = false := by rw [pantry]; rfl
  have inRange : (decide (15 < p8 p 16) || decide (1 < p8 p 17) || decide ((p64 p 24).toNat % granule ≠ 0)
      || decide ((p64 p 32).toNat % granule ≠ 0) || decide (2 ^ 50 < (p64 p 24).toNat + p32 p 20 * granule)
      || decide (pantrySize < (p64 p 32).toNat + p32 p 20 * granule)) = false := by
    rw [decide_eq_false (not_lt.2 index), decide_eq_false (not_not.2 off), decide_eq_false (not_not.2 phys),
      decide_eq_false (not_lt.2 inRoom), decide_eq_false (not_lt.2 device), pantry]
    rfl
  have apart : ((s.room (pkRoom p)).windows.any fun w => decide (w.1 ≠ p8 p 16) && w.2.valid && w.2.cellar == false
      && granulesMeet w.2.roomGran w.2.granules ((p64 p 24).toNat / granule) (p32 p 20)) = false :=
    List.any_eq_false.2 fun w listed meets => by
      simp only [Bool.and_eq_true, decide_eq_true_eq, beq_iff_eq] at meets
      obtain ⟨⟨⟨other, valid⟩, same⟩, meets⟩ := meets
      exact ne_true_of_eq_false (own w listed other valid same) meets
  have unshared : (s.rooms.any fun x => x.2.windows.any fun w => !(decide (x.1 = pkRoom p) && decide (w.1 = p8 p 16))
      && w.2.valid && w.2.cellar == false
      && granulesMeet w.2.physGran w.2.granules ((p64 p 32).toNat / granule) (p32 p 20)) = false :=
    List.any_eq_false.2 fun x room meets => by
      obtain ⟨w, listed, meets⟩ := List.any_eq_true.1 meets
      simp only [Bool.and_eq_true, Bool.not_eq_true', ← Bool.decide_and, decide_eq_false_iff_not, beq_iff_eq] at meets
      obtain ⟨⟨⟨other, valid⟩, same⟩, meets⟩ := meets
      exact ne_true_of_eq_false (others x room w listed other valid same) meets
  have unused : ((oldWindow p s).valid && removalBusy s (pkRoom p) (oldWindow p s) (newWindow p)) = false := by
    cases valid : (oldWindow p s).valid with
    | false => rfl
    | true => exact free valid
  have rooms : (takeGranules (pkRoom p) (removedGranules (newWindow p) (oldWindow p s)) s).room (pkRoom p)
      = s.room (pkRoom p) :=
    congrArg (fun x : Table Room => tget x {} (pkRoom p)) (scrubFrame_takeGranules ..).keeps.1
  have named : ({ valid := true, cellar := false, exported := decide (p8 p 18 % 2 = 1), pool := decide (p8 p 18 / 2 % 2 = 1)
                  granules := p32 p 20, physGran := (p64 p 32).toNat / granule
                  roomGran := (p64 p 24).toNat / granule } : Window) = newWindow p := rfl
  unfold roomWindowSet
  dsimp only
  rw [notCellar, if_neg Bool.false_ne_true, Bool.false_and, Bool.or_false, if_neg (ne_true_of_eq_false inRange),
    if_neg (by rw [roomExists_of room]; decide), if_neg (ne_true_of_eq_false apart), if_neg (ne_true_of_eq_false unshared),
    if_neg (by omega : ¬ p32 p 20 = 0), named, if_neg (ne_true_of_eq_false unused)]
  exact congrArg (fun x : Room => cmdOk k p 0 0 (State.setRoom _ _ { x with windows := tset x.windows {} _ _ })) rooms

/-- What a ROOM_WINDOW_SET does is read off the state as it was when the packet was taken. -/
theorem windowTaken_noteTaken (p : BitVec 512) (k : Nat) (o : BitVec 16) (s : State) :
    windowTaken p (noteTaken k o s) = noteTaken k o (windowTaken p s) := by
  have taken := (unnoted_foldl (fun g : Nat × Nat => unnoted_takeGranule (pkRoom p) g.2)
    (removedGranules (newWindow p) (oldWindow p s))).noteTaken k o s
  unfold windowTaken takeGranules
  rw [show oldWindow p (noteTaken k o s) = oldWindow p s from rfl, taken]
  rfl

/-- An accepted ROOM_WINDOW_SET over the Pantry whose window fits takes effect at once (R325, R328). -/
theorem roomWindowSet_answers {k : Nat} {p : BitVec 512} {s : State} (wf : s.wf = true) (h : Accepted s k p 0x0013)
    (params : WindowParams p) (fits : WindowFits p s) :
    Answers k p St.ok 0 0 0 s (windowTaken p s) (takePacket 0x0013 k p (roomWindowSet k p) s) := by
  have fits' : WindowFits p (noteTaken k 0x0013 s) := ⟨fits.room, fits.own, fits.others, fits.free⟩
  have sets := roomWindowSet_sets (k := k) params fits'
  rw [windowTaken_noteTaken] at sets
  obtain ⟨-, rings, bus, host⟩ := (scrubFrame_takeGranules (pkRoom p) (removedGranules (newWindow p) (oldWindow p s)) s).keeps
  exact answers_noted h sets rings bus (by
    show Memory.wf (takeGranules _ _ s).host = true
    rw [host]
    exact hostWf_of wf)

/-! ### The obligation -/

/-- Settles O29: each command passes its checks and writes the Room's record; a window first takes its new granules. -/
theorem roomsAreSetUp : Obligations.RoomsAreSetUp := by
  intro k p s wf r
  refine ⟨?create, ?share, ?window⟩
  case create =>
    intro h sqs cqs chans regions flags counters handles absent fn
    exact ⟨_, rfl, answers_noted h (roomCreate_creates (s := noteTaken k 0x0010 s)
      ⟨sqs, cqs, chans, regions, flags, counters, handles⟩ absent fn) rfl rfl (hostWf_of (s := s) wf)⟩
  case share =>
    intro h share room
    exact ⟨_, rfl, answers_noted h (roomShareSet_sets (s := noteTaken k 0x0014 s) share room) rfl rfl (hostWf_of (s := s) wf)⟩
  case window =>
    intro i n off phys old new h index pantry _ room some offset physical inRoom device own others free unheld
    have answers := roomWindowSet_answers wf h ⟨index, pantry, some, offset, physical, inRoom, device⟩
      ⟨room, own, others, free⟩
    refine ⟨_, ?_, answers, ?_⟩
    · show Host.Outcome.next (if _ then _ else _) = _
      rw [unheld, Bool.and_false, if_neg Bool.false_ne_true]
    · intro g listed held x hx
      rw [show State.pantry _ = _ from (congrArg State.pantry answers.1 :)]
      exact takeGranules_zeroes listed held hx

end Sys2Proof.Machine
end

section
/-! PROOFS. O33: buffers are allocated, freed and reclaimed (06 R299 to R306, R310). -/
namespace Sys2Proof.Machine

/-! ### BUF_ALLOC (R301 to R303) -/

/-- The alignment that a BUF_ALLOC asks for, in bytes. -/
abbrev bufAlign (p : BitVec 512) : Nat := 2 ^ (if p8 p 21 = 0 then 12 else p8 p 21)

/-- The quadrant that a BUF_ALLOC asks for, if any. -/
abbrev bufQuadrant (p : BitVec 512) : Option Nat := if p8 p 20 = 255 then none else some (p8 p 20)

/-- The parameters of a BUF_ALLOC lie in their ranges (R301, R302). -/
structure BufParams (p : BitVec 512) : Prop where
  some : 0 < p32 p 16
  size : p32 p 16 ≤ 65536
  quadrant : p8 p 20 ≤ 3 ∨ p8 p 20 = 255
  align : p8 p 21 = 0 ∨ 12 ≤ p8 p 21 ∧ p8 p 21 ≤ 21

/-- The Room may have the buffer of a BUF_ALLOC, it fits at off, and a slot is left (R301, R302). -/
structure BufFits (p : BitVec 512) (s : State) (off phys : Nat) : Prop where
  room : (s.room (pkRoom p)).state ≠ .none
  quota : pkRoom p = 0 ∨ (roomBufs s (pkRoom p)).length < (s.room (pkRoom p)).maxHandles
    ∧ (roomBufs s (pkRoom p)).foldl (fun m b => m + b.granules) 0 + p32 p 16 ≤ (s.room (pkRoom p)).maxGranules
  place : lowestPlace (places s (pkRoom p) (bufQuadrant p) (bufAlign p) (p32 p 16 * 4096)) = some (off, phys)
  slot : s.fy.fresh < 65536

/-- The next slot holds the buffer of a BUF_ALLOC, at the slot's generation (R300, R301). -/
def bufPlaced (p : BitVec 512) (off phys : Nat) (s : State) : State :=
  setBufSlot s.fy.fresh { gen := (bufSlot s s.fy.fresh).gen
                          live := some { room := pkRoom p, phys := phys, off := off, granules := p32 p 16 } }
    { s with fy := { s.fy with fresh := s.fy.fresh + 1 } }

/-- The buffer is there, zeroed where the packet asks for that (R303). -/
def bufAllocated (p : BitVec 512) (off phys : Nat) (s : State) : State :=
  if p8 p 22 = 1 then scrubZero phys (p32 p 16 * 4096) (bufPlaced p off phys s) else bufPlaced p off phys s

theorem bufAlloc_allocates {k off phys : Nat} {p : BitVec 512} {s : State} (params : BufParams p)
    (fits : BufFits p s off phys) : bufAlloc k p s = cmdOk k p
      (makeHandle (pkRoom p) s.fy.fresh (bufSlot s s.fy.fresh).gen (p32 p 16)) (BitVec.ofNat 64 off)
      (bufAllocated p off phys s) := by
  obtain ⟨some, size, quadrant, align⟩ := params
  obtain ⟨room, quota, place, slot⟩ := fits
  have inRange : (decide (p32 p 16 = 0) || decide (65536 < p32 p 16) || !(decide (p8 p 20 ≤ 3) || decide (p8 p 20 = 255))
      || !(decide (p8 p 21 = 0) || (decide (12 ≤ p8 p 21) && decide (p8 p 21 ≤ 21)))) = false := by
    rw [decide_eq_false some.ne', decide_eq_false (not_lt.2 size), ← Bool.decide_or, decide_eq_true quadrant,
      ← Bool.decide_and, ← Bool.decide_or, decide_eq_true align]
    rfl
  have admitted : (decide (pkRoom p ≠ 0) && (decide ((s.room (pkRoom p)).maxHandles ≤ (roomBufs s (pkRoom p)).length)
      || decide ((s.room (pkRoom p)).maxGranules
        < (roomBufs s (pkRoom p)).foldl (fun m b => m + b.granules) 0 + p32 p 16))) = false := by
    rcases quota with zero | ⟨handles, granules⟩
    · rw [zero]
      rfl
    · rw [decide_eq_false (not_le.2 handles), decide_eq_false (not_lt.2 granules), Bool.or_self, Bool.and_false]
  have next : nextSlotFree s = Option.some (s.fy.fresh, { s with fy := { s.fy with fresh := s.fy.fresh + 1 } }) := if_pos slot
  unfold bufAlloc
  dsimp only
  rw [if_neg (ne_true_of_eq_false inRange), if_neg (by rw [roomExists_of room]; decide),
    if_neg (ne_true_of_eq_false admitted), place, next]
  rfl

/-- That the Foyer took the packet does not touch what BUF_ALLOC writes. -/
theorem bufAllocated_noteTaken (p : BitVec 512) (off phys k : Nat) (o : BitVec 16) (s : State) :
    bufAllocated p off phys (noteTaken k o s) = noteTaken k o (bufAllocated p off phys s) := by
  unfold bufAllocated
  rw [show bufPlaced p off phys (noteTaken k o s) = noteTaken k o (bufPlaced p off phys s) from rfl,
    (unnoted_scrubZero _ _).noteTaken]
  split <;> rfl

theorem bufAllocated_keeps (p : BitVec 512) (off phys : Nat) (s : State) : let t := bufAllocated p off phys s
    t.rings = s.rings ∧ busPart t = busPart s ∧ t.host = s.host := by
  unfold bufAllocated
  split
  · exact (scrubFrame_scrubZero phys (p32 p 16 * 4096) (bufPlaced p off phys s)).keeps.2
  · exact ⟨rfl, rfl, rfl⟩

/-- An accepted BUF_ALLOC whose buffer fits answers its handle and its place (R301). -/
theorem bufAlloc_answers {k off phys : Nat} {p : BitVec 512} {s : State} (wf : s.wf = true) (h : Accepted s k p 0x0040)
    (params : BufParams p) (fits : BufFits p s off phys) :
    Answers k p St.ok 0 (makeHandle (pkRoom p) s.fy.fresh (bufSlot s s.fy.fresh).gen (p32 p 16)) (BitVec.ofNat 64 off) s
      (bufAllocated p off phys s) (takePacket 0x0040 k p (bufAlloc k p) s) := by
  have fits' : BufFits p (noteTaken k 0x0040 s) off phys := ⟨fits.room, fits.quota, fits.place, fits.slot⟩
  have allocates := bufAlloc_allocates (k := k) params fits'
  rw [bufAllocated_noteTaken] at allocates
  obtain ⟨rings, bus, host⟩ := bufAllocated_keeps p off phys s
  exact answers_noted h allocates rings bus (by rw [HostWf, host]; exact hostWf_of wf)

/-! ### The end of a buffer (R300, R304, R310) -/

/-- A slot whose buffer has ended holds none, so that the handle is stale (R299, R300). -/
theorem currentBuf_releaseSlot {s : State} (hs : tableWf {} s.fy.slots = true) (h : Word) :
    currentBuf (releaseSlot (hSlot h) s) h = none := by
  have ended : (bufSlot (releaseSlot (hSlot h) s) (hSlot h)).live = none := congrArg BufSlot.live (tget_tset_eq _ _ hs)
  unfold currentBuf
  split
  · rfl
  · dsimp only
    rw [ended]

theorem releaseSlot_noteTaken (i k : Nat) (o : BitVec 16) (s : State) :
    releaseSlot i (noteTaken k o s) = noteTaken k o (releaseSlot i s) := by
  unfold releaseSlot
  dsimp only
  rw [show bufSlot (noteTaken k o s) i = bufSlot s i from rfl]
  generalize (if (bufSlot s i).gen = 0xFFFF then 1 else (bufSlot s i).gen + 1) = g
  rfl

/-- A handle is looked up in the slots alone. -/
theorem currentBuf_congr {s t : State} (h : t.fy.slots = s.fy.slots) (x : Word) : currentBuf t x = currentBuf s x := by
  unfold currentBuf bufSlot
  rw [h]

/-- The release of a slot reaches the buffer slots alone. -/
theorem releaseSlot_keeps (i : Nat) (s : State) : let t := releaseSlot i s
    t.rings = s.rings ∧ busPart t = busPart s ∧ t.host = s.host ∧ t.pantry = s.pantry := by
  unfold releaseSlot setBufSlot
  dsimp only
  generalize tset s.fy.slots _ _ _ = x
  exact ⟨rfl, rfl, rfl, rfl⟩

theorem bufFree_frees {k : Nat} {p : BitVec 512} {s : State} {b : Buffer} (found : currentBuf s (p64 p 16) = some b)
    (own : b.room = k) : bufFree k p s = cmdOk k p 0 0 (releaseSlot (hSlot (p64 p 16)) s) := by
  unfold bufFree
  dsimp only
  rw [found]
  exact if_pos own

/-- An accepted BUF_FREE of a buffer of the ring's own Room ends it (R304). -/
theorem bufFree_answers {k : Nat} {p : BitVec 512} {s : State} {b : Buffer} (wf : s.wf = true) (h : Accepted s k p 0x0041)
    (found : currentBuf s (p64 p 16) = some b) (own : b.room = k) :
    Answers k p St.ok 0 0 0 s (releaseSlot (hSlot (p64 p 16)) s) (takePacket 0x0041 k p (bufFree k p) s) := by
  have frees := bufFree_frees (s := noteTaken k 0x0041 s) found own
  rw [releaseSlot_noteTaken] at frees
  obtain ⟨rings, bus, host, -⟩ := releaseSlot_keeps (hSlot (p64 p 16)) s
  exact answers_noted h frees rings bus (by rw [HostWf, host]; exact hostWf_of wf)

/-- The record of a buffer that BUF_RECLAIM takes from its Room (R310). -/
def reclaimRec (b : Buffer) (h : Word) : ErrRec := { bufRec St.bufStale 2 b.room h 0x43 with detail := Dt.reclaimed }

/-- The buffer of a handle is reclaimed: its Room's log and the audit log record it (R310). -/
def reclaimed (b : Buffer) (h : Word) (s : State) : State :=
  auditRec (reclaimRec b h) (roomRec b.room (reclaimRec b h) (releaseSlot (hSlot h) s))

theorem bufReclaim_reclaims {k : Nat} {p : BitVec 512} {s : State} {b : Buffer} (found : currentBuf s (p64 p 16) = some b) :
    bufReclaim k p s = cmdOk k p 0 (BitVec.ofNat 64 b.room) (reclaimed b (p64 p 16) s) := by
  unfold bufReclaim
  dsimp only
  rw [found]
  rfl

/-- An accepted BUF_RECLAIM of a live handle ends its buffer, records it, and answers its Room (R310). -/
theorem bufReclaim_answers {k : Nat} {p : BitVec 512} {s v : State} {b : Buffer} (wf : s.wf = true)
    (h : Accepted s k p 0x0043) (found : currentBuf s (p64 p 16) = some b) (ended : releaseSlot (hSlot (p64 p 16)) s = v) :
    ∃ u, Recorded (noteTaken k 0x0043 v) u
      ∧ Answers k p St.ok 0 0 (BitVec.ofNat 64 b.room) s u (takePacket 0x0043 k p (bufReclaim k p) s) := by
  obtain ⟨rings, bus, hostEq, -⟩ := releaseSlot_keeps (hSlot (p64 p 16)) s
  rw [ended] at rings bus hostEq
  have host : HostWf v := by
    rw [HostWf, hostEq]
    exact hostWf_of wf
  have reclaims := bufReclaim_reclaims (k := k) (s := noteTaken k 0x0043 s) found
  unfold reclaimed at reclaims
  rw [releaseSlot_noteTaken, ended] at reclaims
  have recorded : Recorded (noteTaken k 0x0043 v) _ :=
    recorded_trans (recorded_roomRec b.room (reclaimRec b (p64 p 16)) _) (recorded_auditRec (reclaimRec b (p64 p 16)) _)
  have steady := steadyPart_of_recorded recorded
  have noted : (noteTaken k 0x0043 v).rings = (noteTaken k 0x0043 s).rings := by
    unfold noteTaken
    rw [ring_congr rings, rings]
  refine ⟨_, recorded, answers_ok h reclaims ((steadyPart_rings steady).trans noted)
    ((steadyPart_bus steady).trans bus) (hostWf_auditRec (hostWf_roomRec (s := noteTaken k 0x0043 v) host ..) _)
    (congrArg Foyer.lastOpcode (recorded_fy recorded) :) (.refl _)⟩

/-! ### The obligation -/

/-- Settles O33: BUF_ALLOC fills a slot, BUF_FREE and BUF_RECLAIM release it, and a released slot holds no buffer. -/
theorem buffersAreAllocatedAndFreed : Obligations.BuffersAreAllocatedAndFreed := by
  intro k p s wf r n align
  have slots := ((wf_iff s).1 wf).slots
  refine ⟨?alloc, ?free, ?reclaim⟩
  case alloc =>
    intro off phys h some size quadrant aligned _ room quota place slot i b
    have answers := bufAlloc_answers wf h ⟨some, size, quadrant, aligned⟩ ⟨room, quota, place, slot⟩
    refine ⟨_, rfl, answers, fun zero x low high => ?_⟩
    have pantry : State.pantry _ = (bufAllocated p off phys s).pantry := (congrArg State.pantry answers.1 :)
    rw [pantry, bufAllocated, if_pos zero, scrubZero_pantry, mget_mzero, if_pos ⟨low, high⟩]
  case free =>
    intro b h found own
    have answers := bufFree_answers wf h found own
    refine ⟨_, rfl, answers, ?_⟩
    rw [currentBuf_congr (congrArg (fun t : State => t.fy.slots) answers.1 :)]
    exact currentBuf_releaseSlot slots _
  case reclaim =>
    intro b h found
    have none := currentBuf_releaseSlot slots (p64 p 16)
    obtain ⟨-, -, -, pantry⟩ := releaseSlot_keeps (hSlot (p64 p 16)) s
    generalize ended : releaseSlot (hSlot (p64 p 16)) s = v at none pantry
    obtain ⟨u, recorded, only, reply, cons, -⟩ := bufReclaim_answers wf h found ended
    have fy := recorded_fy recorded
    obtain ⟨-, -, -, -, -, -, -, -, -, kept, -⟩ := recorded_frame recorded
    refine ⟨_, rfl, ?_, reply, cons, ?_⟩
    · rw [currentBuf_congr (s := v) ((congrArg (fun t : State => t.fy.slots) only).trans (congrArg Foyer.slots fy :))]
      exact none
    · exact ((congrArg State.pantry only).trans kept).trans pantry

end Sys2Proof.Machine
end

section
/-! PROOFS. O35: the settings commands (06 R293, 10 R435, R452, 11 R486, R510, 12 R546, R599). -/
namespace Sys2Proof.Machine

/-! ### POWER_CAP_SET, HOUSE_POLICY, LINK_CONFIG and STUDY_CACHE_FLUSH (R452, R486, R546, R599) -/

theorem powerCapSet_sets {k : Nat} {p : BitVec 512} {s : State} (low : 40000 ≤ p32 p 16) (high : p32 p 16 ≤ 260000)
    (base : s.nrg.baseMw.toNat < p32 p 16) : powerCapSet k p s = cmdOk k p (s.nrg.capMw.setWidth 64) 0
      { s with nrg := { s.nrg with capMw := BitVec.ofNat 32 (p32 p 16) } } := by
  have inRange : (decide (p32 p 16 < 40000) || decide (260000 < p32 p 16) || decide (p32 p 16 ≤ s.nrg.baseMw.toNat))
      = false := by
    rw [decide_eq_false (not_lt.2 low), decide_eq_false (not_lt.2 high), decide_eq_false (not_le.2 base)]
    rfl
  exact if_neg (ne_true_of_eq_false inRange)

/-- The port of a LINK_CONFIG with the packet's settings (R486). -/
def portConfigured (p : BitVec 512) (x : Port) : Port :=
  { x with allow4 := 2 ≤ p8 p 17, attempts := if p8 p 18 = 0 then 8 else BitVec.ofNat 4 (p8 p 18)
           violLimit := if p16 p 20 = 0 then 64 else BitVec.ofNat 16 (p16 p 20) }

/-- A LINK_CONFIG that neither enables nor disables its port sets the port's limits (R486). -/
theorem linkConfig_configures {k : Nat} {p : BitVec 512} {s : State} (port : p8 p 16 ≤ 15) (attempts : p8 p 18 ≤ 15)
    (same : (s.port (p8 p 16)).enable = decide (p8 p 17 % 2 = 1)) :
    linkConfig k p s = cmdOk k p 0 0 (s.setPort (p8 p 16) (portConfigured p (s.port (p8 p 16)))) := by
  have inRange : (decide (15 < p8 p 16) || decide (15 < p8 p 18)) = false := by
    rw [decide_eq_false (not_lt.2 port), decide_eq_false (not_lt.2 attempts), Bool.or_self]
  unfold linkConfig portConfigured
  dsimp only
  rw [if_neg (ne_true_of_eq_false inRange), ← same, Bool.and_not_self, if_neg Bool.false_ne_true, Bool.not_and_self,
    if_neg Bool.false_ne_true]

theorem cacheFlush_flushes {k : Nat} {p : BitVec 512} {s : State} (set : p8 p 16 ≤ 7 ∨ p8 p 16 = 255)
    (room : (s.room (pkRoom p)).state ≠ .none) : cacheFlush k p s = cmdOk k p 0 0 { s with study := { s.study with
      cache := s.study.cache.filter fun l => !(l.room = pkRoom p && (p8 p 16 = 255 || l.set = p8 p 16)) } } := by
  have inRange : ¬ (decide (7 < p8 p 16) && decide (p8 p 16 ≠ 255)) = true := by
    rw [← Bool.decide_and, decide_eq_true_eq]
    omega
  exact (if_neg inRange).trans (if_neg (by rw [roomExists_of room]; decide))

/-! ### CADENCE_CONFIG (R435) -/

/-- The Cadence has the settings of a CADENCE_CONFIG, and with source 2 it beats by itself (R435). -/
def CadSet (source : BitVec 2) (outEn falling : Bool) (nominal : BitVec 40) (c : Cad) : Prop :=
  c.source = source ∧ c.outEn = outEn ∧ c.fallingEdge = falling ∧ c.nominalPs = nominal
    ∧ (source = 2 → c.state = .internal ∧ c.period = nominal.toNat * 65536)

/-- The Cadence's period becomes the one given; its settings stay (R435, R438). -/
theorem setPeriod_keeps (p : Nat) (c : Cad) : let d := setPeriod p c
    d.source = c.source ∧ d.outEn = c.outEn ∧ d.fallingEdge = c.fallingEdge ∧ d.nominalPs = c.nominalPs ∧ d.period = p := by
  unfold setPeriod
  dsimp only
  split <;> exact ⟨rfl, rfl, rfl, rfl, rfl⟩

/-- The Cadence with the settings of a CADENCE_CONFIG, on a device that is the Hall or not (R435, R440). -/
def cadConfigured (source : BitVec 2) (outEn falling : Bool) (nominal : BitVec 40) (hall : Bool) (c : Cad) : Cad :=
  let d := { c with source := source, outEn := outEn, fallingEdge := falling, nominalPs := nominal }
  if source = 2 then
    { setPeriod (nominal.toNat * 65536) d with
      state := .internal, hallSelf := false, coasted := 0, events := [], lastAccepted := none }
  else if (source = 1 && hall) = true then
    { setPeriod c.period { d with hallSelf := false } with state := .internal, hallSelf := true, coasted := 0 }
  else { d with hallSelf := false, state := .acquiring, events := [], lastAccepted := none, beaconTurn := none
                coasted := 0, acquireTurns := c.turn.toNat }

theorem cadConfigured_set (source : BitVec 2) (outEn falling : Bool) (nominal : BitVec 40) (hall : Bool) (c : Cad) :
    CadSet source outEn falling nominal (cadConfigured source outEn falling nominal hall c) := by
  unfold cadConfigured
  dsimp only
  split
  · obtain ⟨h1, h2, h3, h4, period⟩ := setPeriod_keeps (nominal.toNat * 65536)
      { c with source := source, outEn := outEn, fallingEdge := falling, nominalPs := nominal }
    exact ⟨h1, h2, h3, h4, fun _ => ⟨rfl, period⟩⟩
  · rename_i other
    split
    · obtain ⟨h1, h2, h3, h4, -⟩ := setPeriod_keeps c.period { c with
        source := source, outEn := outEn, fallingEdge := falling, nominalPs := nominal, hallSelf := false }
      exact ⟨h1, h2, h3, h4, fun own => absurd own other⟩
    · exact ⟨rfl, rfl, rfl, rfl, fun own => absurd own other⟩

/-- The state with another Cadence. -/
abbrev withCad (c : Cad) (s : State) : State := { s with cad := c }

/-- A CADENCE_CONFIG writes the Cadence; a Hall that takes its own beat records it (R435, R440). -/
theorem cadConfig_eq (source : BitVec 2) (outEn falling : Bool) (nominal : BitVec 40) (s : State) :
    let u := withCad (cadConfigured source outEn falling nominal s.house.isHall s.cad) s
    cadConfig source outEn falling nominal s
      = if source ≠ 2 ∧ (source = 1 && s.house.isHall) = true then cadRec 0x0203 0 0 0 u else u := by
  unfold cadConfig cadConfigured
  dsimp only
  by_cases two : source = 2
  · rw [if_pos two, if_pos two, if_neg fun other => other.1 two]
  · rw [if_neg two, if_neg two]
    by_cases hall : (source = 1 && s.house.isHall) = true
    · rw [if_pos hall, if_pos hall, if_pos ⟨two, hall⟩]
      have own : (s.house.isHall && decide (source = 1) && !false) = true := by
        rw [Bool.not_false, Bool.and_true, Bool.and_comm]
        exact hall
      exact if_pos own
    · rw [if_neg hall, if_neg hall, if_neg fun both => hall both.2]
      rfl

theorem recorded_cadConfig (source : BitVec 2) (outEn falling : Bool) (nominal : BitVec 40) (s : State) :
    Recorded (withCad (cadConfigured source outEn falling nominal s.house.isHall s.cad) s)
      (cadConfig source outEn falling nominal s) := by
  rw [cadConfig_eq]
  generalize withCad (cadConfigured source outEn falling nominal s.house.isHall s.cad) s = u
  split
  · exact recorded_auditRec ..
  · exact recorded_refl u

theorem unnoted_cadConfig (source : BitVec 2) (outEn falling : Bool) (nominal : BitVec 40) :
    Unnoted (cadConfig source outEn falling nominal) := by
  intro R o l s
  rw [cadConfig_eq, cadConfig_eq]
  have put : withCad (cadConfigured source outEn falling nominal (noted R o l s).house.isHall (noted R o l s).cad)
      (noted R o l s) = noted R o l (withCad (cadConfigured source outEn falling nominal s.house.isHall s.cad) s) := rfl
  rw [put, show (noted R o l s).house = s.house from rfl]
  generalize withCad (cadConfigured source outEn falling nominal s.house.isHall s.cad) s = u
  split
  · exact unnoted_auditRec _ R o l u
  · rfl

theorem hostWf_cadConfig {s : State} (h : HostWf s) (source : BitVec 2) (outEn falling : Bool) (nominal : BitVec 40) :
    HostWf (cadConfig source outEn falling nominal s) := by
  have put : HostWf (withCad (cadConfigured source outEn falling nominal s.house.isHall s.cad) s) := h
  rw [cadConfig_eq]
  generalize withCad (cadConfigured source outEn falling nominal s.house.isHall s.cad) s = u at put
  split
  · exact hostWf_auditRec put _
  · exact put

theorem cadenceConfig_sets {k : Nat} {p : BitVec 512} {s : State} (source : p8 p 16 ≤ 2) (low : 5000000 ≤ (p64 p 24).toNat)
    (high : (p64 p 24).toNat ≤ 25000000000) : cadenceConfig k p s = cmdOk k p 0 0
      (cadConfig (fld p 128 2) (p.getLsbD 136) (p.getLsbD 137) (fld p 192 40) s) := by
  have inRange : (decide (2 < p8 p 16) || decide ((p64 p 24).toNat < 5000000)
      || decide (25000000000 < (p64 p 24).toNat)) = false := by
    rw [decide_eq_false (not_lt.2 source), decide_eq_false (not_lt.2 low), decide_eq_false (not_lt.2 high)]
    rfl
  exact if_neg (ne_true_of_eq_false inRange)

/-- SOURCE is 2 bits of its byte. -/
theorem source_of_byte {p : BitVec 512} (h : p8 p 16 = 2) : (fld p 128 2 : BitVec 2) = 2 := by
  have byte : (fld p 128 8 : BitVec 8) = 2 := BitVec.eq_of_toNat_eq h
  have part : (fld p 128 2 : BitVec 2) = fld (fld p 128 8 : BitVec 8) 0 2 := by
    ext i hi
    simp [BitVec.getElem_extractLsb']
    omega
  rw [part, byte]
  rfl

/-- An accepted CADENCE_CONFIG within its ranges configures the Cadence and answers (R435). -/
theorem cadenceConfig_answers {k : Nat} {p : BitVec 512} {s : State} (wf : s.wf = true) (h : Accepted s k p 0x0062)
    (source : p8 p 16 ≤ 2) (low : 5000000 ≤ (p64 p 24).toNat) (high : (p64 p 24).toNat ≤ 25000000000) :
    let e := cadConfig (fld p 128 2) (p.getLsbD 136) (p.getLsbD 137) (fld p 192 40) s
    CadSet (fld p 128 2) (p.getLsbD 136) (p.getLsbD 137) (fld p 192 40) e.cad
      ∧ Answers k p St.ok 0 0 0 s e (takePacket 0x0062 k p (cadenceConfig k p) s) := by
  intro e
  have recorded := recorded_cadConfig (fld p 128 2) (p.getLsbD 136) (p.getLsbD 137) (fld p 192 40) s
  have sets := cadenceConfig_sets (k := k) (s := noteTaken k 0x0062 s) source low high
  rw [(unnoted_cadConfig _ _ _ _).noteTaken] at sets
  have steady := steadyPart_of_recorded recorded
  have cad : e.cad = cadConfigured (fld p 128 2) (p.getLsbD 136) (p.getLsbD 137) (fld p 192 40) s.house.isHall s.cad := by
    unfold Recorded at recorded
    exact (congrArg State.cad recorded :)
  exact ⟨by rw [cad]; exact cadConfigured_set .., answers_noted h sets (steadyPart_rings steady) (steadyPart_bus steady)
    (hostWf_cadConfig (hostWf_of wf) ..)⟩

/-! ### LINK_KEY_LOAD (R510) -/

/-- The key record of a LINK_KEY_LOAD, read from Host memory (R293, R510). -/
abbrev keyRecord (p : BitVec 512) (s : State) : BitVec 512 :=
  BitVec.ofNat 512 (leNat (mread s.host (hostKey 0 (offOf (p64 p 24))) 64))

/-- The key of a key record. -/
abbrev recordKey (r : BitVec 512) : KeySlot := { key := fld r 0 256, fixed := fld r 256 32, epoch := fld r 288 32 }

/-- The packet names a port, a direction, and a key record of Host memory that names the packet's epoch (R510). -/
structure KeyLoadParams (p : BitVec 512) (s : State) : Prop where
  reach : hostReach s 0 = true
  port : p8 p 16 ≤ 15
  direction : p8 p 17 ≤ 1
  space : spaceOf (p64 p 24) = some .host
  align : offOf (p64 p 24) % 64 = 0
  reserved : fld (keyRecord p s) 384 128 = 0
  epoch : (recordKey (keyRecord p s)).epoch = BitVec.ofNat 32 (p32 p 20)

theorem linkKeyLoad_loads {k : Nat} {p : BitVec 512} {s e : State} (params : KeyLoadParams p s)
    (loads : loadKey (p8 p 16) (p8 p 17) (recordKey (keyRecord p s)) (fld (keyRecord p s) 320 64) s = some e) :
    linkKeyLoad k p s = cmdOk k p 0 0 e := by
  obtain ⟨reach, port, direction, space, align, reserved, epoch⟩ := params
  have inRange : (decide (15 < p8 p 16) || decide (1 < p8 p 17) || decide (spaceOf (p64 p 24) ≠ some .host)
      || decide (offOf (p64 p 24) % 64 ≠ 0)) = false := by
    rw [decide_eq_false (not_lt.2 port), decide_eq_false (not_lt.2 direction), decide_eq_false (not_not.2 space),
      decide_eq_false (not_not.2 align)]
    rfl
  have fetched : hostGet s 0 (offOf (p64 p 24)) 64 = some (mread s.host (hostKey 0 (offOf (p64 p 24))) 64) := if_pos reach
  unfold linkKeyLoad
  dsimp only
  rw [if_neg (ne_true_of_eq_false inRange), fetched]
  dsimp only
  rw [if_neg (not_not.2 reserved), if_neg (not_not.2 epoch), loads]

/-- A key that is loaded changes its port alone (R510). -/
theorem loadKey_sets {p dir : Nat} {x : KeySlot} {w : Word} {s e : State} (h : loadKey p dir x w s = some e) :
    ∃ y, e = s.setPort p y := by
  unfold loadKey at h
  dsimp only at h
  split at h
  · cases h
  · obtain ⟨y, -, rfl⟩ := Option.map_eq_some_iff.1 h
    exact ⟨y, rfl⟩

/-- An accepted LINK_KEY_LOAD whose record passes loads the key and answers (R510). -/
theorem linkKeyLoad_answers {k : Nat} {p : BitVec 512} {s e : State} (wf : s.wf = true) (h : Accepted s k p 0x0071)
    (params : KeyLoadParams p s) (loads : loadKey (p8 p 16) (p8 p 17) (recordKey (keyRecord p s))
      (fld (keyRecord p s) 320 64) (noteTaken k 0x0071 s) = some e) :
    Answers k p St.ok 0 0 0 s e (takePacket 0x0071 k p (linkKeyLoad k p) s) := by
  obtain ⟨reach, port, direction, space, align, reserved, epoch⟩ := params
  have done := linkKeyLoad_loads (k := k) (s := noteTaken k 0x0071 s)
    ⟨reach, port, direction, space, align, reserved, epoch⟩ loads
  obtain ⟨y, rfl⟩ := loadKey_sets loads
  exact answers_ok h done rfl rfl (hostWf_of (s := s) wf) rfl (.refl _)

/-! ### The obligation -/

/-- Settles O35: each command passes its checks, writes its setting alone, and answers. -/
theorem deviceSettingsTakeEffect : Obligations.DeviceSettingsTakeEffect := by
  intro k p s wf
  have host := hostWf_of wf
  refine ⟨?power, ?cadence, ?policy, ?link, ?key, ?flush⟩
  case power =>
    exact fun h low high base => ⟨_, rfl, answers_noted h (e := { s with nrg := _ })
      (powerCapSet_sets (s := noteTaken k 0x0061 s) low high base) rfl rfl host⟩
  case cadence =>
    intro h source _ low high
    obtain ⟨⟨source', outEn, falling, nominal, internal⟩, answers⟩ := cadenceConfig_answers wf h source low high
    have cad : State.cad _ = State.cad _ := (congrArg State.cad answers.1 :)
    refine ⟨_, rfl, ?_⟩
    rw [cad]
    exact ⟨source', outEn, falling, nominal, fun two => internal (source_of_byte two), answers⟩
  case policy =>
    exact fun h _ nodes => ⟨_, rfl, answers_noted h (e := { s with house := _ }) (if_neg (not_lt.2 nodes)) rfl rfl host⟩
  case link =>
    exact fun h port _ attempts same => ⟨_, rfl, answers_noted h (e := s.setPort _ _)
      (linkConfig_configures (s := noteTaken k 0x0070 s) port attempts same) rfl rfl host⟩
  case key =>
    exact fun e h reach port direction space align reserved epoch loads => ⟨_, rfl,
      linkKeyLoad_answers wf h ⟨reach, port, direction, space, align, reserved, epoch⟩ loads⟩
  case flush =>
    exact fun h set room => ⟨_, rfl, answers_noted h (e := { s with study := _ })
      (cacheFlush_flushes (s := noteTaken k 0x0081 s) set room) rfl rfl host⟩

end Sys2Proof.Machine
end

section
/-! PROOFS. O36: the long commands start (06 R272, R292, R294 to R296, 10 R470, R479, 13 R564, R566, R595). -/
namespace Sys2Proof.Machine

/-! ### POWER_DOMAIN (R470, R479) -/

/-- A domain that is switched on or off has no target out of range (R479). -/
theorem power_inRange {p : BitVec 512} (low : 1 ≤ p8 p 16) (high : p8 p 16 ≤ 16) (target : p8 p 17 ≤ 2)
    (aim : pdTarget p ≠ .retain) : (decide (p8 p 16 = 0) || decide (16 < p8 p 16) || decide (2 < p8 p 17)
      || (decide (pdTarget p = .retain) && (pdQuadrant (p8 p 16)).isNone)) = false := by
  rw [decide_eq_false (by omega), decide_eq_false (not_lt.2 high), decide_eq_false (not_lt.2 target), decide_eq_false aim]
  rfl

/-- A domain that is on and is asked to be on is answered at once (R479). -/
theorem powerDomain_repeats {k : Nat} {p : BitVec 512} {s : State} (low : 1 ≤ p8 p 16) (high : p8 p 16 ≤ 16)
    (still : (s.domain (p8 p 16)).move = none) (on : (s.domain (p8 p 16)).state = .on) (target : p8 p 17 = 0)
    (untripped : s.nrg.tripped = false) : powerDomain k p s = cmdOk k p 0 0 s := by
  have aim : pdTarget p = .on := by simp only [pdTarget, target]
  have inRange := power_inRange low high (by omega) (by rw [aim]; decide)
  unfold powerDomain
  dsimp only
  rw [if_neg (ne_true_of_eq_false inRange), aim, untripped, Bool.and_false, if_neg Bool.false_ne_true, still]
  dsimp only
  rw [on]
  rfl

/-- A soft request to switch off a domain that is on closes it, and the command runs (R470, R479). -/
theorem powerDomain_closes {k : Nat} {p : BitVec 512} {s : State} (low : 1 ≤ p8 p 16) (high : p8 p 16 ≤ 16)
    (still : (s.domain (p8 p 16)).move = none) (on : (s.domain (p8 p 16)).state = .on) (target : p8 p 17 = 1)
    (soft : pkForce p = false) (other : p8 p 16 ≠ 11) :
    powerDomain k p s = softRequest (p8 p 16) .off 1 (startLong k p s) := by
  have aim : pdTarget p = .off := by simp only [pdTarget, target]
  have inRange := power_inRange low high (by omega) (by rw [aim]; decide)
  have idle : (decide (p8 p 16 = pdLarder) && larderBusy s) = false := by
    rw [show decide (p8 p 16 = pdLarder) = false from decide_eq_false other, Bool.false_and]
  unfold powerDomain
  dsimp only
  rw [if_neg (ne_true_of_eq_false inRange), aim, decide_eq_false (by decide : PdState.off ≠ .on), Bool.false_and,
    if_neg Bool.false_ne_true, still]
  dsimp only
  rw [on]
  dsimp only
  rw [if_neg (by decide), if_neg (ne_true_of_eq_false soft), if_neg (ne_true_of_eq_false idle)]

/-- A soft request writes its domain alone (R470). -/
theorem softRequest_frame (d : Nat) (aim : PdState) (s : State) :
    softRequest d aim 1 s = { s with domains := (softRequest d aim 1 s).domains } := rfl

/-- A soft request closes its domain, and notes its cause and its time (R470). -/
theorem softRequest_domain (d : Nat) (aim : PdState) (s : State) : (softRequest d aim 1 s).domain d =
    { s.domain d with state := .closing, cause := 1, hard := false, target := aim, requested := s.now } := by
  have caused : (noteCause d 1 false s).domain d = { s.domain d with cause := 1, hard := false } :=
    tget_tset_of_ne _ _ fun default => absurd (congrArg Domain.cause default :) (by decide : (1 : BitVec 2) ≠ 0)
  unfold softRequest
  rw [State.domain, State.setDomain, tget_tset_of_ne _ _ fun default =>
    absurd (congrArg Domain.state default :) (by decide : PdState.closing ≠ .on), caused]
  rfl

/-! ### GROUP_DEFINE and GROUP_RELEASE (R564, R566) -/

/-- t differs from s at most in the ports. -/
def PortsOnly (s t : State) : Prop := t = { s with ports := t.ports }

theorem PortsOnly.trans {s t u : State} (h : PortsOnly s t) (g : PortsOnly t u) : PortsOnly s u := by
  unfold PortsOnly at h g ⊢
  rw [g, h]

theorem PortsOnly.ownNode {s t : State} (h : PortsOnly s t) : ownNode t = ownNode s := by
  unfold PortsOnly at h
  rw [h]
  rfl

theorem portsOnly_mgmtTo (n : Nat) (w : BitVec 512) (s : State) : PortsOnly s (mgmtTo n w s) := by
  unfold mgmtTo sendMgmt
  split
  · split <;> rfl
  · rfl

/-- A message to every other node of a list changes the ports alone. -/
theorem portsOnly_askMembers {g room kib : Nat} {ns : List Nat} {s : State} (others : ∀ n ∈ ns, n ≠ ownNode s) :
    PortsOnly s (askMembers g room kib ns s) := by
  refine List.foldlRecOn (motive := PortsOnly s) _ _ rfl fun t sent x hx => ?_
  have away : x.1 ≠ ownNode t := by
    rw [sent.ownNode]
    exact others x.1 (List.of_mem_zip hx).1
  rw [if_neg away]
  exact sent.trans (portsOnly_mgmtTo ..)

theorem portsOnly_releaseAt {g room : Nat} {ns : List Nat} {s : State} (others : ∀ n ∈ ns, n ≠ ownNode s) :
    PortsOnly s (releaseAt g room ns s) := by
  refine List.foldlRecOn (motive := PortsOnly s) _ _ rfl fun t sent n hn => ?_
  have away : n ≠ ownNode t := by
    rw [sent.ownNode]
    exact others n hn
  rw [if_neg away]
  exact sent.trans (portsOnly_mgmtTo ..)

/-- A list without repetitions is its own list of distinct members. -/
theorem eraseDups_of_nodup {ns : List Nat} (h : ns.Nodup) : ns.eraseDups = ns := by
  induction ns with
  | nil => rfl
  | cons a r ih =>
    obtain ⟨fresh, later⟩ := List.nodup_cons.1 h
    have kept : r.filter (fun b => !b == a) = r := List.filter_eq_self.2 fun b hb => by
      rw [Bool.not_eq_true', beq_eq_false_iff_ne]
      rintro rfl
      exact fresh hb
    rw [List.eraseDups_cons, kept, ih later]

/-- The members that a GROUP_DEFINE lists are distinct members of the House, none of them this node (R564). -/
structure GroupParams (p : BitVec 512) (s : State) (ns : List Nat) : Prop where
  two : 2 ≤ p16 p 18
  members : p16 p 18 ≤ 1024
  size : 1 ≤ p32 p 20
  kib : p32 p 20 ≤ 24576
  space : spaceOf (p64 p 24) = some .host
  hall : s.house.isHall = true
  fresh : ∀ x ∈ s.house.groupDefs, x.1 ≠ p8 p 16
  list : groupList s p = some ns
  nodup : ns.Nodup
  known : ∀ n ∈ ns, isMember s n = true

theorem groupDefine_asks {k : Nat} {p : BitVec 512} {s : State} {ns : List Nat} (params : GroupParams p s ns) :
    groupDefine k p s = askMembers (p8 p 16) (pkRoom p) (p32 p 20) ns (startGroupCmd k p ns s) := by
  obtain ⟨two, members, size, kib, space, hall, fresh, list, nodup, known⟩ := params
  have inRange : (decide (p16 p 18 < 2) || decide (1024 < p16 p 18) || decide (p32 p 20 < 1) || decide (24576 < p32 p 20)
      || decide (spaceOf (p64 p 24) ≠ some .host)) = false := by
    rw [decide_eq_false (not_lt.2 two), decide_eq_false (not_lt.2 members), decide_eq_false (not_lt.2 size),
      decide_eq_false (not_lt.2 kib), decide_eq_false (not_not.2 space)]
    rfl
  have undefined : (s.house.groupDefs.any fun x => decide (x.1 = p8 p 16)) = false :=
    List.any_eq_false.2 fun x hx => by
      rw [decide_eq_true_eq]
      exact fresh x hx
  unfold groupDefine
  dsimp only
  rw [if_neg (ne_true_of_eq_false inRange), hall, if_neg (by decide), if_neg (ne_true_of_eq_false undefined), list]
  dsimp only
  rw [eraseDups_of_nodup nodup, if_neg (not_not.2 rfl), List.all_eq_true.2 known, if_neg (by decide)]

/-- The state in which a group's definition is gone (R566). -/
def groupForgotten (g : Nat) (s : State) : State :=
  { s with house := { s.house with groupDefs := tdel s.house.groupDefs g, barriers := tdel s.house.barriers g } }

/-- The end of a definition is the House's alone. -/
theorem groupForgotten_keeps (g : Nat) (s : State) : let t := groupForgotten g s
    t.rings = s.rings ∧ t.fy = s.fy ∧ t.now = s.now ∧ SameMemory s t := by
  unfold groupForgotten
  generalize ({ s.house with groupDefs := tdel s.house.groupDefs g, barriers := tdel s.house.barriers g } : House) = x
  exact ⟨rfl, rfl, rfl, rfl, rfl, rfl, rfl⟩

theorem groupRelease_releases {k : Nat} {p : BitVec 512} {s : State} {g : GroupDef} (hall : s.house.isHall = true)
    (defined : s.house.groupDefs.find? (·.1 = p8 p 16) = some (p8 p 16, g)) (away : ownNode s ∉ g.members) :
    groupRelease k p s = releaseAt (p8 p 16) g.room g.members
      (startGroupCmd k p g.members (groupForgotten (p8 p 16) s)) := by
  have sent := portsOnly_releaseAt (g := p8 p 16) (room := g.room)
    (s := startGroupCmd k p g.members (groupForgotten (p8 p 16) s)) fun n hn same => away (same ▸ hn)
  have apart : g.members.contains (ownNode (releaseAt (p8 p 16) g.room g.members
      (startGroupCmd k p g.members (groupForgotten (p8 p 16) s)))) = false := by
    rw [sent.ownNode]
    exact Bool.eq_false_iff.2 fun mine => away (List.contains_iff_mem.1 mine)
  unfold groupRelease
  dsimp only
  rw [if_neg (by rw [hall]; decide), defined]
  dsimp only
  exact if_neg (ne_true_of_eq_false apart)

/-! ### STUDY_LOAD_TABLES and FW_UPDATE (R295, R296, R595) -/

theorem loadTables_starts {k : Nat} {p : BitVec 512} {s : State} (set : p8 p 16 ≤ 7) (size : 1 ≤ p32 p 20)
    (entries : p32 p 20 ≤ 2 ^ 20) (more : p32 p 24 ≤ 2 ^ 20)
    (cellar : ∀ b ∈ [32, 40, 48], spaceOf (p64 p b) = some .cellar) (room : (s.room (pkRoom p)).state ≠ .none) :
    loadTables k p s = startLong k p s := by
  have inRange : (decide (7 < p8 p 16) || decide (p32 p 20 < 1) || decide (2 ^ 20 < p32 p 20) || decide (2 ^ 20 < p32 p 24)
      || !decide (spaceOf (p64 p 32) = some .cellar) || !decide (spaceOf (p64 p 40) = some .cellar)
      || !decide (spaceOf (p64 p 48) = some .cellar)) = false := by
    rw [decide_eq_false (not_lt.2 set), decide_eq_false (not_lt.2 size), decide_eq_false (not_lt.2 entries),
      decide_eq_false (not_lt.2 more), decide_eq_true (cellar 32 (by decide)), decide_eq_true (cellar 40 (by decide)),
      decide_eq_true (cellar 48 (by decide))]
    rfl
  exact (if_neg (ne_true_of_eq_false inRange)).trans (if_neg (by rw [roomExists_of room]; decide))

theorem fwUpdate_starts {k : Nat} {p : BitVec 512} {s : State} (size : p32 p 16 % 4096 = 0)
    (space : spaceOf (p64 p 24) = some .host) (align : offOf (p64 p 24) % 4096 = 0) : fwUpdate k p s =
      { startLong k p s with fy := { (startLong k p s).fy with state := .update } } := by
  have inRange : (decide (p32 p 16 % 4096 ≠ 0) || decide (spaceOf (p64 p 24) ≠ some .host)
      || decide (offOf (p64 p 24) % 4096 ≠ 0)) = false := by
    rw [decide_eq_false (not_not.2 size), decide_eq_false (not_not.2 space), decide_eq_false (not_not.2 align)]
    rfl
  exact if_neg (ne_true_of_eq_false inRange)

/-! ### A command that has started (R272) -/

/-- The long command l runs, and no ring has a reply to it yet (R272). -/
def LongStarted (l : LongCmd) (s t : State) : Prop :=
  t.fy.longs = s.fy.longs ++ [l] ∧ ∀ j, (t.ring j).cons = (s.ring j).cons

/-- The taking of a packet moves no consumer count. -/
theorem noteTaken_cons {k : Nat} {p : BitVec 512} {o : BitVec 16} {s t : State} (h : Accepted s k p o)
    (rings : t.rings = (noteTaken k o s).rings) (j : Nat) : (t.ring j).cons = (s.ring j).cons := by
  rw [ring_congr rings]
  by_cases same : j = k
  · rw [same, noteTaken_ring (accepted_ring h).1]
  · exact congrArg Ring.cons (tget_tset_ne _ _ _ same)

section
variable {k : Nat} {p : BitVec 512} {o : BitVec 16} {s t : State} (h : Accepted s k p o)
include h

/-- A command that starts, with nothing else of the rings and the Foyer changed, has started. -/
theorem longStarted_of {l : LongCmd} (fy : t.fy.longs = (noteTaken k o s).fy.longs ++ [l])
    (rings : t.rings = (noteTaken k o s).rings) : LongStarted l s t := ⟨fy, noteTaken_cons h rings⟩

end

/-- A soft POWER_DOMAIN starts and closes its domain (R470, R479). -/
theorem powerDomain_starts {k : Nat} {p : BitVec 512} {s : State} (h : Accepted s k p 0x0060) (low : 1 ≤ p8 p 16)
    (high : p8 p 16 ≤ 16) (still : (s.domain (p8 p 16)).move = none) (on : (s.domain (p8 p 16)).state = .on)
    (target : p8 p 17 = 1) (soft : pkForce p = false) (other : p8 p 16 ≠ 11) :
    let t := powerDomain k p (noteTaken k 0x0060 s)
    LongStarted { ring := k, packet := p, start := s.now } s t
      ∧ t.domain (p8 p 16) = { s.domain (p8 p 16) with
          state := .closing, cause := 1, hard := false, target := .off, requested := s.now }
      ∧ { t with domains := s.domains, fy := s.fy, rings := s.rings } = s := by
  rw [powerDomain_closes (s := noteTaken k 0x0060 s) low high still on target soft other]
  have frame := softRequest_frame (p8 p 16) .off (startLong k p (noteTaken k 0x0060 s))
  have closed := softRequest_domain (p8 p 16) .off (startLong k p (noteTaken k 0x0060 s))
  generalize softRequest _ _ _ _ = t at frame closed ⊢
  refine ⟨longStarted_of h ?_ ?_, closed, ?_⟩
  all_goals
    rw [frame]
    rfl

/-- A GROUP_DEFINE starts and asks the members; the definitions and the memories stay (R564). -/
theorem groupDefine_starts {k : Nat} {p : BitVec 512} {s : State} {ns : List Nat} (h : Accepted s k p 0x0073)
    (params : GroupParams p s ns) (others : ∀ n ∈ ns, n ≠ ownNode s) : let t := groupDefine k p (noteTaken k 0x0073 s)
    LongStarted { ring := k, packet := p, start := s.now, awaits := ns, members := ns } s t
      ∧ t.house.groupDefs = s.house.groupDefs ∧ SameMemory s t := by
  obtain ⟨two, members, size, kib, space, hall, fresh, list, nodup, known⟩ := params
  rw [groupDefine_asks (s := noteTaken k 0x0073 s) ⟨two, members, size, kib, space, hall, fresh, list, nodup, known⟩]
  have sent := portsOnly_askMembers (g := p8 p 16) (room := pkRoom p) (kib := p32 p 20)
    (s := startGroupCmd k p ns (noteTaken k 0x0073 s)) others
  generalize askMembers _ _ _ _ _ = t at sent ⊢
  unfold PortsOnly at sent
  rw [sent]
  exact ⟨longStarted_of h rfl rfl, rfl, rfl, rfl, rfl, rfl⟩

/-- A GROUP_RELEASE starts, the group's definition gone, and asks the members; the memories stay (R566). -/
theorem groupRelease_starts {k : Nat} {p : BitVec 512} {s : State} {g : GroupDef} (h : Accepted s k p 0x0074)
    (hall : s.house.isHall = true) (defined : s.house.groupDefs.find? (·.1 = p8 p 16) = some (p8 p 16, g))
    (away : ownNode s ∉ g.members) : let t := groupRelease k p (noteTaken k 0x0074 s)
    LongStarted { ring := k, packet := p, start := s.now, awaits := g.members, members := g.members } s t
      ∧ t.house.groupDefs = tdel s.house.groupDefs (p8 p 16) ∧ SameMemory s t := by
  rw [groupRelease_releases (s := noteTaken k 0x0074 s) hall defined away]
  have sent := portsOnly_releaseAt (g := p8 p 16) (room := g.room)
    (s := startGroupCmd k p g.members (groupForgotten (p8 p 16) (noteTaken k 0x0074 s)))
    fun n hn same => away (same ▸ hn)
  obtain ⟨rings, fy, now, memory⟩ := groupForgotten_keeps (p8 p 16) (noteTaken k 0x0074 s)
  have defs : (groupForgotten (p8 p 16) (noteTaken k 0x0074 s)).house.groupDefs = tdel s.house.groupDefs (p8 p 16) := rfl
  generalize releaseAt _ _ _ _ = t at sent ⊢
  generalize groupForgotten _ _ = u at sent rings fy now memory defs
  unfold PortsOnly at sent
  rw [sent]
  refine ⟨longStarted_of h ?_ rings, defs, memory⟩
  unfold startGroupCmd
  dsimp only
  rw [fy, now]
  rfl

/-- A FW_UPDATE starts and puts the Foyer in UPDATE (R296). -/
theorem fwUpdate_updates {k : Nat} {p : BitVec 512} {s : State} (h : Accepted s k p 0x00F0) (size : p32 p 16 % 4096 = 0)
    (space : spaceOf (p64 p 24) = some .host) (align : offOf (p64 p 24) % 4096 = 0) :
    let t := fwUpdate k p (noteTaken k 0x00F0 s)
    LongStarted { ring := k, packet := p, start := s.now } s t ∧ t.fy.state = .update
      ∧ { t with fy := s.fy, rings := s.rings } = s := by
  rw [fwUpdate_starts (s := noteTaken k 0x00F0 s) size space align]
  exact ⟨longStarted_of h rfl rfl, rfl, rfl⟩

/-! ### The obligation -/

/-- Settles O36: each command passes its checks and enters the list of long commands, with its own first step. -/
theorem longCommandsStart : Obligations.LongCommandsStart := by
  intro k p s wf free l d
  refine ⟨?power, ?define, ?release, ?tables, ?firmware⟩
  case power =>
    intro h low high still on
    constructor
    · intro target untripped
      refine ⟨_, rfl, ?_⟩
      unfold takeLong
      rw [if_pos free]
      exact answers_noted h (powerDomain_repeats (s := noteTaken k 0x0060 s) low high still on target untripped) rfl rfl
        (hostWf_of wf)
    · intro target soft other
      obtain ⟨⟨longs, cons⟩, closed, frame⟩ := powerDomain_starts h low high still on target soft other
      exact ⟨_, congrArg Host.Outcome.next (takeLong_of _ free h), longs, closed, cons, frame⟩
  case define =>
    intro ns h two members size kib space hall fresh list nodup known
    obtain ⟨⟨longs, cons⟩, defs, memory⟩ := groupDefine_starts h
      ⟨two, members, size, kib, space, hall, fresh, list, nodup, fun n hn => (known n hn).1⟩ fun n hn => (known n hn).2
    exact ⟨_, congrArg Host.Outcome.next (takeLong_of _ free h), longs, defs, cons, memory⟩
  case release =>
    intro g h hall defined away _
    obtain ⟨⟨longs, cons⟩, defs, memory⟩ := groupRelease_starts h hall defined away
    exact ⟨_, congrArg Host.Outcome.next (takeLong_of _ free h), longs, defs, cons, memory⟩
  case tables =>
    intro h set size entries more cellar room
    exact congrArg Host.Outcome.next ((takeLong_of _ free h).trans
      (loadTables_starts (s := noteTaken k 0x0080 s) set size entries more cellar room))
  case firmware =>
    intro h none size space align
    obtain ⟨⟨longs, cons⟩, update, frame⟩ := fwUpdate_updates h size space align
    exact ⟨_, congrArg Host.Outcome.next ((if_pos none).trans (takePacket_of _ h)), update, longs.trans (congrArg (· ++ [l]) none), cons, frame⟩

end Sys2Proof.Machine
end

section
/-! PROOFS. O37: SQ_DESTROY and FW_UPDATE end with their reply (06 R272, R285, R296). -/
namespace Sys2Proof.Machine

/-- The long command of a ring of its own that still wants the reply: it leaves the list, the ring gets the reply, and
nothing else changes (R272). -/
theorem endLong_spec {l : LongCmd} {s : State} (host : HostWf s) (live : l.orphan = false)
    (reach : hostReach s l.ring = true) (enable : (s.ring l.ring).enable = true)
    (error : (s.ring l.ring).ringError = false) (st : Byte) (dt : BitVec 16) (r0 r1 : Word) :
    let t := endLong l st dt r0 r1 s
    ReplyOnly { s with fy := { s.fy with longs := s.fy.longs.erase l } } t
      ∧ t.fy = { s.fy with longs := s.fy.longs.erase l } ∧ (t.ring l.ring).cons = (s.ring l.ring).cons + 1
      ∧ mread t.host (hostKey l.ring (replySlot (s.ring l.ring))) 32
        = replyBytes (s.ring l.ring).replyPhase l.packet st dt r0 r1 := by
  intro t
  have replied : t = cmdReply l.ring l.packet st dt r0 r1 { s with fy := { s.fy with longs := s.fy.longs.erase l } } :=
    if_neg (ne_true_of_eq_false live)
  obtain ⟨only, reply, rings, fy⟩ := cmdReply_spec (s := { s with fy := { s.fy with longs := s.fy.longs.erase l } })
    l.packet st dt r0 r1 enable error reach host
  rw [← replied] at only reply rings fy
  obtain ⟨cons, -⟩ := ringAnswered_read (s := s) enable rings
  exact ⟨only, fy, cons, reply⟩

/-- An SQ_DESTROY ends where its queues have gone (R285). -/
theorem finishLong_sqDestroy {l : LongCmd} {s : State} (row : pktOpcode l.packet = 0x0021)
    (gone : ∀ g ∈ l.awaits, (s.sq g).destroying = false) : finishLong l s = endLong l St.ok 0 l.result0 0 s := by
  have all : (l.awaits.all fun g => !(s.sq g).destroying) = true := List.all_eq_true.2 fun g hg => by
    rw [gone g hg]
    rfl
  unfold finishLong
  rw [row]
  exact if_pos all

/-- An FW_UPDATE of an image that does not verify ends with DT_SIGNATURE, the Foyer READY again (R296). -/
theorem finishLong_fwUpdate {l : LongCmd} {s : State} {img : List Byte} (row : pktOpcode l.packet = 0x00F0)
    (fetched : hostGet s 0 (offOf (p64 l.packet 24)) (p32 l.packet 16) = some img) (fails : imgVerifies s img = false) :
    finishLong l s = endLong l St.malformed Dt.signature 0 0 { s with fy := { s.fy with state := .ready } } := by
  have fetched' : hostGet { s with fy := { s.fy with state := .ready } } 0 (offOf (p64 l.packet 24)) (p32 l.packet 16)
      = some img := fetched
  have fails' : imgVerifies { s with fy := { s.fy with state := .ready } } img = false := fails
  unfold finishLong
  rw [row]
  show finishUpdate l s = _
  unfold finishUpdate
  dsimp only
  rw [fetched']
  dsimp only
  rw [fails']
  rfl

/-- Settles O37: the only long command is the ring's; its row finds it at its end and answers. -/
theorem longCommandsEnd : Obligations.LongCommandsEnd := by
  intro k l s wf only mine live reach enable error
  have found : exec (.longCommandDone k) s = .next (finishLong l s) := by
    have first : s.fy.longs.find? (fun x => x.ring = k.val) = some l := by
      rw [only]
      exact List.find?_cons_of_pos (decide_eq_true mine)
    show execLongCommandDone k s = _
    unfold execLongCommandDone
    rw [first]
  have erased : s.fy.longs.erase l = [] := by
    rw [only]
    exact List.erase_cons_head l []
  have host := hostWf_of wf
  rw [← mine] at reach enable error ⊢
  constructor
  · intro row gone
    obtain ⟨frame, fy, cons, reply⟩ := endLong_spec host live reach enable error St.ok 0 l.result0 0
    refine ⟨_, found.trans (congrArg _ (finishLong_sqDestroy row gone)), ?_⟩
    generalize endLong l St.ok 0 l.result0 0 s = t at frame fy cons reply ⊢
    exact ⟨by rw [fy]; exact erased, cons, reply, (congrArg State.sqs frame :), (congrArg State.pantry frame :),
      (congrArg State.cellar frame :), (congrArg State.larder frame :)⟩
  · intro img row fetched fails
    obtain ⟨frame, fy, -, reply⟩ := endLong_spec (s := { s with fy := { s.fy with state := .ready } }) host live reach
      enable error St.malformed Dt.signature 0 0
    refine ⟨_, found.trans (congrArg _ (finishLong_fwUpdate row fetched fails)), ?_⟩
    generalize endLong l St.malformed Dt.signature 0 0 _ = t at frame fy reply ⊢
    exact ⟨by rw [fy]; exact erased, by rw [fy], (congrArg State.flash frame :), reply⟩

end Sys2Proof.Machine
end

section
/-! PROOFS. O39: the registers of a command ring (06 R256, R258, R259, R263, R264, 18 R641, R714). -/
namespace Sys2Proof.Machine

/-! ### SIZE (R256, R258, R259) -/

/-- The ring with the fields of a SIZE written, ENABLE apart (R256, R714). -/
def ringSized (k : Nat) (v : Word) (r : Ring) : Ring :=
  { r with
    log2 := if !r.enable && 4 ≤ (fld v 0 4 : BitVec 4).toNat && (fld v 0 4 : BitVec 4).toNat ≤ 12 then fld v 0 4 else r.log2
    vector := if (fld v 16 8 : Byte).toNat < vectorLimit k then fld v 16 8 else r.vector
    irqEn := v.getLsbD 24 }

/-- The ring after ENABLE is written: its counts and its phase start again where it was disabled (R258, R259). -/
def ringTurned (on : Bool) (r : Ring) : Ring :=
  if on && !r.enable then { r with enable := true, prod := 0, cons := 0, replyPhase := true, ringError := false }
  else if !on && r.enable then { r with enable := false }
  else r

/-- The long commands of ring k have no ring that wants their reply (R259). -/
def ringOrphaned (k : Nat) (l : LongCmd) : LongCmd := if l.ring = k then { l with orphan := true } else l

/-- A write of ENABLE turns the ring, and orphans the ring's long commands where it disables it (R258, R259). -/
theorem ringEnable_eq (k : Nat) (on : Bool) (s : State) : ringEnable k on s =
    if on = (s.ring k).enable then s
    else { s.setRing k (ringTurned on (s.ring k)) with
      fy := { s.fy with longs := if on then s.fy.longs else s.fy.longs.map (ringOrphaned k) } } := by
  unfold ringEnable ringTurned
  dsimp only
  cases on <;> cases (s.ring k).enable <;> rfl

theorem ringTurned_same (r : Ring) : ringTurned r.enable r = r := by
  unfold ringTurned
  cases r.enable <;> rfl

/-- What two writes of rings leave, with long commands marked. -/
theorem ringSet_frame (s : State) (x y : Table Ring) (l : List LongCmd) :
    { ({ { s with rings := x } with rings := y, fy := { s.fy with longs := l } } : State) with
      rings := s.rings, fy := { s.fy with longs := s.fy.longs } } = s := rfl

/-- A write of SIZE reaches the ring, and the ring's long commands where it disables the ring; nothing else. -/
theorem ringSize_spec {k : Nat} {s : State} (rings : tableWf {} s.rings = true) (v : Word) : let t := ringSize k v s
    t.ring k = ringTurned (v.getLsbD 8) (ringSized k v (s.ring k)) ∧ (∀ j, j ≠ k → t.ring j = s.ring j)
      ∧ ((s.ring k).enable = true → v.getLsbD 8 = false → t.fy.longs = s.fy.longs.map (ringOrphaned k))
      ∧ { t with rings := s.rings, fy := { t.fy with longs := s.fy.longs } } = s := by
  have sized : (s.setRing k (ringSized k v (s.ring k))).ring k = ringSized k v (s.ring k) := tget_tset_eq _ _ rings
  have enable : (ringSized k v (s.ring k)).enable = (s.ring k).enable := rfl
  have same : ringSize k v s = ringEnable k (v.getLsbD 8) (s.setRing k (ringSized k v (s.ring k))) := rfl
  intro t
  rw [show t = _ from same, ringEnable_eq, sized]
  generalize ringSized k v (s.ring k) = r at sized enable ⊢
  split
  · rename_i on
    rw [on, ringTurned_same]
    refine ⟨sized, fun j other => tget_tset_ne _ _ _ other, fun was off => ?_, rfl⟩
    exact absurd (off.symm.trans (enable.trans was)) Bool.false_ne_true
  · refine ⟨tget_tset_eq _ _ (tableWf_tset _ _ rings), fun j other => ?_, fun _ off => ?_, ?_⟩
    · exact (tget_tset_ne _ _ _ other).trans (tget_tset_ne _ _ _ other)
    · rw [off]
      rfl
    · exact ringSet_frame s _ _ _

theorem ringTurned_enable (on : Bool) (r : Ring) : (ringTurned on r).enable = on := by
  unfold ringTurned
  cases on <;> cases h : r.enable <;> simp [h]

/-- The sizes and the interrupt of the ring are not turned with it. -/
theorem ringTurned_keeps (on : Bool) (r : Ring) : (ringTurned on r).log2 = r.log2 ∧ (ringTurned on r).irqEn = r.irqEn := by
  unfold ringTurned
  split
  · exact ⟨rfl, rfl⟩
  · split <;> exact ⟨rfl, rfl⟩

theorem ringTurned_starts {r : Ring} (off : r.enable = false) : let t := ringTurned true r
    t.prod = 0 ∧ t.cons = 0 ∧ t.replyPhase = true ∧ t.ringError = false := by
  unfold ringTurned
  rw [off]
  exact ⟨rfl, rfl, rfl, rfl⟩

/-- Where the ring is not enabled anew, its counts stay (R258). -/
theorem ringTurned_counts {on : Bool} {r : Ring} (h : on = false ∨ r.enable = true) :
    (ringTurned on r).prod = r.prod ∧ (ringTurned on r).cons = r.cons := by
  have stays : (on && !r.enable) = false := by rcases h with rfl | h <;> simp [*]
  unfold ringTurned
  rw [stays, if_neg Bool.false_ne_true]
  split <;> exact ⟨rfl, rfl⟩

/-! ### The doorbell (R263, R264, R641) -/

/-- A producer count beyond the ring is refused and recorded (R264). -/
theorem ringDoorbell_refused {k : Nat} {prod : Half} {s : State}
    (beyond : (s.ring k).size < (prod - (s.ring k).cons).toNat) : let t := ringDoorbell k prod s
    t.rings = tset s.rings {} k { s.ring k with badProd := true } ∧ Recorded s { t with rings := s.rings } := by
  have recorded : Recorded (s.setRing k { s.ring k with badProd := true }) (ringDoorbell k prod s) := by
    unfold ringDoorbell
    dsimp only
    rw [if_pos beyond]
    split
    · exact recorded_auditRec ..
    · exact recorded_actRec ..
  have same := steadyPart_rings (steadyPart_of_recorded recorded)
  intro t
  refine ⟨same, ?_⟩
  unfold Recorded at recorded ⊢
  exact (congrArg (fun u : State => { u with rings := s.rings }) recorded :)

/-- A parity error of the Foyer's memory stops the Foyer and is recorded (R641). -/
theorem recorded_foyerFault (s : State) : Recorded { s with
    fy := { s.fy with state := .fault, longs := [] }, g := { s.g with devState := .foyerDown }
    err := { s.err with parity := satInc s.err.parity, internal := true } } (foyerFault s) := by
  unfold foyerFault
  dsimp only
  split
  · exact recorded_trans (recorded_pfCause ..) (recorded_auditRec ..)
  · exact recorded_auditRec ..

/-- A producer count within the ring is taken; the Foyer, where it runs, may find a parity error (R263, R641). -/
theorem ringDoorbell_taken {k : Nat} {prod : Half} {s : State} (within : (prod - (s.ring k).cons).toNat ≤ (s.ring k).size) :
    let u := s.setRing k { s.ring k with prod := prod }
    ringDoorbell k prod s = if s.fy.state = .ready then
        if Config.parityFault s.free = true then foyerFault { u with free := s.free + 1 } else { u with free := s.free + 1 }
      else u := if_neg (not_lt.2 within)

/-! ### The obligation -/

/-- Settles O39: a write of SIZE turns the ring; a doorbell sets its producer count or is refused. -/
theorem ringRegistersAct : Obligations.RingRegistersAct := by
  intro k s wf opened room r
  have through (f : State → State) : throughBar k f s = f s := throughBar_room f opened
    ((Decidable.em ((k : Nat) = 0)).imp_right fun other => room fun zero => other (congrArg Fin.val zero))
  have rings := ((wf_iff s).1 wf).rings
  refine ⟨?size, ?doorbell⟩
  case size =>
    intro size lg
    obtain ⟨ring, others, orphaned, frame⟩ := ringSize_spec (k := k) rings size
    obtain ⟨log2, irqEn⟩ := ringTurned_keeps (size.getLsbD 8) (ringSized k size (s.ring k))
    refine ⟨_, congrArg Host.Outcome.next (through _), ?_⟩
    generalize ringSize k size s = t at ring others orphaned frame ⊢
    rw [ring]
    refine ⟨ringTurned_enable .., irqEn, ?_, fun on off => ?_, fun stays => ringTurned_counts stays, fun was off l hl mine => ?_,
      others, frame⟩
    · rw [log2]
      simp only [ringSized, Bool.and_eq_true, Bool.not_eq_true', decide_eq_true_eq, and_assoc]
      rfl
    · rw [on]
      exact ringTurned_starts off
    · rw [orphaned was off] at hl
      obtain ⟨x, -, rfl⟩ := List.mem_map.1 hl
      unfold ringOrphaned at mine ⊢
      split at mine
      · rw [if_pos ‹_›]
      · exact absurd mine ‹_›
  case doorbell =>
    intro prod
    constructor
    · intro beyond
      obtain ⟨set, recorded⟩ := ringDoorbell_refused beyond
      refine ⟨_, congrArg Host.Outcome.next (through _), ?_⟩
      generalize ringDoorbell k prod s = t at set recorded ⊢
      have ring : t.ring k = { s.ring k with badProd := true } := by
        rw [State.ring, set]
        exact tget_tset_eq _ _ rings
      rw [ring]
      refine ⟨rfl, rfl, rfl, fun j other => ?_, recorded⟩
      rw [State.ring, set]
      exact tget_tset_ne _ _ _ other
    · intro within
      have set : (ringDoorbell k prod s).rings = tset s.rings {} k { s.ring k with prod := prod } := by
        rw [ringDoorbell_taken within]
        split
        · split
          · exact steadyPart_rings (steadyPart_of_recorded (recorded_foyerFault _))
          · rfl
        · rfl
      have ring : (ringDoorbell k prod s).ring k = { s.ring k with prod := prod } := by
        rw [State.ring, set]
        exact tget_tset_eq _ _ rings
      refine ⟨_, congrArg Host.Outcome.next (through _), by rw [ring], by rw [ring], fun j other => ?_, fun stopped => ?_,
        fun ready fine => ?_, fun ready fault => ?_⟩
      · rw [State.ring, set]
        exact tget_tset_ne _ _ _ other
      · rw [ringDoorbell_taken within, if_neg stopped]
        rfl
      · rw [ringDoorbell_taken within, if_pos ready, if_neg (ne_true_of_eq_false fine)]
        rfl
      · have recorded := recorded_foyerFault { s.setRing k { s.ring k with prod := prod } with free := s.free + 1 }
        rw [ringDoorbell_taken within, if_pos ready, if_pos fault]
        generalize foyerFault _ = t at recorded ⊢
        unfold Recorded at recorded
        exact ⟨(congrArg (fun u : State => u.fy.state) recorded :), (congrArg (fun u : State => u.g.devState) recorded :),
          (congrArg (fun u : State => u.fy.longs) recorded :), (congrArg (fun u : State => u.err.internal) recorded :),
          (congrArg (fun u : State => u.err.parity) recorded :)⟩

end Sys2Proof.Machine
end

section
/-! PROOFS. O40: the registers and the timers of the logs (06 R309, R314, 18 R629, R631, R633, R714). -/
namespace Sys2Proof.Machine

/-! ### SIZE and HEAD of a log (R629, R631) -/

/-- A log after ENABLE is written: where it was disabled it starts anew (R629). -/
def logTurned (on : Bool) (l : LogRegs) : LogRegs :=
  if on && !l.enable then { l with enable := true, tail := 0, head := 0, error := false, full := false }
  else { l with enable := on }

theorem logTurned_enable (on : Bool) (l : LogRegs) : (logTurned on l).enable = on := by
  unfold logTurned
  split
  · rename_i starts
    exact ((Bool.and_eq_true _ _).mp starts).1.symm
  · rfl

/-- What a log's ENABLE does not reach. -/
theorem logTurned_keeps (on : Bool) (l : LogRegs) : let t := logTurned on l
    t.log2 = l.log2 ∧ t.irqEn = l.irqEn ∧ t.irqSev = l.irqSev ∧ t.vector = l.vector ∧ t.lost = l.lost ∧ t.seq = l.seq := by
  unfold logTurned
  dsimp only
  split <;> exact ⟨rfl, rfl, rfl, rfl, rfl, rfl⟩

theorem logTurned_starts {l : LogRegs} (off : l.enable = false) : let t := logTurned true l
    t.tail = 0 ∧ t.head = 0 ∧ t.error = false ∧ t.full = false := by
  unfold logTurned
  rw [off]
  exact ⟨rfl, rfl, rfl, rfl⟩

/-- Where the log is not enabled anew, its counts stay (R629). -/
theorem logTurned_counts {on : Bool} {l : LogRegs} (h : on = false ∨ l.enable = true) :
    (logTurned on l).tail = l.tail ∧ (logTurned on l).head = l.head := by
  have stays : (on && !l.enable) = false := by rcases h with rfl | h <;> simp [*]
  unfold logTurned
  rw [stays, if_neg Bool.false_ne_true]
  exact ⟨rfl, rfl⟩

/-- The audit log with LOG2 of a SIZE written (R314). -/
def auditSized (v : Word) (l : LogRegs) : LogRegs :=
  { l with log2 := if 4 ≤ (fld v 0 5 : BitVec 5).toNat && (fld v 0 5 : BitVec 5).toNat ≤ 16 then fld v 0 5 else l.log2 }

theorem auditSize_eq (v : Word) (s : State) :
    auditSize v s = { s with audit := logTurned (v.getLsbD 8) (auditSized v s.audit) } := by
  unfold auditSize logTurned
  exact (apply_ite (fun l : LogRegs => ({ s with audit := l } : State)) _ _ _).symm

/-- A fault log with the fields of a SIZE written, ENABLE apart (R629, R633, R714). -/
def fltSized (k : Nat) (v : Word) (l : LogRegs) : LogRegs :=
  { l with
    log2 := if !l.enable && 4 ≤ (fld v 0 5 : BitVec 5).toNat && (fld v 0 5 : BitVec 5).toNat ≤ 16 then fld v 0 5 else l.log2
    irqEn := v.getLsbD 9, irqSev := fld v 10 3, badHead := l.badHead && !v.getLsbD 15
    vector := if (fld v 16 8 : Byte).toNat < vectorLimit k then fld v 16 8 else l.vector }

theorem fltSize_eq (k : Nat) (v : Word) (s : State) :
    fltSize k v s = s.setLog k (logTurned (v.getLsbD 8) (fltSized k v (s.log k))) := by
  unfold fltSize logTurned
  exact (apply_ite (s.setLog k) _ _ _).symm

/-- HEAD takes a count of records that the log holds (R631). -/
theorem writeHead_within {l : LogRegs} {head : Half} (h : (l.tail - head).toNat ≤ l.size) :
    l.writeHead head = { l with head := head, full := if head = l.head then l.full else false } := if_neg (not_lt.2 h)

theorem writeHead_beyond {l : LogRegs} {head : Half} (h : l.size < (l.tail - head).toNat) :
    l.writeHead head = { l with badHead := true } := if_pos h

/-! ### Messages and windows (R309, R633) -/

/-- A message that its mask bit holds waits as pending (02 R33). -/
theorem sendMsix_held {fn vec : Nat} {s : State} (h : (tget s.msix {} (fn * 256 + vec)).masked = true) :
    (sendMsix fn vec s).outputs = s.outputs ∧ (tget (sendMsix fn vec s).msix {} (fn * 256 + vec)).pending = true := by
  unfold sendMsix
  dsimp only
  rw [if_pos h]
  refine ⟨rfl, ?_⟩
  rw [tget_tset_of_ne _ _ fun default => Bool.noConfusion (congrArg MsixEntry.pending default :)]

/-- A log that waits with a message sends it, and its us is noted (R633). -/
theorem fltIrqCoalesce_sends {k : Fin 64} {s : State} (due : (s.log k).irqDue = true)
    (later : (s.log k).sentUs ≠ s.now / 1000 + 1) : exec (.fltIrqCoalesce k) s = .next (sendMsix k (s.log k).vector.toNat
      (s.setLog k { s.log k with irqDue := false, sentUs := s.now / 1000 + 1 })) := by
  have both : ((s.log k).irqDue && decide ((s.log k).sentUs ≠ s.now / 1000 + 1)) = true := by
    rw [due, decide_eq_true later]
    rfl
  exact if_pos both

theorem rollMisuse_new {s : State} (h : s.fy.misuseSec ≠ s.now / 1000000000) : rollMisuse s =
    { s with rooms := tmap s.rooms {} fun _ r => { r with misuse := 0 }
             fy := { s.fy with misuseSec := s.now / 1000000000 } } := if_neg h

/-! ### The obligation -/

/-- Settles O40: the log registers turn their log; a timer's message and windows are read off its definition. -/
theorem logRegistersAct : Obligations.LogRegistersAct := by
  intro k s wf
  obtain ⟨logs, rooms⟩ : tableWf {} s.logs = true ∧ tableWf {} s.rooms = true := ⟨((wf_iff s).1 wf).logs, ((wf_iff s).1 wf).rooms⟩
  refine ⟨?audit, ?fault, ?message, ?work, ?misuse⟩
  case audit =>
    intro opened
    constructor
    · intro size lg
      refine ⟨_, congrArg Host.Outcome.next ((throughBar_pf _ opened).trans (auditSize_eq size s)), rfl,
        logTurned_enable .., ?_, fun on off => ?_, fun stays => logTurned_counts (l := auditSized size s.audit) stays, ?_, ?_⟩
      all_goals obtain ⟨log2, -, -, -, lost, seq⟩ := logTurned_keeps (size.getLsbD 8) (auditSized size s.audit)
      · rw [log2]
        simp only [auditSized, Bool.and_eq_true, decide_eq_true_eq]
        rfl
      · rw [on]
        exact logTurned_starts (l := auditSized size s.audit) off
      · exact lost
      · exact seq
    · exact fun head => ⟨fun within => congrArg Host.Outcome.next ((throughBar_pf _ opened).trans
          (congrArg (fun l : LogRegs => ({ s with audit := l } : State)) (writeHead_within within))),
        fun beyond => congrArg Host.Outcome.next ((throughBar_pf _ opened).trans
          (congrArg (fun l : LogRegs => ({ s with audit := l } : State)) (writeHead_beyond beyond)))⟩
  case fault =>
    intro opened room l
    have through (f : State → State) : throughBar (fltBar s k) f s = f s :=
      throughBar_room f opened ((Decidable.em (fltBar s k = 0)).imp_right room)
    constructor
    · intro size lg
      have log : (s.setLog k (logTurned (size.getLsbD 8) (fltSized k size (s.log k)))).log k
          = logTurned (size.getLsbD 8) (fltSized k size (s.log k)) := tget_tset_eq _ _ logs
      obtain ⟨log2, irqEn, irqSev, vector, -, -⟩ := logTurned_keeps (size.getLsbD 8) (fltSized k size (s.log k))
      refine ⟨_, congrArg Host.Outcome.next ((through _).trans (fltSize_eq k size s)), rfl, ?_⟩
      rw [log]
      refine ⟨logTurned_enable .., irqEn, irqSev, ?_, vector, fun on off => ?_,
        fun stays => logTurned_counts (l := fltSized k size (s.log k)) stays, fun j other => tget_tset_ne _ _ _ other⟩
      · rw [log2]
        simp only [fltSized, Bool.and_eq_true, Bool.not_eq_true', decide_eq_true_eq, and_assoc]
        rfl
      · rw [on]
        exact logTurned_starts (l := fltSized k size (s.log k)) off
    · exact fun head => ⟨fun within => congrArg Host.Outcome.next ((through _).trans
          (congrArg (s.setLog k) (writeHead_within within))),
        fun beyond => congrArg Host.Outcome.next ((through _).trans (congrArg (s.setLog k) (writeHead_beyond beyond)))⟩
  case message =>
    intro due later v
    refine ⟨_, fltIrqCoalesce_sends due later, ?_⟩
    have log : (s.setLog k { s.log k with irqDue := false, sentUs := s.now / 1000 + 1 }).log k
        = { s.log k with irqDue := false, sentUs := s.now / 1000 + 1 } := tget_tset_eq _ _ logs
    have frame : ({ s.setLog k { s.log k with irqDue := false, sentUs := s.now / 1000 + 1 } with logs := s.logs } : State)
        = s := rfl
    have msix : (s.setLog k { s.log k with irqDue := false, sentUs := s.now / 1000 + 1 }).msix = s.msix := rfl
    have outputs : (s.setLog k { s.log k with irqDue := false, sentUs := s.now / 1000 + 1 }).outputs = s.outputs := rfl
    generalize s.setLog k { s.log k with irqDue := false, sentUs := s.now / 1000 + 1 } = u at log frame msix outputs ⊢
    have sent := sendMsix_frame k v u
    have read : (sendMsix k v u).log k = u.log k := congrArg (fun x : Table LogRegs => tget x {} k.val) (sendMsix_logs k v u)
    refine ⟨by rw [read, log], by rw [read, log], ?_, fun free => ?_, fun masked => ?_⟩
    · exact (congrArg (fun x : State => { x with logs := s.logs, outputs := s.outputs, msix := s.msix }) sent).trans
        ((congrArg (fun x : State => { x with outputs := s.outputs, msix := s.msix }) frame).trans rfl)
    · rw [sendMsix_sent (by rw [msix]; exact free)]
      exact ⟨congrArg (_ :: ·) outputs, msix⟩
    · obtain ⟨held, pending⟩ := sendMsix_held (fn := k) (vec := v) (s := u) (by rw [msix]; exact masked)
      exact ⟨held.trans outputs, pending⟩
  case work =>
    refine ⟨_, rfl, rfl, fun j => ?_⟩
    unfold State.log
    dsimp only
    rw [tget_tmap _ logs]
    split
    · rename_i empty
      rw [empty]
      exact (ite_self _).symm
    · exact apply_ite LogRegs.workThisMs _ _ _
  case misuse =>
    refine ⟨rollMisuse s, rfl, ?_⟩
    by_cases same : s.fy.misuseSec = s.now / 1000000000
    · rw [show rollMisuse s = s from if_pos same]
      exact ⟨same, rfl, fun _ => rfl, fun other => absurd same other⟩
    · rw [rollMisuse_new same]
      refine ⟨rfl, rfl, fun old => absurd old same, fun _ j => ?_⟩
      unfold State.room
      dsimp only
      rw [tget_tmap _ rooms]
      split
      · rename_i empty
        rw [empty]
      · rfl

end Sys2Proof.Machine
end

section
/-! SUPPORT. The end of a wait, whatever its status: the sync objects stay, and Host memory stays canonical (03 R142, R153;
08 R383 to R386, R394). -/
namespace Sys2Proof.Machine

/-! ### The sync objects (R383) -/

/-- The flags and the counters. -/
def syncPart (s : State) : Table Flag × Table Counter := (s.flags, s.counters)

theorem syncPart_of_recorded {s t : State} (h : Recorded s t) : syncPart t = syncPart s := by
  obtain ⟨-, -, -, -, flags, counters, -⟩ := recorded_frame h
  rw [syncPart, flags, counters]
  rfl

theorem syncPart_foldl {α : Type} {f : State → α → State} (h : ∀ t a, syncPart (f t a) = syncPart t) (l : List α) (s : State) :
    syncPart (l.foldl f s) = syncPart s :=
  List.foldlRecOn (motive := fun t => syncPart t = syncPart s) l f rfl fun t ht a _ => (h t a).trans ht

section
variable (s : State)

@[simp] theorem syncPart_setChan (c : Nat) (h : Chan) : syncPart (s.setChan c h) = syncPart s := rfl
@[simp] theorem syncPart_setSq (g : Nat) (q : Sq) : syncPart (s.setSq g q) = syncPart s := rfl
@[simp] theorem syncPart_dropWaiter (w : Waiter) : syncPart (dropWaiter w s) = syncPart s := rfl

@[simp] theorem syncPart_roomRec (k : Nat) (r : ErrRec) : syncPart (roomRec k r s) = syncPart s :=
  syncPart_of_recorded (recorded_roomRec ..)

@[simp] theorem syncPart_sendMsix (fn vec : Nat) : syncPart (sendMsix fn vec s) = syncPart s :=
  syncPart_of_recorded (recorded_sendMsix ..)

@[simp] theorem syncPart_sendMsg (m : Msg) : syncPart (sendMsg m s) = syncPart s := by
  unfold sendMsg
  split <;> rfl

@[simp] theorem syncPart_completeEntry (g : Nat) (n : Half) (st : Byte) (r : Word) :
    syncPart (completeEntry g n st r s) = syncPart s := by
  unfold completeEntry
  dsimp only
  split <;> rfl

@[simp] theorem syncPart_triggerEvent (c : Nat) : syncPart (triggerEvent c s) = syncPart s := by
  unfold triggerEvent
  dsimp only
  split
  · rfl
  · split <;> rfl

@[simp] theorem syncPart_raiseEvent (c bit : Nat) : syncPart (raiseEvent c bit s) = syncPart s := by
  have pend (t : State) (h : Chan) :
      syncPart (if h.irqEn.getLsbD bit then sendMsix h.room.toNat h.irqVector.toNat t else t) = syncPart t := by
    split <;> simp
  unfold raiseEvent
  dsimp only
  split
  · exact pend (s.setChan c _) _
  · exact (syncPart_foldl (fun t d => syncPart_triggerEvent t d) _ _).trans (pend (s.setChan c _) _)

@[simp] theorem syncPart_programOver (c : Nat) (st : Byte) (r : Word) : syncPart (programOver c st r s) = syncPart s := by
  unfold programOver entryEnded
  split
  · rw [syncPart_completeEntry]
    rfl
  · rfl

@[simp] theorem syncPart_finishProgram (c : Nat) (st : Byte) (r : Word) : syncPart (finishProgram c st r s) = syncPart s := by
  rw [finishProgram_eq]
  split <;> simp

@[simp] theorem syncPart_endProgram (c : Nat) (st : Byte) (r : Word) : syncPart (endProgram c st r s) = syncPart s := by
  unfold endProgram
  dsimp only
  split
  · split <;> simp
  · simp

@[simp] theorem syncPart_advance (c : Nat) : syncPart (advance c s) = syncPart s := by
  unfold advance
  dsimp only
  split <;> simp

@[simp] theorem syncPart_pokeByte (k : Nat) (a : Word) (b : Byte) : syncPart (pokeByte k a b s) = syncPart s := by
  unfold pokeByte
  split
  · split
    · split <;> rfl
    · rfl
  · split <;> rfl
  · rfl

@[simp] theorem syncPart_badReport (c : Nat) (i : Bool) (pc : Word) (st : Byte) (r : ErrRec) :
    syncPart (badReport c i pc st r s) = syncPart s := by
  unfold badReport
  cases i <;> simp

@[simp] theorem syncPart_proveWrites (c : Nat) : syncPart (proveWrites c s) = syncPart s := by
  unfold proveWrites hostReadOut
  dsimp only
  split
  · split <;> rfl
  · rfl

@[simp] theorem syncPart_markBadRec (c : Nat) (o : Byte) (f : BitVec 16) (e : Nat) (st : Byte) (r : ErrRec) :
    syncPart (markBadRec c o f e st r s) = syncPart s := by
  unfold markBadRec badSteps
  dsimp only
  split
  · simp
  · split <;> simp

/-- The end of a wait sets and clears nothing: that is the wait's own consumption (R385). -/
@[simp] theorem syncPart_endWait (w : Waiter) (st : Byte) (v : Word) : syncPart (endWait w st v s) = syncPart s := by
  unfold endWait
  dsimp only
  split
  · split <;> simp
  · rw [syncPart_completeEntry, syncPart_setSq]
    split <;> simp
  · simp

end

@[simp] theorem syncPart_releaseWaits (p : Waiter → Bool) (st : Byte) (s : State) :
    syncPart (releaseWaits p st s) = syncPart s := by
  suffices ∀ n t, syncPart (releaseN p st n t) = syncPart t from this _ s
  intro n
  induction n with
  | zero => exact fun _ => rfl
  | succ n ih =>
    intro t
    rw [releaseN]
    split
    · rfl
    · rw [ih, syncPart_endWait]

/-! ### Host memory stays canonical -/

section
variable {s : State} (h : HostWf s)
include h

theorem hostWf_of_quiet {t : State} (quiet : Quiet s t) : HostWf t := by
  have host : t.host = s.host := (congrArg (fun x => x.1.2.2.2) quiet.store :)
  rw [HostWf, host]
  exact h

theorem hostWf_pokeByte (k : Nat) (a : Word) (b : Byte) : HostWf (pokeByte k a b s) := by
  unfold pokeByte
  split
  · split
    · split <;> exact h
    · exact h
  · split <;> exact h
  · exact h

theorem hostWf_badReport (c : Nat) (i : Bool) (pc : Word) (st : Byte) (r : ErrRec) : HostWf (badReport c i pc st r s) := by
  unfold badReport
  dsimp only
  refine hostWf_of_quiet (hostWf_roomRec ?_ ..) (quiet_raiseEvent ..)
  split
  · exact h
  · exact hostWf_pokeByte h ..

theorem hostWf_markBadRec (c : Nat) (o : Byte) (f : BitVec 16) (e : Nat) (st : Byte) (r : ErrRec) :
    HostWf (markBadRec c o f e st r s) := by
  have proved : HostWf (proveWrites c s) := hostWf_of_quiet h (quiet_proveWrites c s)
  have reported : HostWf (badSteps c (s.chan c).pc o e st r (proveWrites c s)) :=
    hostWf_badReport (s := (proveWrites c s).setChan c _) proved ..
  unfold markBadRec
  dsimp only
  generalize badSteps c (s.chan c).pc o e st r (proveWrites c s) = t at reported
  split
  · exact hostWf_of_quiet reported (quiet_endProgram ..)
  · split
    · exact reported
    · exact hostWf_of_quiet reported (quiet_advance ..)

theorem hostWf_endWait (w : Waiter) (st : Byte) (v : Word) : HostWf (endWait w st v s) := by
  have dropped : HostWf (dropWaiter w s) := h
  unfold endWait
  dsimp only
  generalize dropWaiter w s = t at dropped
  split
  · split
    · exact hostWf_of_quiet (s := t.setChan _ _) dropped (quiet_advance ..)
    · exact hostWf_markBadRec dropped ..
  · refine hostWf_of_quiet (s := State.setSq _ _ _) ?_ (quiet_completeEntry ..)
    show HostWf (if _ then t else _)
    split
    · exact dropped
    · exact hostWf_roomRec dropped ..
  · exact hostWf_of_quiet dropped (quiet_sendMsg ..)

theorem hostWf_meetWait (w : Waiter) : HostWf (meetWait w s) := by
  unfold meetWait
  split
  · exact hostWf_endWait h ..
  · exact hostWf_endWait (hostWf_of_quiet h (quiet_consumeObj w s)) ..

theorem hostWf_settle : HostWf (settle s) := by
  suffices ∀ n t, HostWf t → HostWf (settleN n t) from this _ s h
  intro n
  induction n with
  | zero => exact fun _ ht => ht
  | succ n ih =>
    intro t ht
    rw [settleN]
    split
    · exact ht
    · exact ih _ (hostWf_meetWait ht _)

theorem hostWf_evalWires : HostWf (evalWires s) :=
  hostWf_settle (hostWf_of_quiet h (quiet_foldl (fun t i => quiet_evalWire i t) _ s))

theorem hostWf_releaseWaits (p : Waiter → Bool) (st : Byte) : HostWf (releaseWaits p st s) := by
  suffices ∀ n t, HostWf t → HostWf (releaseN p st n t) from this _ s h
  intro n
  induction n with
  | zero => exact fun _ ht => ht
  | succ n ih =>
    intro t ht
    rw [releaseN]
    split
    · exact ht
    · exact ih _ (hostWf_endWait ht ..)

end

/-! ### The waits of a list of objects -/

/-- That waits end takes no notice of the Foyer's rings. -/
theorem unnoted_releaseWaits (p : Waiter → Bool) (st : Byte) : Unnoted (releaseWaits p st) := by
  suffices ∀ n, Unnoted (releaseN p st n) from fun R o l s => this s.waiters.length R o l s
  intro n
  induction n with
  | zero => exact fun _ _ _ _ => rfl
  | succ n ih =>
    intro R o l s
    unfold releaseN
    rw [noted_waiters]
    split
    · rfl
    · rw [unnoted_endWait]
      exact ih ..

end Sys2Proof.Machine
end

section
/-! PROOFS. O32: channels are assigned and released (06 R287, R288). -/
namespace Sys2Proof.Machine

/-- Where the record of a channel is replaced, the wires see it at once (R394). -/
abbrev channelSet (c : Nat) (h : Chan) (s : State) : State := evalWires (s.setChan c h)

theorem unnoted_channelSet (c : Nat) (h : Chan) : Unnoted (channelSet c h) := unnoted_evalWires.comp (unnoted_setChan c h)

theorem steadyPart_channelSet (c : Nat) (h : Chan) (s : State) : steadyPart (channelSet c h s) = steadyPart s :=
  (steadyPart_evalWires _).trans (steadyPart_setChan ..)

theorem channelAssign_assigns {k : Nat} {p : BitVec 512} {s : State} (channel : p8 p 16 ≤ 127)
    (room : (s.room (pkRoom p)).state ≠ .none) (free : (s.chan (p8 p 16)).assigned = false)
    (quota : pkRoom p = 0 ∨ (roomChans s (pkRoom p)).length < (s.room (pkRoom p)).maxCh) : channelAssign k p s =
      cmdOk k p 0 0 (channelSet (p8 p 16) { room := BitVec.ofNat 6 (pkRoom p), assigned := true, state := .idle } s) := by
  unfold channelAssign
  dsimp only
  rw [if_neg (not_lt.2 channel), if_neg (by rw [roomExists_of room]; decide), if_neg (ne_true_of_eq_false (quota_free quota)),
    if_neg (ne_true_of_eq_false free)]

theorem channelRelease_releases {k : Nat} {p : BitVec 512} {s : State} (channel : p8 p 16 ≤ 127)
    (assigned : (s.chan (p8 p 16)).assigned = true) (mine : (s.chan (p8 p 16)).room.toNat = pkRoom p)
    (idle : (s.chan (p8 p 16)).state = .idle) :
    channelRelease k p s = cmdOk k p 0 0 (channelSet (p8 p 16) {} (withdrawArrivals (p8 p 16) s)) := by
  have own : (!(s.chan (p8 p 16)).assigned || decide ((s.chan (p8 p 16)).room.toNat ≠ pkRoom p)) = false := by
    rw [assigned, decide_eq_false (not_not.2 mine)]
    rfl
  have rests : (!pkForce p && decide ((s.chan (p8 p 16)).state ≠ .idle)) = false := by
    rw [decide_eq_false (not_not.2 idle), Bool.and_false]
  unfold channelRelease
  dsimp only
  rw [if_neg (not_lt.2 channel), if_neg (ne_true_of_eq_false own), if_neg (ne_true_of_eq_false rests), if_pos idle]

/-- Settles O32: the command passes its checks and writes the channel's record; the wires follow. -/
theorem channelsAreAssigned : Obligations.ChannelsAreAssigned := by
  intro k p s wf r c
  have host := hostWf_of wf
  constructor
  · intro h channel room free quota
    have assigns := channelAssign_assigns (k := k) (s := noteTaken k 0x0030 s) channel room free quota
    rw [(unnoted_channelSet _ _).noteTaken] at assigns
    have steady := steadyPart_channelSet c { room := BitVec.ofNat 6 r, assigned := true, state := .idle } s
    exact ⟨_, rfl, answers_noted h assigns (steadyPart_rings steady) (steadyPart_bus steady)
      (hostWf_evalWires (s := s.setChan c _) host)⟩
  · intro h free channel assigned mine idle
    refine ⟨_, rfl, ?_⟩
    have releases := channelRelease_releases (k := k) (s := noteTaken k 0x0031 s) channel assigned mine idle
    rw [((unnoted_channelSet c {}).comp (unnoted_withdrawArrivals c)).noteTaken] at releases
    have withdrawn : HostWf (withdrawArrivals c s) := hostWf_of_quiet host (quiet_withdrawArrivals c s)
    have steady := (steadyPart_channelSet c {} (withdrawArrivals c s)).trans (steadyPart_withdrawArrivals c s)
    unfold takeLong
    rw [if_pos free]
    exact answers_noted h releases (steadyPart_rings steady) (steadyPart_bus steady)
      (hostWf_evalWires (s := (withdrawArrivals c s).setChan c _) withdrawn)

end Sys2Proof.Machine
end

section
/-! PROOFS. O34: sync objects are mapped and unmapped, tagged regions are defined (06 R289 to R291, 08 R368, R369). -/
namespace Sys2Proof.Machine

/-! ### SYNC_MAP (R289) -/

/-- The Room's map of counters or of flags. -/
abbrev syncMapOf (s : State) (r : Nat) (isC : Bool) : Table Nat :=
  if isC then (s.room r).counterMap else (s.room r).flagMap

/-- The physical objects in use. -/
abbrev syncUsed (s : State) (isC : Bool) : List Nat := if isC then usedCounters s else usedFlags s

/-- The objects of a span, each an identifier with the lowest free physical object that is left (R289). -/
abbrev syncPairs (s : State) (isC : Bool) (v n : Nat) : List (Nat × Nat) :=
  ((List.range n).map (v + ·)).zip (lowestFree (syncUsed s isC) 0 ((syncUsed s isC).length + n) n)

/-- The span of a SYNC_MAP is free in the Room's map, and the Room's quota and the pool have its objects (R289). -/
structure SyncMapFits (p : BitVec 512) (s : State) (isC : Bool) (v n : Nat) : Prop where
  params : syncParams p = some (isC, v, n, true)
  room : (s.room (pkRoom p)).state ≠ .none
  free : ∀ m ∈ syncMapOf s (pkRoom p) isC, ¬(v ≤ m.1 ∧ m.1 < v + n)
  quota : pkRoom p = 0 ∨ (syncMapOf s (pkRoom p) isC).length + n
    ≤ (if isC then (s.room (pkRoom p)).maxCounters else (s.room (pkRoom p)).maxFlags)
  pool : (syncUsed s isC).length + n ≤ (if isC then 8192 else 65536)

/-- The objects of the list enter the Room's map, each at 0 (R289). -/
def syncMapped (r : Nat) (exp isC : Bool) (l : List (Nat × Nat)) (s : State) : State :=
  if isC then mapCounters r exp l s else mapFlags r exp l s

theorem syncMap_maps {k : Nat} {p : BitVec 512} {s : State} {isC : Bool} {v n : Nat} (fits : SyncMapFits p s isC v n) :
    syncMap k p s = cmdOk k p (BitVec.ofNat 64 n) 0
      (syncMapped (pkRoom p) (p8 p 17 = 1) isC (syncPairs s isC v n) s) := by
  obtain ⟨params, room, free, quota, pool⟩ := fits
  have unmapped : ((syncMapOf s (pkRoom p) isC).any fun m => decide (v ≤ m.1) && decide (m.1 < v + n)) = false :=
    List.any_eq_false.2 fun m hm => by
      rw [← Bool.decide_and, decide_eq_true_eq]
      exact free m hm
  have admitted : ((decide (pkRoom p ≠ 0) && decide ((if isC then (s.room (pkRoom p)).maxCounters
        else (s.room (pkRoom p)).maxFlags) < (syncMapOf s (pkRoom p) isC).length + n))
      || decide ((if isC then 8192 else 65536) < (syncUsed s isC).length + n)) = false := by
    rw [decide_eq_false (not_lt.2 pool), Bool.or_false]
    rcases quota with zero | quota
    · rw [zero]
      rfl
    · rw [decide_eq_false (not_lt.2 quota), Bool.and_false]
  unfold syncMap
  dsimp only
  rw [params]
  dsimp only
  rw [if_neg (by decide), if_neg (by rw [roomExists_of room]; decide), if_neg (ne_true_of_eq_false unmapped),
    if_neg (ne_true_of_eq_false admitted)]
  rfl

theorem unnoted_mapFlags (r : Nat) (exp : Bool) (l : List (Nat × Nat)) : Unnoted (mapFlags r exp l) := by
  induction l with
  | nil => exact fun _ _ _ _ => rfl
  | cons m l ih => exact fun R o x s => ih R o x (((s.setFlag m.2 _).setRoom r _))

theorem unnoted_mapCounters (r : Nat) (exp : Bool) (l : List (Nat × Nat)) : Unnoted (mapCounters r exp l) := by
  induction l with
  | nil => exact fun _ _ _ _ => rfl
  | cons m l ih => exact fun R o x s => ih R o x (((s.setCounter m.2 _).setRoom r _))

theorem mapFlags_keeps (r : Nat) (exp : Bool) (l : List (Nat × Nat)) (s : State) :
    busPart (mapFlags r exp l s) = busPart s ∧ (mapFlags r exp l s).host = s.host := by
  induction l generalizing s with
  | nil => exact ⟨rfl, rfl⟩
  | cons m l ih => exact ih _

theorem mapCounters_keeps (r : Nat) (exp : Bool) (l : List (Nat × Nat)) (s : State) :
    busPart (mapCounters r exp l s) = busPart s ∧ (mapCounters r exp l s).host = s.host := by
  induction l generalizing s with
  | nil => exact ⟨rfl, rfl⟩
  | cons m l ih => exact ih _

theorem unnoted_syncMapped (r : Nat) (exp isC : Bool) (l : List (Nat × Nat)) : Unnoted (syncMapped r exp isC l) := by
  cases isC
  · exact unnoted_mapFlags r exp l
  · exact unnoted_mapCounters r exp l

theorem syncMapped_keeps (r : Nat) (exp isC : Bool) (l : List (Nat × Nat)) (s : State) :
    busPart (syncMapped r exp isC l s) = busPart s ∧ (syncMapped r exp isC l s).host = s.host := by
  cases isC
  · exact mapFlags_keeps r exp l s
  · exact mapCounters_keeps r exp l s

/-! ### SYNC_UNMAP (R290) -/

/-- The objects of the list are 0. -/
theorem tget_cleared {α : Type} [DecidableEq α] {d : α} (l : List (Nat × Nat)) {t : Table α} (wf : tableWf d t = true)
    {x : Nat} (h : (∃ m ∈ l, m.2 = x) ∨ tget t d x = d) : tget (l.foldl (fun t m => tset t d m.2 d) t) d x = d := by
  induction l generalizing t with
  | nil => exact h.resolve_left fun ⟨m, hm, _⟩ => absurd hm List.not_mem_nil
  | cons a l ih =>
    refine ih (tableWf_tset _ _ wf) ?_
    by_cases same : x = a.2
    · exact .inr (by rw [same, tget_tset_eq _ _ wf])
    · rw [tget_tset_ne _ _ _ same]
      refine h.imp_left fun ⟨m, hm, there⟩ => ?_
      exact ⟨m, (List.mem_cons.1 hm).resolve_left fun first => same (by rw [← there, first]), there⟩

theorem unmapOne_counters (r : Nat) (s : State) (m : Nat × Nat) :
    (unmapOne r true s m).counters = tset s.counters {} m.2 {} := by
  have kept := syncPart_releaseWaits (fun w => w.obj == .counter m.2) St.syncUnmapped
    (s.setRoom r { s.room r with counterMap := tdel (s.room r).counterMap m.1 })
  exact congrArg (fun t => tset t {} m.2 {}) (congrArg Prod.snd kept)

theorem unmapOne_flags (r : Nat) (s : State) (m : Nat × Nat) :
    (unmapOne r false s m).flags = tset s.flags {} m.2 {} := by
  have kept := syncPart_releaseWaits (fun w => w.obj == .flag m.2) St.syncUnmapped
    (s.setRoom r { s.room r with flagMap := tdel (s.room r).flagMap m.1 })
  exact congrArg (fun t => tset t {} m.2 {}) (congrArg Prod.fst kept)

/-- The objects of the list leave the Room's map (R290). -/
abbrev unmapAll (r : Nat) (isC : Bool) (l : List (Nat × Nat)) (s : State) : State := l.foldl (unmapOne r isC) s

theorem unmapAll_counters (r : Nat) (l : List (Nat × Nat)) (s : State) :
    (unmapAll r true l s).counters = l.foldl (fun t m => tset t {} m.2 {}) s.counters := by
  induction l generalizing s with
  | nil => rfl
  | cons m l ih => exact (ih _).trans (congrArg (l.foldl _) (unmapOne_counters r s m))

theorem unmapAll_flags (r : Nat) (l : List (Nat × Nat)) (s : State) :
    (unmapAll r false l s).flags = l.foldl (fun t m => tset t {} m.2 {}) s.flags := by
  induction l generalizing s with
  | nil => rfl
  | cons m l ih => exact (ih _).trans (congrArg (l.foldl _) (unmapOne_flags r s m))

/-- Every object of the list is back in the pool, at 0 (R290). -/
theorem unmapAll_clears {s t : State} (wf : s.wf = true) (r : Nat) (isC : Bool) (l : List (Nat × Nat))
    (sync : syncPart t = syncPart (unmapAll r isC l s)) {m : Nat × Nat} (hm : m ∈ l) :
    if isC then t.counter m.2 = {} else t.flag m.2 = {} := by
  cases isC
  · have flags : t.flags = _ := (congrArg Prod.fst sync).trans (unmapAll_flags r l s)
    rw [if_neg Bool.false_ne_true, State.flag, flags]
    exact tget_cleared l ((wf_iff s).1 wf).flags (.inl ⟨m, hm, rfl⟩)
  · have counters : t.counters = _ := (congrArg Prod.snd sync).trans (unmapAll_counters r l s)
    rw [if_pos rfl, State.counter, counters]
    exact tget_cleared l ((wf_iff s).1 wf).counters (.inl ⟨m, hm, rfl⟩)

theorem unnoted_unmapOne (r : Nat) (isC : Bool) (m : Nat × Nat) : Unnoted fun s => unmapOne r isC s m := by
  intro R o l s
  cases isC
  · have released := unnoted_releaseWaits (fun w => w.obj == .flag m.2) St.syncUnmapped R o l
      (s.setRoom r { s.room r with flagMap := tdel (s.room r).flagMap m.1 })
    exact congrArg (fun t : State => t.setFlag m.2 {}) released
  · have released := unnoted_releaseWaits (fun w => w.obj == .counter m.2) St.syncUnmapped R o l
      (s.setRoom r { s.room r with counterMap := tdel (s.room r).counterMap m.1 })
    exact congrArg (fun t : State => t.setCounter m.2 {}) released

theorem unmapOne_bus (r : Nat) (isC : Bool) (s : State) (m : Nat × Nat) : busPart (unmapOne r isC s m) = busPart s := by
  cases isC
  · have released := steadyPart_bus (steadyPart_releaseWaits (fun w => w.obj == .flag m.2) St.syncUnmapped
      (s.setRoom r { s.room r with flagMap := tdel (s.room r).flagMap m.1 }))
    exact released
  · have released := steadyPart_bus (steadyPart_releaseWaits (fun w => w.obj == .counter m.2) St.syncUnmapped
      (s.setRoom r { s.room r with counterMap := tdel (s.room r).counterMap m.1 }))
    exact released

theorem hostWf_unmapOne {s : State} (h : HostWf s) (r : Nat) (isC : Bool) (m : Nat × Nat) : HostWf (unmapOne r isC s m) := by
  cases isC
  · exact hostWf_releaseWaits (s := s.setRoom r { s.room r with flagMap := tdel (s.room r).flagMap m.1 }) h
      (fun w => w.obj == .flag m.2) St.syncUnmapped
  · exact hostWf_releaseWaits (s := s.setRoom r { s.room r with counterMap := tdel (s.room r).counterMap m.1 }) h
      (fun w => w.obj == .counter m.2) St.syncUnmapped

theorem unmapAll_keeps {s : State} (h : HostWf s) (r : Nat) (isC : Bool) (l : List (Nat × Nat)) :
    busPart (unmapAll r isC l s) = busPart s ∧ HostWf (unmapAll r isC l s) :=
  List.foldlRecOn (motive := fun t => busPart t = busPart s ∧ HostWf t) l _ ⟨rfl, h⟩
    fun t ⟨bus, host⟩ m _ => ⟨(unmapOne_bus r isC t m).trans bus, hostWf_unmapOne host r isC m⟩

/-- The objects of a span that a Room has mapped. -/
abbrev syncGone (s : State) (r : Nat) (isC : Bool) (v n : Nat) : List (Nat × Nat) :=
  (syncMapOf s r isC).filter fun m => v ≤ m.1 && m.1 < v + n

/-- The waits on the objects of a list. -/
abbrev syncWaits (s : State) (isC : Bool) (l : List (Nat × Nat)) : Nat := l.foldl (fun a m => a + waitersOn s isC m) 0

theorem syncUnmap_unmaps {k : Nat} {p : BitVec 512} {s : State} {isC : Bool} {v n : Nat}
    (params : syncParams p = some (isC, v, n, true)) (room : (s.room (pkRoom p)).state ≠ .none)
    (free : isC = false → ∀ m ∈ syncGone s (pkRoom p) isC v n, (s.flag m.2).dbSq = none) :
    let gone := syncGone s (pkRoom p) isC v n
    syncUnmap k p s = cmdOk k p (BitVec.ofNat 64 gone.length) (BitVec.ofNat 64 (syncWaits s isC gone))
      (unmapAll (pkRoom p) isC gone s) := by
  have unwatched : (!isC && (syncGone s (pkRoom p) isC v n).any fun m => (s.flag m.2).dbSq.isSome) = false := by
    cases isC
    · exact List.any_eq_false.2 fun m hm => by
        rw [free rfl m hm]
        decide
    · rfl
  unfold syncUnmap
  dsimp only
  rw [params]
  dsimp only
  rw [if_neg (by decide), if_neg (by rw [roomExists_of room]; decide), if_neg (ne_true_of_eq_false unwatched)]

/-! ### FE_REGION_SET (R291, R368, R369) -/

/-- The region of a FE_REGION_SET. -/
abbrev newRegion (p : BitVec 512) : FeRegion := { off := offOf (p64 p 24), len := p32 p 20 }

/-- The Room's record with the region of a FE_REGION_SET. -/
abbrev regionRoom (p : BitVec 512) (s : State) : Room :=
  { s.room (pkRoom p) with regions := tput (s.room (pkRoom p)).regions (p8 p 16) (newRegion p) }

/-- A FE_REGION_SET whose Room has no region yet passes its checks (R291, R368). -/
structure RegionFits (p : BitVec 512) (s : State) : Prop where
  index : p8 p 16 ≤ 15
  tag : p8 p 17 ≤ 1
  words : (newRegion p).len % 8 = 0
  long : 0 < (newRegion p).len
  size : (newRegion p).len ≤ 2 ^ 20
  space : spaceOf (p64 p 24) = some .pantry
  align : (newRegion p).off % 8 = 0
  room : (s.room (pkRoom p)).state ≠ .none
  first : (s.room (pkRoom p)).regions = []
  span : spanOk s (pkRoom p) false (newRegion p).off (newRegion p).len = true
  quota : pkRoom p = 0 ∨ 0 < (s.room (pkRoom p)).maxFe
  device : s.rooms.foldl (fun m x => m + x.2.regions.length) 0 < 1024
  quiet : s.waiters = []

/-- Where nothing waits, no wait ends. -/
theorem releaseWaits_none (q : Waiter → Bool) (st : Byte) {s : State} (h : s.waiters = []) : releaseWaits q st s = s := by
  unfold releaseWaits
  rw [h]
  rfl

theorem settle_none {s : State} (h : s.waiters = []) : settle s = s :=
  settle_of_noWaitEnds fun w hw => by simp [h] at hw

theorem settle_endUncovered {s : State} (h : s.waiters = []) : settle (endUncovered s) = s := by
  unfold endUncovered
  rw [releaseWaits_none _ _ h, settle_none h]

/-- A region is not read where an address is translated. -/
theorem regionWords_regionRoom {p : BitVec 512} {s : State} (room : (s.room (pkRoom p)).state ≠ .none) :
    regionWords (s.setRoom (pkRoom p) (regionRoom p s)) (pkRoom p) (newRegion p)
      = regionWords s (pkRoom p) (newRegion p) := by
  have set : (s.setRoom (pkRoom p) (regionRoom p s)).room (pkRoom p) = regionRoom p s :=
    State.setRoom_room_of_ne s _ fun default => room (congrArg Room.state default :)
  unfold regionWords translate
  rw [set]

theorem feRegionSet_sets {k : Nat} {p : BitVec 512} {s : State} (fits : RegionFits p s) : feRegionSet k p s = cmdOk k p 0 0
    (setTags (regionWords s (pkRoom p) (newRegion p)) (p8 p 17 = 1) (s.setRoom (pkRoom p) (regionRoom p s))) := by
  obtain ⟨index, tag, words, long, size, space, align, room, first, span, quota, device, quiet⟩ := fits
  have inRange : (decide (15 < p8 p 16) || decide (1 < p8 p 17) || decide (p32 p 20 % 8 ≠ 0) || decide (2 ^ 20 < p32 p 20)
      || decide (spaceOf (p64 p 24) ≠ some .pantry) || decide (offOf (p64 p 24) % 8 ≠ 0)) = false := by
    rw [decide_eq_false (not_lt.2 index), decide_eq_false (not_lt.2 tag), decide_eq_false (not_not.2 words),
      decide_eq_false (not_lt.2 size), decide_eq_false (not_not.2 space), decide_eq_false (not_not.2 align)]
    rfl
  have admitted : ((decide (pkRoom p ≠ 0) && decide ((s.room (pkRoom p)).maxFe ≤ 0))
      || decide (1024 ≤ s.rooms.foldl (fun m x => m + x.2.regions.length) 0)) = false := by
    rw [decide_eq_false (not_le.2 device), Bool.or_false]
    rcases quota with zero | quota
    · rw [zero]
      rfl
    · rw [decide_eq_false (not_le.2 quota), Bool.and_false]
  have rest : tdel (s.room (pkRoom p)).regions (p8 p 16) = (s.room (pkRoom p)).regions := by
    rw [first]
    rfl
  have unset : (s.room (pkRoom p)).regions.find? (fun x => x.1 = p8 p 16) = none := by
    rw [first]
    rfl
  have apart : (s.room (pkRoom p)).regions.any (fun o => regionsMeet o.2 (newRegion p)) = false := by
    rw [first]
    rfl
  have length : (s.room (pkRoom p)).regions.length = 0 := congrArg List.length first
  unfold feRegionSet
  dsimp only
  rw [if_neg (ne_true_of_eq_false inRange), if_neg (by rw [roomExists_of room]; decide), if_neg long.ne', rest,
    if_neg (ne_true_of_eq_false apart), length, Nat.sub_zero, if_neg (ne_true_of_eq_false admitted), span,
    if_neg (by decide), unset]
  dsimp only
  rw [regionWords_regionRoom room]
  exact congrArg (cmdOk k p 0 0) (settle_endUncovered quiet)

/-! ### The obligation -/

/-- Settles O34: objects enter the map and leave it one by one; a first region takes its place and its tags. -/
theorem syncObjectsAreMapped : Obligations.SyncObjectsAreMapped := by
  intro k p s isC v n wf room r map used pairs
  have host := hostWf_of wf
  refine ⟨?map, ?unmap, ?region⟩
  case map =>
    intro h _ params free quota pool
    have maps := syncMap_maps (k := k) (s := noteTaken k 0x0050 s) ⟨params, room, free, quota, pool⟩
    rw [(unnoted_syncMapped _ _ _ _).noteTaken] at maps
    obtain ⟨bus, hostEq⟩ := syncMapped_keeps (pkRoom p) (p8 p 17 = 1) isC (syncPairs s isC v n) s
    have host' : HostWf (syncMapped (pkRoom p) (p8 p 17 = 1) isC (syncPairs s isC v n) s) := by
      rw [HostWf, hostEq]
      exact host
    exact ⟨_, rfl, answers_noted h maps ((unnoted_syncMapped _ _ _ _).rings s) bus host'⟩
  case unmap =>
    intro gone h params free
    have unnoted : Unnoted (unmapAll (pkRoom p) isC (syncGone s (pkRoom p) isC v n)) :=
      unnoted_foldl (unnoted_unmapOne (pkRoom p) isC) _
    have unmaps := (syncUnmap_unmaps (k := k) (s := noteTaken k 0x0051 s) params room free).trans
      (congrArg (cmdOk k p _ _) (unnoted.noteTaken k 0x0051 s))
    obtain ⟨bus, hostWf⟩ := unmapAll_keeps host (pkRoom p) isC (syncGone s (pkRoom p) isC v n)
    obtain ⟨only, reply, cons, -⟩ := answers_noted h unmaps (unnoted.rings s) bus hostWf
    refine ⟨_, rfl, fun m hm => ?_, cons, reply⟩
    exact unmapAll_clears wf r isC gone (congrArg syncPart only :) hm
  case region =>
    intro new h index tag words some size space align first span quota device quiet
    have sets := feRegionSet_sets (k := k) (s := noteTaken k 0x0052 s)
      ⟨index, tag, words, some, size, space, align, room, first, span, quota, device, quiet⟩
    exact ⟨_, rfl, answers_noted h (e := setTags _ _ (s.setRoom _ _)) sets rfl rfl host⟩

end Sys2Proof.Machine
end

section
/-! PROOFS. O38: packets that fail a check of R270 are answered (06 R270, R271, R309). -/
namespace Sys2Proof.Machine

/-! ### What a refusal changes -/

/-- What a refused packet may change, taken from s, and everything else from t. -/
def unrefused (s t : State) : State :=
  { t with rings := s.rings, rooms := s.rooms
           fy := { t.fy with lastOpcode := s.fy.lastOpcode, misuseSec := s.fy.misuseSec, served := s.fy.served } }

/-- t differs from s at most in records, rings, Rooms and the Foyer's notes of packets and of misuse. -/
def RefusedFrame (s t : State) : Prop := Recorded s (unrefused s t)

theorem RefusedFrame.trans {s t u : State} (h : RefusedFrame s t) (g : RefusedFrame t u) : RefusedFrame s u := by
  unfold RefusedFrame Recorded at *
  exact (congrArg (fun x : State => unrefused s { x with
    host := s.host, audit := s.audit, logs := s.logs, outputs := s.outputs, msix := s.msix
    g := { x.g with irqStatus := s.g.irqStatus } }) g).trans h

theorem refusedFrame_of_recorded {s t : State} (h : Recorded s t) : RefusedFrame s t := by
  unfold RefusedFrame Recorded at *
  exact (congrArg (unrefused s) h).trans rfl

theorem refusedFrame_of_replyOnly {s t : State} (h : ReplyOnly s t) : RefusedFrame s t := by
  unfold ReplyOnly at h
  rw [h]
  rfl

theorem refusedFrame_rooms (x : Table Room) (s : State) : RefusedFrame s { s with rooms := x } := rfl

theorem refusedFrame_setRoom (k : Nat) (r : Room) (s : State) : RefusedFrame s (s.setRoom k r) := refusedFrame_rooms _ s

theorem refusedFrame_rollMisuse (s : State) : RefusedFrame s (rollMisuse s) := by
  unfold rollMisuse
  dsimp only
  split <;> rfl

/-! ### The count of misuse (R309) -/

/-- The misuse counts are read off the Rooms, their second and the time. -/
theorem rollMisuse_rooms {s t : State} (rooms : t.rooms = s.rooms) (sec : t.fy.misuseSec = s.fy.misuseSec)
    (now : t.now = s.now) : (rollMisuse t).rooms = (rollMisuse s).rooms := by
  unfold rollMisuse
  dsimp only
  rw [rooms, sec, now]
  split
  · exact rooms
  · rfl

theorem rollMisuse_lastOpcode (s : State) : (rollMisuse s).fy.lastOpcode = s.fy.lastOpcode := by
  unfold rollMisuse
  dsimp only
  split <;> rfl

/-- A Room's record with a count of misuse above 0 is read back. -/
theorem setRoom_misuse (k : Nat) (s : State) (r : Room) (n : Nat) (h : r.misuse = n + 1) :
    ((s.setRoom k r).room k).misuse = n + 1 := by
  rw [State.setRoom_room_of_ne s k fun default => by simp [default] at h, h]

/-- A misuse counts: the Room's count goes up by 1, and the record of one too many may follow (R309). -/
theorem noteMisuse_spec (k : Nat) {s : State} (host : HostWf s) : let t := noteMisuse k s
    t.rings = s.rings ∧ busPart t = busPart s ∧ HostWf t ∧ t.fy.lastOpcode = s.fy.lastOpcode
      ∧ (t.room k).misuse = ((rollMisuse s).room k).misuse + 1 ∧ RefusedFrame s t := by
  obtain ⟨rings, bus, hostEq⟩ := rollMisuse_keeps s
  have frame := refusedFrame_rollMisuse s
  have opcode := rollMisuse_lastOpcode s
  have host' : HostWf (rollMisuse s) := by
    rw [HostWf, hostEq]
    exact host
  unfold noteMisuse
  dsimp only
  generalize rollMisuse s = u at rings bus hostEq frame opcode host' ⊢
  split
  · generalize counted : u.setRoom k _ = v
    have misuse : (v.room k).misuse = (u.room k).misuse + 1 := by
      rw [← counted]
      exact setRoom_misuse k u _ _ rfl
    have set : v.rings = u.rings ∧ busPart v = busPart u ∧ v.host = u.host ∧ v.fy = u.fy ∧ RefusedFrame u v := by
      rw [← counted]
      exact ⟨rfl, rfl, rfl, rfl, refusedFrame_setRoom ..⟩
    obtain ⟨rings', bus', hostV, fy, framed⟩ := set
    generalize ({ eventRec 0x0221 2 with room := BitVec.ofNat 6 k, arg0 := _ } : ErrRec) = r
    have recorded := recorded_auditRec r v
    have steady := steadyPart_of_recorded recorded
    obtain ⟨rooms, -⟩ := recorded_frame recorded
    refine ⟨(steadyPart_rings steady).trans (rings'.trans rings), (steadyPart_bus steady).trans (bus'.trans bus),
      hostWf_auditRec ?_ r, ?_, ?_, frame.trans (framed.trans (refusedFrame_of_recorded recorded))⟩
    · rw [HostWf, hostV]
      exact host'
    · rw [recorded_fy recorded, fy, opcode]
    · rw [State.room, rooms]
      exact misuse
  · exact ⟨rings, bus, host', opcode, setRoom_misuse k u _ _ rfl, frame.trans (refusedFrame_setRoom ..)⟩

/-! ### A packet that fails its checks (R270, R271) -/

/-- A ring whose packet can be taken is enabled and has no error (R260, R261). -/
theorem canTake_ring {s : State} {k : Nat} (h : canTake s k = true) :
    (s.ring k).enable = true ∧ (s.ring k).ringError = false := by
  simp only [canTake, ringReady, Bool.and_eq_true, Bool.not_eq_true'] at h
  obtain ⟨⟨⟨⟨⟨⟨⟨⟨enable, error⟩, -⟩, -⟩, -⟩, -⟩, -⟩, -⟩, -⟩ := h
  exact ⟨enable, error⟩

/-- The packet's opcode is privileged and its ring is not Room 0's (R270, R309). -/
abbrev misusedBy (k : Nat) (p : BitVec 512) : Bool := (pkCheck k p).2 = Dt.notPermitted && (pkCheck k p).1 = St.badOpcode

/-- The record of a privileged opcode from another Room (R309). -/
abbrev misuseRec (k : Nat) (p : BitVec 512) (s : State) : ErrRec :=
  { status := (pkCheck k p).1, severity := 1, detail := (pkCheck k p).2, opcode := pktOpcode p, index := (s.ring k).cons }

/-- The state in which the reply to a refused packet is written. -/
def refusedState (k : Nat) (p : BitVec 512) (s : State) : State :=
  if misusedBy k p = true then noteMisuse k (ringRec k (misuseRec k p s) s) else s

/-- A packet at the head of a ring that fails its checks is answered with the check's status (R270, R271). -/
theorem takePacket_refused {o : BitVec 16} {k : Nat} {p : BitVec 512} {s : State} (body : State → State)
    (take : canTake s k = true) (reach : hostReach s k = true) (head : ringPacket s k = some p)
    (row : pktOpcode p = o ∨ cmdOpcodes.contains (pktOpcode p).toNat = false) (fails : (pkCheck k p).1 ≠ St.ok) :
    takePacket o k p body s = cmdReply k p (pkCheck k p).1 (pkCheck k p).2 0 0
      (refusedState k p (noteTaken k (pktOpcode p) s)) := by
  have mine : (!canTake s k || (decide (pktOpcode p ≠ o) && cmdOpcodes.contains (pktOpcode p).toNat)) = false := by
    rw [take]
    rcases row with same | unknown
    · rw [decide_eq_false (not_not.2 same)]
      rfl
    · rw [unknown, Bool.and_false]
      rfl
  unfold takePacket
  rw [if_neg (ne_true_of_eq_false mine), if_neg (by rw [reach]; decide), if_neg (not_not.2 head)]
  exact if_neg fails

/-- What a refusal records, before its reply. -/
theorem refusedState_spec (k : Nat) (p : BitVec 512) {s : State} (host : HostWf s) : let t := refusedState k p s
    t.rings = s.rings ∧ busPart t = busPart s ∧ HostWf t
      ∧ (misusedBy k p = true → (t.room k).misuse = ((rollMisuse s).room k).misuse + 1)
      ∧ (misusedBy k p = false → t.rooms = s.rooms) ∧ RefusedFrame s t := by
  unfold refusedState
  split
  · rename_i misused
    have recorded := recorded_ringRec k (misuseRec k p s) s
    have wf : HostWf (ringRec k (misuseRec k p s) s) := by
      unfold ringRec
      dsimp only
      split
      · exact hostWf_auditRec host _
      · exact hostWf_roomRec host ..
    generalize ringRec k (misuseRec k p s) s = u at recorded wf
    have steady := steadyPart_of_recorded recorded
    obtain ⟨rings, bus, host', -, misuse, frame⟩ := noteMisuse_spec k wf
    have now : u.now = s.now := busPart_now (steadyPart_bus steady)
    refine ⟨rings.trans (steadyPart_rings steady), bus.trans (steadyPart_bus steady), host', fun _ => ?_,
      fun well => absurd (well.symm.trans misused) Bool.false_ne_true,
      (refusedFrame_of_recorded recorded).trans frame⟩
    rw [misuse, State.room, rollMisuse_rooms (recorded_frame recorded).1 (congrArg Foyer.misuseSec (recorded_fy recorded)) now]
    rfl
  · rename_i well
    exact ⟨rfl, rfl, host, fun misused => absurd misused well, fun _ => rfl, rfl⟩

/-! ### The rows of the command packets -/

/-- The rows of the command packets with their opcodes. -/
def packetRows (k : Fin 64) (p : BitVec 512) : List (Instr × BitVec 16) :=
  [(.identify k p, 0x0001), (.roomCreate k p, 0x0010), (.roomDestroy k p, 0x0011), (.roomReset k p, 0x0012),
    (.roomWindowSet k p, 0x0013), (.roomShareSet k p, 0x0014), (.sqCreate k p, 0x0020), (.sqDestroy k p, 0x0021),
    (.cqCreate k p, 0x0022), (.cqDestroy k p, 0x0023), (.sqResume k p, 0x0024), (.channelAssign k p, 0x0030),
    (.channelRelease k p, 0x0031), (.bufAlloc k p, 0x0040), (.bufFree k p, 0x0041), (.bufQuery k p, 0x0042),
    (.bufReclaim k p, 0x0043), (.syncMap k p, 0x0050), (.syncUnmap k p, 0x0051), (.feRegionSet k p, 0x0052),
    (.powerDomain k p, 0x0060), (.powerCapSet k p, 0x0061), (.cadenceConfig k p, 0x0062), (.linkConfig k p, 0x0070),
    (.linkKeyLoad k p, 0x0071), (.housePolicy k p, 0x0072), (.groupDefine k p, 0x0073), (.groupRelease k p, 0x0074),
    (.studyLoadTables k p, 0x0080), (.studyCacheFlush k p, 0x0081), (.fwUpdate k p, 0x00F0)]

/-- The row of an instruction takes a packet of its opcode. -/
def TakesPacket (k : Fin 64) (p : BitVec 512) (s : State) (x : Instr × BitVec 16) : Prop :=
  ∃ body, exec x.1 s = .next (takePacket x.2 k p body s)

/-- Where no long command runs, every row takes its packet (R272); a window is not held by a packet that fails. -/
theorem packetRows_take {k : Fin 64} {p : BitVec 512} {s : State} (none : s.fy.longs = []) (fails : (pkCheck k p).1 ≠ St.ok) :
    ∀ x ∈ packetRows k p, TakesPacket k p s x := by
  have free : longFree s = true := by
    rw [longFree, none]
    rfl
  have plain {i : Instr} {o : BitVec 16} (body : State → State) (h : exec i s = .next (takePacket o k p body s)) :
      TakesPacket k p s (i, o) := ⟨body, h⟩
  have long {i : Instr} {o : BitVec 16} (body : State → State) (h : exec i s = .next (takeLong o k p body s)) :
      TakesPacket k p s (i, o) := ⟨body, h.trans (congrArg _ (if_pos free))⟩
  have window : TakesPacket k p s (.roomWindowSet k p, 0x0013) := by
    have unheld : (decide (pkCheck k p = (St.ok, 0)) && windowHeld p s) = false := by
      rw [decide_eq_false fun ok => fails (congrArg Prod.fst ok), Bool.false_and]
    exact ⟨roomWindowSet k p, congrArg Host.Outcome.next (if_neg (ne_true_of_eq_false unheld))⟩
  have firmware : TakesPacket k p s (.fwUpdate k p, 0x00F0) :=
    ⟨fwUpdate k p, congrArg Host.Outcome.next (if_pos none)⟩
  simp only [packetRows, List.forall_mem_cons]
  exact ⟨plain _ rfl, plain _ rfl, long _ rfl, long _ rfl, window, plain _ rfl, plain _ rfl, long _ rfl, plain _ rfl,
    plain _ rfl, plain _ rfl, plain _ rfl, long _ rfl, plain _ rfl, plain _ rfl, plain _ rfl, plain _ rfl, plain _ rfl,
    plain _ rfl, plain _ rfl, long _ rfl, plain _ rfl, plain _ rfl, plain _ rfl, plain _ rfl, plain _ rfl, long _ rfl,
    long _ rfl, long _ rfl, plain _ rfl, firmware, fun _ none => absurd none List.not_mem_nil⟩

/-- Settles O38: whatever the row, the check fails, misuse is counted, and the reply has the check's status. -/
theorem refusedPacketsAnswer : Obligations.RefusedPacketsAnswer := by
  intro k p s wf take reach head none fails x hx row misused
  obtain ⟨body, runs⟩ := packetRows_take none fails x hx
  refine ⟨_, runs.trans (congrArg Host.Outcome.next (takePacket_refused body take reach head row fails)), ?_⟩
  obtain ⟨enable, error⟩ := canTake_ring take
  obtain ⟨rings, bus, host, misuse, well, frame⟩ := refusedState_spec k p (s := noteTaken k (pktOpcode p) s) (hostWf_of (s := s) wf)
  generalize refusedState k p (noteTaken k (pktOpcode p) s) = u at rings bus host misuse well frame ⊢
  have ring : u.ring k = { s.ring k with lastOpcode := pktOpcode p } := (ring_congr rings k).trans (noteTaken_ring enable _)
  obtain ⟨only, reply, answered, -⟩ := cmdReply_spec p (pkCheck k p).1 (pkCheck k p).2 0 0 (by rw [ring]; exact enable)
    (by rw [ring]; exact error) ((hostReach_of_bus bus k).trans reach) host
  obtain ⟨cons, -⟩ := ringAnswered_read (by rw [ring]; exact enable) answered
  rw [ring] at reply cons
  have rooms : State.rooms _ = u.rooms := (congrArg State.rooms only :)
  refine ⟨cons, reply, fun bad => ?_, fun good => rooms.trans (well good), ?_⟩
  · rw [State.room, rooms]
    exact (misuse bad).trans (congrArg (fun r : Table Room => (tget r {} k.val).misuse + 1) (rollMisuse_rooms rfl rfl rfl))
  · exact (refusedFrame_of_replyOnly (replyOnly_noteTaken k (pktOpcode p) s)).trans
      (frame.trans (refusedFrame_of_replyOnly only))

end Sys2Proof.Machine
end

section
/-! PROOFS. O30: ROOM_RESET and ROOM_DESTROY start, and a Room's reset ends (06 R281, 07 R328, R346 to R348). -/
namespace Sys2Proof.Machine

/-! ### The start (R281, R346) -/

/-- A packet of a privileged opcode that passes its checks came through Room 0's ring (R270). -/
theorem ring0_of_accepted {k : Nat} {p : BitVec 512} {o : BitVec 16} {s : State} (h : Accepted s k p o)
    (privileged : pkRoom0 o.toNat = true) : k = 0 := by
  obtain ⟨-, -, -, opcode, ok⟩ := h
  by_contra other
  unfold pkCheck at ok
  dsimp only at ok
  rw [opcode, privileged, Bool.and_true, if_pos (decide_eq_true other)] at ok
  split at ok <;> exact absurd (congrArg Prod.fst ok) (by decide)

/-- A long command of another ring outlives the steps of a Room's reset (R346 step 6). -/
theorem mem_longs_resetSteps {k : Nat} {s : State} {l : LongCmd} (h : l ∈ s.fy.longs) (other : l.ring ≠ k) :
    l ∈ (resetSteps k s).fy.longs := by
  obtain ⟨u, tail, steady⟩ := resetSteps_eq_tail k s
  have before : u.fy.longs = s.fy.longs := (steadyPart_longs steady).trans (holdOver_longs k s)
  have ended : l ∈ (endLongs (fun l => l.ring = k) St.roomReset 0 (fun _ => (0, 0)) u).fy.longs :=
    mem_endLongs (by rw [before]; exact h) (decide_eq_false other) ..
  rw [tail]
  unfold resetTail
  dsimp only
  generalize endLongs _ _ _ _ u = v at ended ⊢
  rw [steadyPart_longs (steadyPart_evalWires _)]
  exact ended

theorem mem_longs_startReset {k : Nat} {s : State} {l : LongCmd} (h : l ∈ s.fy.longs) (other : l.ring ≠ k)
    (fresh : (s.room k).reset = none) (destroy : Bool) : l ∈ (startReset k destroy s).fy.longs := by
  have started : (resetStart k (openReset k destroy s)).fy.longs = s.fy.longs :=
    (steadyPart_longs (steadyPart_resetStart k (openReset k destroy s)) :)
  rw [startReset_eq_open fresh]
  unfold goOnReset
  split
  · split
    · exact mem_longs_resetSteps (by rw [started]; exact h) other
    · rw [started]
      exact h
  · rw [started]
    exact h

/-- A ROOM_RESET or ROOM_DESTROY of a Room that is not in reset starts the sequence (R281). -/
theorem resetCommand_starts {k : Nat} {p : BitVec 512} {s : State} (destroy : Bool) (vf : pkRoom p ≠ 0)
    (room : (s.room (pkRoom p)).state ≠ .none) :
    resetCommand destroy k p s = startReset (pkRoom p) destroy (startLong k p s) := by
  unfold resetCommand
  dsimp only
  rw [if_neg vf, if_neg (by rw [roomExists_of room]; decide)]

/-- The Room is closed, its sequence has begun, and the command runs (R281, R346); no other Room changes. -/
theorem resetCommand_spec {k : Nat} {p : BitVec 512} {o : BitVec 16} {s : State} (destroy : Bool) (wf : s.wf = true)
    (h : Accepted s k p o) (privileged : pkRoom0 o.toNat = true) (vf : pkRoom p ≠ 0)
    (room : (s.room (pkRoom p)).state ≠ .none) (fresh : (s.room (pkRoom p)).reset = none)
    (ungrouped : roomGroups s (pkRoom p) = []) : let t := resetCommand destroy k p (noteTaken k o s)
    (t.room (pkRoom p)).state = (if destroy then .destroying else .resetting) ∧ (t.room (pkRoom p)).admClosed = true
      ∧ (t.room (pkRoom p)).reset
        = some { start := s.now, destroy := destroy, stopping := roomBurst s (pkRoom p) }
      ∧ { ring := k, packet := p, start := s.now } ∈ t.fy.longs ∧ ∀ j, j ≠ pkRoom p → t.room j = s.room j := by
  have zero := ring0_of_accepted h privileged
  rw [resetCommand_starts (s := noteTaken k o s) destroy vf room]
  have listed : { ring := k, packet := p, start := s.now } ∈ (startLong k p (noteTaken k o s)).fy.longs :=
    List.mem_append_right _ (List.mem_singleton.2 rfl)
  have remains := mem_longs_startReset listed (by rw [zero]; exact vf.symm) fresh destroy
  obtain ⟨b, d, set⟩ := startReset_room (s := startLong k p (noteTaken k o s)) ((wf_iff s).1 wf).chans fresh destroy
  have others (j : Nat) (other : j ≠ pkRoom p) := startReset_room_ne destroy (startLong k p (noteTaken k o s)) other
  rw [show roomGroups (startLong k p (noteTaken k o s)) (pkRoom p) = [] from ungrouped] at set
  generalize startReset (pkRoom p) destroy (startLong k p (noteTaken k o s)) = t at remains set others ⊢
  dsimp only
  rw [set]
  exact ⟨rfl, rfl, rfl, remains, others⟩

/-! ### The end (R348) -/

/-- The queue takes doorbells again, and none waits (R348). -/
def SqOpen (q : Sq) : Prop := q.admClosed = false ∧ q.dbPending = false

/-- The queues of the list are open again (R348). -/
def sqsOpened (l : List Nat) (s : State) : State :=
  l.foldl (fun t g => t.setSq g { t.sq g with admClosed := false, dbPending := false }) s

theorem sqsOpened_frame (l : List Nat) (s : State) : sqsOpened l s = { s with sqs := (sqsOpened l s).sqs } :=
  List.foldlRecOn (motive := fun t : State => t = { s with sqs := t.sqs }) l _ rfl fun t ht g _ =>
    congrArg (fun u : State => u.setSq g { t.sq g with admClosed := false, dbPending := false }) ht

theorem sqOpen_sqsOpened (l : List Nat) {s : State} (wf : tableWf {} s.sqs = true) {g : Nat} (h : g ∈ l ∨ SqOpen (s.sq g)) :
    SqOpen ((sqsOpened l s).sq g) := by
  induction l generalizing s with
  | nil => exact h.resolve_left List.not_mem_nil
  | cons a l ih =>
    refine ih (s := s.setSq a _) (tableWf_tset _ _ wf) ?_
    by_cases same : g = a
    · subst same
      refine .inr ?_
      rw [State.setSq_sq_eq _ _ wf]
      exact ⟨rfl, rfl⟩
    · rw [State.setSq_sq_ne s _ same]
      exact h.imp_left fun hg => (List.mem_cons.1 hg).resolve_left same

/-- The Room's record at the end of its reset (R348). -/
def resetRoom (x : RoomReset) (now : Nat) (r : Room) : Room :=
  { r with state := .active, admClosed := false, reset := none, resetCount := r.resetCount + 1
           resetNs := BitVec.ofNat 32 (now - x.start), resetUnacked := BitVec.ofNat 10 (unackedPeers x).length
           resetThermal := x.thermal }

/-- The records of the peers whose answers have not come (R348). -/
def unackedRecs (k : Nat) (x : RoomReset) (s : State) : State :=
  (unackedPeers x).foldl
    (fun t n => auditRec { eventRec 0x0224 0 with room := BitVec.ofNat 6 k, arg0 := BitVec.ofNat 64 n } t) s

theorem recorded_unackedRecs (k : Nat) (x : RoomReset) (s : State) : Recorded s (unackedRecs k x s) :=
  List.foldlRecOn (motive := Recorded s) _ _ (recorded_refl s) fun _ ht _ _ => recorded_trans ht (recorded_auditRec ..)

/-- At its end a reset opens the Room and its queues, between records and replies (R348). -/
theorem endReset_ended {k : Nat} {x : RoomReset} {s : State} (keep : x.destroy = false) :
    let u := (unackedRecs k x s).setRoom k (resetRoom x s.now ((unackedRecs k x s).room k))
    Ended (sqsOpened ((roomSqs u k).map (·.1)) u) (endReset k x s) := by
  unfold endReset
  dsimp only
  rw [keep, Bool.false_and, if_neg Bool.false_ne_true]
  exact (ended_of_recorded (recorded_faultLogRec ..)).trans (ended_endLongs ..)

/-- The Room is ACTIVE and its queues are open; the memories stay (R348). -/
theorem endReset_spec {k : Nat} {x : RoomReset} {s : State} (wf : s.wf = true) (keep : x.destroy = false) :
    let t := endReset k x s
    t.room k = resetRoom x s.now (s.room k) ∧ (∀ q ∈ roomSqs s k, SqOpen (t.sq q.1))
      ∧ t.pantry = s.pantry ∧ t.cellar = s.cellar ∧ t.larder = s.larder := by
  have ended := endReset_ended (k := k) (s := s) keep
  dsimp only at ended
  obtain ⟨rooms, -, sqs, -, -, -, -, -, -, pantry, cellar, larder, -⟩ := recorded_frame (recorded_unackedRecs k x s)
  have room : (unackedRecs k x s).room k = s.room k := congrArg (fun r : Table Room => tget r {} k) rooms
  rw [room] at ended
  generalize unackedRecs k x s = v at *
  have set : (v.setRoom k (resetRoom x s.now (s.room k))).room k = resetRoom x s.now (s.room k) :=
    State.setRoom_room_of_ne v k fun default => absurd (congrArg Room.state default :) (by decide : RoomState.active ≠ .none)
  have kept : (v.setRoom k (resetRoom x s.now (s.room k))).sqs = s.sqs ∧
      (v.setRoom k (resetRoom x s.now (s.room k))).pantry = s.pantry ∧
      (v.setRoom k (resetRoom x s.now (s.room k))).cellar = s.cellar ∧
      (v.setRoom k (resetRoom x s.now (s.room k))).larder = s.larder := ⟨sqs, pantry, cellar, larder⟩
  generalize v.setRoom k (resetRoom x s.now (s.room k)) = u at ended set kept
  obtain ⟨sqs, pantry, cellar, larder⟩ := kept
  have frame := sqsOpened_frame ((roomSqs u k).map (·.1)) u
  have opened (q : Nat × Sq) (hq : q ∈ roomSqs s k) : SqOpen ((sqsOpened ((roomSqs u k).map (·.1)) u).sq q.1) := by
    refine sqOpen_sqsOpened _ (by rw [sqs]; exact ((wf_iff s).1 wf).sqs) (.inl (List.mem_map_of_mem ?_))
    unfold roomSqs at hq ⊢
    rw [sqs]
    exact hq
  generalize sqsOpened ((roomSqs u k).map (·.1)) u = w at ended frame opened
  unfold Ended at ended
  intro t
  refine ⟨?_, fun q hq => ?_, ?_, ?_, ?_⟩
  · rw [← set]
    exact congrArg (fun y : State => y.room k) ended |>.trans (congrArg (fun y : State => y.room k) frame :)
  · rw [show t.sq q.1 = w.sq q.1 from (congrArg (fun y : State => y.sq q.1) ended :)]
    exact opened q hq
  · exact (congrArg State.pantry ended).trans ((congrArg State.pantry frame).trans pantry)
  · exact (congrArg State.cellar ended).trans ((congrArg State.cellar frame).trans cellar)
  · exact (congrArg State.larder ended).trans ((congrArg State.larder frame).trans larder)

/-- ROOM_RESET_END of a Room whose steps have run and whose peers are not waited for ends the reset (R347, R348). -/
theorem roomResetEnd_ends {k : Fin 64} {x : RoomReset} {s : State} (reset : (s.room k).reset = some x)
    (stopped : x.stopping = false) (due : x.awaited = [] ∨ x.start + 200000 ≤ s.now) :
    exec (.roomResetEnd k) s = .next (endReset k x s) := by
  have still : goOnReset k s = s := by
    unfold goOnReset
    rw [reset]
    dsimp only
    rw [stopped, Bool.false_and, if_neg Bool.false_ne_true]
  have ends : (!x.stopping && (decide (x.awaited = []) || decide (x.start + 200000 ≤ s.now))) = true := by
    rw [stopped, ← Bool.decide_or, decide_eq_true due]
    rfl
  show execRoomResetEnd k s = _
  unfold execRoomResetEnd
  rw [reset]
  dsimp only
  rw [stopped, Bool.false_and, if_neg Bool.false_ne_true, still, reset]
  dsimp only
  rw [if_pos ends]

/-! ### The obligation -/

/-- Settles O30: the command opens the reset's record; the end of the reset closes it and opens the Room. -/
theorem roomResetRuns : Obligations.RoomResetRuns := by
  constructor
  · intro k p s wf free vf room fresh ungrouped
    constructor
    · intro h
      obtain ⟨state, closed, record, listed, others⟩ := resetCommand_spec false wf h (by decide) vf room fresh ungrouped
      exact ⟨_, congrArg Host.Outcome.next (takeLong_of _ free h), state, closed, record, listed,
        fun j other => congrArg Room.state (others j other)⟩
    · intro h
      obtain ⟨state, closed, record, listed, -⟩ := resetCommand_spec true wf h (by decide) vf room fresh ungrouped
      exact ⟨_, congrArg Host.Outcome.next (takeLong_of _ free h), state, closed, record, listed⟩
  · intro k x s wf reset keep stopped due
    obtain ⟨room, opened, pantry, cellar, larder⟩ := endReset_spec (k := k) wf keep
    refine ⟨_, roomResetEnd_ends reset stopped due, ?_⟩
    rw [room]
    exact ⟨rfl, rfl, rfl, rfl, rfl, rfl, rfl, opened, pantry, cellar, larder⟩

end Sys2Proof.Machine
end

section
/-! SUPPORT. A message of another node runs its own rules, and an answer to it waits on its port (08 R376, 11 R498, R514). -/
namespace Sys2Proof.Machine

/-! ### The row of a message -/

/-- The row of a message's type takes it: the message's own rules lead to the state that is accepted (R500). -/
theorem takes_of {x : Instr} {p : Nat} {f : FrameIn} {m : Msg} {s : State} {t : Byte} (body : Msg → State → State)
    (h : OnlyMessage s p f m) (type : m.mtype = t) (row : exec x s = .next (msgRow t.toNat p f 0 body s)) :
    Takes x p f s (body m (noteFrame p f s)) :=
  row.trans (congrArg Host.Outcome.next (msgRow_of body h (congrArg BitVec.toNat type)))

/-! ### Answers (R498, R514) -/

theorem portsOnly_sendMsg (m : Msg) (s : State) : PortsOnly s (sendMsg m s) := by
  unfold sendMsg
  split <;> rfl

/-- A message waits on the port of its route behind what waited there. -/
theorem queued_sendMsg {m : Msg} {q : Nat} {s : State} (route : egress s m.dst.toNat = some q) :
    Queued q [ownMsg s m] s (sendMsg m s) := by
  have sent : sendMsg m s = enqueue q (ownMsg s m) s := by
    unfold sendMsg
    rw [route]
    rfl
  rw [sent]
  have filled : ({ s.port q with queue := (s.port q).queue ++ [ownMsg s m] } : Port) ≠ {} := fun default => by
    simpa using congrArg Port.queue default
  exact ⟨rfl, State.setPort_port_of_ne s q filled, fun _ other => State.setPort_port_ne s _ other⟩

/-- No port holds a wait's condition. -/
theorem noWaitEnds_of_portsOnly {s t : State} (h : PortsOnly s t) (quiet : noWaitEnds s) : noWaitEnds t := by
  rw [h]
  exact quiet

theorem noWaitEnds_of_none {s : State} (h : s.waiters = []) : noWaitEnds s := fun w hw => by simp [h] at hw

theorem settleN_of_noWaitEnds {s : State} (h : noWaitEnds s) (n : Nat) : settleN n s = s := by
  have none : s.waiters.find? (fun w => !w.paused && condHolds s w) = none :=
    List.find?_eq_none.2 fun w hw => by simp [h w hw]
  cases n with
  | zero => rfl
  | succ n => rw [settleN, none]

end Sys2Proof.Machine
end

section
/-! PROOFS. O55: remote signals, waits and barriers (07 R346, 08 R376, R386, R387, R390, 11 R521, 12 R563, R581). -/
namespace Sys2Proof.Machine

/-! ### SIGNAL (R376, R521) -/

/-- t differs from s in flags, counters, queues and ports alone. -/
def SignalOnly (s t : State) : Prop :=
  t = { s with flags := t.flags, counters := t.counters, sqs := t.sqs, ports := t.ports }

theorem SignalOnly.sameMemory {s t : State} (h : SignalOnly s t) : SameMemory s t := by
  unfold SignalOnly at h
  rw [h]
  exact ⟨rfl, rfl, rfl, rfl⟩

section
variable {m : Msg} {s : State}

theorem signalFlag_rests {q : Nat} {v : Bool} {l : LastSignal} (alone : s.waiters = []) :
    let t := signalFlag q v l s
    t = { s with flags := t.flags, sqs := t.sqs } := by
  unfold signalFlag
  dsimp only
  split <;> rw [settle_none (by exact alone)] <;> rfl

theorem signalCounter_alone {q : Nat} {a : Word} {l : LastSignal} (alone : s.waiters = []) :
    signalCounter q a l s = s.setCounter q { s.counter q with value := (s.counter q).value + a, last := l } :=
  settle_none alone

theorem portsOnly_ackSignal (st : Byte) (v : Word) : PortsOnly s (ackSignal m st v s) := by
  unfold ackSignal
  split
  · exact portsOnly_sendMsg ..
  · rfl

theorem queued_ackSignal {st : Byte} {q : Nat} (v : Word) (asked : m.mflags.getLsbD 0 = true ∨ st ≠ St.ok)
    (route : egress s m.src.toNat = some q) : Queued q
      [ownMsg s { mtype := 0x09, dst := m.src, room := m.room, req := m.req, status := st, arg0 := v }] s
      (ackSignal m st v s) := by
  unfold ackSignal
  rw [if_pos (by simpa using asked)]
  exact queued_sendMsg route

/-- What is not reached has a status of its own (R376). -/
theorem exportedObj_error {k : Nat} {a : Word} {e : Byte} (h : exportedObj s k a = .error e) : e ≠ St.ok := by
  rintro rfl
  unfold exportedObj at h
  dsimp only at h
  repeat' split at h
  all_goals simp [St.ok, St.roomReset, St.syncUnmapped] at h

theorem signalHere_refused {e : Byte} (h : exportedObj s m.room.toNat m.addr = .error e) :
    signalHere m s = ackSignal m e 0 s := by
  unfold signalHere
  rw [h]

theorem signalHere_flag {q : Nat} (h : exportedObj s m.room.toNat m.addr = .ok (false, q)) : signalHere m s
    = ackSignal m St.ok (if (s.flag q).dbSq.isNone && m.arg0 ≠ 0 then 1 else 0)
        (signalFlag q (m.arg0 ≠ 0) (lastSignal s 4 0 m.src.toNat) s) := by
  unfold signalHere
  rw [h]

theorem signalHere_counter {q : Nat} (h : exportedObj s m.room.toNat m.addr = .ok (true, q)) : signalHere m s
    = ackSignal m St.ok ((s.counter q).value + m.arg0) (signalCounter q m.arg0 (lastSignal s 4 0 m.src.toNat) s) := by
  unfold signalHere
  rw [h]

/-- An answer to a message changes ports alone. -/
theorem SignalOnly.acked {t : State} (h : SignalOnly s t) (st : Byte) (v : Word) : SignalOnly s (ackSignal m st v t) := by
  have sent : PortsOnly t (ackSignal m st v t) := portsOnly_ackSignal st v
  unfold SignalOnly at h ⊢
  unfold PortsOnly at sent
  rw [sent, h]

theorem signalHere_signalOnly (alone : s.waiters = []) : SignalOnly s (signalHere m s) := by
  cases reach : exportedObj s m.room.toNat m.addr with
  | error e =>
    rw [signalHere_refused reach]
    exact SignalOnly.acked (show SignalOnly s s from rfl) ..
  | ok object =>
    obtain ⟨isCounter, q⟩ := object
    cases isCounter
    · have set := signalFlag_rests (q := q) (v := m.arg0 ≠ 0) (l := lastSignal s 4 0 m.src.toNat) alone
      rw [signalHere_flag reach]
      refine SignalOnly.acked ?_ ..
      unfold SignalOnly
      rw [set]
    · rw [signalHere_counter reach, signalCounter_alone alone]
      exact SignalOnly.acked (show SignalOnly s (s.setCounter q _) from rfl) ..

/-- The flag has the value of ARG0 and knows its sender (R359, R376). -/
theorem signalHere_setsFlag {q : Nat} (alone : s.waiters = []) (reach : exportedObj s m.room.toNat m.addr = .ok (false, q))
    (noBell : (s.flag q).dbSq = none) : let t := signalHere m s
    t.flag q = { s.flag q with value := decide (m.arg0 ≠ 0), last := lastSignal s 4 0 m.src.toNat }
      ∧ t.counters = s.counters := by
  have known : ({ s.flag q with value := decide (m.arg0 ≠ 0), last := lastSignal s 4 0 m.src.toNat } : Flag) ≠ {} :=
    fun default => by simpa [lastSignal] using congrArg (fun x : Flag => x.last.source) default
  have sent := portsOnly_ackSignal (m := m) (s := signalFlag q (m.arg0 ≠ 0) (lastSignal s 4 0 m.src.toNat) s) St.ok
    (if (s.flag q).dbSq.isNone && m.arg0 ≠ 0 then 1 else 0)
  rw [signalHere_flag reach]
  rw [signalFlag_sets (.inl noBell) (noWaitEnds_of_none alone)] at sent ⊢
  rw [sent]
  exact ⟨State.setFlag_flag_of_ne s q known, rfl⟩

/-- The counter has the sum and knows its sender (R363, R376). -/
theorem signalHere_addsCounter {q : Nat} (alone : s.waiters = [])
    (reach : exportedObj s m.room.toNat m.addr = .ok (true, q)) : let t := signalHere m s
    t.counter q = { s.counter q with value := (s.counter q).value + m.arg0, last := lastSignal s 4 0 m.src.toNat }
      ∧ t.flags = s.flags := by
  have known : ({ s.counter q with value := (s.counter q).value + m.arg0, last := lastSignal s 4 0 m.src.toNat } : Counter)
      ≠ {} := fun default => by simpa [lastSignal] using congrArg (fun x : Counter => x.last.source) default
  have sent := portsOnly_ackSignal (m := m) (s := signalCounter q m.arg0 (lastSignal s 4 0 m.src.toNat) s) St.ok
    ((s.counter q).value + m.arg0)
  rw [signalHere_counter reach]
  rw [signalCounter_alone alone] at sent ⊢
  rw [sent]
  exact ⟨State.setCounter_counter_of_ne s q known, rfl⟩

/-- The answer waits on the port where it stood before the signal's own effect (R521). -/
theorem ackSignal_queue {t : State} {q : Nat} (v : Word) (house : t.house = s.house) (ports : t.ports = s.ports)
    (asked : m.mflags.getLsbD 0 = true) (route : egress s m.src.toNat = some q) :
    ((ackSignal m St.ok v t).port q).queue = (s.port q).queue
      ++ [ownMsg s { mtype := 0x09, dst := m.src, room := m.room, req := m.req, arg0 := v }] := by
  have port : t.port q = s.port q := congrArg (fun x : Table Port => tget x {} q) ports
  have same : egress t m.src.toNat = egress s m.src.toNat := by
    unfold egress State.port
    rw [house, ports]
  have own : ownNode t = ownNode s := by
    unfold ownNode
    rw [house]
  obtain ⟨-, queue, -⟩ := queued_ackSignal v (st := St.ok) (.inl asked) (same.trans route)
  rw [queue, port]
  unfold ownMsg
  rw [own]

/-- What the answer to a signal of an exported object carries (R211, R521). -/
theorem signalHere_acks {o : Bool × Nat} {q : Nat} (alone : s.waiters = [])
    (reach : exportedObj s m.room.toNat m.addr = .ok o) (asked : m.mflags.getLsbD 0 = true)
    (route : egress s m.src.toNat = some q) : ((signalHere m s).port q).queue = (s.port q).queue
      ++ [ownMsg s { mtype := 0x09, dst := m.src, room := m.room, req := m.req
                     arg0 := if o.1 then (s.counter o.2).value + m.arg0
                       else if (s.flag o.2).dbSq.isNone && m.arg0 ≠ 0 then 1 else 0 }] := by
  obtain ⟨isCounter, n⟩ := o
  cases isCounter
  · have set := signalFlag_rests (q := n) (v := m.arg0 ≠ 0) (l := lastSignal s 4 0 m.src.toNat) alone
    rw [signalHere_flag reach]
    exact ackSignal_queue _ (congrArg State.house set :) (congrArg State.ports set :) asked route
  · rw [signalHere_counter reach, signalCounter_alone alone]
    exact ackSignal_queue _ rfl rfl asked route

end

/-! ### SIGNAL_ACK (R211, R521) -/

theorem mem_putReport (r : Report) (l : List Report) : r ∈ putReport r l := by
  induction l with
  | nil => exact List.mem_singleton_self r
  | cons x l ih =>
    unfold putReport
    split
    · exact List.mem_cons_self
    · exact List.mem_cons_of_mem _ ih

/-- A completion that has come stands in its queue's reports, or behind an earlier one. -/
theorem addReport_ne_default (r : Report) (q : Sq) : addReport r q ≠ {} := by
  intro default
  have reports := congrArg Sq.reports default
  have behind := congrArg Sq.behind default
  simp only [addReport, List.append_eq_nil_iff, List.filter_eq_nil_iff] at reports behind
  simpa [behind r (mem_putReport r _)] using reports.2 r (mem_putReport r _)

theorem completeEntry_sq {g : Nat} {n : Half} {st : Byte} {r : Word} {s : State} {d : Dispatched}
    (found : (s.sq g).dispatched.find? (·.count = n) = some d) : (completeEntry g n st r s).sq g
      = addReport { count := n, tag := d.tag, irq := d.irq, result := r, opcode := d.opcode
                    status := if st = St.ok && d.late then St.late else st }
          { s.sq g with dispatched := (s.sq g).dispatched.filter (·.count ≠ n) } := by
  unfold completeEntry
  simp only [found]
  exact State.setSq_sq_of_ne s g (addReport_ne_default _ _)

theorem completeEntry_sqSignals (g : Nat) (n : Half) (st : Byte) (r : Word) (s : State) :
    (completeEntry g n st r s).sqSignals = s.sqSignals := by
  unfold completeEntry
  dsimp only
  split <;> rfl

/-- The answer to a SIGNAL entry completes it, with the value that the answer carries (R211, R521). -/
theorem signalAckHere_completes {m : Msg} {s : State} {x : SqSignal} {d : Dispatched} (ok : m.status = St.ok)
    (noChannel : s.chans.find? (fun h => h.2.flights.any (·.kind = .signal m.req.toNat)) = none)
    (entry : s.sqSignals.find? (·.req = m.req.toNat) = some x)
    (waits : (s.sq x.sq).dispatched.find? (·.count = x.count) = some d) : let t := signalAckHere m s
    t.sqSignals = s.sqSignals.filter (·.req ≠ m.req.toNat)
      ∧ t.sq x.sq = addReport { count := x.count, tag := d.tag, irq := d.irq, result := m.arg0, opcode := d.opcode
                                status := if d.late then St.late else St.ok }
          { s.sq x.sq with dispatched := (s.sq x.sq).dispatched.filter (·.count ≠ x.count) } := by
  have report := completeEntry_sq (st := St.ok) (r := m.arg0)
    (s := { s with sqSignals := s.sqSignals.filter (·.req ≠ m.req.toNat) }) waits
  simp only [decide_true, Bool.true_and] at report
  unfold signalAckHere
  dsimp only
  rw [if_neg (not_not.2 ok), noChannel, entry]
  exact ⟨completeEntry_sqSignals .., report⟩

/-! ### WAIT_REG and POLL (R386, R387) -/

section
variable {m : Msg} {s : State} {b : Bool} {q : Nat}

/-- A remote waiter that consumes nothing leaves its object when its wait ends. -/
theorem consumeObj_remoteWaiter (keeps : (remoteWaiter m b q).consume = false) (t : State) :
    consumeObj (remoteWaiter m b q) t = t := by
  cases b
  · exact if_neg (ne_true_of_eq_false keeps)
  · rfl

theorem wordBad_remoteWaiter (t : State) : wordBad t (remoteWaiter m b q) = false := by
  cases b <;> rfl

/-- The end of a remote wait that consumes nothing takes the waiter off the list and sends WAKE (R386). -/
theorem meetWait_remoteWaiter (keeps : (remoteWaiter m b q).consume = false) (t : State) :
    PortsOnly (dropWaiter (remoteWaiter m b q) t) (meetWait (remoteWaiter m b q) t) := by
  unfold meetWait
  rw [wordBad_remoteWaiter, if_neg Bool.false_ne_true, consumeObj_remoteWaiter keeps]
  exact portsOnly_sendMsg ..

/-- The waiters of another node that are like w are taken off the list, w among them. -/
theorem mem_dropWaiter {w v : Waiter} (h : v ∈ (dropWaiter w s).waiters) : v ∈ s.waiters ∧ v ≠ w := by
  obtain ⟨listed, other⟩ := List.mem_filter.1 h
  refine ⟨listed, ?_⟩
  rintro rfl
  simp at other

/-- A waiter whose condition holds is the first whose wait ends where no other does (R383). -/
theorem settle_addWaiter {w : Waiter} (quiet : noWaitEnds s) (runs : w.paused = false) (holds : condHolds s w = true)
    (rest : noWaitEnds (meetWait w (addWaiter w s))) : settle (addWaiter w s) = meetWait w (addWaiter w s) := by
  have others : s.waiters.find? (fun v => !v.paused && condHolds (addWaiter w s) v) = none :=
    List.find?_eq_none.2 fun v hv => ne_true_of_eq_false (quiet v hv)
  have met : (!w.paused && condHolds (addWaiter w s) w) = true := by
    rw [runs]
    exact holds
  have first : (addWaiter w s).waiters.find? (fun v => !v.paused && condHolds (addWaiter w s) v) = some w := by
    rw [show (addWaiter w s).waiters = s.waiters ++ [w] from rfl, List.find?_append, others]
    simp [met]
  have length : (addWaiter w s).waiters.length = s.waiters.length + 1 := by simp [addWaiter]
  unfold settle
  rw [length, settleN, first]
  exact settleN_of_noWaitEnds rest _

variable (reach : exportedObj s m.room.toNat m.addr = .ok (b, q))
include reach

theorem waitRegHere_full (full : 8192 ≤ (s.waiters.filter isPeer).length) :
    waitRegHere m s = sendWake m St.quota 0 0 s := by
  unfold waitRegHere
  rw [reach]
  exact if_pos full

theorem waitRegHere_registers (place : (s.waiters.filter isPeer).length < 8192) :
    waitRegHere m s = settle (addWaiter (remoteWaiter m b q) s) := by
  unfold waitRegHere
  rw [reach]
  exact if_neg (not_le.2 place)

/-- A wait whose condition does not hold is kept (R386). -/
theorem waitRegHere_keeps (place : (s.waiters.filter isPeer).length < 8192) (quiet : noWaitEnds s)
    (unmet : condHolds s (remoteWaiter m b q) = false) :
    waitRegHere m s = { s with waiters := s.waiters ++ [remoteWaiter m b q] } := by
  rw [waitRegHere_registers reach place]
  refine settle_of_noWaitEnds fun w hw => ?_
  rcases List.mem_append.1 hw with old | new
  · exact quiet w old
  · rw [List.mem_singleton.1 new]
    exact (congrArg _ unmet).trans (Bool.and_false _)

/-- A wait whose condition holds is not kept, and its object stays (R386). -/
theorem waitRegHere_wakes (place : (s.waiters.filter isPeer).length < 8192) (quiet : noWaitEnds s)
    (met : condHolds s (remoteWaiter m b q) = true) (keeps : (remoteWaiter m b q).consume = false) :
    PortsOnly (dropWaiter (remoteWaiter m b q) (addWaiter (remoteWaiter m b q) s)) (waitRegHere m s) := by
  have ended := meetWait_remoteWaiter keeps (addWaiter (remoteWaiter m b q) s)
  have left : noWaitEnds (dropWaiter (remoteWaiter m b q) (addWaiter (remoteWaiter m b q) s)) := fun v hv => by
    obtain ⟨listed, other⟩ := mem_dropWaiter hv
    rcases List.mem_append.1 listed with old | new
    · exact quiet v old
    · exact absurd (List.mem_singleton.1 new) other
  rw [waitRegHere_registers reach place, settle_addWaiter quiet rfl met (noWaitEnds_of_portsOnly ended left)]
  exact ended

/-- POLL tests once and answers with what it finds (R387). -/
theorem pollHere_answers (quiet : noWaitEnds s)
    (keeps : (remoteWaiter m b q).consume = false ∨ condHolds s (remoteWaiter m b q) = false) :
    pollHere m s = sendWake m St.ok (if condHolds s (remoteWaiter m b q) then 0 else 2)
      (foundOf s (remoteWaiter m b q).obj) s := by
  unfold pollHere
  rw [reach]
  dsimp only
  cases holds : condHolds s (remoteWaiter m b q)
  · rfl
  · have keeps : (remoteWaiter m b q).consume = false := keeps.resolve_right (by rw [holds]; decide)
    rw [if_pos rfl, if_pos rfl, consumeObj_remoteWaiter keeps]
    exact settle_of_noWaitEnds (noWaitEnds_of_portsOnly (portsOnly_sendMsg ..) quiet)

end

/-! ### WAKE (R154, R386, R387, R521) -/

section
variable {m : Msg} {s : State} {w : Waiter} {n : Nat} {a : Word} (alone : s.waiters = [w])
include alone

/-- The wait that the answer's tag and source name is found (R514). -/
theorem find_alone {P : Waiter → Bool} (named : P w = true) : s.waiters.find? P = some w := by
  rw [alone, List.find?_cons, named]

variable (request : reqWait m.req.toNat w = true) (object : w.obj = .remote n a) (source : n = m.src.toNat)
include request object source

/-- A registration that another node refuses is polled from then on (R387). -/
theorem wakeHere_refused (quota : m.status = St.quota) :
    wakeHere m s = { s with waiters := [{ w with polled := some (s.now + 8000) }] } := by
  unfold wakeHere
  rw [find_alone alone (by simp [request, object, source])]
  dsimp only
  rw [if_pos quota, alone, List.map_singleton, if_pos rfl]

/-- A poll that finds the condition unmet changes nothing (R387). -/
theorem wakeHere_unmet (ok : m.status = St.ok) (unmet : m.mflags.getLsbD 1 = true) (mode : w.mode ≠ 2) :
    wakeHere m s = s := by
  have goesOn : (m.status = St.ok && m.mflags.getLsbD 1 && !(w.addr.getLsbD 12 && w.mode = 2)) = true := by
    rw [unmet, decide_eq_true ok, decide_eq_false mode, Bool.and_false]
    rfl
  unfold wakeHere
  rw [find_alone alone (by simp [request, object, source])]
  dsimp only
  rw [if_neg (by rw [ok]; decide), if_pos goesOn]

/-- The answer ends the wait, at resume where its unit is paused (R154, R386). -/
theorem wakeHere_ends (accepted : m.status ≠ St.quota) (met : m.status ≠ St.ok ∨ m.mflags.getLsbD 1 = false) :
    wakeHere m s = if w.paused
      then { s with waiters := [{ w with woken := some (m.status, if m.status = St.ok then m.arg0 else 0) }] }
      else endWait w m.status (if m.status = St.ok then m.arg0 else 0) s := by
  have ends : (m.status = St.ok && m.mflags.getLsbD 1 && !(w.addr.getLsbD 12 && w.mode = 2)) = false := by
    rcases met with failed | met
    · rw [decide_eq_false failed, Bool.false_and, Bool.false_and]
    · rw [met, Bool.and_false, Bool.false_and]
  unfold wakeHere
  rw [find_alone alone (by simp [request, object, source])]
  dsimp only
  rw [if_neg accepted, if_neg (ne_true_of_eq_false ends), alone, List.map_singleton, if_pos rfl]

end

/-! ### House barriers (R563) -/

theorem nextHouseArrive_none {g : Nat} {s : State} (absent : groupOf s g = none) : nextHouseArrive g s = s := by
  unfold nextHouseArrive
  rw [absent]

theorem nextHouseArrive_alone {g : Nat} {s : State} (alone : s.waiters = []) : nextHouseArrive g s = s := by
  unfold nextHouseArrive
  rw [alone]
  split
  · rfl
  · split <;> rfl

theorem houseRelease_none {g : Nat} {gen : Half} {s : State} (absent : groupOf s g = none) : houseRelease g gen s = s := by
  unfold houseRelease
  rw [absent]

/-- The group is in the new generation, in which this node has not arrived; where nothing waits, nothing is woken. -/
theorem houseRelease_group {g : Nat} {gen : Half} {s : State} {x : Group} (alone : s.waiters = [])
    (group : groupOf s g = some x) : let t := houseRelease g gen s
    groupOf t g = some { x with gen := gen, arrived := false } ∧ t.waiters = [] := by
  unfold houseRelease
  rw [group]
  dsimp only
  rw [releaseWaits_none _ _ (by exact alone)]
  exact ⟨groupOf_setGroup s g _, alone⟩

section
variable {g node : Nat} {gen : Half} {s : State} {d : GroupDef}
  (defined : s.house.groupDefs.find? (·.1 = g) = some (g, d))
include defined

/-- An arrival of another generation does not count (R563). -/
theorem hallArrive_stale (other : gen ≠ (tget s.house.barriers {} g).gen) : hallArrive g node gen s = s := by
  unfold hallArrive
  rw [defined]
  exact if_pos other

/-- The Hall counts an arrival; the last one starts the next generation (R563). -/
theorem hallArrive_counts (table : tableWf {} s.house.barriers = true) (absent : groupOf s g = none)
    (same : gen = (tget s.house.barriers {} g).gen) :
    let b := tget s.house.barriers {} g
    let arr := if b.arrived.contains node then b.arrived else b.arrived ++ [node]
    let t := hallArrive g node gen s
    groupOf t g = none ∧ tget t.house.barriers {} g
      = if d.members.all arr.contains then { gen := b.gen + 1, arrived := [] } else { b with arrived := arr } := by
  subst same
  unfold hallArrive
  rw [defined]
  dsimp only
  rw [if_neg (not_not.2 rfl)]
  generalize (if (tget s.house.barriers {} g).arrived.contains node then (tget s.house.barriers {} g).arrived
    else (tget s.house.barriers {} g).arrived ++ [node]) = arr
  cases d.members.all arr.contains
  · exact ⟨absent, tget_tset_eq g _ table⟩
  · rw [if_pos rfl, if_pos rfl]
    let started : State := { s with house := { s.house with
      barriers := tset s.house.barriers {} g { gen := (tget s.house.barriers {} g).gen + 1, arrived := [] } } }
    have told : ∀ ms : List Nat, PortsOnly started (ms.foldl (fun t n => sendMsg {
        mtype := 0x49, dst := BitVec.ofNat 16 n, room := BitVec.ofNat 8 d.room, arg0 := BitVec.ofNat 64 g
        arg1 := ((tget s.house.barriers {} g).gen + 1).setWidth 64 } t) started) := fun ms =>
      List.foldlRecOn (motive := PortsOnly started) ms _ rfl fun t sent n _ => sent.trans (portsOnly_sendMsg _ t)
    have sent := told (d.members.filter (· ≠ 0))
    rw [houseRelease_none (by rw [sent]; exact absent), sent]
    exact ⟨absent, tget_tset_eq g _ table⟩

end

/-! ### ROOM_ABORT (R346, R581) -/

/-- Where the group has gone, ROOM_ABORT is acknowledged alone. -/
theorem roomAbortHere_acks {m : Msg} {s : State} (absent : groupOf s (rGroup m) = none) :
    roomAbortHere m s = sendMsg { mtype := 0x51, dst := m.src, room := m.room, req := m.req } s := by
  unfold roomAbortHere
  dsimp only
  rw [absent]

/-! ### The obligation -/

/-- Settles O55: each row runs its message's own rules on the state after the frame's ACK, one lemma per outcome. -/
theorem remoteSyncMessagesAct : Obligations.RemoteSyncMessagesAct := by
  intro p f m s _ only s1 k
  refine ⟨fun type alone => ?signal, fun type ok x d noChannel entry waits => ?signalAck,
    fun type quiet b q reach => ?waitReg, fun type quiet b q r reach route keeps => ?poll,
    fun type w n a alone request object source => ?wake, fun type => takes_of cancelHere only type rfl,
    fun type alone table absent d defined => ?arrive, fun type alone x group => ?release,
    fun type _ q route absent => ?abort, fun type x reset => ?abortAck⟩
  case signal =>
    refine ⟨_, takes_of signalHere only type rfl, (signalHere_signalOnly alone).sameMemory,
      fun q reach noBell => signalHere_setsFlag alone reach noBell, fun q reach => signalHere_addsCounter alone reach,
      fun e q reach route => ⟨exportedObj_error reach, ?_⟩,
      fun o q reach asked route => signalHere_acks alone reach asked route⟩
    rw [signalHere_refused reach]
    exact queued_ackSignal 0 (.inr (exportedObj_error reach)) route
  case signalAck =>
    exact ⟨_, takes_of signalAckHere only type rfl, signalAckHere_completes ok noChannel entry waits⟩
  case waitReg =>
    have takes : Takes (.waitReg p f 0) p f s (waitRegHere m s1) := takes_of waitRegHere only type rfl
    refine ⟨fun place unmet => ?_, fun r route full => ⟨_, takes, ?_⟩, fun place met keeps => ⟨_, takes, ?_⟩⟩
    · rw [← waitRegHere_keeps reach place quiet unmet]
      exact takes
    · rw [waitRegHere_full reach full]
      exact queued_sendMsg route
    · have ended := waitRegHere_wakes reach place quiet met keeps
      generalize waitRegHere m (noteFrame p f s) = u at ended ⊢
      rw [ended]
      exact ⟨fun kept => (mem_dropWaiter kept).2 rfl, rfl, rfl⟩
  case poll =>
    refine ⟨_, takes_of pollHere only type rfl, ?_⟩
    rw [pollHere_answers reach quiet keeps]
    exact queued_sendMsg route
  case wake =>
    have takes : Takes (.wake p f 0) p f s (wakeHere m s1) := takes_of wakeHere only type rfl
    refine ⟨fun quota => ?_, fun accepted met => ?_, fun ok unmet mode => ?_⟩
    · rw [← wakeHere_refused alone request object source quota]
      exact takes
    · rw [wakeHere_ends alone request object source accepted met] at takes
      exact ⟨fun runs => by rwa [if_neg (ne_true_of_eq_false runs)] at takes, fun paused => by rwa [if_pos paused] at takes⟩
    · rw [wakeHere_unmet alone request object source ok unmet mode] at takes
      exact takes
  case arrive =>
    have takes : Takes (.hbArrive p f 0) p f s
        (nextHouseArrive (rGroup m) (hallArrive (rGroup m) m.src.toNat (fld m.arg1 0 32) s1)) :=
      takes_of (fun m s => nextHouseArrive (rGroup m) (hallArrive (rGroup m) m.src.toNat (fld m.arg1 0 32) s)) only type rfl
    refine ⟨fun other => ?_, fun same => ⟨_, takes, ?_⟩⟩
    · rw [hallArrive_stale defined other, nextHouseArrive_none absent] at takes
      exact takes
    · obtain ⟨none, counted⟩ := hallArrive_counts (node := m.src.toNat) defined table absent same
      rw [nextHouseArrive_none none]
      exact counted
  case release =>
    obtain ⟨read, none⟩ := houseRelease_group (gen := fld m.arg1 0 32) alone group
    refine ⟨_, takes_of (fun m s =>
      nextHouseArrive (rGroup m) (houseRelease (rGroup m) (fld m.arg1 0 32) s)) only type rfl, ?_⟩
    rw [nextHouseArrive_alone none]
    exact read
  case abort =>
    refine ⟨_, takes_of roomAbortHere only type rfl, ?_⟩
    rw [roomAbortHere_acks absent]
    exact queued_sendMsg route
  case abortAck =>
    refine (takes_of _ only type rfl).trans ?_
    dsimp only
    rw [reset]

end Sys2Proof.Machine
end

section
/-! PROOFS. O44: READY, where the table of power domains is not canonical (10 R467, 16 R666, R681 to R684). -/
namespace Sys2Proof.Machine

/-! ### An image that verifies (R682, R683) -/

/-- The SHA-384 hash of a body of 4,096 zeros. -/
def bootDigest : Nat :=
  0xc0e59a3e3ffbd3b5c75428fb36432facabc745944296ff515f737c4fef4efc64586809f7a16f56354a1eaecf2aa8d774

/-- The public key of the secret key 1, in SEC1 uncompressed octets. -/
def bootKey : List Byte := 4 :: (beBytes 48 ecGx ++ beBytes 48 ecGy)

/-- The fused hash of that key. -/
def bootKeyHash : BitVec 384 :=
  0x1dd5e1afb0969cd83edacd4c19820fc9a05bb4f440a2f442388caffb48d02f21e50d135a70067686edf9b71224264f8c

/-- The second half of the header's signature with the secret key 1 and the nonce 1; the first half is the generator's x. -/
def bootSignature : Nat :=
  0xabd0cfe7d27cb13ecf832af3f8808be6185705ca54f937f4585c8daed33643b718019f12f51feffda7323c21bca4f56a

/-- An image of version 0: magic, header version, VERSION, BODY_LEN, UPDATE_SEQ, hash, key, signature, body (R682). -/
def bootImage : List Byte :=
  leBytes 4 0x57464C4F ++ leBytes 12 1 ++ leBytes 8 4096 ++ beBytes 48 bootDigest ++ bootKey ++ leBytes 7 0
    ++ beBytes 48 ecGx ++ beBytes 48 bootSignature ++ List.replicate 7920 0

/-- A device in BOOT with the image in half 0. PD_LARDER is OFF, and its record stands behind that of PD_STUDY. -/
def larderBehindStudy : State :=
  { g := { devState := .boot, keyHash := bootKeyHash }, flash := mwrite [] 0 bootImage
    domains := [(pdStudy, { idleUs := 7 }), (pdLarder, { state := .off })] }

/-- A signature verifies where the points that its two scalars give add up to one whose x is its first half. -/
theorem ecdsaOk_of_sum {q : Nat × Nat} {hash : List Byte} {r s u v x y : Nat} {a b : EcPoint}
    (range : 0 < r ∧ r < ecN ∧ 0 < s ∧ s < ecN ∧ x % ecN = r) (byHash : beNat hash * invMod ecN s % ecN = u)
    (byKey : r * invMod ecN s % ecN = v) (first : ecMul 384 u ecG = a) (second : ecMul 384 v (some q) = b)
    (sum : ecAdd a b = some (x, y)) : ecdsaOk (some q) hash r s = true := by
  obtain ⟨r0, rN, s0, sN, ends⟩ := range
  unfold ecdsaOk
  dsimp only
  rw [byHash, byKey, first, second, sum]
  simp only [r0, rN, s0, sN, ends, decide_true, Bool.and_self]

theorem bootImage_length : bootImage.length = 8192 := by decide +kernel

theorem bootImage_fields : (imgLenOk bootImage && imgN bootImage 0 4 = 0x57464C4F && imgN bootImage 4 2 = 1
    && imgZero bootImage 6 8 && imgZero bootImage 169 176 && imgZero bootImage 272 4096) = true := by decide +kernel

theorem bootImage_body : imgBytes bootImage 24 48 = sha384 (bootImage.drop 4096) := by decide +kernel

theorem bootImage_key : leNat (sha384 (imgBytes bootImage 72 97)) = bootKeyHash.toNat
    ∧ ecUncompress (imgBytes bootImage 72 97) = ecG := by decide +kernel

theorem bootImage_signature : beNat (imgBytes bootImage 176 48) = ecGx ∧ beNat (imgBytes bootImage 224 48) = bootSignature := by
  decide +kernel

/-! The signature verifies where the generator's multiples by two scalars add up to the generator. The long evaluations
stand alone. -/

/-- The signed hash over the second half of the signature, modulo the order. -/
def hashScalar : Nat :=
  0x885fc0b9e9010338efadd7645233e4a2ef2648ebd2bd64baa151e601b951bae5541ba516a762f4a44464387690c75522

/-- The first half of the signature over the second. -/
def keyScalar : Nat :=
  0x77a03f4616fefcc71052289badcc1b5d10d9b7142d429b45261167803ae572fa03fe689ba14db2d6a887e0f43bfdd452

def hashPoint : EcPoint := some
  (0xf34b8d693f009895790cc27766341c4a0489ffe9eeb7ae8c1b845c6a1c2f1df75a07f526fe41548796ec52124ec14024,
   0x58fca65aed2ca210acdd8d56cd3dde82e2a2ee7a446e0e93ec6bf0ba396e11bbbb141d8c35c9d513e1485f3cfc204871)

def keyPoint : EcPoint := some
  (0x327a9252c138a5906bbdb489047a65666138cd734e6c743a4e16b8c272e6069c6c36f52acdfb314673af2032c8598d7c,
   0x262412d8e00560364b372d37a68564dbc689df0aee00ac6c41618a9fde0640f3fc791864c32053d104e14991d6d57396)

theorem bootImage_scalars : beNat (sha384 (bootImage.take 20 ++ imgBytes bootImage 24 152)) * invMod ecN bootSignature % ecN
      = hashScalar
    ∧ ecGx * invMod ecN bootSignature % ecN = keyScalar := by decide +kernel

theorem ecMul_hashScalar : ecMul 384 hashScalar ecG = hashPoint := by decide +kernel

theorem ecMul_keyScalar : ecMul 384 keyScalar ecG = keyPoint := by decide +kernel

theorem hashPoint_add_keyPoint : ecAdd hashPoint keyPoint = ecG := by decide +kernel

theorem bootSignature_range : 0 < ecGx ∧ ecGx < ecN ∧ 0 < bootSignature ∧ bootSignature < ecN ∧ ecGx % ecN = ecGx := by
  decide +kernel

theorem bootImage_signed : imgSigned larderBehindStudy bootImage = true := by
  obtain ⟨fused, point⟩ := bootImage_key
  obtain ⟨first, second⟩ := bootImage_signature
  obtain ⟨hash, key⟩ := bootImage_scalars
  have verified := ecdsaOk_of_sum bootSignature_range hash key ecMul_hashScalar ecMul_keyScalar hashPoint_add_keyPoint
  unfold imgSigned
  rw [point, first, second, verified, Bool.and_true]
  exact decide_eq_true fused

theorem bootImage_verifies : imgVerifies larderBehindStudy bootImage = true := by
  unfold imgVerifies
  rw [show larderBehindStudy.g.keyHashSet = true from rfl, bootImage_signed, bootImage_body]
  have fields := bootImage_fields
  generalize sha384 (bootImage.drop 4096) = hash
  generalize bootImage = img at fields ⊢
  rw [decide_eq_true rfl, Bool.and_true, Bool.and_true, Bool.true_and]
  exact fields

/-! ### What the loader reads (R681, R684) -/

/-- A part of what has been written is read back. -/
theorem mread_mwrite_part {m : List Host.Cell} (a : Nat) {bs : List Byte} {i n : Nat} (h : Memory.wf m = true)
    (inside : i + n ≤ bs.length) : mread (mwrite m a bs) (a + i) n = (bs.drop i).take n := by
  refine List.ext_getElem (by simp; omega) fun j hj _ => ?_
  rw [mread_length] at hj
  have byte := mread_getD (mwrite m a bs) (a + i) hj
  rw [Nat.add_assoc, mget_mwrite_in a h (by omega)] at byte
  simpa [List.getD_eq_getElem?_getD, hj, show i + j < bs.length by omega] using byte

section
variable {s : State} {img : List Byte} (flash : s.flash = mwrite [] 0 img) (size : img.length = 8192)
include flash size

theorem mread_flash {i n : Nat} (inside : i + n ≤ 8192) : mread s.flash i n = (img.drop i).take n := by
  have part := mread_mwrite_part (m := []) 0 (bs := img) (i := i) (n := n) rfl (by rwa [size])
  rwa [Nat.zero_add, ← flash] at part

theorem halfImage_flash (bodyLen : leNat ((img.drop 16).take 4) = 4096) : halfImage s 0 = img := by
  have header : mread s.flash (halfAt 0 + 16) 4 = (img.drop 16).take 4 := mread_flash flash size (by decide)
  unfold halfImage
  rw [header, bodyLen]
  refine (mread_flash flash size (by decide)).trans ?_
  exact List.take_of_length_le size.le

/-- The image boots: it verifies, and the other half is empty and so no newer (R684). -/
theorem bootChoice_flash (bodyLen : leNat ((img.drop 16).take 4) = 4096) (seq : leNat ((img.drop 20).take 4) = 0)
    (verifies : imgVerifies s img = true) (rollback : s.g.rollback = 0) (r1 : Bool) :
    bootChoice (halfSeq s 0) (halfSeq s 1) (halfVerifies s 0 true) (halfVerifies s 1 r1) = some false := by
  have seq0 : halfSeq s 0 = 0 := by
    have field : mread s.flash (halfAt 0 + 20) 4 = (img.drop 20).take 4 := mread_flash flash size (by decide)
    unfold halfSeq
    rw [field, seq]
    rfl
  have seq1 : halfSeq s 1 = 0 := by
    unfold halfSeq
    rw [flash, mread_mwrite_out [] (.inr (by rw [size]; decide))]
    rfl
  have usable : halfVerifies s 0 true = true := by
    unfold halfVerifies
    rw [halfImage_flash flash size bodyLen, verifies, rollback, Bool.true_and, Bool.true_and]
    exact decide_eq_true (show (0 : BitVec 16) ≤ _ from Nat.zero_le _)
  rw [seq0, seq1, usable]
  rfl

end

theorem larderBehindStudy_flash : larderBehindStudy.flash = mwrite [] 0 bootImage := by
  simp only [larderBehindStudy]

theorem bootImage_sizes : leNat ((bootImage.drop 16).take 4) = 4096 ∧ leNat ((bootImage.drop 20).take 4) = 0 := by
  decide +kernel

theorem larderBehindStudy_picks (r1 : Bool) :
    bootChoice (halfSeq larderBehindStudy 0) (halfSeq larderBehindStudy 1) (halfVerifies larderBehindStudy 0 true)
      (halfVerifies larderBehindStudy 1 r1) = some false := by
  obtain ⟨bodyLen, seq⟩ := bootImage_sizes
  exact bootChoice_flash larderBehindStudy_flash bootImage_length bodyLen seq bootImage_verifies rfl r1

/-! ### READY (R666) -/

/-- The first READY maps the table of domains; no message waits for it. -/
theorem foyerReady_domains {half : Bool} {v : Word} {s : State} (first : (s.room 0).state = .none)
    (cool : s.nrg.tripped = false) (idle : s.house.parked = []) : (foyerReady half v s).domains
      = tmap s.domains {} fun _ d => { d with state := .on, waking := false, move := none } := by
  unfold foyerReady
  dsimp only
  rw [if_pos (by exact decide_eq_true first)]
  unfold runParked
  simp [cool, idle]

/-- PD_LARDER's record, put ON, is a default record, which leaves the table; it is not looked for behind a higher index, so
that it stays as it was. -/
theorem larderBehindStudy_larderOff : (tget (tmap larderBehindStudy.domains {} fun _ d =>
    { d with state := .on, waking := false, move := none }) {} pdLarder).state = .off := by decide

theorem execBootComplete_picks {r0 r1 h : Bool} {s : State} (boot : s.g.devState = .boot) (sel : s.g.bootSel = false)
    (pick : bootChoice (halfSeq s 0) (halfSeq s 1) (halfVerifies s 0 r0) (halfVerifies s 1 r1) = some h) :
    exec (.bootComplete r0 r1) s = .next (foyerReady h (imgVersion (halfImage s (if h then 1 else 0))) s) := by
  show execBootComplete r0 r1 s = _
  unfold execBootComplete
  rw [boot, sel, pick]
  rfl

/-- Refutes O44: its clause of READY takes every state, canonical or not, and where the table of domains is out of order
PD_LARDER stays OFF. -/
theorem not_bootReachesReady : ¬ Obligations.BootReachesReady := by
  unfold Obligations.BootReachesReady
  intro boots
  have pick := larderBehindStudy_picks true
  obtain ⟨-, -, loader, -⟩ := boots larderBehindStudy
  obtain ⟨-, ready, -⟩ := loader true true rfl rfl
  obtain ⟨t, run, -, -, -, -, -, -, first, -⟩ := ready false pick rfl
  obtain ⟨-, domains⟩ := first rfl
  have on := domains rfl pdLarder
  have same := Host.Outcome.next.inj (run.symm.trans (execBootComplete_picks rfl rfl pick))
  rw [same] at on
  unfold pdOn State.domain at on
  rw [foyerReady_domains rfl rfl rfl, larderBehindStudy_larderOff] at on
  cases on

end Sys2Proof.Machine
end
